-- ==== Sys2Proof/Word.lean ====
section
/-! DEFINITION. The words of the part (00 R5, R6): a byte, a 32-bit register word, a 64-bit word, and one cell of a byte memory. -/
namespace Sys2Proof

/-- One byte (00 R6). -/
abbrev Byte := BitVec 8

/-- The 32-bit word of the thread-group register files (07 R183). -/
abbrev W32 := BitVec 32

/-- "A word is 64 bits" (00 R6). -/
abbrev Word := BitVec 64

/-- One byte of a memory at an address, or one byte of a line or word at an offset. -/
abbrev Cell := Nat × Byte

end Sys2Proof
end

