-- ==== Sys2Proof/Machine/Data.lean ====
section
/-! DEFINITION. Plain data: sparse tables in one canonical form, byte memories, little-endian words and bit fields (00 R4, R5). -/
namespace Sys2Proof.Machine

/-- A sparse table: keys strictly rising. With a default value, no entry equals it. -/
abbrev Tab (α : Type) := List (Nat × α)

/-- The entry of a key, if there is one. -/
def tabFind {α : Type} (k : Nat) : Tab α → Option α
  | [] => none
  | (k', v) :: t => if k' = k then some v else tabFind k t

/-- The entry of a key, or the default. -/
def tabGet {α : Type} (d : α) (k : Nat) (t : Tab α) : α := (tabFind k t).getD d

/-- Puts an entry in key order, replacing one of the same key. -/
def tabPut {α : Type} (k : Nat) (v : α) : Tab α → Tab α
  | [] => [(k, v)]
  | (k', v') :: t =>
    if k < k' then (k, v) :: (k', v') :: t
    else if k = k' then (k, v) :: t
    else (k', v') :: tabPut k v t

/-- Takes the entry of a key out. -/
def tabDel {α : Type} (k : Nat) : Tab α → Tab α
  | [] => []
  | (k', v') :: t => if k' = k then t else (k', v') :: tabDel k t

/-- Puts a value, keeping out what equals the default. -/
def tabSet {α : Type} [DecidableEq α] (d : α) (k : Nat) (v : α) (t : Tab α) : Tab α :=
  if v = d then tabDel k t else tabPut k v t

/-- Keys strictly rising from a bound on. -/
def keysFrom {α : Type} (lo : Nat) : Tab α → Bool
  | [] => true
  | (k, _) :: t => decide (lo ≤ k) && keysFrom (k + 1) t

/-- The canonical form of a table with a default: keys strictly rising and no entry equal to the default. -/
def tabWf {α : Type} [DecidableEq α] (d : α) (t : Tab α) : Bool :=
  keysFrom 0 t && t.all (fun e => decide (e.2 ≠ d))

/-! ### Byte memories: what nothing has written reads 0 (10 R297) -/

/-- The byte at an address. -/
def memGet (m : Tab Byte) (a : Nat) : Byte := tabGet 0 a m

/-- Writes one byte and keeps the canonical form. -/
def memSet (m : Tab Byte) (a : Nat) (b : Byte) : Tab Byte := tabSet 0 a b m

/-- The canonical form of a byte memory. -/
def Memory.wf (m : Tab Byte) : Bool := tabWf 0 m

/-- `n` bytes from an address on. -/
def memRead (m : Tab Byte) (a : Nat) : Nat → List Byte
  | 0 => []
  | n + 1 => memGet m a :: memRead m (a + 1) n

/-- Writes bytes from an address on. -/
def memWrite (m : Tab Byte) (a : Nat) : List Byte → Tab Byte
  | [] => m
  | b :: bs => memWrite (memSet m a b) (a + 1) bs

/-- Writes the listed cells, each at `base` plus its offset. -/
def memCells (m : Tab Byte) (base : Nat) : List Cell → Tab Byte
  | [] => m
  | (o, b) :: cs => memCells (memSet m (base + o) b) base cs

/-- Zeroes the bytes of [lo, hi): drops their entries. -/
def memClear (m : Tab Byte) (lo hi : Nat) : Tab Byte := m.filter (fun e => !(decide (lo ≤ e.1) && decide (e.1 < hi)))

/-! ### Little-endian words (00 R5) and fields -/

/-- The number that bytes spell, lowest address first. -/
def leNat : List Byte → Nat
  | [] => 0
  | b :: bs => b.toNat + 256 * leNat bs

/-- The low `n` bytes of a number, lowest first. -/
def leBytes (v : Nat) : Nat → List Byte
  | 0 => []
  | n + 1 => BitVec.ofNat 8 v :: leBytes (v / 256) n

/-- Bits [hi:lo] of a number. -/
def bits (v hi lo : Nat) : Nat := v / 2 ^ lo % 2 ^ (hi + 1 - lo)

/-- Bit `i` of a number. -/
def bit (v i : Nat) : Bool := v / 2 ^ i % 2 == 1

/-- 1 for true. -/
def b2n (b : Bool) : Nat := if b then 1 else 0

/-- A field's value read as a two's-complement number of `w` bits. -/
def signed (w v : Nat) : Int := if v % 2 ^ w < 2 ^ (w - 1) then (v % 2 ^ w : Nat) else ((v % 2 ^ w : Nat) : Int) - (2 ^ w : Nat)

/-- The two's-complement pattern of `w` bits of a number. -/
def unsigned (w : Nat) (i : Int) : Nat := (i % (2 ^ w : Nat)).toNat

/-- The smallest multiple count: ceil(a / b). -/
def ceilDiv (a b : Nat) : Nat := if b = 0 then 0 else (a + b - 1) / b

/-- Number of 1 bits among the low `n`. -/
def popCount (v : Nat) : Nat → Nat
  | 0 => 0
  | n + 1 => v % 2 + popCount (v / 2) n

/-- The indices below `n` whose bit is 1, ascending. -/
def bitList (v n : Nat) : List Nat := (List.range n).filter (fun i => bit v i)

/-- The list with element `i` replaced. -/
def setAt {α : Type} (l : List α) (i : Nat) (v : α) : List α := l.set i v

/-- Bit-or of the bits of a list of indices. -/
def maskOf (l : List Nat) : Nat := l.foldl (fun m i => if bit m i then m else m + 2 ^ i) 0

/-- The bytes of a list padded with zeros or cut to `n`. -/
def padTo (n : Nat) (bs : List Byte) : List Byte := (bs ++ List.replicate n 0).take n

/-- 64-bit words of a byte list. -/
def wordsOf (bs : List Byte) (n : Nat) : List Nat := (List.range n).map (fun i => leNat ((bs.drop (8 * i)).take 8))

end Sys2Proof.Machine
end

