-- ==== Sys2Proof/Config.lean ====
section
/-! DEFINITION. What one part or one implementation fixes and the spec does not state: the free values (log entry 4) and the secrets and
identity of a given device (entries 10, 11). An `opaque` constant has no value that a proof can use; a claim that mentions one holds
for every value. The numbered constants below are the spec's own. -/
namespace Sys2Proof

/-- A byte whose value the spec leaves undefined (R68, R96, R377); the index is the state's counter `fresh`. DESIGN CHOICE (entry 4). -/
opaque Config.freeByte : Nat → Byte

/-- A 32-bit value that the spec leaves to timing: CYCLE of R210. DESIGN CHOICE (entry 4). -/
opaque Config.freeW32 : Nat → W32

/-- Whether an event acts that "may or may not" act (R528, R532). DESIGN CHOICE (entry 4). -/
opaque Config.freeBit : Nat → Bool

/-- The private X25519 agreement key d of R503, little-endian bytes. DESIGN CHOICE (entry 11). -/
opaque Config.agreementKey : List Byte

/-- The modulus of the RSA-3072 identity key of R499. DESIGN CHOICE (entry 11). -/
opaque Config.identityModulus : Nat

/-- The private exponent of the RSA-3072 identity key of R499. DESIGN CHOICE (entry 11). -/
opaque Config.identityExponent : Nat

/-- The slot-0 certificate chain of R499 and R500 in the SPDM certificate-chain format. DESIGN CHOICE (entry 11). -/
opaque Config.certChain : List Byte

/-- AES-256-GCM of the owner secret under a key derived from `uds`: nonce, secret to ciphertext and tag (T17-6). DESIGN CHOICE (entry 11). -/
opaque Config.sealSecret : List Byte → List Byte → List Byte

/-- What a Platform Descriptor Record of GetPDR holds for a record handle (R481 names the sensors; DSP0248 the bytes). DESIGN CHOICE (entry 11). -/
opaque Config.pdr : Nat → List Byte

/-- The body of an SPDM answer whose bytes DSP0274 fixes and this spec does not print (R500). DESIGN CHOICE (entry 11). -/
opaque Config.spdmBody : Nat → List Byte → List Byte

/-- The package power at the power floor (R471) for the guard level of every die, the highest GOP, the channels and the link shares reserved: the spec
gives no power model. DESIGN CHOICE (entry 16). -/
opaque Config.powerFloor : List Nat → Nat → List Nat → List (Nat × Nat) → Nat

/-- Whether what a peer maps at a peer-window offset lies in its Tier S (14 T14-5): the device does not see a peer's ranges. DESIGN CHOICE
(entry 46). -/
opaque Config.peerTierS : Nat → Nat → Bool

/-- The activity that the nodes of one step on one seat reach at an operating point, in 1/65536 of a die's full scale (R466), for the operations of the
nodes: the spec names the station tables, which give no activity. DESIGN CHOICE (entry 16). -/
opaque Config.activity : Nat → List Nat → Nat

/-! ### Sizes of the part (01, 09, 10) -/

/-- Enabled cores of a shipped device (R2, R17). -/
def Config.cores : Nat := 368
/-- Scratchpad bytes of a core (R21). -/
def Config.spadBytes : Nat := 2097152
/-- Start of the thread-state area (R156). -/
def Config.threadArea : Nat := 0x1C0000
/-- Bytes of a group slot area (R156). -/
def Config.slotArea : Nat := 0x2000
/-- A seat's context in bytes (R59). -/
def Config.contextBytes : Nat := 2752512
/-- Frame of a range: 2 MiB (R286). -/
def Config.frameBytes : Nat := 2097152
/-- Lines per frame (R286). -/
def Config.frameLines : Nat := 4096
/-- Usable lines of a Tier F channel (T10-1). -/
def Config.linesF : Nat := 8388608
/-- Usable lines of a Tier S channel with 64 Gbit and with 32 Gbit devices (T10-1). -/
def Config.linesS (dense : Bool) : Nat := if dense then 26843536 else 13421760
/-- First DPA of Tier S (T10-2). -/
def Config.tierSBase : Nat := 0x4000000000
/-- First DPA above Tier S (T10-2). -/
def Config.tierSTop : Nat := 0xA000000000
/-- Clock of each operating point in MHz (T16-2). -/
def Config.clockMHz : Nat → Nat
  | 0 => 1500 | 1 => 1350 | 2 => 1200 | 3 => 900 | _ => 600
/-- Core voltage of each operating point in 10 mV (T16-2). -/
def Config.coreVolt : Nat → Nat
  | 0 => 80 | 1 => 76 | 2 => 72 | 3 => 64 | _ => 56
/-- Milliseconds, microseconds and seconds in steps of 10 ns. -/
def Config.us (n : Nat) : Nat := 100 * n
def Config.ms (n : Nat) : Nat := 100000 * n
def Config.sec (n : Nat) : Nat := 100000000 * n

/-- The 10^6 flits of 14 R404. -/
def Config.million : Nat := 10 ^ 6

end Sys2Proof
end

