-- ==== Sys2Proof/Syntax.lean ====
section
/-! DEFINITION. The commands the block takes: one constructor of `Instr` per row of opcode_table.json, with the operands that come from
outside the part at that step (entries 1, 5). Each docstring names the row's rule. -/
namespace Sys2Proof

/-- An operand selector of T7-2: a general register, ZERO, a uniform register or a predicate. -/
inductive Sel where
  | g (n : Nat)
  | zero
  | u (n : Nat)
  | p (n : Nat)
  deriving DecidableEq, Repr

/-- Which group issues, and the guard of the instruction (R186): core by enabled-core index, group slot, negate bit, predicate. -/
structure Iss where
  core  : Nat
  slot  : Nat
  gneg  : Bool
  guard : Nat
  deriving DecidableEq, Repr

/-- The fields of format M (T7-6) other than `d`. -/
structure MemOp where
  base  : Sel
  idx   : Sel
  isx   : Bool
  scale : Nat
  glob  : Bool
  width : Nat
  sx    : Bool
  order : Nat
  scope : Nat
  off   : BitVec 18
  deriving DecidableEq, Repr

/-- The fields of format A (T7-7) that ATOM and ADDX share. -/
structure AtomOp where
  d     : Sel
  base  : Sel
  s1    : Sel
  s2    : Sel
  order : Nat
  scope : Nat
  ret   : Bool
  deriving DecidableEq, Repr

/-- Where a Winemar command stands: the accepted request of a mailbox (0..63 of BAR0, 64..127 of the local window), or the entry at
the head of a queue pair (R380). -/
inductive Src where
  | mbx (m : Nat)
  | queue (q : Nat)
  deriving DecidableEq, Repr

/-- What answered from outside the part (host memory, a peer): the bytes, and 0 or the kind of failure (1 error response or poisoned,
2 unmapped). -/
structure Ext where
  data : List Byte
  err  : Nat
  deriving DecidableEq, Repr

/-- Direct agents of T9-2. -/
inductive DirectAgent where
  | hostCore (k : Nat)
  | cox
  | pcie
  | link (k : Nat)
  deriving DecidableEq, Repr

/-- Who asked for a word that was read (R293). -/
inductive Requester where
  | thread (core slot : Nat)
  | station (cmd seat : Nat)
  | copy (core copyId : Nat)
  | pcie
  | hostCore (k : Nat)
  | falnar (link tag : Nat)
  deriving DecidableEq, Repr

/-- A message of a Falnar link other than a beacon or a Cox message (T14-3). -/
structure RemoteMsg where
  vc     : Nat
  dst    : Nat
  src    : Nat
  tenant : Nat
  tag    : Nat
  sub    : BitVec 16
  status : Nat
  ctr    : Nat
  offset : Nat
  len    : Nat
  data   : List Byte
  deriving DecidableEq, Repr

/-- What a beacon carries (R420, R422), with the receiver's measured phase offset in ns after the delay correction. -/
structure BeaconMsg where
  count   : Nat
  hops    : Nat
  regatta : Nat
  digest  : BitVec 32
  offset  : Int
  deriving DecidableEq, Repr

/-- The RETRACT data unit (T14-6). -/
structure RetractUnit where
  origin  : Nat
  rseq    : Nat
  tenant  : Nat
  cause   : Nat
  regatta : Nat
  stroke  : Nat
  deriving DecidableEq, Repr

/-- The four stroke parameters in 10 ns steps (T2-1a). -/
structure StrokeCfg where
  period   : Nat
  catchLen : Nat
  finish   : Nat
  recovery : Nat
  deriving DecidableEq, Repr

/-- What the Cox messages of the spec say (R406, R413, R422, R423). -/
inductive CoxMsg where
  | configure (target : Nat) (c : StrokeCfg)
  | accept (member : Nat)
  | refuse (member : Nat)
  | cancel
  | configRequest (member : Nat)
  | configAnswer (c : StrokeCfg)
  | equalise (link stroke : Nat)
  | equaliseAgreed (link stroke : Nat)
  | shareRequest (link gbps : Nat)
  | shareAnswer (link gbps : Nat) (ok : Bool)
  deriving DecidableEq, Repr

/-- A live calibration of T2-4 on its resource. -/
inductive CalRes where
  | zqF (stack : Nat)
  | trainF (ch : Nat)
  | zqS (ch : Nat)
  | trainS (ch : Nat)
  | falnar (link : Nat)
  | sensors
  deriving DecidableEq, Repr

/-- The commands. -/
inductive Instr where
  /-- R52 -/ | catchBegin
  /-- R39 -/ | driveBegin
  /-- R68 -/ | finishInstant
  /-- R59 -/ | recoveryBegin
  /-- R59 -/ | contextRestore (core : Nat)
  /-- R306 -/ | calibrationEnd (res : CalRes)
  /-- R66 -/ | fallbackStart (cmd : Nat)
  /-- R95 -/ | seatStop (core : Nat)
  /-- R89 -/ | stepBarrier (cmd : Nat)
  /-- R155 -/ | segmentLaunch (cmd : Nat)
  /-- R112 -/ | intakeCopy (core : Nat) (ext : Ext)
  /-- R132 -/ | intakeSurvey (core : Nat) (ext : Ext)
  /-- R87 -/ | gatherRows (core : Nat) (ext : Ext)
  /-- R87 -/ | gatherPaged (core : Nat) (ext : Ext)
  /-- R113 -/ | matrixMma (core : Nat)
  /-- R537 -/ | vectorMap (core : Nat)
  /-- R538 -/ | vectorRowred (core : Nat)
  /-- R538 -/ | vectorSoftmax (core : Nat)
  /-- R139 -/ | reduceAddx (core : Nat)
  /-- R141 -/ | reduceLogic (core : Nat)
  /-- R539 -/ | shapeTranspose (core : Nat)
  /-- R539 -/ | shapeReshape (core : Nat)
  /-- R539 -/ | shapeBroadcast (core : Nat)
  /-- R539 -/ | shapePad (core : Nat)
  /-- R121 -/ | outletConvert (core : Nat)
  /-- R148 -/ | outletFused (core : Nat)
  /-- R149 -/ | outletExport (core : Nat)
  /-- R82 -/ | pondSlotFilled (cmd pond : Nat)
  /-- R190 -/ | nop (i : Iss)
  /-- R193 -/ | iadd (i : Iss) (d a b : Sel)
  /-- R193 -/ | isub (i : Iss) (d a b : Sel)
  /-- R193 -/ | imul (i : Iss) (d a b : Sel)
  /-- R190 -/ | imulhs (i : Iss) (d a b : Sel)
  /-- R190 -/ | imulhu (i : Iss) (d a b : Sel)
  /-- R190 -/ | imacc (i : Iss) (d a b c : Sel)
  /-- R190 -/ | imin (i : Iss) (d a b : Sel)
  /-- R190 -/ | imax (i : Iss) (d a b : Sel)
  /-- R190 -/ | umin (i : Iss) (d a b : Sel)
  /-- R190 -/ | umax (i : Iss) (d a b : Sel)
  /-- R190 -/ | andR (i : Iss) (d a b : Sel)
  /-- R190 -/ | orR (i : Iss) (d a b : Sel)
  /-- R190 -/ | xorR (i : Iss) (d a b : Sel)
  /-- R193 -/ | shl (i : Iss) (d a b : Sel)
  /-- R193 -/ | shr (i : Iss) (d a b : Sel)
  /-- R193 -/ | sar (i : Iss) (d a b : Sel)
  /-- R190 -/ | bcnt (i : Iss) (d a : Sel)
  /-- R193 -/ | clz (i : Iss) (d a : Sel)
  /-- R190 -/ | mov (i : Iss) (d a : Sel)
  /-- R193 -/ | iadd64 (i : Iss) (d a b : Sel)
  /-- R190 -/ | movi (i : Iss) (d : Sel) (imm : W32)
  /-- R193 -/ | iaddi (i : Iss) (d a : Sel) (imm : W32)
  /-- R193 -/ | andi (i : Iss) (d a : Sel) (imm : W32)
  /-- R193 -/ | ori (i : Iss) (d a : Sel) (imm : W32)
  /-- R193 -/ | xori (i : Iss) (d a : Sel) (imm : W32)
  /-- R193 -/ | shli (i : Iss) (d a : Sel) (imm : W32)
  /-- R193 -/ | shri (i : Iss) (d a : Sel) (imm : W32)
  /-- R193 -/ | sari (i : Iss) (d a : Sel) (imm : W32)
  /-- R194 -/ | icmp (i : Iss) (d a b c : Sel) (comb cond : Nat)
  /-- R194 -/ | icmpi (i : Iss) (d a : Sel) (cond : Nat) (imm : W32)
  /-- R190 -/ | pcomb (i : Iss) (d a b : Sel) (op : Nat)
  /-- R190 -/ | selP (i : Iss) (d a b c : Sel)
  /-- R199 -/ | lvote (i : Iss) (d a : Sel) (kind : Nat)
  /-- R199 -/ | xlane (i : Iss) (d a b : Sel) (k mode : Nat)
  /-- R195 -/ | vf (i : Iss) (d a b c : Sel) (func atype dtype : Nat)
  /-- R194 -/ | fcmp (i : Iss) (d a b c : Sel) (comb cond atype : Nat)
  /-- R196 -/ | ld (i : Iss) (d : Sel) (m : MemOp)
  /-- R196 -/ | st (i : Iss) (d : Sel) (m : MemOp)
  /-- R200 -/ | atom (i : Iss) (a : AtomOp) (w64 : Bool) (aop : Nat)
  /-- R201 -/ | addxI (i : Iss) (a : AtomOp) (pst psa : Nat)
  /-- R201 -/ | addxF (i : Iss) (a : AtomOp) (pst psa : Nat)
  /-- R159 -/ | barG (i : Iss)
  /-- R159 -/ | barB (i : Iss) (b n : Nat)
  /-- R203 -/ | memfence (i : Iss) (scope kind : Nat)
  /-- R204 -/ | cpAsync (i : Iss) (a b c : Sel) (sectors ctr : Nat)
  /-- R205 -/ | ctrSet (i : Iss) (a : Sel) (ctr v : Nat)
  /-- R205 -/ | ctrWait (i : Iss) (a : Sel) (ctr v : Nat)
  /-- R205 -/ | ctrRd (i : Iss) (d : Sel) (ctr : Nat)
  /-- R173 -/ | stPatch (i : Iss) (a : Sel) (node field : Nat)
  /-- R174 -/ | stSkip (i : Iss) (step : Nat)
  /-- R206 -/ | bra (i : Iss) (target reconv : Nat)
  /-- R207 -/ | bri (i : Iss) (s : Sel) (reconv : Nat)
  /-- R208 -/ | call (i : Iss) (target : Nat)
  /-- R208 -/ | ret (i : Iss)
  /-- R209 -/ | exitT (i : Iss)
  /-- R162 -/ | spin (i : Iss)
  /-- R178 -/ | rngP (i : Iss) (d a b : Sel)
  /-- R210 -/ | rdspec (i : Iss) (d : Sel) (which : Nat)
  /-- R211 -/ | bkpt (i : Iss) (code : BitVec 16)
  /-- R162 -/ | pathSwitchCount (core slot : Nat)
  /-- R162 -/ | spinIdleEnd (core slot : Nat)
  /-- R165 -/ | stallTrap (core slot : Nat)
  /-- R212 -/ | accessResponse (core slot : Nat) (ext : Ext)
  /-- R167 -/ | copySectorDone (core copyId sector : Nat) (ext : Ext)
  /-- R257 -/ | rds (agent line : Nat) (mask : BitVec 8) (cdom : Nat)
  /-- R269 -/ | rdn (agent line : Nat) (mask : BitVec 8) (cdom : Nat)
  /-- R259 -/ | own (agent line cdom : Nat)
  /-- R257 -/ | push (agent line cdom : Nat) (bytes : List Cell)
  /-- R263 -/ | wb (agent line : Nat)
  /-- R261 -/ | evict (agent line : Nat)
  /-- R257 -/ | directRead (da : DirectAgent) (addr len cdom : Nat)
  /-- R257 -/ | directWrite (da : DirectAgent) (addr cdom : Nat) (bytes : List Byte)
  /-- R254 -/ | data (agent line : Nat)
  /-- R250 -/ | grant (agent line : Nat)
  /-- R259 -/ | pushreq (agent line : Nat)
  /-- R254 -/ | snpinv (agent line : Nat)
  /-- R254 -/ | snpshr (agent line : Nat)
  /-- R254 -/ | snpcur (agent line : Nat)
  /-- R255 -/ | snpfwd (agent line : Nat)
  /-- R257 -/ | snoopResponse (agent line : Nat)
  /-- R258 -/ | grantack (agent line : Nat)
  /-- R262 -/ | wback (agent line : Nat)
  /-- R259 -/ | pushack (agent line : Nat)
  /-- R277 -/ | coherenceError (agent line : Nat)
  /-- R264 -/ | atomicUnitOp (line : Nat)
  /-- R290 -/ | dramReadReturn (req : Requester) (src unit word : Nat)
  /-- R291 -/ | readMergeWrite (dpa : Nat) (bytes : List Cell)
  /-- R292 -/ | memTransferRetry (req : Requester) (isRead : Bool) (dpa fails : Nat)
  /-- R295 -/ | scrub (dpa : Nat)
  /-- R296 -/ | cacheScrub (src unit word : Nat)
  /-- R304 -/ | mirrorLineCopy (cdom range line : Nat)
  /-- R323 -/ | channelClearDone (ch : Nat)
  /-- R281 -/ | wayClean (slice : Bool) (unit way : Nat)
  /-- R336 -/ | substitutionCopyDone (cdom : Nat)
  /-- R335 -/ | rebindDrainDone (cdom : Nat)
  /-- R334 -/ | seatMoveDone (cdom seat : Nat)
  /-- R331 -/ | rebindComplete (cdom : Nat)
  /-- R338 -/ | forcedDrain (cdom : Nat)
  /-- R342 -/ | handoverTimeout (cdom set : Nat)
  /-- R242 -/ | bar4Read (x len rid : Nat) (atomicOp : Bool)
  /-- R373 -/ | bar4Write (x rid : Nat) (bytes : List Byte)
  /-- R349 -/ | barBadAccess (bar : Nat) (isRead : Bool)
  /-- R9 -/ | registerWrite (loc : Bool) (offset size : Nat) (value : Word)
  /-- R375 -/ | ridCheckSet (check : Bool) (rid : BitVec 16)
  /-- R378 -/ | hostResume
  /-- R378 -/ | hostAbandon
  /-- R352 -/ | mbxGo (m : Nat)
  /-- R364 -/ | sqDoorbell (q : Nat) (tail : BitVec 16)
  /-- R364 -/ | cqDoorbell (q : Nat) (head : BitVec 16)
  /-- R365 -/ | sqEntryFetch (q : Nat) (ext : Ext)
  /-- R366 -/ | sqEntryReread (q : Nat) (ext : Ext)
  /-- R369 -/ | completionWrite (q : Nat)
  /-- R389 -/ | parkReportWrite (q : Nat) (cid : BitVec 16)
  /-- R372 -/ | msixHoldExpiry (q : Nat)
  /-- R372 -/ | msixUnmask (loc : Bool) (vec : Nat)
  /-- R377 -/ | hostLoss (cause : Nat)
  /-- R376 -/ | pcieLinkRetrain
  /-- R348 -/ | pcieCompletionTimeout (req : Requester)
  /-- R503 -/ | ownerClaim (m : Nat) (rnd : List Byte)
  /-- R324 -/ | ownerTenantAdd (m : Nat)
  /-- R325 -/ | ownerTenantRemove (m : Nat)
  /-- R505 -/ | ownerTenantKey (m : Nat)
  /-- R504 -/ | ownerSecret (m : Nat) (rnd : List Byte)
  /-- R451 -/ | ownerFloor (m : Nat)
  /-- R452 -/ | ownerReinstate (m : Nat)
  /-- R354 -/ | sessionOpen (m : Nat) (rnd : List Byte)
  /-- R354 -/ | sessionProve (m : Nat) (rnd : Word)
  /-- R356 -/ | sessionClose (m : Nat)
  /-- R315 -/ | shellCreate (m : Nat) (desc : Ext) (pick : Nat)
  /-- R331 -/ | shellRebind (m : Nat) (desc : Ext)
  /-- R393 -/ | shellDestroy (m : Nat)
  /-- R340 -/ | shellRelease (src : Src)
  /-- R341 -/ | shellAcquire (m : Nat)
  /-- R386 -/ | shellQuery (src : Src)
  /-- R320 -/ | memoryMap (src : Src) (pick : Nat)
  /-- R320 -/ | memoryUnmap (src : Src)
  /-- R271 -/ | memoryDiscard (src : Src)
  /-- R299 -/ | memoryRetire (m : Nat)
  /-- R395 -/ | memorySeal (src : Src)
  /-- R395 -/ | memoryUnseal (src : Src)
  /-- R344 -/ | memoryRebuild (src : Src)
  /-- R374 -/ | memoryAperture (src : Src)
  /-- R385 -/ | memoryCopy (q : Nat) (ext : Ext)
  /-- R243 -/ | memoryFence (q : Nat)
  /-- R390 -/ | graphRegister (m : Nat) (pick : Nat)
  /-- R391 -/ | graphUnregister (src : Src)
  /-- R387 -/ | graphRun (q : Nat)
  /-- R389 -/ | graphResume (src : Src)
  /-- R386 -/ | graphQuery (m : Nat)
  /-- R35 -/ | strokeConfigure (m : Nat)
  /-- R386 -/ | strokeStatus (src : Src)
  /-- R386 -/ | strokeCalendar (src : Src)
  /-- R359 -/ | queueCreate (m : Nat) (pick : Nat) (token : Word) (rnd : List Byte)
  /-- R386 -/ | queueDelete (m : Nat)
  /-- R367 -/ | queueReset (m : Nat)
  /-- R459 -/ | faultRead (m : Nat)
  /-- R431 -/ | faultInject (m : Nat)
  /-- R459 -/ | faultClear (m : Nat)
  /-- R444 -/ | faultTest (m : Nat)
  /-- R470 -/ | powerCap (m : Nat)
  /-- R481 -/ | powerStatus (src : Src)
  /-- R468 -/ | powerHint (q : Nat)
  /-- R502 -/ | attestQuote (m : Nat)
  /-- R500 -/ | attestCert (m : Nat)
  /-- R386 -/ | firmwareInfo (src : Src)
  /-- R498 -/ | firmwareWrite (m : Nat) (flashOk : Bool)
  /-- R498 -/ | firmwareVerify (m : Nat)
  /-- R497 -/ | recoveryLoad (m : Nat) (flashOk : Bool)
  /-- R386 -/ | recoveryStatus (m : Nat)
  /-- R392 -/ | debugRead (m : Nat)
  /-- R272 -/ | debugAttr (m : Nat)
  /-- R403 -/ | flitReceive (link : Nat) (flit : List Byte)
  /-- R404 -/ | idleFlitSend (link : Nat)
  /-- R404 -/ | replayLimit (link : Nat)
  /-- R405 -/ | laneDegrade (link lane : Nat)
  /-- R405 -/ | linkRetrainDone (link width partner : Nat)
  /-- R404 -/ | retrainTimeout (link : Nat)
  /-- R417 -/ | linkHeartbeat (link : Nat)
  /-- R399 -/ | linkTrainingDone (link width partner regatta : Nat)
  /-- R407 -/ | remoteRead (link : Nat) (msg : RemoteMsg)
  /-- R407 -/ | remoteWrite (link : Nat) (msg : RemoteMsg)
  /-- R416 -/ | countedCopySector (link : Nat) (msg : RemoteMsg)
  /-- R218 -/ | remoteAtom (link : Nat) (msg : RemoteMsg)
  /-- R218 -/ | remoteAddx (link : Nat) (msg : RemoteMsg)
  /-- R401 -/ | remoteData (msg : RemoteMsg)
  /-- R416 -/ | remoteAck (msg : RemoteMsg)
  /-- R408 -/ | remoteError (msg : RemoteMsg)
  /-- R418 -/ | remoteTimeout (tag : Nat)
  /-- R420 -/ | beacon (link : Nat) (b : BeaconMsg)
  /-- R422 -/ | strokeStep
  /-- R421 -/ | beaconMiss
  /-- R525 -/ | strokeSync (offset : Int)
  /-- R525 -/ | strokeSyncMiss
  /-- R425 -/ | retract (link : Nat) (r : RetractUnit)
  /-- R423 -/ | coxMessage (link : Nat) (m : CoxMsg)
  /-- R428 -/ | coreProbe (core : Nat) (answered : Bool)
  /-- R428 -/ | coreProgress (core : Nat)
  /-- R429 -/ | ctrlParity (ukind unit : Nat)
  /-- R430 -/ | coxLockstep
  /-- R430 -/ | coxWatchdog
  /-- R275 -/ | snoopTimeout (agent line : Nat)
  /-- R427 -/ | ucieCrc (half fails : Nat) (retrained : Bool)
  /-- R434 -/ | pairedSignature (core : Nat) (sig : Word)
  /-- R434 -/ | pairedSignatureTimeout (core : Nat)
  /-- R437 -/ | sampledCheck (core : Nat) (expected observed : Word)
  /-- R431 -/ | injectLapsed (n : Nat)
  /-- R445 -/ | scanDone (passed : Bool)
  /-- R446 -/ | rollingTest (ways : Bool) (unit : Nat)
  /-- R446 -/ | latentScanOverdue (core : Nat)
  /-- R448 -/ | fenceDrainTimeout (rdom unit : Nat)
  /-- R448 -/ | coreReset (core : Nat)
  /-- R448 -/ | dieReset (die : Nat)
  /-- R448 -/ | shellReset (cdom : Nat)
  /-- R448 -/ | domainReset (cdom : Nat)
  /-- R449 -/ | deviceWarmReset
  /-- R448 -/ | deviceColdReset
  /-- R475 -/ | vrAlert (group ns : Nat)
  /-- R475 -/ | vrAlertEnd
  /-- R476 -/ | supplyWarn (group : Nat)
  /-- R476 -/ | supplyHoldEnd
  /-- R476 -/ | supplyReset (group : Nat)
  /-- R478 -/ | thermalSample (sensor : Nat) (reading : Int)
  /-- R478 -/ | throttleStep
  /-- R478 -/ | throttleRise
  /-- R472 -/ | weirTick (watts arith : Nat)
  /-- R462 -/ | opClockSwitch
  /-- R474 -/ | capFloorRepeat
  /-- R461 -/ | pmbusPoll (readings : List Nat)
  /-- R469 -/ | hintFillerRaise (cdom : Nat)
  /-- R481 -/ | getSensorReading (id : Nat)
  /-- R481 -/ | getNumericEffecterValue (id : Nat)
  /-- R474 -/ | setNumericEffecterValue (id value : Nat)
  /-- R481 -/ | getPdr (handle : Nat)
  /-- R532 -/ | devResetNAssert (ns : Nat)
  /-- R486 -/ | powerGood
  /-- R484 -/ | fuseLoad (fuseOk keelOk : Bool) (badSlices : List Nat)
  /-- R491 -/ | configRead
  /-- R496 -/ | imageVerify (flashOk : Bool)
  /-- R484 -/ | coxBoot
  /-- R283 -/ | memoryTraining (okF : BitVec 64) (okS : BitVec 24)
  /-- R297 -/ | hardwareFill
  /-- R487 -/ | coreSelfTest (failed : List Nat)
  /-- R485 -/ | release
  /-- R500 -/ | getVersion (smbus : Bool)
  /-- R500 -/ | getCapabilities (smbus : Bool)
  /-- R500 -/ | negotiateAlgorithms (smbus offered : Bool)
  /-- R500 -/ | getDigests (smbus : Bool)
  /-- R500 -/ | getCertificate (smbus : Bool) (slot offset len : Nat)
  /-- R500 -/ | challenge (smbus : Bool) (slot : Nat) (nonce : List Byte)
  /-- R501 -/ | getMeasurements (smbus : Bool) (index : Nat) (signed : Bool) (nonce : List Byte)
  /-- R507 -/ | stHelp
  /-- R507 -/ | stId
  /-- R507 -/ | stStatus
  /-- R507 -/ | stBaud (code : Nat)
  /-- R508 -/ | stUnlock (level : Nat) (rnd : List Byte)
  /-- R508 -/ | stProve (proof : List Byte)
  /-- R508 -/ | stLock
  /-- R508 -/ | stLevelTimeout
  /-- R489 -/ | stFuses
  /-- R459 -/ | stLog (first n : Nat)
  /-- R481 -/ | stSensors
  /-- R507 -/ | stShells
  /-- R492 -/ | stCfgShow
  /-- R491 -/ | stCfgSet (field value : Nat)
  /-- R491 -/ | stCfgRoute (index : Nat) (entry : W32)
  /-- R506 -/ | stDebugOpen
  /-- R526 -/ | extest
  /-- R526 -/ | clamp
  /-- R526 -/ | highz
  /-- R526 -/ | jtagInstructionLoad
  /-- R506 -/ | jtagPrivateAccess (op addr : Nat) (bytes : List Byte)
  /-- R475 -/ | vrAlertNDeassert (group : Nat)
  /-- R476 -/ | supplyReturn (group : Nat)
  /-- R308 -/ | dramTemperatureRead (readings : List (Nat × Int))
  /-- R349 -/ | perstNDeassert
  /-- R395 -/ | sealComplete (cdom range : Nat)
  /-- R423 -/ | strokeConfigureNoAnswer
  deriving DecidableEq, Repr

end Sys2Proof
end

