-- ==== Sys2Proof/WellFormed.lean ====
section
/-! DEFINITION. Which commands are well formed: unit numbers in range, and for a thread instruction the operand rules of 07 R184, R186,
R191, R194, R197, R199..R205 that GRAPH.REGISTER checks as BAD_CODE. -/
namespace Sys2Proof

/-- A selector that names something of Table 7-2. -/
def Sel.ok : Sel → Bool
  | .g n => decide (n < 48)
  | .zero => true
  | .u n => decide (n < 32)
  | .p n => decide (n < 8)

/-- A register or ZERO, no predicate (R184). -/
def Sel.isReg : Sel → Bool
  | .p _ => false
  | s => s.ok

/-- A predicate. -/
def Sel.isPred : Sel → Bool
  | .p n => decide (n < 8)
  | _ => false

/-- A uniform register or ZERO (R185). -/
def Sel.isUni : Sel → Bool
  | .u n => decide (n < 32)
  | .zero => true
  | _ => false

/-- A register whose number is a multiple of `k`: a pair (2) or a quad (4). -/
def Sel.aligned (k : Nat) : Sel → Bool
  | .g n => decide (n < 48) && decide (n % k = 0)
  | .u n => decide (n < 32) && decide (n % k = 0)
  | _ => false

/-- A source of `k` words; ZERO may stand for it (R184). -/
def Sel.srcOk (k : Nat) (s : Sel) : Bool := if k = 1 then s.isReg else s.aligned k || s == .zero

/-- A destination of `k` words: no u0..u3 (R184); ZERO discards a single word (T7-2). -/
def Sel.dstOk (k : Nat) (s : Sel) : Bool :=
  (match s with | .u n => decide (4 ≤ n) | _ => true) && (if k = 1 then s.isReg else s.aligned k)

/-- A uniform destination reads only uniform registers, ZERO and immediates (R184). -/
def uniReads (d : Sel) (srcs : List Sel) : Bool :=
  match d with
  | .u _ => srcs.all Sel.isUni
  | _ => true

/-- The combining predicate of ICMP and FCMP (R194). -/
def combOk (comb : Nat) (c : Sel) : Bool := decide (comb < 4) && (if comb = 0 then c == .zero else c.isPred)

/-- The group, and the guard: p7 negated is refused (R186). -/
def Iss.ok (i : Iss) : Bool := decide (i.guard < 8) && !(i.guard == 7 && i.gneg)

/-- The group exists: 368 cores, 32 slots. -/
def Iss.place (i : Iss) : Bool := decide (i.core < Config.cores) && decide (i.slot < 32)

/-- The always-true guard of CALL, RET and BRI (R186). -/
def Iss.always (i : Iss) : Bool := i.guard == 7 && !i.gneg

/-- The function codes of T6-4 that read b. -/
def vfUsesB (f : Nat) : Bool := decide (f ≤ 7)
/-- The function codes of T6-4 that read `scalar`. -/
def vfUsesC (f : Nat) : Bool := f == 3 || f == 10 || f == 11
/-- The function codes of T6-4. -/
def vfCode (f : Nat) : Bool := decide (f ≤ 0x0B) || f == 0x10 || f == 0x11 || (decide (0x20 ≤ f) && decide (f ≤ 0x29))

/-- Words that an access of a width code of T7-6 names. -/
def widthWords (w : Nat) : Nat := if w = 3 then 2 else if w = 4 then 4 else 1

/-- The rules of format M that LD and ST share (R184, R197). -/
def MemOp.ok (m : MemOp) : Bool :=
  m.base.srcOk (if m.glob then 2 else 1) && m.idx.isReg && decide (m.scale ≤ 4) && decide (m.width ≤ 4) && decide (m.order < 3) &&
  decide (m.scope < 4) && (m.order != 0 || m.scope == 0)

/-- The rules of format A (R184, R200, R201). -/
def AtomOp.ok (a : AtomOp) (dw s1w s2w : Nat) : Bool :=
  a.base.srcOk 2 && a.s1.srcOk s1w && (if s2w = 0 then a.s2 == .zero else a.s2.srcOk s2w) && decide (a.order < 4) && decide (a.scope < 4) &&
  (if a.ret then a.d.dstOk dw else a.d == .zero) && uniReads a.d [a.base, a.s1, a.s2]

/-- Three register operands of format R. -/
def rrr (d a b : Sel) : Bool := d.dstOk 1 && a.isReg && b.isReg && uniReads d [a, b]

/-- Bits of a reconvergence or target field. -/
def idxOk (n : Nat) : Bool := decide (n < 4096)

/-- The rules of a thread instruction that its own word shows (R184 and the rules it names): what decodes. -/
def Instr.codeOk : Instr → Bool
  | .nop i => i.ok
  | .iadd i d a b | .isub i d a b | .imul i d a b | .imulhs i d a b | .imulhu i d a b | .imin i d a b | .imax i d a b
  | .umin i d a b | .umax i d a b | .andR i d a b | .orR i d a b | .xorR i d a b | .shl i d a b | .shr i d a b | .sar i d a b =>
    i.ok && rrr d a b
  | .imacc i d a b c => i.ok && rrr d a b && c.isReg && uniReads d [c]
  | .bcnt i d a | .clz i d a | .mov i d a => i.ok && d.dstOk 1 && a.isReg && uniReads d [a]
  | .iadd64 i d a b => i.ok && d.dstOk 2 && a.srcOk 2 && b.isReg && uniReads d [a, b]
  | .movi i d _ => i.ok && d.dstOk 1
  | .iaddi i d a _ | .andi i d a _ | .ori i d a _ | .xori i d a _ | .shli i d a _ | .shri i d a _ | .sari i d a _ =>
    i.ok && d.dstOk 1 && a.isReg && uniReads d [a]
  | .icmp i d a b c comb cond => i.ok && d.isPred && a.isReg && b.isReg && combOk comb c && decide (cond ≤ 9)
  | .icmpi i d a cond _ => i.ok && d.isPred && a.isReg && decide (cond ≤ 9)
  | .pcomb i d a b op => i.ok && d.isPred && a.isPred && b.isPred && decide (op < 4)
  | .selP i d a b c => i.ok && d.dstOk 1 && a.isReg && b.isReg && c.isPred && uniReads d [a, b, c]
  | .lvote i d a kind => i.ok && a.isPred && decide (kind < 3) && (if kind = 2 then d.dstOk 1 else d.isPred)
  | .xlane i d a b k mode =>
    i.ok && d.dstOk 1 && a.isReg && b.isReg && decide (mode < 4) && decide (k < 32) && (b == .zero || k == 0) && uniReads d [a, b]
  | .vf i d a b c f at' dt =>
    i.ok && d.dstOk 1 && a.isReg && vfCode f && (if vfUsesB f then b.isReg else b == .zero) &&
    (if vfUsesC f then c.isReg else c == .zero) && decide (at' < 6) && decide (dt < 6) && uniReads d [a, b, c]
  | .fcmp i d a b c comb cond at' =>
    i.ok && d.isPred && a.isReg && b.isReg && combOk comb c && (decide (cond ≤ 5) || cond == 10 || cond == 11) && decide (at' < 6) && at' != 1
  | .ld i d m =>
    i.ok && m.ok && d.dstOk (widthWords m.width) && m.order != 2 && uniReads d [m.base, m.idx] && (!m.sx || decide (m.width ≤ 1))
  | .st i d m => i.ok && m.ok && d.srcOk (widthWords m.width) && m.order != 1 && !m.sx
  | .atom i a w64 aop =>
    i.ok && decide (aop ≤ 10) && !(w64 && aop == 1) &&
    (if w64 then a.ok 2 2 (if aop = 10 then 2 else 0) else a.ok 1 1 (if aop = 10 then 1 else 0))
  | .addxI i a pst psa => i.ok && a.ok 4 4 0 && decide (pst < 8) && decide (psa < 8)
  | .addxF i a pst psa => i.ok && a.ok 4 1 1 && decide (pst < 8) && decide (psa < 8)
  | .barG i => i.ok
  | .barB i b n => i.ok && decide (b < 16) && decide (n ≤ 32)
  | .memfence i scope kind => i.ok && decide (scope < 4) && decide (1 ≤ kind) && decide (kind < 4)
  | .cpAsync i a b c sectors ctr =>
    i.ok && a.srcOk 2 && a.isUni && b.srcOk 2 && b.isUni && c.isUni && decide (ctr < 32) &&
    (if c == .zero then decide (1 ≤ sectors) && decide (sectors ≤ 32768) else sectors == 0)
  | .ctrSet i a ctr v | .ctrWait i a ctr v => i.ok && a.isUni && decide (ctr < 32) && decide (v < 65536) && (a == .zero || v == 0)
  | .ctrRd i d ctr => i.ok && d.dstOk 1 && decide (ctr < 32)
  | .stPatch i a node field => i.ok && a.isUni && (decide (field ≤ 1) || a.srcOk 2) && decide (node < 16384) && decide (field ≤ 4)
  | .stSkip i step => i.ok && decide (step < 4096)
  | .bra i t r => i.ok && idxOk t && idxOk r
  | .bri i s r => i.ok && i.always && (match s with | .u n => decide (n < 32) | _ => false) && idxOk r
  | .call i t => i.ok && i.always && idxOk t
  | .ret i => i.ok && i.always
  | .exitT i | .spin i => i.ok
  | .rngP i d a b => i.ok && d.dstOk 4 && a.srcOk 4 && b.srcOk 2 && uniReads d [a, b]
  | .rdspec i d which => i.ok && d.dstOk 1 && decide (which < 4)
  | .bkpt i _ => i.ok
  | _ => false

/-- The unit of the part that a Winemar command's source names: 128 mailboxes (T12-8, R379), 4,096 queue pairs (R359). -/
def Src.ok : Src → Bool
  | .mbx m => decide (m < 128)
  | .queue q => decide (q < 4096)

/-- The operands of a command that name a unit name one the part has; a thread instruction also meets R184. -/
def Instr.wellFormed (c : Instr) : Bool :=
  match c with
  | .contextRestore k | .seatStop k | .intakeCopy k _ | .intakeSurvey k _ | .gatherRows k _ | .gatherPaged k _ | .matrixMma k
  | .vectorMap k | .vectorRowred k | .vectorSoftmax k | .reduceAddx k | .reduceLogic k | .shapeTranspose k | .shapeReshape k
  | .shapeBroadcast k | .shapePad k | .outletConvert k | .outletFused k | .outletExport k | .coreProbe k _ | .coreProgress k
  | .pairedSignature k _ | .pairedSignatureTimeout k | .sampledCheck k _ _ | .latentScanOverdue k | .coreReset k => decide (k < Config.cores)
  | .pathSwitchCount k g | .spinIdleEnd k g | .stallTrap k g | .accessResponse k g _ => decide (k < Config.cores) && decide (g < 32)
  | .copySectorDone k _ _ _ => decide (k < Config.cores)
  | .rds a _ _ _ | .rdn a _ _ _ | .own a _ _ | .push a _ _ _ | .wb a _ | .evict a _ | .data a _ | .grant a _ | .pushreq a _
  | .snpinv a _ | .snpshr a _ | .snpcur a _ | .snpfwd a _ | .snoopResponse a _ | .grantack a _ | .wback a _ | .pushack a _
  | .coherenceError a _ | .snoopTimeout a _ => decide (a < 32)
  | .mbxGo m | .ownerClaim m _ | .ownerTenantAdd m | .ownerTenantRemove m | .ownerTenantKey m | .ownerSecret m _ | .ownerFloor m
  | .ownerReinstate m | .sessionOpen m _ | .sessionProve m _ | .sessionClose m | .shellCreate m _ _ | .shellRebind m _ | .shellDestroy m
  | .shellAcquire m | .memoryRetire m | .graphRegister m _ | .graphQuery m | .strokeConfigure m | .queueCreate m _ _ _ | .queueDelete m
  | .queueReset m | .faultRead m | .faultInject m | .faultClear m | .faultTest m | .powerCap m | .attestQuote m | .attestCert m
  | .firmwareWrite m _ | .firmwareVerify m | .recoveryLoad m _ | .recoveryStatus m | .debugRead m | .debugAttr m => decide (m < 128)
  | .shellRelease s | .shellQuery s | .memoryMap s _ | .memoryUnmap s | .memoryDiscard s | .memorySeal s | .memoryUnseal s | .memoryRebuild s
  | .memoryAperture s | .graphUnregister s | .graphResume s | .strokeStatus s | .strokeCalendar s | .powerStatus s | .firmwareInfo s => s.ok
  | .sqDoorbell q _ | .cqDoorbell q _ | .sqEntryFetch q _ | .sqEntryReread q _ | .completionWrite q | .parkReportWrite q _ | .msixHoldExpiry q
  | .memoryCopy q _ | .memoryFence q | .graphRun q | .powerHint q => decide (q < 4096)
  | .flitReceive l _ | .idleFlitSend l | .replayLimit l | .laneDegrade l _ | .linkRetrainDone l _ _ | .retrainTimeout l | .linkHeartbeat l
  | .linkTrainingDone l _ _ _ | .remoteRead l _ | .remoteWrite l _ | .countedCopySector l _ | .remoteAtom l _ | .remoteAddx l _ | .beacon l _
  | .retract l _ | .coxMessage l _ => decide (l < 18)
  | .substitutionCopyDone d | .rebindDrainDone d | .seatMoveDone d _ | .rebindComplete d | .forcedDrain d | .handoverTimeout d _
  | .shellReset d | .domainReset d | .hintFillerRaise d | .sealComplete d _ | .mirrorLineCopy d _ _ => decide (d < 512)
  | .vrAlert g _ | .supplyWarn g | .supplyReset g | .vrAlertNDeassert g | .supplyReturn g => decide (g < 5)
  | .dieReset d => decide (d < 8)
  | .nop i | .iadd i _ _ _ | .isub i _ _ _ | .imul i _ _ _ | .imulhs i _ _ _ | .imulhu i _ _ _ | .imacc i _ _ _ _ | .imin i _ _ _
  | .imax i _ _ _ | .umin i _ _ _ | .umax i _ _ _ | .andR i _ _ _ | .orR i _ _ _ | .xorR i _ _ _ | .shl i _ _ _ | .shr i _ _ _
  | .sar i _ _ _ | .bcnt i _ _ | .clz i _ _ | .mov i _ _ | .iadd64 i _ _ _ | .movi i _ _ | .iaddi i _ _ _ | .andi i _ _ _ | .ori i _ _ _
  | .xori i _ _ _ | .shli i _ _ _ | .shri i _ _ _ | .sari i _ _ _ | .icmp i _ _ _ _ _ _ | .icmpi i _ _ _ _ | .pcomb i _ _ _ _
  | .selP i _ _ _ _ | .lvote i _ _ _ | .xlane i _ _ _ _ _ | .vf i _ _ _ _ _ _ _ | .fcmp i _ _ _ _ _ _ _ | .ld i _ _ | .st i _ _
  | .atom i _ _ _ | .addxI i _ _ _ | .addxF i _ _ _ | .barG i | .barB i _ _ | .memfence i _ _ | .cpAsync i _ _ _ _ _ | .ctrSet i _ _ _
  | .ctrWait i _ _ _ | .ctrRd i _ _ | .stPatch i _ _ _ | .stSkip i _ | .bra i _ _ | .bri i _ _ | .call i _ | .ret i | .exitT i
  | .spin i | .rngP i _ _ _ | .rdspec i _ _ | .bkpt i _ => i.place && c.codeOk
  | _ => true

end Sys2Proof
end

