-- ==== Sys2Proof/Decode.lean ====
section
/-! DEFINITION. The 64-bit words of thread code: decoder and encoder of Tables 7-2..7-13 (R189, R190, R192). The command table gives no
bits, so no table word spells a command. -/
namespace Sys2Proof

/-- opcode_table.json gives its rows no bits: no word spells a command. -/
def decodeTableWord (_nbits _w : Nat) : Option Instr := none

/-- Total width of a list of (width, value) fields. -/
def fieldsWidth : List (Nat × Nat) → Nat
  | [] => 0
  | (w, _) :: t => w + fieldsWidth t

/-- Packs (width, value) fields, the most significant first. -/
def pack : List (Nat × Nat) → Nat
  | [] => 0
  | (w, v) :: t => v % 2 ^ w * 2 ^ fieldsWidth t + pack t

/-- Fields of the given widths, the most significant first. -/
def unpack : List Nat → Nat → List Nat
  | [], _ => []
  | w :: ws, n => n / 2 ^ ws.sum % 2 ^ w :: unpack ws n

/-- Selector numbers of T7-2. -/
def selNum : Sel → Nat
  | .g n => n
  | .zero => 0x3F
  | .u n => 0x40 + n
  | .p n => 0x60 + n

/-- The selector of a 7-bit number; the reserved numbers name none. -/
def selOf (n : Nat) : Option Sel :=
  if n < 0x30 then some (.g n)
  else if n = 0x3F then some .zero
  else if n < 0x40 then none
  else if n < 0x60 then some (.u (n - 0x40))
  else if n < 0x68 then some (.p (n - 0x60))
  else none

/-! ### Packing by format -/

/-- T7-3: the header. -/
def hdr (op : Nat) (i : Iss) : List (Nat × Nat) := [(8, op), (1, Machine.b2n i.gneg), (3, i.guard)]

/-- T7-4: format R. -/
def packR (op : Nat) (i : Iss) (d a b c : Sel) (func atype dtype : Nat) : Nat :=
  pack (hdr op i ++ [(7, selNum d), (7, selNum a), (7, selNum b), (7, selNum c), (8, func), (3, atype), (3, dtype), (10, 0)])

/-- T7-5: format I. -/
def packI (op : Nat) (i : Iss) (d a : Sel) (func : Nat) (imm : W32) : Nat :=
  pack (hdr op i ++ [(7, selNum d), (7, selNum a), (6, func), (32, imm.toNat)])

/-- T7-6: format M. -/
def packM (op : Nat) (i : Iss) (d : Sel) (m : MemOp) : Nat :=
  pack (hdr op i ++ [(7, selNum d), (7, selNum m.base), (7, selNum m.idx), (1, Machine.b2n m.isx), (3, m.scale), (1, Machine.b2n m.glob),
    (3, m.width), (1, Machine.b2n m.sx), (2, m.order), (2, m.scope), (18, m.off.toNat)])

/-- T7-7: format A. -/
def packA (op : Nat) (i : Iss) (a : AtomOp) (w64 : Bool) (aop pst psa : Nat) : Nat :=
  pack (hdr op i ++ [(7, selNum a.d), (7, selNum a.base), (7, selNum a.s1), (7, selNum a.s2), (2, a.order), (2, a.scope),
    (1, Machine.b2n a.ret), (1, Machine.b2n w64), (4, aop), (3, pst), (3, psa), (8, 0)])

/-- T7-8: format B. -/
def packB (op : Nat) (i : Iss) (target reconv : Nat) (s : Sel) : Nat :=
  pack (hdr op i ++ [(12, target), (12, reconv), (7, selNum s), (21, 0)])

/-- T7-9: format S. -/
def packS (op : Nat) (i : Iss) (d a b c : Sel) (imm : Nat) : Nat :=
  pack (hdr op i ++ [(7, selNum d), (7, selNum a), (7, selNum b), (7, selNum c), (24, imm)])

/-- The word of a thread instruction as a number (T7-10, T7-13); 0 for a command that is none. -/
def encodeNat : Instr → Nat
  | .nop i => packR 0x00 i .zero .zero .zero .zero 0 0 0
  | .iadd i d a b => packR 0x01 i d a b .zero 0 0 0
  | .isub i d a b => packR 0x02 i d a b .zero 0 0 0
  | .imul i d a b => packR 0x03 i d a b .zero 0 0 0
  | .imulhs i d a b => packR 0x04 i d a b .zero 0 0 0
  | .imulhu i d a b => packR 0x05 i d a b .zero 0 0 0
  | .imacc i d a b c => packR 0x06 i d a b c 0 0 0
  | .imin i d a b => packR 0x07 i d a b .zero 0 0 0
  | .imax i d a b => packR 0x08 i d a b .zero 0 0 0
  | .umin i d a b => packR 0x09 i d a b .zero 0 0 0
  | .umax i d a b => packR 0x0A i d a b .zero 0 0 0
  | .andR i d a b => packR 0x0B i d a b .zero 0 0 0
  | .orR i d a b => packR 0x0C i d a b .zero 0 0 0
  | .xorR i d a b => packR 0x0D i d a b .zero 0 0 0
  | .shl i d a b => packR 0x0E i d a b .zero 0 0 0
  | .shr i d a b => packR 0x0F i d a b .zero 0 0 0
  | .sar i d a b => packR 0x10 i d a b .zero 0 0 0
  | .bcnt i d a => packR 0x11 i d a .zero .zero 0 0 0
  | .clz i d a => packR 0x12 i d a .zero .zero 0 0 0
  | .mov i d a => packR 0x13 i d a .zero .zero 0 0 0
  | .iadd64 i d a b => packR 0x14 i d a b .zero 0 0 0
  | .movi i d imm => packI 0x16 i d .zero 0 imm
  | .iaddi i d a imm => packI 0x17 i d a 0 imm
  | .andi i d a imm => packI 0x18 i d a 0 imm
  | .ori i d a imm => packI 0x19 i d a 0 imm
  | .xori i d a imm => packI 0x1A i d a 0 imm
  | .shli i d a imm => packI 0x1B i d a 0 imm
  | .shri i d a imm => packI 0x1C i d a 0 imm
  | .sari i d a imm => packI 0x1D i d a 0 imm
  | .icmp i d a b c comb cond => packR 0x20 i d a b c (comb * 16 + cond) 0 0
  | .icmpi i d a cond imm => packI 0x21 i d a cond imm
  | .pcomb i d a b op => packR 0x22 i d a b .zero op 0 0
  | .selP i d a b c => packR 0x23 i d a b c 0 0 0
  | .lvote i d a kind => packS 0x24 i d a .zero .zero kind
  | .xlane i d a b k mode => packS 0x25 i d a b .zero (mode * 256 + k)
  | .vf i d a b c func atype dtype => packR 0x30 i d a b c func atype dtype
  | .fcmp i d a b c comb cond atype => packR 0x31 i d a b c (comb * 16 + cond) atype 0
  | .ld i d m => packM 0x40 i d m
  | .st i d m => packM 0x41 i d m
  | .atom i a w64 aop => packA 0x48 i a w64 aop 0 0
  | .addxI i a pst psa => packA 0x4A i a false 0 pst psa
  | .addxF i a pst psa => packA 0x4B i a false 0 pst psa
  | .barG i => packS 0x50 i .zero .zero .zero .zero 0
  | .barB i b n => packS 0x51 i .zero .zero .zero .zero (n * 16 + b)
  | .memfence i scope kind => packS 0x52 i .zero .zero .zero .zero (kind * 4 + scope)
  | .cpAsync i a b c sectors ctr => packS 0x58 i .zero a b c (ctr * 65536 + sectors)
  | .ctrSet i a ctr v => packS 0x59 i .zero a .zero .zero (v * 256 + ctr)
  | .ctrWait i a ctr v => packS 0x5A i .zero a .zero .zero (v * 256 + ctr)
  | .ctrRd i d ctr => packS 0x5B i d .zero .zero .zero ctr
  | .stPatch i a node field => packS 0x60 i .zero a .zero .zero (field * 16384 + node)
  | .stSkip i step => packS 0x61 i .zero .zero .zero .zero step
  | .bra i target reconv => packB 0x68 i target reconv .zero
  | .bri i s reconv => packB 0x69 i 0 reconv s
  | .call i target => packB 0x6A i target 0 .zero
  | .ret i => packB 0x6B i 0 0 .zero
  | .exitT i => packB 0x6C i 0 0 .zero
  | .spin i => packB 0x6D i 0 0 .zero
  | .rngP i d a b => packS 0x70 i d a b .zero 0
  | .rdspec i d which => packS 0x71 i d .zero .zero .zero which
  | .bkpt i code => packS 0x72 i .zero .zero .zero .zero code.toNat
  | _ => 0

/-- The word of a thread instruction. -/
def encodeCode (c : Instr) : Word := BitVec.ofNat 64 (encodeNat c)

/-! ### Reading by format -/

/-- Reads format R and I opcodes 0x00..0x31. -/
def readR (op : Nat) (i : Iss) (d a b c : Sel) (func atype dtype : Nat) : Option Instr :=
  match op with
  | 0x00 => some (.nop i)
  | 0x01 => some (.iadd i d a b)
  | 0x02 => some (.isub i d a b)
  | 0x03 => some (.imul i d a b)
  | 0x04 => some (.imulhs i d a b)
  | 0x05 => some (.imulhu i d a b)
  | 0x06 => some (.imacc i d a b c)
  | 0x07 => some (.imin i d a b)
  | 0x08 => some (.imax i d a b)
  | 0x09 => some (.umin i d a b)
  | 0x0A => some (.umax i d a b)
  | 0x0B => some (.andR i d a b)
  | 0x0C => some (.orR i d a b)
  | 0x0D => some (.xorR i d a b)
  | 0x0E => some (.shl i d a b)
  | 0x0F => some (.shr i d a b)
  | 0x10 => some (.sar i d a b)
  | 0x11 => some (.bcnt i d a)
  | 0x12 => some (.clz i d a)
  | 0x13 => some (.mov i d a)
  | 0x14 => some (.iadd64 i d a b)
  | 0x20 => some (.icmp i d a b c (func / 16) (func % 16))
  | 0x22 => some (.pcomb i d a b func)
  | 0x23 => some (.selP i d a b c)
  | 0x30 => some (.vf i d a b c func atype dtype)
  | 0x31 => some (.fcmp i d a b c (func / 16) (func % 16) atype)
  | _ => none

/-- Reads format I. -/
def readI (op : Nat) (i : Iss) (d a : Sel) (func : Nat) (imm : W32) : Option Instr :=
  match op with
  | 0x16 => some (.movi i d imm)
  | 0x17 => some (.iaddi i d a imm)
  | 0x18 => some (.andi i d a imm)
  | 0x19 => some (.ori i d a imm)
  | 0x1A => some (.xori i d a imm)
  | 0x1B => some (.shli i d a imm)
  | 0x1C => some (.shri i d a imm)
  | 0x1D => some (.sari i d a imm)
  | 0x21 => some (.icmpi i d a func imm)
  | _ => none

/-- Reads format S (T7-13). -/
def readS (op : Nat) (i : Iss) (d a b c : Sel) (imm : Nat) : Option Instr :=
  match op with
  | 0x24 => some (.lvote i d a imm)
  | 0x25 => some (.xlane i d a b (imm % 32) (imm / 256))
  | 0x50 => some (.barG i)
  | 0x51 => some (.barB i (imm % 16) (imm / 16))
  | 0x52 => some (.memfence i (imm % 4) (imm / 4))
  | 0x58 => some (.cpAsync i a b c (imm % 65536) (imm / 65536))
  | 0x59 => some (.ctrSet i a (imm % 32) (imm / 256))
  | 0x5A => some (.ctrWait i a (imm % 32) (imm / 256))
  | 0x5B => some (.ctrRd i d imm)
  | 0x60 => some (.stPatch i a (imm % 16384) (imm / 16384))
  | 0x61 => some (.stSkip i imm)
  | 0x70 => some (.rngP i d a b)
  | 0x71 => some (.rdspec i d imm)
  | 0x72 => some (.bkpt i (BitVec.ofNat 16 imm))
  | _ => none

/-- Reads format B. -/
def readB (op : Nat) (i : Iss) (target reconv : Nat) (s : Sel) : Option Instr :=
  match op with
  | 0x68 => some (.bra i target reconv)
  | 0x69 => some (.bri i s reconv)
  | 0x6A => some (.call i target)
  | 0x6B => some (.ret i)
  | 0x6C => some (.exitT i)
  | 0x6D => some (.spin i)
  | _ => none

/-- Which format an opcode has (T7-10): 0 R, 1 I, 2 M, 3 A, 4 B, 5 S. -/
def formatOf (op : Nat) : Nat :=
  if op ≤ 0x14 then 0
  else if op ≤ 0x1D then 1
  else if op = 0x21 then 1
  else if op ≤ 0x23 then 0
  else if op ≤ 0x25 then 5
  else if op ≤ 0x31 then 0
  else if op ≤ 0x41 then 2
  else if op ≤ 0x4B then 3
  else if op ≤ 0x61 then 5
  else if op ≤ 0x6D then 4
  else 5

/-- The fields of a word, before any operand rule. -/
def readWord (core slot w : Nat) : Option Instr :=
  let op := Machine.bits w 63 56
  let i : Iss := ⟨core, slot, Machine.bit w 55, Machine.bits w 54 52⟩
  match formatOf op with
  | 0 =>
    match unpack [7, 7, 7, 7, 8, 3, 3, 10] w with
    | [d, a, b, c, f, at', dt, _] =>
      match selOf d, selOf a, selOf b, selOf c with
      | some d, some a, some b, some c => readR op i d a b c f at' dt
      | _, _, _, _ => none
    | _ => none
  | 1 =>
    match unpack [7, 7, 6, 32] w with
    | [d, a, f, imm] =>
      match selOf d, selOf a with
      | some d, some a => readI op i d a f (BitVec.ofNat 32 imm)
      | _, _ => none
    | _ => none
  | 2 =>
    match unpack [7, 7, 7, 1, 3, 1, 3, 1, 2, 2, 18] w with
    | [d, base, idx, isx, scale, glob, width, sx, order, scope, off] =>
      match selOf d, selOf base, selOf idx with
      | some d, some base, some idx =>
        let m : MemOp := ⟨base, idx, isx == 1, scale, glob == 1, width, sx == 1, order, scope, BitVec.ofNat 18 off⟩
        if op = 0x40 then some (.ld i d m) else if op = 0x41 then some (.st i d m) else none
      | _, _, _ => none
    | _ => none
  | 3 =>
    match unpack [7, 7, 7, 7, 2, 2, 1, 1, 4, 3, 3, 8] w with
    | [d, base, s1, s2, order, scope, ret, w64, aop, pst, psa, _] =>
      match selOf d, selOf base, selOf s1, selOf s2 with
      | some d, some base, some s1, some s2 =>
        let a : AtomOp := ⟨d, base, s1, s2, order, scope, ret == 1⟩
        if op = 0x48 then some (.atom i a (w64 == 1) aop)
        else if op = 0x4A then some (.addxI i a pst psa)
        else if op = 0x4B then some (.addxF i a pst psa)
        else none
      | _, _, _, _ => none
    | _ => none
  | 4 =>
    match unpack [12, 12, 7, 21] w with
    | [target, reconv, s, _] =>
      match selOf s with
      | some s => readB op i target reconv s
      | none => none
    | _ => none
  | _ =>
    match unpack [7, 7, 7, 7, 24] w with
    | [d, a, b, c, imm] =>
      match selOf d, selOf a, selOf b, selOf c with
      | some d, some a, some b, some c => readS op i d a b c imm
      | _, _, _, _ => none
    | _ => none

/-- Decodes one code word for a group: the fields read, the operand rules met, and every unused field and reserved bit as the tables say
(the word is the one the tables give those fields). A word this refuses is BAD_CODE (R184, R192). -/
def decodeCode (core slot : Nat) (w : Word) : Option Instr :=
  match readWord core slot w.toNat with
  | some c => if c.codeOk && encodeNat c == w.toNat then some c else none
  | none => none

end Sys2Proof
end

