-- ==== Sys2Proof/Machine/State.lean ====
section
/-! DEFINITION. The state of the part, the ways a step can stop, and the state after reset. Each field's docstring names the rule that
gives it; the reset values that the spec does not give are DESIGN CHOICE and stand in the log entries that INVENTORY.md lists. -/
namespace Sys2Proof.Machine

/-! ### Thread groups (06, 07) -/

/-- Why a path does not run (R157, R159, R162). -/
inductive PWait where
  | run
  | barG
  | barB (b n : Nat)
  | spun
  | joined
  deriving DecidableEq, Repr

/-- A path (T7-18): active mask, next instruction, reconvergence points innermost first, return stack top first. -/
structure Path where
  mask   : W32
  pc     : Nat
  reconv : List Nat
  stack  : List Nat
  wait   : PWait
  deriving DecidableEq, Repr

/-- A park record (T7-17) without the slot and seat that the group itself names. -/
structure ParkRec where
  code   : Nat
  lane   : Nat
  pc     : Nat
  detail : Nat
  deriving DecidableEq, Repr

/-- Where an access is performed (T8-1), after translation. -/
inductive Loc where
  | mem (dpa : Nat) (wr stream : Bool)
  | spad (core off : Nat)
  | host (addr : Nat)
  | peer (dev off : Nat)
  | bad
  | unmapped
  deriving DecidableEq, Repr

/-- One lane's part of an outstanding access (lane 32: the one access of a uniform instruction); `got` is its data once it came. -/
structure FarItem where
  lane : Nat
  addr : Nat
  loc  : Loc
  len  : Nat
  got  : Option (List Byte)
  err  : Bool
  deriving DecidableEq, Repr

/-- An outstanding far access of a group (R212): `kind` 0 a load, 1 ATOM, 2 ADDX; an ADDX also writes predicates pst, psa. `acq` is 0
for no acquire, 1 at group or block scope, 2 at device or system scope (R226); `epoch` the map epoch it was translated under (11 R330). -/
structure FarReq where
  pc    : Nat
  kind  : Nat
  dst   : Sel
  words : Nat
  width : Nat
  sx    : Bool
  ret   : Bool
  pst   : Nat
  psa   : Nat
  acq   : Nat
  epoch : Nat
  items : List FarItem
  deriving DecidableEq, Repr

/-- A thread group in a slot (R151..R169, R183). `paths` has the running path first, then the path table, newest last; `issued` counts
instructions since the running path was switched to; `strict` says that the next host write follows a system release (08 R244); `stall` is the stall count of R165 in
hundredths of an arithmetic cycle (entry 31); `part` the lanes of the store at pc that have stored while miss registers are short (09 R280). -/
structure Group where
  cdom    : Nat
  cmd     : Nat
  seat    : Nat
  idx     : Nat
  n       : Nat
  d       : Nat
  strict  : Bool
  code    : List Word
  loopTab : List (Nat × Nat)
  loops   : Tab Nat
  paths   : List Path
  g       : Tab W32
  p       : Tab W32
  u       : Tab W32
  issued  : Nat
  stall   : Nat
  part    : List Nat
  idle    : Bool
  ctrWait : Option (Nat × W32)
  copyWait : Bool
  far     : List FarReq
  park    : Option ParkRec
  stopped : Bool
  deriving DecidableEq, Repr

/-- A copy of a stream engine (R167, R168); sector `k` moved when listed in `done`. -/
structure Copy where
  slot    : Nat
  cmd     : Nat
  cdom    : Nat
  seat    : Nat
  src     : Nat
  dst     : Nat
  len     : Nat
  ctr     : Nat
  done    : List Nat
  stopped : Bool
  deriving DecidableEq, Repr

/-- An AX128 accumulator cell in producer's hands (05 R127, R129): the exact sum in units of 2^A, NaN and saturation marks. -/
structure Cell128 where
  sum : Int
  nan : Bool
  pos : Bool
  neg : Bool
  deriving DecidableEq, Repr

/-- An accumulator slot (03 R79; 05 R127, R131..R137), by production number; `contrib` counts the Matrix repetitions in it. In FP32 mode a
cell's `sum` is its FP32 pattern. -/
structure AccSlot where
  cells  : Tab Cell128
  anchor : Int
  full   : Bool
  contrib : Nat
  sticky : Bool
  sat    : Bool
  nan    : Bool
  idx    : Bool
  ecc    : Bool
  satCells : Nat
  deriving DecidableEq, Repr

/-- A pond slot that its producer wrote (03 R82, R112; 05 R126, R132): whether its last write is acknowledged, and what travels with it. -/
structure PondSlot where
  landed : Bool
  ts     : W32
  anchor : Int
  survey : Option Int
  idx    : Bool
  ecc    : Bool
  deriving DecidableEq, Repr

/-- What a REDUCE.LOGIC or VECTOR.SOFTMAX repetition has taken so far (03 R82, R103; 05 R141; 06 R538): patterns by row, the marks of its tiles. -/
structure PartTile where
  rows : List (List Nat)
  idx  : Bool
  ecc  : Bool
  deriving DecidableEq, Repr

/-- What of a running command lives with a seat (03 R95): repetitions done of each node and tiles consumed of the current one, pond slots by
pond × 2^32 + production number, accumulator slots, what its REDUCE.LOGIC and VECTOR.SOFTMAX nodes have taken, survey table, patches, what marks scratchpad blocks of 32
bytes carry (bit 0 idx_oob, bit 1 ecc_corr). A seat told to stop is `stopped`, and `held` once it has stopped (R95). -/
structure SeatRun where
  reps    : Tab Nat
  part    : Tab Nat
  ponds   : Tab PondSlot
  prodIx  : Tab Nat
  consIx  : Tab Nat
  acc     : Tab AccSlot
  logic   : Tab PartTile
  survey  : Tab Int
  patches : Tab Nat
  flags   : Tab Nat
  sampleAt : Nat
  outReps : Nat
  stopped : Bool
  held    : Bool
  deriving DecidableEq, Repr

/-- Poison bit and error pattern of a stored codeword (10 R289, entry 15). -/
structure WTag where
  p : Bool
  e : Nat
  deriving DecidableEq, Repr

/-- A saved context of a seat: its scratchpad, counters, groups and copies. `inMem`: the scratchpad's bytes lie in the shell's context area (02 R59; 11 R322)
and not in the record. -/
structure Ctx where
  spad   : Tab Byte
  tags   : Tab WTag
  ctr    : Tab W32
  groups : Tab Group
  copies : Tab Copy
  inMem  : Bool
  deriving DecidableEq, Repr

/-- Which thread issued an atomic: core, slot, pc and item position; or a link's remote request. -/
inductive AtomBy where
  | thread (core slot pc item : Nat)
  | link (vc tag src : Nat) (ret : Bool)
  deriving DecidableEq, Repr

/-- An operation of the atomic unit (R264; 07 T7-14; 05 R144). `kind` 0 ATOM, 1 ADDX.I, 2 ADDX.F; `after`: messages of its line that came before it
and still wait (R236, R265). -/
structure AtomReq where
  by'    : AtomBy
  cdom   : Nat
  dpa    : Nat
  kind   : Nat
  aop    : Nat
  len    : Nat
  s1     : Nat
  s2     : Nat
  anchor : Int
  after  : Nat
  deriving DecidableEq, Repr

/-- What a primary holds back until its partner's signature arrives (15 R434): a write of bytes at a shell address, an atomic, a sector of
a copy; a thread's store comes from a lane of a slot. -/
inductive HeldWhat where
  | write (cmd addr : Nat) (bytes : List Byte)
  | store (cmd slot pc lane addr : Nat) (relaxed : Bool) (bytes : List Byte)
  | atom (line : Nat) (a : AtomReq)
  | sector (copyId sector addr : Nat) (bytes : List Byte)
  deriving DecidableEq, Repr

/-- A held item: its own signature, since when, of which node and repetition, what (15 R434). -/
structure HeldItem where
  sig  : Word
  at'  : Nat
  node : Option (Nat × Nat)
  what : HeldWhat
  deriving DecidableEq, Repr

/-- An enabled core (01 R17, R21; 06; 15 R428, R444..R450). `last`: the slot that issued last (R152). `saving`: a context
save waits for the repetitions that run to end (02 R58). `before`: who held the core in the stroke before the present one (02 R49). `probe`: since when a probe is unanswered, and the injection that caused it. -/
structure Core where
  holder   : Option (Nat × Nat)
  last     : Nat
  groups   : Tab Group
  saved    : List (Nat × Group)
  ctr      : Tab W32
  copies   : Tab Copy
  nextCopy : Nat
  ctxs     : Tab Ctx
  fenced   : Bool
  retired  : Bool
  latent   : Bool
  scanning : Bool
  lastScan : Nat
  probe    : Option (Nat × Option Nat)
  returnAt : Option Nat
  held     : List HeldItem
  plan     : List (Nat × Nat × Nat)
  planNext : Option (Nat × List (Nat × Nat × Nat))
  planPos  : Nat
  incoming : Option (Nat × Nat)
  saving   : Bool
  before   : Option (Nat × Nat)
  deriving DecidableEq, Repr

/-! ### Caches, directory and memory (09, 10) -/

/-- States of T9-3. -/
inductive LState where
  | M | E | F | S | N
  deriving DecidableEq, Repr

/-- A line in a die-cache half or host-core L2 (R254): the way it stands in, masks of sectors and bytes. -/
structure CLine where
  st    : LState
  way   : Nat
  cdom  : Nat
  otag  : Nat
  valid : Nat
  dirty : Nat
  pois  : Nat
  data  : Tab Byte
  used  : Nat
  deriving DecidableEq, Repr

/-- A miss register (R280): sectors that tracked reads (`mask`) and reads under `stream` 1 (`nmask`) wait for, the stores that wait in it and who
issued them (core, slot, pc, lane, address). Of its one request with the home: `own` an Own, `push` a Push, `fill` the sectors of an RdS or RdN,
`nfill` an RdN, `stale` an RdN that a drop of N lines overtook (R233). -/
structure Miss where
  cdom   : Nat
  mask   : Nat
  nmask  : Nat
  own    : Bool
  push   : Bool
  fill   : Nat
  nfill  : Bool
  stale  : Bool
  cells  : List Cell
  by'    : List (Nat × Nat × Nat × Nat × Nat)
  deriving DecidableEq, Repr

/-- A line in a writeback buffer (R262). -/
structure WBuf where
  cdom  : Nat
  otag  : Nat
  dirty : Nat
  pois  : Nat
  data  : Tab Byte
  deriving DecidableEq, Repr

/-- `dstate` of T9-5. -/
inductive DState where
  | inv | shared | owned | failed
  deriving DecidableEq, Repr

/-- A directory entry (T9-5). -/
structure DirEntry where
  cdom     : Nat
  dstate   : DState
  lock     : Bool
  otag     : Nat
  fwd      : Option Nat
  presence : Nat
  used     : Nat
  deriving DecidableEq, Repr

/-- A request at a home (T9-6, R264, R271). `spush`: a Push of a station or copy of a half, whose acknowledgement is no message of its own;
`rread`, `rwrite`: a direct read or write for a request of another device, which is answered over its link (14 R407). -/
inductive HMsg where
  | rds (agent mask cdom : Nat)
  | rdn (agent mask cdom : Nat)
  | own (agent cdom : Nat)
  | push (agent cdom : Nat) (cells : List Cell)
  | spush (agent cdom : Nat) (cells : List Cell)
  | wb (agent : Nat) (w : WBuf)
  | evict (agent : Nat)
  | dread (who : DirectAgent) (off len cdom tag : Nat)
  | dwrite (who : DirectAgent) (cdom : Nat) (cells : List Cell)
  | rread (vc tag src off len cdom : Nat)
  | rwrite (vc tag src cdom : Nat) (cells : List Cell)
  | discard (poison : Bool)
  deriving DecidableEq, Repr

/-- An open transaction of a line (R257, R258): the request, the agents whose snoop responses it waits for, the agent whose GrantAck
closes it; when its snoops were sent (R275). -/
structure Txn where
  msg   : HMsg
  waits : List Nat
  grantee : Option Nat
  evictFor : Option Nat
  fwd   : List Cell
  at'   : Nat
  deriving DecidableEq, Repr

/-- A message on its way between a home and an agent (T9-6). -/
inductive NMsg where
  | data (agent line mask : Nat) (st : Option LState) (otag : Nat) (bytes : List Cell) (pois : Nat)
  | grant (agent line otag : Nat)
  | pushreq (agent line : Nat)
  | snpinv (agent line : Nat)
  | snpshr (agent line : Nat)
  | snpcur (agent line : Nat)
  | snpfwd (agent line mask : Nat)
  | sresp (agent line dirty pois : Nat) (bytes : List Cell) (sectors : Nat) (fromWb : Bool)
  | grantack (agent line : Nat)
  | wback (agent line : Nat) (accepted : Bool)
  | pushack (agent line : Nat)
  | error (agent line : Nat)
  deriving DecidableEq, Repr

/-- A home-cache line (R247, R252, R264): its way, and whether a direct agent allocated it (T9-11). -/
structure HLine where
  way   : Nat
  direct : Bool
  valid : Nat
  dirty : Nat
  data  : Tab Byte
  used  : Nat
  deriving DecidableEq, Repr

/-- Caches, directory and what is on its way (09). `pins`: lines pinned in the home cache, oldest first (R264, R265); `ways`: the domain that holds a
way of a half, by half × 32 + way (T9-11); `bar4`: BAR4 requests that wait behind a BAR4 read (08 R242). -/
structure Coh where
  lines  : Tab CLine
  miss   : Tab Miss
  wbuf   : Tab WBuf
  dir    : Tab DirEntry
  open'  : Tab Txn
  queue  : Tab (List HMsg)
  home   : Tab HLine
  atoms  : Tab (List AtomReq)
  net    : List NMsg
  pins   : List Nat
  ways   : Tab Nat
  bar4   : List (Nat × HMsg)
  failing : List Nat
  deriving DecidableEq, Repr

/-- A memory channel, keyed 0..63 Tier F and 64..87 Tier S (10). -/
structure Chan where
  usable   : Bool
  rmw      : Nat
  drift    : Bool
  retries  : List Nat
  trainedT : Int
  temp     : Int
  twice    : Bool
  calib    : Bool
  fenced   : Bool
  leaving  : Bool
  clearing : Bool
  deriving DecidableEq, Repr

/-- Memories and their controllers (10). Byte memories read 0 where nothing is listed, the hardware fill of R297. -/
structure Mem where
  dram  : Tab Byte
  spad  : Tab Byte
  tags  : Tab WTag
  rmw   : List (Nat × List Cell)
  chans : Tab Chan
  held  : List (Nat × Requester × Nat)
  deriving DecidableEq, Repr

/-! ### Shells and tenants (11) -/

/-- A channel set of a shell (T11-5): channels in order (0..63 Tier F, 64..87 Tier S), for a coded set its data channels and then its parity
channel with their number (0: not coded), home-cache ways, `q_lim`. -/
structure ChSet where
  chans : List Nat
  coded : Nat
  ways  : Nat
  qLim  : Nat
  deriving DecidableEq, Repr

/-- A range-table entry (T11-9). `side`: of a range that lost a set, the mirror is what is left (10 R305). -/
structure Range where
  base   : Nat
  frames : Nat
  set    : Nat
  mset   : Nat
  mirror : Bool
  mirrorLost : Bool
  side   : Bool
  sealed : Bool
  stream : Bool
  wr     : Bool
  frame0 : Nat
  deriving DecidableEq, Repr

/-- The ownership record of a set (T11-15). -/
structure OwnRec where
  owner   : Nat
  to'      : Nat
  hstate  : Nat
  seq     : Nat
  relTime : Nat
  deriving DecidableEq, Repr

/-- A seat of a shell (T11-4): core, slice entry length in strokes, best-effort work enabled. -/
structure Seat where
  core   : Nat
  sliced : Bool
  len    : Nat
  be     : Bool
  deriving DecidableEq, Repr

/-- A half's grants to a shell (T11-3): half 0..15, ways, n_ways, miss registers, shares of UCIe-3D port, mesh and half-link in 10 GB/s. -/
structure HalfGrant where
  half  : Nat
  ways  : Nat
  nWays : Nat
  regs  : Nat
  ucie  : Nat
  mesh  : Nat
  hlink : Nat
  deriving DecidableEq, Repr

/-- A link grant (T11-6): link, share in GB/s. -/
structure LinkGrant where
  link  : Nat
  share : Nat
  deriving DecidableEq, Repr

/-- A shell's composition (T11-2..T11-6). -/
structure Comp where
  k       : Nat
  o       : Nat
  gop     : Nat
  redund  : Nat
  sampleN : Nat
  slots   : Nat
  words   : List Word
  seats   : List Seat
  sets    : List (Nat × ChSet)
  halves  : List HalfGrant
  links   : List LinkGrant
  deriving DecidableEq, Repr

/-- A released set that waits for its acquire (11 R340..R342). -/
structure Released where
  from'  : Nat
  set    : Nat
  to'     : Nat
  seq    : Nat
  at'    : Nat
  body   : ChSet
  ranges : List Range
  deriving DecidableEq, Repr

/-- A change that waits for a shell's flip (11 R330). -/
inductive Flip where
  | map (src : Src) (r : Range) (idx : Nat)
  | unmap (src : Src) (idx : Nat)
  | release (src : Src) (set to' : Nat)
  | acquire (src : Src) (rel : Released) (newSet : Nat) (bases : List Nat)
  | restore (ranges : List Range)
  deriving DecidableEq, Repr

/-- A re-binding (11 R331): the mailbox that waits, the new composition, the earliest flip stroke and then the flip stroke, how far it is (0
prepare, 1 after the flip), the substitution (set, old and new channel) and whether its copy is done, seats that still move (new seat, old core,
new core), bound T_rb in 10 ns (R334), when it flipped, whether it was drained by force, the units fenced when it was accepted (domain 2 a core,
8 a channel), after the flip the composition before it (02 R44). -/
structure Rebind where
  src     : Src
  comp    : Comp
  flip    : Nat
  step    : Nat
  rcopy   : Nat
  copyK   : Nat
  subst   : Option (Nat × Nat × Nat)
  copied  : Bool
  moves   : List (Nat × Nat × Nat)
  trb     : Nat
  began   : Nat
  forced  : Bool
  known   : List (Nat × Nat)
  old     : Option Comp
  deriving DecidableEq, Repr

/-- A power hint (16 R468). -/
structure Hint where
  first   : Nat
  point   : Nat
  act     : Nat
  strokes : Nat
  deriving DecidableEq, Repr

/-- A seal in progress (11 R345): range index and the command that waits. -/
structure Seal where
  range : Nat
  src   : Src
  deriving DecidableEq, Repr

/-- A mirror being built (10 R304): range index, next line, the command that waits. -/
structure MirrorBuild where
  range : Nat
  done  : List Nat
  src   : Option Src
  deriving DecidableEq, Repr

/-- A shell (11). `flips` each with the first stroke before which it may flip (R331); `olds` the requests, by kind and number, that were outstanding at the last flip (R335); `owed` the commands that the end of the old epoch's
drain answers; `arriving` moved seats and their cores that wait for the next window (R332); `asks` the link shares that partners have not
yet granted (14 R413). -/
structure Shell where
  comp    : Comp
  ranges  : Tab Range
  owns    : Tab OwnRec
  epoch   : Nat
  oldEpoch : Bool
  olds    : List (Nat × Nat)
  flips   : List (Nat × Flip)
  owed    : List Src
  rebind  : Option Rebind
  arriving : List (Nat × Nat)
  asks    : List LinkGrant
  seals   : List Seal
  mirrors : List MirrorBuild
  discardPoison : Bool
  hint    : Option Hint
  failed  : Bool
  rrQueue : Nat
  windowEnd : Nat
  created : Option Src
  deriving DecidableEq, Repr

/-- A tenant record (T11-10). -/
structure Tenant where
  shell  : Nat
  rGuar  : Bool
  rMap   : Bool
  rHand  : Bool
  rDebug : Bool
  pasid  : Nat
  keySet : Bool
  keyGen : Nat
  key    : List Byte
  fails  : List Nat
  lockAt : Option Nat
  deriving DecidableEq, Repr

/-! ### Graphs and commands (03, 06, 13) -/

/-- A tile descriptor (T3-2). -/
structure Tile where
  space : Nat
  addr  : Nat
  fmt   : Nat
  col   : Bool
  rows  : Nat
  cols  : Nat
  stride : Nat
  mx    : Bool
  saxis : Bool
  sstride : Nat
  saddr : Nat
  ts    : W32
  amode : Nat
  anchor : Int
  deriving DecidableEq, Repr

/-- A node record (T3-5). -/
structure Node where
  op    : Nat
  seat  : Nat
  dst   : Nat
  src0  : Nat
  src1  : Nat
  count : Nat
  param : Nat
  advD  : Int
  adv0  : Int
  adv1  : Int
  deriving DecidableEq, Repr

/-- A step record (T3-7). -/
structure StepRec where
  first : Nat
  n     : Nat
  pace  : Nat
  msInt : Nat
  seg   : Option Nat
  deriving DecidableEq, Repr

/-- A pond record (T3-7). -/
structure Pond where
  cons  : Nat
  prod  : Nat
  depth : Nat
  bytes : Nat
  base  : Nat
  deriving DecidableEq, Repr

/-- A segment record (T6-1) with its loop table (T6-2), and its code as it stood at registration. -/
structure Segment where
  mask  : Nat
  n     : Nat
  d     : Nat
  codeLen : Nat
  codeAddr : Nat
  loopTab : List (Nat × Nat)
  arg   : List Nat
  deriving DecidableEq, Repr

/-- The contents of a graph descriptor (T3-4). -/
structure Graph where
  tiles : List Tile
  ponds : List Pond
  nodes : List Node
  steps : List StepRec
  segs  : List Segment
  nSeats : Nat
  statusBase : Nat
  deriving DecidableEq, Repr

/-- A registered graph (13 R390): WCET at OP0..OP3 and OPE in 10 ns units (0 none), seat map; once
unregistered it is `gone`, and usable for commands admitted before the admission number `goneAt` (13 R391). -/
structure RegGraph where
  graph : Graph
  guar  : Bool
  accFp32 : Bool
  primary : Option Nat
  fallback : Option Nat
  seatMap : List Nat
  wcet  : List Nat
  gone  : Bool
  goneAt : Nat
  lostCredit : Bool
  deriving DecidableEq, Repr

/-- How far a command is. -/
inductive CmdState where
  | queued
  | admitted
  | running
  | parked
  | done
  deriving DecidableEq, Repr

/-- A completion record (T12-19) without `phase` and `sq_head`, which the CQ fixes when it is written; `guar` for a
command that completed as guaranteed (02 R37). -/
structure Compl where
  cid    : Nat
  status : Nat
  cause  : Nat
  void   : Bool
  irq    : Bool
  event  : Bool
  stroke : Nat
  out0   : Nat
  out1   : Nat
  guar   : Bool
  deriving DecidableEq, Repr

/-- A GRAPH.RUN whose entry was taken (13 R387; 03 R95). `seatLost`: a guaranteed command that ran on a core when it was fenced; `fbSeats` the
seats on which its fallback runs in place of its own (02 R67). -/
structure Cmd where
  q      : Nat
  tenant : Nat
  cdom   : Nat
  cid    : Nat
  irq    : Bool
  be     : Bool
  defer  : Bool
  late   : Bool
  handle : Nat
  inl    : List Byte
  inlDst : Nat
  status : Nat
  runArgs : Option (Nat × Nat)
  seatLost : Bool
  fbSeats : Option (List Nat)
  st     : CmdState
  order  : Nat
  winEnd : Nat
  guarNow : Bool
  subst  : Bool
  substPending : Bool
  void   : Bool
  cause  : Nat
  step   : Nat
  inSeg  : Bool
  segDone : Bool
  started : Bool
  startAt : Nat
  seats  : Tab SeatRun
  skips  : List Nat
  miles  : Nat
  flagged : Nat
  stop   : Nat
  park   : Option (Nat × Nat × ParkRec)
  parkOwed : Bool
  deriving DecidableEq, Repr

/-! ### Host interface (12) -/

/-- A submission entry as fetched (T12-14). -/
structure Entry where
  code   : Nat
  cid    : Nat
  be     : Bool
  defer  : Bool
  late   : Bool
  irq    : Bool
  rsv    : Bool
  inlLen : Nat
  inl    : List Byte
  body   : List Nat
  deriving DecidableEq, Repr

/-- A queue pair (R359..R372): `n` entries fetched, `w` completions written, `h` the last valid head; `entries` fetched and not yet examined;
`sigDue` while a message waits for the hold time; `deferred` while its head waits for the shell's next window (R51); `closing` the mailbox
whose QUEUE.DELETE waits. -/
structure QPair where
  local'  : Bool
  tenant  : Nat
  lost    : Bool
  torn    : Bool
  cause   : Nat
  depth   : Nat
  slot256 : Bool
  vec     : Nat
  hold    : Nat
  sqBase  : Nat
  cqBase  : Nat
  token   : Word
  nonce   : List Byte
  key     : List Byte
  n       : Nat
  tail    : Nat
  w       : Nat
  h       : Nat
  rereads : Nat
  rereadAt : Option Nat
  entries : List Entry
  ctlBusy : Bool
  awaiting : Nat
  owed    : List Compl
  sigDue  : Bool
  deferred : Bool
  closing : Option Nat
  deriving DecidableEq, Repr

/-- An accepted mailbox request (R353); `begun` while its command waits for something before it can answer. -/
structure MReq where
  code   : Nat
  params : List Byte
  seq    : Nat
  key    : List Byte
  tenant : Nat
  begun  : Bool
  deriving DecidableEq, Repr

/-- A mailbox (T12-8..T12-11, R354..R357). -/
structure Mbx where
  irqEn   : Bool
  vec     : Nat
  busy    : Bool
  done    : Bool
  overrun : Bool
  session : Bool
  tenant  : Nat
  seq     : Nat
  req     : Tab Byte
  resp    : Tab Byte
  cur     : Option MReq
  went    : Option (List Byte)
  nonce   : Option (List Byte × Nat × Nat)
  token   : Word
  key     : List Byte
  badMacs : Nat
  deriving DecidableEq, Repr

/-- An MSI-X table entry (R372) with the time of its last message. -/
structure Vec where
  addr : Nat
  data : Nat
  mask : Bool
  pend : Bool
  sigAt : Option Nat
  deriving DecidableEq, Repr

/-- An aperture slot (T12-21). -/
structure Apt where
  wr      : Bool
  valid   : Bool
  cdom    : Nat
  base    : Nat
  refused : Nat
  deriving DecidableEq, Repr

/-- Endpoint registers (T12-4..T12-7, R348, R349, R372, R373, R377). -/
structure HostIf where
  ridCheck : Bool
  hostRid  : Nat
  lost     : Bool
  cause    : Nat
  strayDb  : Bool
  bar4Ref  : Bool
  barBad   : Bool
  lossCount : Nat
  linkUp   : Bool
  cfgAt    : Option Nat
  msixOn   : Bool
  funcMask : Bool
  vecs     : Tab Vec
  locVecs  : Tab Vec
  apts     : Tab Apt
  heldVecs : List Nat
  deriving DecidableEq, Repr

/-! ### Links (14) -/

/-- States of a Falnar link (R399, R404, R417). -/
inductive LinkSt where
  | untrained | up | retraining | down | fenced | out
  deriving DecidableEq, Repr

/-- An equalisation proposal (R406). -/
structure EqProp where
  stroke : Nat
  agreed : Bool
  deriving DecidableEq, Repr

/-- A link (R399..R417). `out` stays so until a cold reset; `startId` is the partner's ID at start-up; `reserved` what VC2 holds for the partner's
shells in GB/s (R413); `gap` a flit is awaited again; `rxLeft` units that the message being received still has, on `rxVc`; `fwds` requests of
other devices sent on here (source, tag, virtual channel); `sent`, `naks` since `rateAt`; `eqSoon` asks for an early equalisation; `quiet` an
injected silence (until, injection). -/
structure Link where
  st      : LinkSt
  width   : Nat
  partner : Nat
  regatta : Nat
  startId : Option Nat
  gap     : Bool
  rxLeft  : Nat
  rxVc    : Nat
  fwds    : List (Nat × Nat × Nat)
  sent    : Nat
  naks    : Nat
  rateAt  : Nat
  eqSoon  : Bool
  quiet   : Option (Nat × Nat)
  fseq    : Nat
  replay  : List (Nat × List Byte)
  replays : Nat
  aseq    : Nat
  nak     : Bool
  lastGood : Nat
  credits : List Nat
  crRet   : List Nat
  retrainAt : Option Nat
  badLanes : List Nat
  eq'     : Option EqProp
  reserved : Nat
  deriving DecidableEq, Repr

/-- Who waits for a remote response: an access of a thread, a copy, a thread's store, a station's write, a queue's MEMORY.COPY. -/
inductive RWait where
  | thread (core slot pc item : Nat)
  | copy (core copyId sector : Nat)
  | store (core slot pc lane : Nat)
  | station (cmd core : Nat)
  | queue (q : Nat)
  deriving DecidableEq, Repr

/-- An outstanding remote request (R401, R418). -/
structure RReq where
  link : Nat
  dev  : Nat
  off  : Nat
  inj  : Option Nat
  op   : Nat
  at'  : Nat
  wait : RWait
  deriving DecidableEq, Repr

/-- A STROKE.CONFIGURE of the regatta master that waits for its members (R423). -/
structure CfgWait where
  target : Nat
  cfg    : StrokeCfg
  src    : Src
  at'    : Nat
  yes    : List Nat
  deriving DecidableEq, Repr

/-- Regatta state (R420..R425). `hops` of the beacon that this stroke aligned to, none before one came; `up` the link it came on; `stepTo` the count to add
and the time in 10 ns to take off at a step; `slew` what the next stroke start moves by; `cfg` the master's configuration, received and not yet applied;
`asked` while it is requested, `askers` the links whose requests it answers; `digest` the last beacon's. -/
structure Regatta where
  joined   : Bool
  hops     : Option Nat
  up       : Nat
  miss     : Nat
  stepTo   : Option (Nat × Int)
  slew     : Int
  cfg      : Option StrokeCfg
  asked    : Bool
  askers   : List Nat
  digest   : Nat
  aligned  : Bool
  syncIn   : Bool
  syncMiss : Nat
  wait     : Option CfgWait
  rseq     : Nat
  seen     : List (Nat × Nat)
  deriving DecidableEq, Repr

/-! ### Faults (15) -/

/-- A fault record (T15-10). -/
structure FRec where
  seq    : Nat
  det    : Nat
  sev    : Nat
  rdom   : Nat
  action : Nat
  inj    : Option Nat
  cdom   : Nat
  tenant : Option Nat
  ukind  : Nat
  stroke : Nat
  unit   : Nat
  tIn    : Nat
  detail : List Nat
  deriving DecidableEq, Repr

/-- An armed injection (R431, R432). -/
structure Inj where
  num    : Nat
  det    : Nat
  target : Nat
  stroke : Nat
  pat    : Nat
  deriving DecidableEq, Repr

/-- A fence (R448): domain (2 core, 3 die, 8 channel) and unit, since when, drained, whether a reset follows, the injection behind it, whether
the unit stays fenced after its reset (R427). -/
structure Fence where
  dom   : Nat
  unit  : Nat
  at'   : Nat
  drained : Bool
  reset : Bool
  inj   : Option Nat
  stay  : Bool
  deriving DecidableEq, Repr

/-- A scan or test, the first of the list in progress (R444..R446): 0 core, 1 die, 2 channel, 3 link, 4 way of a half, 5 way of a slice (T15-3's
target); the command that waits for it. -/
structure ScanJob where
  kind : Nat
  unit : Nat
  src  : Option Src
  deriving DecidableEq, Repr

/-- A sampled check that is open (R437). -/
structure Sampled where
  core    : Nat
  cdom    : Nat
  seat    : Nat
  cmd     : Nat
  tenant  : Nat
  checker : Nat
  stroke  : Nat
  handle  : Nat
  node    : Nat
  rep     : Nat
  deriving DecidableEq, Repr

/-- Fault log and what the detectors hold (15); `watch`: an injection acted and the deadline monitor has not evaluated since (02 R64); `marks` names the injection that flawed a stored word, by the word's tag key; `withheld` the one that
keeps an agent's snoop response back, by agent and line; `domInj` the one that failed a domain; `badWins` windows of Sampled shells with a mismatch;
`badWays` ways withdrawn by a way test, `badLinks` links that failed a test; the times of counted resets (R451); shells that wait for their reset;
a warm reset that was triggered and its injection. -/
structure Flt where
  log     : List FRec
  next    : Nat
  dropped : Nat
  injs    : List Inj
  nextInj : Nat
  marks   : Tab Nat
  watch   : Bool
  fences  : List Fence
  scans   : List ScanJob
  sampled : List Sampled
  merges  : Tab Nat
  coreRst : Tab (List Nat)
  dieRst  : Tab (List Nat)
  withheld : Tab Nat
  domInj  : Tab Nat
  badWins : List (Nat × Nat)
  badWays : List Nat
  badLinks : List Nat
  warmRst : List Nat
  shellRst : List (Nat × Option Nat)
  warm    : Option (Option Nat)
  deriving DecidableEq, Repr

/-! ### Power (16) -/

/-- Power manager (16). Points are 0..3 and 4 for OPE; fractions are in 1/65536. Caps as set (0: none); power and its arithmetic part over 10 µs; sums and
averages over 1 ms; the weir's ceiling and how many ticks in a row the next point would fit; sensor readings in 0.1 °C by R431's numbers and injected
offsets (sensor, offset, until when, injection); thermal levels, `limitOff` once the limit's leave condition holds (it ends at the next catch), time of the last
thermal step; rail groups with VR_ALERT_N low, when the last rose, OPE forced, `alertEnds` until the stroke boundary; groups in a dip, time of the last
recovery, hold, dips; core voltage in 10 mV; the point that the clock is about to switch to; shells whose hint raised the filler floor; PMBus readings. -/
structure Pwr where
  boardCap : Nat
  hostCap  : Nat
  floored  : Bool
  power    : Nat
  arith    : Nat
  ticks    : Nat
  powerSum : Nat
  powerMs  : Nat
  bubble   : Nat
  bubbleSum : Nat
  bubbleMs : Nat
  ceilW    : Nat
  below    : Nat
  atFloor  : Bool
  floorAt  : Nat
  sensors  : Tab Int
  offsets  : List (Nat × Int × Nat × Nat)
  throttle : Bool
  throttleAt : Nat
  ceilT    : Nat
  limit    : Bool
  limitOff : Bool
  alerts   : List Nat
  alertAt  : Nat
  alertOn  : Bool
  alertEnds : Bool
  dips     : List Nat
  dipAt    : Nat
  holdOn   : Bool
  dipCount : Nat
  volt     : Nat
  target   : Option (Nat × Nat)
  raised   : List Nat
  pmbus    : List Nat
  deriving DecidableEq, Repr

/-! ### Start-up, configuration, security (17) and pins (18) -/

/-- The board section (T17-5): the stroke fields as they stand, all 0 for the defaults; `sliceDis` bit n disables home slice n; `routes` entries that
are not 0. -/
structure Board where
  stroke   : StrokeCfg
  devId    : Nat
  pos      : Nat
  master   : Bool
  regatta  : Nat
  members  : Nat
  dense    : Bool
  rate32   : Bool
  powerCap : Nat
  sliceDis : Nat
  baud     : Nat
  selfTest : Bool
  stolOff  : Bool
  routes   : Tab Nat
  deriving DecidableEq, Repr

/-- The device section (T17-6); `secret` is the owner secret that `owner_seal` seals. -/
structure DevSec where
  claimed  : Bool
  oos      : Bool
  floor    : Nat
  claimNo  : Nat
  diesRet  : Nat
  coresRet : List Nat
  sealBlob : List Byte
  secret   : List Byte
  pages    : List Nat
  banks    : List Nat
  deriving DecidableEq, Repr

/-- One copy of a section: valid with a generation (R490, R491). -/
structure Copy2 (α : Type) where
  valid : Bool
  gen   : Nat
  body  : α
  deriving DecidableEq, Repr

/-- Fuses (T17-3). -/
structure Fuses where
  part     : Nat
  stepping : Nat
  serial   : Nat
  coreDis  : List Nat
  svnMin   : Nat
  claims   : Nat
  prod     : Bool
  jtagOff  : Bool
  rootHash : List Byte
  trim     : Tab Word
  deriving DecidableEq, Repr

/-- Flash (17 R490..R494). -/
structure Flash where
  board0 : Copy2 Board
  board1 : Copy2 Board
  dev0   : Copy2 DevSec
  dev1   : Copy2 DevSec
  faults : List FRec
  image  : Tab Byte
  pages  : Tab Nat
  ident  : Bool
  deriving DecidableEq, Repr

/-- Start-up stages (T17-1). -/
inductive Stage where
  | held | powered | fuses | config | image | cox | memory | filled | tested | released | loader | halted
  deriving DecidableEq, Repr

/-- The TAP's boundary instruction that holds the device (18 R526). -/
inductive Tap where
  | none' | extest | clamp | highz
  deriving DecidableEq, Repr

/-- Identity, start-up and configuration in force (12 T12-4, T12-5; 17; 18 R526..R534). `halt` 1 FUSE, 2 KEEL (R487); `cause` of T17-8; the recovery
staging area and its chunks' lengths (R497); the running image's version, svn, digest, pattern length and digest, whether the patterns verified since the
start, whether the flash image verified at its last check; the board section in force with its generation, and the destinations whose route entries
the Cox marked invalid at start-up (14 R410); home slices that failed the keel self-test,
cores that failed step 8; measurement 5; `coldOos`: a cold reset since the device went out of service (15 R452); the pins DEV_RESET_N, PERST_N,
THERM_TRIP_N and GSn_RESET_N asserted; calibrations in progress and when each resource was last calibrated; Cox halted by JTAG, keel memory that JTAG
wrote. -/
structure Dev where
  state    : Nat
  op       : Nat
  unaligned : Bool
  stage    : Stage
  halt     : Nat
  cause    : Nat
  staging  : Tab Byte
  staged   : Tab Nat
  devLost  : Bool
  debugOpen : Bool
  fwVer    : Nat
  fwSvn    : Nat
  fwDigest : List Byte
  patLen   : Nat
  patWant  : List Byte
  patOk    : Bool
  fwOk     : Bool
  board    : Board
  bootGen  : Nat
  routesOff : List Nat
  devsec   : DevSec
  sliceBad : List Nat
  coreBad  : List Nat
  testRan  : Bool
  startStat : List Byte
  coldOos  : Bool
  tap      : Tap
  devRst   : Bool
  perst    : Bool
  therm    : Bool
  gsRst    : Bool
  cals     : List CalRes
  calLast  : Tab Nat
  coxHalt  : Bool
  keel     : Tab Byte
  deriving DecidableEq, Repr

/-- SPDM negotiation of a transport (R500). -/
structure Spdm where
  ver  : Bool
  caps : Bool
  algs : Bool
  deriving DecidableEq, Repr

/-- Stolmon (R507, R508) and the SPDM responders. -/
structure Man where
  level   : Nat
  chal    : Option (List Byte × Nat × Nat)
  fails   : List Nat
  lockAt  : Option Nat
  lastIn  : Nat
  baud    : Nat
  spdm0   : Spdm
  spdm1   : Spdm
  deriving DecidableEq, Repr

/-! ### Strokes (02) -/

/-- Phases of T2-1. -/
inductive Phase where
  | idle | catch' | drive | finish | recovery
  deriving DecidableEq, Repr

/-- A calibration fixed in the calendar (R60, R61). -/
structure CalSlot where
  stroke : Nat
  res    : CalRes
  deriving DecidableEq, Repr

/-- The stroke timer and the calendar (02). -/
structure Stroke where
  count   : Nat
  running : Bool
  start   : Nat
  phase   : Phase
  cfg     : StrokeCfg
  pend    : Option (Nat × StrokeCfg)
  cal     : List CalSlot
  exts    : Tab Nat
  order   : Nat
  rrShell : Nat
  deriving DecidableEq, Repr

/-- What the device sends (entry 5). -/
inductive Out where
  | msix (loc : Bool) (vec addr data : Nat)
  | hostWrite (pasid addr : Nat) (bytes : List Byte) (relaxed : Bool)
  | hostRead (pasid addr len : Nat)
  | cqe (q slot : Nat) (bytes : List Byte)
  | unsupported (bar : Nat)
  | readData (bytes : List Byte)
  | poisonedCpl
  | coh (agent line kind mask : Nat)
  | dread (who : DirectAgent) (tag : Nat) (bytes : List Byte) (bad : Bool)
  | dwrite (who : DirectAgent) (ok : Bool)
  | busErr (r : Requester)
  | flit (link : Nat) (idle : Bool) (fseq : Nat) (ack nak : Bool) (aseq : Nat)
  | remote (link kind : Nat) (m : RemoteMsg)
  | beacon (link : Nat) (b : BeaconMsg)
  | retract (link : Nat) (r : RetractUnit)
  | cox (link : Nat) (m : CoxMsg)
  | linkRetrain (link width : Nat)
  | event (id : Nat) (bytes : List Nat)
  | pldm (ok : Bool) (words : List Nat)
  | spdm (smbus : Bool) (code : Nat) (bytes : List Byte)
  | line (cmd : String) (ok : Bool) (words : List Nat)
  | pin (name : String) (level : Bool)
  deriving DecidableEq, Repr

/-- The whole machine. -/
structure State where
  pending : List Instr
  now     : Nat
  fresh   : Nat
  stamp   : Nat
  nextCmd : Nat
  out     : List Out
  dev     : Dev
  fuse    : Fuses
  flash   : Flash
  stroke  : Stroke
  host    : HostIf
  mbx     : Tab Mbx
  qps     : Tab QPair
  tenants : Tab Tenant
  shells  : Tab Shell
  retiring : List Nat
  released : List Released
  graphs  : Tab RegGraph
  cmds    : Tab Cmd
  cores   : Tab Core
  coh     : Coh
  mem     : Mem
  links   : Tab Link
  rreqs   : Tab RReq
  freedTags : List (Nat × Nat)
  reg     : Regatta
  flt     : Flt
  pwr     : Pwr
  man     : Man
  deriving DecidableEq, Repr

/-- No row of this part ends in a fault: where the spec has an error it gives the effect. Raised by nothing; kept closed. -/
inductive Fault where
  /-- Raised by nothing. Safe: no run ends in it. -/
  | none
  deriving DecidableEq, Repr

/-- Reasons to give a command no meaning. -/
inductive Refusal where
  /-- Raised by an arm of `exec` that has no meaning yet. Safe: the run ends. -/
  | notModelled (mnemonic : String)
  deriving DecidableEq, Repr

/-! ### Defaults -/

/-- A core at reset (R297 zero fill; entry 5). -/
def Core.zero : Core :=
  { holder := none, last := 31, groups := [], saved := [], ctr := [], copies := [], nextCopy := 0, ctxs := [], fenced := false, retired := false,
    latent := false, scanning := false, lastScan := 0, probe := none, returnAt := none, held := [], plan := [],
    planNext := none, planPos := 0, incoming := none, saving := false, before := none }

/-- A channel at reset: not trained (entry 8). -/
def Chan.zero : Chan :=
  { usable := false, rmw := 0, drift := false, retries := [], trainedT := 250, temp := 250, twice := false, calib := false,
    fenced := false, leaving := false, clearing := false }

/-- A seat's part of a command that starts (R95, R132). -/
def SeatRun.zero : SeatRun :=
  { reps := [], part := [], ponds := [], prodIx := [], consIx := [], acc := [], logic := [], survey := [], patches := [], flags := [],
    sampleAt := 0, outReps := 0, stopped := false, held := false }

/-- A mailbox at reset (T12-9, T12-10; entry 14). -/
def Mbx.zero : Mbx :=
  { irqEn := false, vec := 0, busy := false, done := false, overrun := false, session := false, tenant := 0xFFFF, seq := 0, req := [],
    resp := [], cur := none, went := none, nonce := none, token := 0, key := [], badMacs := 0 }

/-- An MSI-X entry in the PCIe reset state (entry 13). -/
def Vec.zero : Vec := { addr := 0, data := 0, mask := true, pend := false, sigAt := none }

/-- An aperture slot at reset (T12-21). -/
def Apt.zero : Apt := { wr := false, valid := false, cdom := 0, base := 0, refused := 0 }

/-- A link at reset (entry 17). -/
def Link.zero : Link :=
  { st := .untrained, width := 0, partner := 0, regatta := 0, startId := none, gap := false, rxLeft := 0, rxVc := 0, fwds := [], sent := 0, naks := 0
    rateAt := 0, eqSoon := false, quiet := none, fseq := 0, replay := [], replays := 0, aseq := 4095, nak := false,
    lastGood := 0, credits := [0, 0, 0, 0, 0, 0, 0, 0], crRet := [0, 0, 0, 0, 0, 0, 0, 0], retrainAt := none, badLanes := [], eq' := none, reserved := 0 }

/-- A directory entry in INV (T9-5). -/
def DirEntry.zero : DirEntry :=
  { cdom := 0, dstate := .inv, lock := false, otag := 0, fwd := none, presence := 0, used := 0 }

/-- The default stroke configuration of T2-1a in 10 ns steps. -/
def StrokeCfg.default : StrokeCfg := ⟨1000000, 10000, 5000, 25000⟩

/-- The default board section (T17-5; entry 9). -/
def Board.default : Board :=
  { stroke := ⟨0, 0, 0, 0⟩, devId := 0, pos := 0, master := false, regatta := 0, members := 0, dense := true, rate32 := true, powerCap := 0
    sliceDis := 0, baud := 0, selfTest := false, stolOff := false, routes := [] }

/-- An unclaimed device section (T17-6; entry 9). -/
def DevSec.default : DevSec :=
  { claimed := false, oos := false, floor := 0, claimNo := 0, diesRet := 0, coresRet := [], sealBlob := [], secret := [], pages := [], banks := [] }

/-- The device at the start of a cold reset, before POWER_GOOD (17 T17-1). -/
def State.reset : State :=
  { pending := [], now := 0, fresh := 0, stamp := 0, nextCmd := 0, out := [],
    dev :=
      { state := 0, op := 0, unaligned := false, stage := .held, halt := 0, cause := 0, staging := [], staged := [], devLost := false,
        debugOpen := false, fwVer := 0, fwSvn := 0, fwDigest := [], patLen := 0, patWant := [], patOk := false, fwOk := false, board := Board.default, bootGen := 0, routesOff := [],
        devsec := DevSec.default, sliceBad := [], coreBad := [], testRan := false, startStat := [], coldOos := true,
        tap := .none', devRst := true, perst := true, therm := false, gsRst := true, cals := [], calLast := [],
        coxHalt := false, keel := [] },
    fuse :=
      { part := 0x4D38, stepping := 0, serial := 0, coreDis := [], svnMin := 0, claims := 0, prod := true, jtagOff := false,
        rootHash := List.replicate 32 0, trim := [] },
    flash :=
      { board0 := ⟨true, 1, Board.default⟩, board1 := ⟨false, 0, Board.default⟩, dev0 := ⟨true, 1, DevSec.default⟩,
        dev1 := ⟨false, 0, DevSec.default⟩, faults := [], image := [], pages := [], ident := true },
    stroke :=
      { count := 0, running := false, start := 0, phase := .idle, cfg := StrokeCfg.default, pend := none, cal := [], exts := [],
        order := 0, rrShell := 0 },
    host :=
      { ridCheck := false, hostRid := 0, lost := false, cause := 0, strayDb := false, bar4Ref := false,
        barBad := false, lossCount := 0, linkUp := false, cfgAt := none, msixOn := false, funcMask := false, vecs := [], locVecs := [],
        apts := [], heldVecs := [] },
    mbx := [], qps := [], tenants := [], shells := [], retiring := [], released := [], graphs := [], cmds := [], cores := [],
    coh :=
      { lines := [], miss := [], wbuf := [], dir := [], open' := [], queue := [], home := [], atoms := [], net := [], pins := [], ways := [], bar4 := [],
        failing := [] },
    mem :=
      { dram := [], spad := [], tags := [], rmw := [], chans := [], held := [] },
    links := [], rreqs := [], freedTags := [],
    reg :=
      { joined := false, hops := none, up := 0, miss := 0, stepTo := none, slew := 0, cfg := none, asked := false, askers := [], digest := 0
        aligned := false, syncIn := false, syncMiss := 0, wait := none, rseq := 0, seen := [] },
    flt :=
      { log := [], next := 0, dropped := 0, injs := [], nextInj := 1, marks := [], watch := false, fences := [], scans := [], sampled := [], merges := [],
        coreRst := [], dieRst := [], withheld := [], domInj := [], badWins := [], badWays := [], badLinks := [], warmRst := [], shellRst := [], warm := none },
    pwr :=
      { boardCap := 0, hostCap := 0, floored := false, power := 0, arith := 0, ticks := 0, powerSum := 0, powerMs := 0, bubble := 0, bubbleSum := 0,
        bubbleMs := 0, ceilW := 0, below := 0, atFloor := false, floorAt := 0, sensors := [], offsets := [], throttle := false, throttleAt := 0,
        ceilT := 0, limit := false, limitOff := false, alerts := [], alertAt := 0, alertOn := false, alertEnds := false, dips := [], dipAt := 0,
        holdOn := false, dipCount := 0, volt := 72, target := none, raised := [], pmbus := [] },
    man :=
      { level := 0, chal := none, fails := [], lockAt := none, lastIn := 0, baud := 0, spdm0 := ⟨false, false, false⟩,
        spdm1 := ⟨false, false, false⟩ } }

end Sys2Proof.Machine
end

