-- ==== Sys2Proof/Machine/Operands.lean ====
section
/-! DEFINITION. Operand forms of thread instructions (07 R183..R188): registers, pairs, quads, predicates, lanes. -/
namespace Sys2Proof.Machine

/-- Lanes of a mask, ascending. -/
def lanesOf (m : W32) : List Nat := (List.range 32).filter (fun k => m.getLsbD k)

/-- The mask of a list of lanes. -/
def laneMask (l : List Nat) : W32 := BitVec.ofNat 32 (maskOf l)

/-- Reads a register as a lane sees it. -/
def rdR (g : Group) (lane : Nat) : Sel → W32
  | .g n => tabGet 0 (n * 32 + lane) g.g
  | .u n => tabGet 0 n g.u
  | .zero => 0
  | .p _ => 0

/-- The register `k` places above. -/
def selNext (s : Sel) (k : Nat) : Sel :=
  match s with
  | .g n => .g (n + k)
  | .u n => .u (n + k)
  | s => s

/-- Reads `k` words, lowest first, as a number (R183). -/
def rdWide (g : Group) (lane : Nat) (s : Sel) (k : Nat) : Nat :=
  (List.range k).foldr (fun i acc => (rdR g lane (selNext s i)).toNat + 2 ^ 32 * acc) 0

/-- Reads a predicate; p7 is 1. -/
def rdP (g : Group) (lane : Nat) : Sel → Bool
  | .p n => n == 7 || (tabGet 0 n g.p).getLsbD lane
  | _ => false

/-- Writes a register; ZERO discards. -/
def wrR (lane : Nat) (s : Sel) (v : W32) (g : Group) : Group :=
  match s with
  | .g n => { g with g := tabSet 0 (n * 32 + lane) v g.g }
  | .u n => { g with u := tabSet 0 n v g.u }
  | _ => g

/-- Writes `k` words of a number, lowest first. -/
def wrWide (lane : Nat) (s : Sel) (v : Nat) : Nat → Group → Group
  | 0, g => g
  | k + 1, g => wrWide lane (selNext s 1) (v / 2 ^ 32) k (wrR lane s (BitVec.ofNat 32 v) g)

/-- Writes a predicate of a lane; p7 discards. -/
def wrP (lane : Nat) (s : Sel) (b : Bool) (g : Group) : Group :=
  match s with
  | .p n =>
    if n = 7 then g
    else
      let m := tabGet 0 n g.p
      { g with p := tabSet 0 n (if b then m ||| (1#32 <<< lane) else m &&& ~~~(1#32 <<< lane)) g.p }
  | _ => g

/-- Whether every register operand is uniform or ZERO (R185); a predicate operand is held per thread. -/
def uniform (ops : List Sel) : Bool := ops.all Sel.isUni

/-- The lanes in which an instruction takes effect: once for a uniform instruction, else each voting lane (R185). -/
def effLanes (ops : List Sel) (lanes : List Nat) : List Nat := if uniform ops then lanes.take 1 else lanes

/-- Takes effect in each lane; all sources are read from the state before (R188). -/
def perLane (f : Group → Nat → Group → Group) (lanes : List Nat) (g : Group) : Group := lanes.foldl (fun acc l => f g l acc) g

/-- Operands of an instruction that a pending load or atomic may still owe: selector and number of words. -/
def opSels : Instr → List (Sel × Nat)
  | .iadd _ d a b | .isub _ d a b | .imul _ d a b | .imulhs _ d a b | .imulhu _ d a b | .imin _ d a b | .imax _ d a b
  | .umin _ d a b | .umax _ d a b | .andR _ d a b | .orR _ d a b | .xorR _ d a b | .shl _ d a b | .shr _ d a b | .sar _ d a b
  | .pcomb _ d a b _ => [(d, 1), (a, 1), (b, 1)]
  | .imacc _ d a b c | .selP _ d a b c | .icmp _ d a b c _ _ | .fcmp _ d a b c _ _ _ | .vf _ d a b c _ _ _ => [(d, 1), (a, 1), (b, 1), (c, 1)]
  | .bcnt _ d a | .clz _ d a | .mov _ d a | .iaddi _ d a _ | .andi _ d a _ | .ori _ d a _ | .xori _ d a _ | .shli _ d a _
  | .shri _ d a _ | .sari _ d a _ | .icmpi _ d a _ _ | .lvote _ d a _ => [(d, 1), (a, 1)]
  | .iadd64 _ d a b => [(d, 2), (a, 2), (b, 1)]
  | .xlane _ d a b _ _ => [(d, 1), (a, 1), (b, 1)]
  | .movi _ d _ | .ctrRd _ d _ | .rdspec _ d _ => [(d, 1)]
  | .ld _ d m | .st _ d m => [(d, widthWords m.width), (m.base, if m.glob then 2 else 1), (m.idx, 1)]
  | .atom _ a w _ => [(a.d, if w then 2 else 1), (a.base, 2), (a.s1, if w then 2 else 1), (a.s2, if w then 2 else 1)]
  | .addxI _ a p q => [(a.d, 4), (a.base, 2), (a.s1, 4), (.p p, 1), (.p q, 1)]
  | .addxF _ a p q => [(a.d, 4), (a.base, 2), (a.s1, 1), (a.s2, 1), (.p p, 1), (.p q, 1)]
  | .cpAsync _ a b c _ _ => [(a, 2), (b, 2), (c, 1)]
  | .ctrSet _ a _ _ | .ctrWait _ a _ _ => [(a, 1)]
  | .stPatch _ a _ f => [(a, if f ≤ 1 then 1 else 2)]
  | .bri _ s _ => [(s, 1)]
  | .rngP _ d a b => [(d, 4), (a, 4), (b, 2)]
  | _ => []

/-- The guard of an instruction as an operand. -/
def issOf : Instr → Iss
  | .nop i | .iadd i _ _ _ | .isub i _ _ _ | .imul i _ _ _ | .imulhs i _ _ _ | .imulhu i _ _ _ | .imacc i _ _ _ _ | .imin i _ _ _
  | .imax i _ _ _ | .umin i _ _ _ | .umax i _ _ _ | .andR i _ _ _ | .orR i _ _ _ | .xorR i _ _ _ | .shl i _ _ _ | .shr i _ _ _
  | .sar i _ _ _ | .bcnt i _ _ | .clz i _ _ | .mov i _ _ | .iadd64 i _ _ _ | .movi i _ _ | .iaddi i _ _ _ | .andi i _ _ _ | .ori i _ _ _
  | .xori i _ _ _ | .shli i _ _ _ | .shri i _ _ _ | .sari i _ _ _ | .icmp i _ _ _ _ _ _ | .icmpi i _ _ _ _ | .pcomb i _ _ _ _
  | .selP i _ _ _ _ | .lvote i _ _ _ | .xlane i _ _ _ _ _ | .vf i _ _ _ _ _ _ _ | .fcmp i _ _ _ _ _ _ _ | .ld i _ _ | .st i _ _
  | .atom i _ _ _ | .addxI i _ _ _ | .addxF i _ _ _ | .barG i | .barB i _ _ | .memfence i _ _ | .cpAsync i _ _ _ _ _ | .ctrSet i _ _ _
  | .ctrWait i _ _ _ | .ctrRd i _ _ | .stPatch i _ _ _ | .stSkip i _ | .bra i _ _ | .bri i _ _ | .call i _ | .ret i | .exitT i
  | .spin i | .rngP i _ _ _ | .rdspec i _ _ | .bkpt i _ => i
  | _ => ⟨0, 0, false, 7⟩

/-- Whether two operands share a register. -/
def overlap (a b : Sel × Nat) : Bool :=
  match a.1, b.1 with
  | .g m, .g n => decide (m < n + b.2) && decide (n < m + a.2)
  | .u m, .u n => decide (m < n + b.2) && decide (n < m + a.2)
  | .p m, .p n => m == n && m != 7
  | _, _ => false

/-- Registers that an outstanding access will write. -/
def FarReq.dsts (f : FarReq) : List (Sel × Nat) :=
  (if f.ret then [(f.dst, f.words)] else []) ++ (if f.kind = 2 then [(.p f.pst, 1), (.p f.psa, 1)] else [])

/-- Whether the operands are available: no outstanding access writes one of them (R152). -/
def operandsReady (c : Instr) (g : Group) : Bool :=
  let ops := opSels c ++ [(.p (issOf c).guard, 1)]
  g.far.all (fun f => f.dsts.all (fun d => ops.all (fun o => !overlap d o)))

end Sys2Proof.Machine
end

