-- ==== Sys2Proof/Machine/Clock.lean ====
section
/-! DEFINITION. Device time in steps of 10 ns (02, the stroke timer; entry 3) and what advances with it: the stall counts of waiting groups
(06 R165). -/
namespace Sys2Proof.Machine

/-- The next instruction of a group waits for operands (06 R152). -/
def operandsWait (g : Group) (pc : Nat) : Bool :=
  match g.code[pc]? with
  | none => false
  | some w => match decodeCode 0 0 w with | some c => !operandsReady c g | none => false

/-- A group has no instruction that could issue: it waits on a barrier, a counter, a copy slot, SPIN's 16 cycles or operands (06 R152, R162). -/
def waiting (g : Group) : Bool :=
  g.idle || g.ctrWait.isSome || g.copyWait || (match g.paths with | [] => false | p :: _ => p.wait != .run || operandsWait g p.pc)

/-- A core's stall counts after `d` steps of 10 ns at a clock of `mhz`: every resident group that is neither parked nor stopped and could not have
issued counts them, on a seat that holds its core and is not stopped (06 R165; entry 31). -/
def stallOn (mhz d : Nat) (k : Core) : Core :=
  if k.holder.isNone || k.fenced || k.scanning then k
  else { k with groups := k.groups.map (fun (e : Nat × Group) =>
    (e.1, if e.2.park.isNone && !e.2.stopped && waiting e.2 then { e.2 with stall := e.2.stall + d * mhz } else e.2)) }

/-- Lets `d` steps of 10 ns pass. -/
def passTime (d : Nat) (s : State) : State :=
  { s with now := s.now + d, cores := s.cores.map (fun (e : Nat × Core) => (e.1, stallOn (Config.clockMHz s.dev.op) d e.2)) }

/-- What passes when no command waits: one step of the stroke timer. -/
def idleStep (s : State) : State := passTime 1 s

/-- A timed event happens no earlier than its moment. -/
def untilTime (t : Nat) (s : State) : State := passTime (t - s.now) s

end Sys2Proof.Machine
end

