-- ==== Sys2Proof/Machine/Crypto.lean ====
section
/-! DEFINITION. The published functions that the rules name: CRC-32C and CRC-64 (14 R400; 17 R491), SHA-256 and HMAC (12 R354), AES-256 key
wrap of RFC 3394 (13 R386; 17 R503), X25519 (R503), RSASSA-PKCS1-v1_5 (R496, R502). -/
namespace Sys2Proof.Machine

/-! ### CRC -/

/-- One bit of a reflected CRC-32C. -/
def crc32Step : Nat → Nat → Nat
  | 0, c => c
  | n + 1, c => crc32Step n (if c % 2 = 1 then (c / 2) ^^^ 0x82F63B78 else c / 2)

/-- CRC-32C. -/
def crc32c (bs : List Byte) : Nat := (bs.foldl (fun c b => crc32Step 8 (c ^^^ b.toNat)) 0xFFFFFFFF) ^^^ 0xFFFFFFFF

/-- One bit of a CRC-64, most significant first. -/
def crc64Step : Nat → Nat → Nat
  | 0, c => c
  | n + 1, c => crc64Step n (if 2 ^ 63 ≤ c then ((2 * c) % 2 ^ 64) ^^^ 0x42F0E1EBA9EA3693 else 2 * c)

/-- CRC-64 with the polynomial of R400: initial value 0, most significant bit first, no final inversion (entry 33). -/
def crc64 (bs : List Byte) : Nat := bs.foldl (fun c b => crc64Step 8 (c ^^^ (b.toNat * 2 ^ 56))) 0

/-! ### SHA-256 -/

def shaK : List Nat :=
  [0x428A2F98, 0x71374491, 0xB5C0FBCF, 0xE9B5DBA5, 0x3956C25B, 0x59F111F1, 0x923F82A4, 0xAB1C5ED5]
  ++ [0xD807AA98, 0x12835B01, 0x243185BE, 0x550C7DC3, 0x72BE5D74, 0x80DEB1FE, 0x9BDC06A7, 0xC19BF174]
  ++ [0xE49B69C1, 0xEFBE4786, 0x0FC19DC6, 0x240CA1CC, 0x2DE92C6F, 0x4A7484AA, 0x5CB0A9DC, 0x76F988DA]
  ++ [0x983E5152, 0xA831C66D, 0xB00327C8, 0xBF597FC7, 0xC6E00BF3, 0xD5A79147, 0x06CA6351, 0x14292967]
  ++ [0x27B70A85, 0x2E1B2138, 0x4D2C6DFC, 0x53380D13, 0x650A7354, 0x766A0ABB, 0x81C2C92E, 0x92722C85]
  ++ [0xA2BFE8A1, 0xA81A664B, 0xC24B8B70, 0xC76C51A3, 0xD192E819, 0xD6990624, 0xF40E3585, 0x106AA070]
  ++ [0x19A4C116, 0x1E376C08, 0x2748774C, 0x34B0BCB5, 0x391C0CB3, 0x4ED8AA4A, 0x5B9CCA4F, 0x682E6FF3]
  ++ [0x748F82EE, 0x78A5636F, 0x84C87814, 0x8CC70208, 0x90BEFFFA, 0xA4506CEB, 0xBEF9A3F7, 0xC67178F2]

def shaInit : List Nat := [0x6A09E667, 0xBB67AE85, 0x3C6EF372, 0xA54FF53A, 0x510E527F, 0x9B05688C, 0x1F83D9AB, 0x5BE0CD19]

def rotr (n x : Nat) : Nat := x / 2 ^ n + x % 2 ^ n * 2 ^ (32 - n)
def add32 (a b : Nat) : Nat := (a + b) % 2 ^ 32

/-- The next message word from the last sixteen, newest first. -/
def shaNext (w : List Nat) : Nat :=
  let a := w.getD 1 0
  let b := w.getD 14 0
  let s1 := rotr 17 a ^^^ rotr 19 a ^^^ (a / 2 ^ 10)
  let s0 := rotr 7 b ^^^ rotr 18 b ^^^ (b / 2 ^ 3)
  (s1 + w.getD 6 0 + s0 + w.getD 15 0) % 2 ^ 32

/-- Extends the schedule, newest first. -/
def shaSched : Nat → List Nat → List Nat
  | 0, w => w
  | n + 1, w => shaSched n (shaNext w :: w)

/-- One round on the eight working words. -/
def shaRound (v : List Nat) (kw : Nat) : List Nat :=
  match v with
  | [a, b, c, d, e, f, g, h] =>
    let s1 := rotr 6 e ^^^ rotr 11 e ^^^ rotr 25 e
    let ch := (e &&& f) ^^^ ((0xFFFFFFFF ^^^ e) &&& g)
    let t1 := h + s1 + ch + kw
    let s0 := rotr 2 a ^^^ rotr 13 a ^^^ rotr 22 a
    let mj := (a &&& b) ^^^ (a &&& c) ^^^ (b &&& c)
    [(t1 + s0 + mj) % 2 ^ 32, a, b, c, (d + t1) % 2 ^ 32, e, f, g]
  | _ => v

/-- Big-endian number of bytes. -/
def beNat (bs : List Byte) : Nat := bs.foldl (fun n b => 256 * n + b.toNat) 0

/-- The low `n` bytes of a number, highest first. -/
def beBytes (v n : Nat) : List Byte := (leBytes v n).reverse

/-- One 64-byte block. -/
def shaBlock (h : List Nat) (blk : List Byte) : List Nat :=
  let w := ((List.range 16).map (fun i => beNat ((blk.drop (4 * i)).take 4))).reverse
  let ws := (shaSched 48 w).reverse
  let v := (ws.zip shaK).foldl (fun v x => shaRound v (x.1 + x.2)) h
  (h.zip v).map (fun x => add32 x.1 x.2)

/-- Blocks of a padded message. -/
def shaGo : Nat → List Byte → List Nat → List Nat
  | 0, _, h => h
  | n + 1, bs, h => shaGo n (bs.drop 64) (shaBlock h (bs.take 64))

/-- SHA-256. -/
def sha256 (m : List Byte) : List Byte :=
  let pad := (55 + 64 - m.length % 64) % 64
  let p := m ++ [0x80] ++ List.replicate pad 0 ++ beBytes (8 * m.length) 8
  (shaGo (p.length / 64) p shaInit).flatMap (fun w => beBytes w 4)

/-- HMAC-SHA-256. -/
def hmac (key m : List Byte) : List Byte :=
  let k := padTo 64 (if 64 < key.length then sha256 key else key)
  sha256 (k.map (fun b => b ^^^ 0x5C) ++ sha256 (k.map (fun b => b ^^^ 0x36) ++ m))

/-! ### AES-256 -/

/-- Product in GF(2^8). -/
def gmulGo : Nat → Nat → Nat → Nat → Nat
  | 0, _, _, acc => acc
  | n + 1, a, b, acc =>
    gmulGo n (if 128 ≤ a then ((2 * a) % 256) ^^^ 0x1B else 2 * a) (b / 2) (if b % 2 = 1 then acc ^^^ a else acc)

def gmul (a b : Nat) : Nat := gmulGo 8 a b 0

/-- x^254, the inverse. -/
def ginv (x : Nat) : Nat :=
  let sq := fun a => gmul a a
  let x2 := sq x
  let x3 := gmul x2 x
  let x12 := sq (sq x3)
  let x15 := gmul x12 x3
  let x240 := sq (sq (sq (sq x15)))
  gmul x240 (gmul x12 x2)

def rotl8 (n x : Nat) : Nat := (x * 2 ^ n) % 256 + x / 2 ^ (8 - n)

def sbox (x : Nat) : Nat := let i := ginv x; i ^^^ rotl8 1 i ^^^ rotl8 2 i ^^^ rotl8 3 i ^^^ rotl8 4 i ^^^ 0x63

/-- The inverse affine map, then the inverse. -/
def sboxInv (y : Nat) : Nat := ginv (rotl8 1 y ^^^ rotl8 3 y ^^^ rotl8 6 y ^^^ 0x05)

/-- Expanded key words as 4-byte lists, newest first. -/
def aesKeyGo : Nat → Nat → Nat → List (List Nat) → List (List Nat)
  | 0, _, _, w => w
  | n + 1, i, rc, w =>
    let t := w.headD []
    let t := if i % 8 = 0 then
        (match t with | [a, b, c, d] => [sbox b ^^^ rc, sbox c, sbox d, sbox a] | x => x)
      else if i % 8 = 4 then t.map sbox else t
    let o := w.getD 7 []
    aesKeyGo n (i + 1) (if i % 8 = 0 then gmul rc 2 else rc) ((t.zip o).map (fun x => x.1 ^^^ x.2) :: w)

/-- Fifteen round keys of 16 bytes. -/
def aesKeys (key : List Byte) : List (List Nat) :=
  let k := key.map (fun b => b.toNat)
  let w0 := ((List.range 8).map (fun i => (k.drop (4 * i)).take 4)).reverse
  let ws := (aesKeyGo 52 8 1 w0).reverse
  (List.range 15).map (fun r => ((ws.drop (4 * r)).take 4).flatten)

def xorL (a b : List Nat) : List Nat := (a.zip b).map (fun x => x.1 ^^^ x.2)

/-- Inverse row shift of a column-major state. -/
def invShift (s : List Nat) : List Nat := (List.range 16).map (fun i => s.getD ((i + 16 - 4 * (i % 4)) % 16) 0)

def invMixCol (c : List Nat) : List Nat :=
  match c with
  | [a, b, d, e] =>
    [gmul a 14 ^^^ gmul b 11 ^^^ gmul d 13 ^^^ gmul e 9, gmul a 9 ^^^ gmul b 14 ^^^ gmul d 11 ^^^ gmul e 13,
     gmul a 13 ^^^ gmul b 9 ^^^ gmul d 14 ^^^ gmul e 11, gmul a 11 ^^^ gmul b 13 ^^^ gmul d 9 ^^^ gmul e 14]
  | x => x

def invMix (s : List Nat) : List Nat := (List.range 4).flatMap (fun i => invMixCol ((s.drop (4 * i)).take 4))

/-- Decrypts one 16-byte block with AES-256. -/
def aesDec (key blk : List Byte) : List Byte :=
  let ks := (aesKeys key).reverse
  let s := xorL (blk.map (fun b => b.toNat)) (ks.headD [])
  let r := ks.tail.zipIdx.foldl (fun s k =>
    let t := xorL ((invShift s).map sboxInv) k.1
    if k.2 = 13 then t else invMix t) s
  r.map (fun b => BitVec.ofNat 8 b)

/-- Steps of the key unwrap, from `t` down. -/
def unwrapGo (key : List Byte) (n : Nat) : Nat → List Byte → List (List Byte) → List Byte × List (List Byte)
  | 0, a, rs => (a, rs)
  | t + 1, a, rs =>
    let i := t % n
    let x := beBytes (beNat a ^^^ (t + 1)) 8
    let b := aesDec key (x ++ rs.getD i [])
    unwrapGo key n t (b.take 8) (rs.set i (b.drop 8))

/-- AES key unwrap of RFC 3394: none where the integrity check fails. -/
def keyUnwrap (kek w : List Byte) : Option (List Byte) :=
  let n := w.length / 8 - 1
  let rs := (List.range n).map (fun i => (w.drop (8 + 8 * i)).take 8)
  let r := unwrapGo kek n (6 * n) (w.take 8) rs
  if r.1 = List.replicate 8 0xA6 then some r.2.flatten else none

/-! ### Modular arithmetic: X25519 and RSA -/

/-- b^e mod m with `fuel` bits of exponent. -/
def powMod (m : Nat) : Nat → Nat → Nat → Nat → Nat
  | 0, _, _, acc => acc
  | fuel + 1, b, e, acc => powMod m fuel (b * b % m) (e / 2) (if e % 2 = 1 then acc * b % m else acc)

def p25519 : Nat := 2 ^ 255 - 19

/-- Steps of the Montgomery ladder from bit `t` down. -/
def ladder (k x1 : Nat) : Nat → Bool → Nat → Nat → Nat → Nat → Nat
  | 0, sw, x2, z2, x3, z3 =>
    let xz := if sw then (x3, z3) else (x2, z2)
    xz.1 * powMod p25519 255 xz.2 (p25519 - 2) 1 % p25519
  | t + 1, sw, x2, z2, x3, z3 =>
    let p := p25519
    let kt := bit k t
    let w := sw != kt
    let a2 := if w then x3 else x2
    let b2 := if w then z3 else z2
    let a3 := if w then x2 else x3
    let b3 := if w then z2 else z3
    let a := (a2 + b2) % p
    let aa := a * a % p
    let b := (a2 + p - b2) % p
    let bb := b * b % p
    let e := (aa + p - bb) % p
    let c := (a3 + b3) % p
    let d := (a3 + p - b3) % p
    let da := d * a % p
    let cb := c * b % p
    let s := (da + cb) % p
    let f := (da + p - cb) % p
    ladder k x1 t kt (aa * bb % p) (e * (aa + 121665 * e) % p) (s * s % p) (x1 * (f * f % p) % p)

/-- X25519 of a scalar and a point, little-endian bytes. -/
def x25519 (k u : List Byte) : List Byte :=
  let kn := leNat (k.take 32)
  let kc := (kn % 2 ^ 254) / 8 * 8 + 2 ^ 254
  let un := leNat (u.take 32) % 2 ^ 255 % p25519
  leBytes (ladder kc un 255 false 1 0 un 1) 32

/-- The encoded message of RSASSA-PKCS1-v1_5 with SHA-256 for 384 bytes. -/
def pkcs1 (h : List Byte) : List Byte :=
  let der : List Byte := [0x30, 0x31, 0x30, 0x0D, 0x06, 0x09, 0x60, 0x86, 0x48, 0x01, 0x65, 0x03, 0x04, 0x02, 0x01, 0x05, 0x00, 0x04, 0x20]
  [0x00, 0x01] ++ List.replicate (384 - 3 - 51) 0xFF ++ [0x00] ++ der ++ h

/-- Verifies a signature over a digest under a big-endian modulus. -/
def rsaVerify (modulus sig h : List Byte) : Bool :=
  let n := beNat modulus
  let s := beNat sig
  decide (s < n) && beBytes (powMod n 17 s 65537 1) 384 == pkcs1 h

/-- Signs a digest. -/
def rsaSign (n d : Nat) (h : List Byte) : List Byte := beBytes (powMod n 3072 (beNat (pkcs1 h)) d 1) 384

end Sys2Proof.Machine
end

