-- ==== Sys2Proof/Machine/Ecc.lean ====
section
/-! DEFINITION. The code of 10 R289 and its decoder (R290). The code is linear, so what a read returns depends on the stored word and its
error pattern alone (entry 15). Positions: 0..63 data, 64 poison, 65..79 c0..c14. -/
namespace Sys2Proof.Machine

/-- Multiplies by x modulo the generator (x + 1)(x^7 + x^3 + 1)(x^7 + x^3 + x^2 + x + 1). -/
def eccShift (v : Nat) : Nat := let w := 2 * v; if bit w 15 then (w % 32768) ^^^ 0x4599 else w

/-- x^k modulo the generator. -/
def eccPow : Nat → Nat
  | 0 => 1
  | k + 1 => eccShift (eccPow k)

/-- Remainders of x^0 on, by repeated multiplication. -/
def eccPows : Nat → Nat → List Nat
  | 0, _ => []
  | n + 1, v => v :: eccPows n (eccShift v)

/-- Syndrome of one erroneous position: d_i stands at x^(15+i), p at x^79, c_j at x^j. -/
def eccSyns : List Nat :=
  let t := eccPows 80 1
  t.drop 15 ++ t.take 15

/-- Syndrome of an error pattern. -/
def syndrome (e : Nat) : Nat := (eccSyns.zipIdx).foldl (fun a x => if bit e x.2 then a ^^^ x.1 else a) 0

/-- The position of a syndrome among the single errors. -/
def eccFind (syn : Nat) (l : List (Nat × Nat)) : Option Nat := (l.find? (fun x => x.1 == syn)).map (fun x => x.2)

/-- The two positions whose syndromes sum to one. -/
def eccPair (syn : Nat) : List (Nat × Nat) → Option (Nat × Nat)
  | [] => none
  | (v, i) :: t =>
    match eccFind (syn ^^^ v) t with
    | some j => some (i, j)
    | none => eccPair syn t

/-- What the decoder makes of a stored word (T10-3): the data and p returned, 0..2 corrected bits or 3 for uncorrectable, the positions. -/
structure Dec where
  data : Nat
  p    : Bool
  n    : Nat
  syn  : Nat
  bitA : Nat
  bitB : Nat
  deriving DecidableEq, Repr

/-- Applies an error pattern to data and poison bit. -/
def flip80 (data : Nat) (p : Bool) (e : Nat) : Nat × Bool := (data ^^^ (e % 2 ^ 64), p != bit e 64)

/-- Decodes a stored word with an error pattern (R290). -/
def decodeEcc (data : Nat) (t : WTag) : Dec :=
  let syn := syndrome t.e
  let z := eccSyns.zipIdx
  if syn = 0 then
    let r := flip80 data t.p t.e
    ⟨r.1, r.2, 0, 0, 0x7F, 0x7F⟩
  else
    match eccFind syn z with
    | some i => let r := flip80 data t.p (t.e ^^^ 2 ^ i); ⟨r.1, r.2, 1, syn, i, 0x7F⟩
    | none =>
      match eccPair syn z with
      | some (i, j) => let r := flip80 data t.p (t.e ^^^ 2 ^ i ^^^ 2 ^ j); ⟨r.1, r.2, 2, syn, i, j⟩
      | none => ⟨data, t.p, 3, syn, 0x7F, 0x7F⟩

/-- Whether the requester gets its data. -/
def Dec.good (d : Dec) : Bool := d.n != 3 && !d.p

/-- The class of the record a read makes (T10-5): CE1 0, CE2 1, UE 2, POISON 3. -/
def Dec.cls (d : Dec) : Option Nat :=
  if d.n = 3 then some 2 else if d.p then some 3 else if d.n = 1 then some 0 else if d.n = 2 then some 1 else none

/-- The 16 check and poison bits of a stored word as it stands: c0..c14 in bits 0..14, p in bit 15 (R289). -/
def checkBits (data : Nat) (t : WTag) : Nat :=
  let u := syndrome (data + b2n t.p * 2 ^ 64)
  (u ^^^ (t.e / 2 ^ 65)) % 32768 + 32768 * b2n (t.p != bit t.e 64)

end Sys2Proof.Machine
end

