-- ==== Sys2Proof/Machine/Ops.lean ====
section
/-! DEFINITION. Named operations over the state that every family shares: what the device sends, fault records, cores and their places,
address translation, byte access to memories. -/
namespace Sys2Proof.Machine

abbrev Res := Host.Outcome State Fault Refusal

/-! ### What the device sends -/

/-- Sends one thing. -/
def emit (o : Out) (s : State) : State := { s with out := s.out ++ [o] }

/-- Sends several things in order. -/
def emits (os : List Out) (s : State) : State := { s with out := s.out ++ os }

/-- Takes the next index of the free values (entry 4). -/
def bump (s : State) : State := { s with fresh := s.fresh + 1 }

/-- Takes the next order-of-use stamp (entry 7). -/
def tick (s : State) : State := { s with stamp := s.stamp + 1 }

/-- Entry of an MSI-X table. -/
def vecOf (loc : Bool) (v : Nat) (s : State) : Vec := tabGet Vec.zero v (if loc then s.host.locVecs else s.host.vecs)

/-- Sets an entry of an MSI-X table. -/
def setVec (loc : Bool) (v : Nat) (e : Vec) (s : State) : State :=
  if loc then { s with host := { s.host with locVecs := tabSet Vec.zero v e s.host.locVecs } }
  else { s with host := { s.host with vecs := tabSet Vec.zero v e s.host.vecs } }

/-- A message due on a vector (R372): sent, pending while masked, lost while MSI-X is off, held during a host loss (R377). The local window's
messages are writes to the host cores' interrupt file (R379). -/
def signal (loc : Bool) (v : Nat) (s : State) : State :=
  let e := { vecOf loc v s with sigAt := some s.now }
  let s := setVec loc v e s
  if loc then
    if e.mask then setVec true v { e with pend := true } s else emit (.msix true v e.addr e.data) s
  else if s.host.lost then { s with host := { s.host with heldVecs := if s.host.heldVecs.contains v then s.host.heldVecs else s.host.heldVecs ++ [v] } }
  else if !s.host.msixOn then s
  else if s.host.funcMask || e.mask then setVec false v { e with pend := true } s
  else emit (.msix false v e.addr e.data) s

/-! ### Fault records (15 R457, R458, R535) -/

/-- Time from the stroke's start in 10 ns steps. -/
def strokeTime (s : State) : Nat := (s.now - s.stroke.start) % 2 ^ 24

/-- A fault record before it has a number. -/
structure NewRec where
  det    : Nat
  sev    : Nat
  action : Nat
  rdom   : Nat
  cdom   : Nat
  tenant : Option Nat
  ukind  : Nat
  unit   : Nat
  inj    : Option Nat
  detail : List Nat
  deriving DecidableEq, Repr

/-- A record of a detector or event with no domain, tenant or unit. -/
def newRec (det sev action rdom : Nat) : NewRec := ⟨det, sev, action, rdom, 0x1FF, none, 0, 0, none, []⟩

/-- A record that names a domain. -/
def NewRec.at (r : NewRec) (cdom ukind unit : Nat) : NewRec := { r with cdom := cdom, ukind := ukind, unit := unit }

/-- Drops the oldest record of severity below 3 beside LOG_OVERFLOW, if there is one. -/
def dropOldest : List FRec → Option (List FRec)
  | [] => none
  | r :: t => if r.sev < 3 && r.det != 0x67 then some t else (dropOldest t).map (fun t' => r :: t')

/-- Records that are copied to flash (R458). -/
def FRec.persists (r : FRec) : Bool := r.sev == 4 || r.det == 0x64 || r.det == 0x65

/-- The number of records beside LOG_OVERFLOW. -/
def logCount (l : List FRec) : Nat := (l.filter (fun r => r.det != 0x67)).length

/-- Puts a record into the log: 4,096 places, one of them kept for LOG_OVERFLOW (R458). -/
def logPut (r : FRec) (s : State) : State :=
  if logCount s.flt.log < 4095 then { s with flt := { s.flt with log := s.flt.log ++ [r], next := s.flt.next + 1 } }
  else
    match dropOldest s.flt.log with
    | some l => { s with flt := { s.flt with log := l ++ [r], next := s.flt.next + 1 } }
    | none =>
      let n := s.flt.dropped + 1
      if s.flt.log.any (fun x => x.det == 0x67) then
        { s with flt := { s.flt with dropped := n, log := s.flt.log.map (fun x => if x.det = 0x67 then { x with detail := [n] } else x) } }
      else
        let o : FRec := { r with det := 0x67, sev := 2, action := 0, rdom := 0, inj := none, cdom := 0x1FF, tenant := none, ukind := 0, unit := 0, detail := [n] }
        { s with flt := { s.flt with dropped := n, next := s.flt.next + 1, log := s.flt.log ++ [o] } }

/-- Every place is taken and no record of severity below 3 gives way: a new record is dropped (R458). -/
def logFull (s : State) : Bool := decide (4095 ≤ logCount s.flt.log) && (dropOldest s.flt.log).isNone

/-- Writes a fault record (R457): number, stroke, time; the copy in flash; vector 0 for severity 3 and 4 (R396, R459). A
dropped record is neither copied nor signalled (entry 87). -/
def logRec (r : NewRec) (s : State) : State :=
  let f : FRec :=
    { seq := s.flt.next % 2 ^ 32, det := r.det, sev := r.sev, rdom := r.rdom, action := r.action, inj := r.inj, cdom := r.cdom,
      tenant := r.tenant, ukind := r.ukind, stroke := s.stroke.count, unit := r.unit, tIn := strokeTime s, detail := r.detail }
  let full := logFull s
  let s := logPut f s
  if full then s else
  let s := if f.persists then { s with flash := { s.flash with faults := (s.flash.faults ++ [f]).drop (s.flash.faults.length + 1 - 256) } } else s
  if 3 ≤ r.sev then signal false 0 s else s

/-! ### Cores and halves (01 R16, R17; 09 R247) -/

/-- Physical cores of a die that are enabled, ascending (R17). -/
def enabledOf (f : Fuses) (d : Nat) : List Nat :=
  let w := f.coreDis.getD (2 * d) 0
  let e := f.coreDis.getD (2 * d + 1) 0
  (List.range 48).filter (fun x => x != 8 * (w / 4) + w % 4 && x != 8 * (e / 4) + 4 + e % 4)

/-- Die of an enabled core. -/
def dieOf (core : Nat) : Nat := core / 46

/-- Half (and caching agent) of an enabled core: 2d west, 2d + 1 east. -/
def halfOf (s : State) (core : Nat) : Nat :=
  let d := dieOf core
  let x := (enabledOf s.fuse d).getD (core % 46) 0
  2 * d + (if x % 8 < 4 then 0 else 1)

/-- A core. -/
def coreOf (c : Nat) (s : State) : Core := tabGet Core.zero c s.cores

/-- Sets a core. -/
def setCore (c : Nat) (v : Core) (s : State) : State := { s with cores := tabSet Core.zero c v s.cores }

/-- A core that has left service (15 R445; 17 T17-6). -/
def coreGone (c : Nat) (s : State) : Bool :=
  (coreOf c s).retired || s.dev.devsec.coresRet.contains c || bit s.dev.devsec.diesRet (dieOf c) || s.dev.coreBad.contains c

/-- Clock of the arithmetic domain in MHz (T16-2). -/
def opMHz (s : State) : Nat := Config.clockMHz s.dev.op

/-! ### Commands and shells -/

/-- A command's record. -/
def cmdOf (n : Nat) (s : State) : Option Cmd := tabFind n s.cmds

/-- Sets a command's record. -/
def setCmd (n : Nat) (c : Cmd) (s : State) : State := { s with cmds := tabPut n c s.cmds }

/-- A registered graph: key cdom × 65,536 + handle. -/
def graphOf (cdom handle : Nat) (s : State) : Option RegGraph := tabFind (cdom * 65536 + handle) s.graphs

/-- The graph a command runs: its fallback once substituted (R66), on other seats than its own where a core was lost (R67). -/
def cmdGraph (c : Cmd) (s : State) : Option RegGraph :=
  match graphOf c.cdom c.handle s with
  | none => none
  | some g => if c.subst then (match g.fallback with | some f => (graphOf c.cdom f s).map (fun (x : RegGraph) => { x with seatMap := c.fbSeats.getD x.seatMap }) | none => some g) else some g

/-- A shell. -/
def shellOf (cdom : Nat) (s : State) : Option Shell := tabFind cdom s.shells

/-- Sets a shell. -/
def setShell (cdom : Nat) (sh : Shell) (s : State) : State := { s with shells := tabPut cdom sh s.shells }

/-- The map epoch of a shell (11 R330). -/
def epochOf (cdom : Nat) (s : State) : Nat := match shellOf cdom s with | some sh => sh.epoch | none => 0

/-- The core of a shell's seat. -/
def seatCore (sh : Shell) (seat : Nat) : Option Nat := (sh.comp.seats[seat]?).map (fun x => x.core)

/-- The core on which a graph seat of a command runs. -/
def cmdCore (c : Cmd) (gseat : Nat) (s : State) : Option Nat :=
  match cmdGraph c s, shellOf c.cdom s with
  | some g, some sh => match g.seatMap[gseat]? with | some x => seatCore sh x | none => none
  | _, _ => none

/-- The shell owns a channel: it stands in one of its sets. -/
def ownsChan (ch : Nat) (sh : Shell) : Bool := sh.comp.sets.any (fun x => x.2.chans.contains ch)

/-- The shell that holds a channel. -/
def chanOwner (ch : Nat) (s : State) : Option Nat := (s.shells.find? (fun e => ownsChan ch e.2)).map (fun e => e.1)

/-! ### Physical addresses (10 R286, R287) and translation (11 R321) -/

/-- The interleave of a channel set (R287): channel and line q of channel-set line `l`. -/
def interleave (chans : List Nat) (l : Nat) : Nat × Nat :=
  let c := chans.length
  let q := l / c
  let fold := (q ^^^ (q / 2 ^ 5) ^^^ (q / 2 ^ 10) ^^^ (q / 2 ^ 15) ^^^ (q / 2 ^ 20)) % 32
  (chans.getD ((l % c + fold) % c) 0, q)

/-- DPA of a channel's line (T10-2): channels 0..63 Tier F, 64..87 Tier S. -/
def dpaOf (ch q : Nat) : Nat := if ch < 64 then ch * 2 ^ 32 + q * 512 else (ch - 64 + 16) * 2 ^ 34 + q * 512

/-- Channel of a DPA. -/
def dpaChan (dpa : Nat) : Nat := if dpa < Config.tierSBase then dpa / 2 ^ 32 else 64 + (dpa / 2 ^ 34 - 16)

/-- Line q of a DPA within its channel. -/
def dpaLine (dpa : Nat) : Nat := if dpa < Config.tierSBase then dpa % 2 ^ 32 / 512 else dpa % 2 ^ 34 / 512

/-- Usable lines of a channel (T10-1). -/
def chanLines (s : State) (ch : Nat) : Nat := if ch < 64 then Config.linesF else Config.linesS s.dev.board.dense

/-- A channel's record. -/
def chanOf (ch : Nat) (s : State) : Chan := tabGet Chan.zero ch s.mem.chans

/-- Sets a channel's record. -/
def setChan (ch : Nat) (c : Chan) (s : State) : State := { s with mem := { s.mem with chans := tabSet Chan.zero ch c s.mem.chans } }

/-- The range that holds a frame number (R321). -/
def rangeAt (sh : Shell) (frame : Nat) : Option (Nat × Range) :=
  sh.ranges.find? (fun e => decide (0 < e.2.frames) && decide (e.2.base ≤ frame) && decide (frame < e.2.base + e.2.frames))

/-- A shell's set of an index. -/
def setOf (sh : Shell) (i : Nat) : Option ChSet := (sh.comp.sets.find? (fun e => e.1 == i)).map (fun e => e.2)

/-- The channels of a set that carry ranges: a coded set's last channel holds parity (11 R345). -/
def ChSet.data (st : ChSet) : List Nat := if st.coded = 0 then st.chans else st.chans.take st.coded

/-- The channels a range serves from: the mirror set while the primary is lost (R305). -/
def rangeDpa (sh : Shell) (r : Range) (set : Nat) (a : Nat) : Option Nat :=
  match setOf sh set with
  | none => none
  | some st =>
    if st.chans.isEmpty then none
    else
      let l := (r.frame0 + (a / 2 ^ 21 - r.base)) * 4096 + a / 512 % 4096
      let cq := interleave st.data l
      some (dpaOf cq.1 cq.2 + a % 512)

/-- The set a range serves from (R305). -/
def serveSet (r : Range) : Nat := if r.mirror && r.mirrorLost && r.side then r.mset else r.set

/-- Translates a Memory-region address (R321). -/
def translate (_ : State) (sh : Shell) (a : Nat) : Option (Nat × Range) :=
  match rangeAt sh (a / 2 ^ 21) with
  | none => none
  | some (_, r) => (rangeDpa sh r (serveSet r) a).map (fun d => (d, r))

/-- Where a DPA lies in the channel set that holds it: shell, set, channel-set line (R287 undone). -/
structure SetLine where
  cdom : Nat
  sh   : Shell
  ix   : Nat
  st   : ChSet
  l    : Nat

/-- The set line of a DPA; none on a parity channel or a channel of no shell. -/
def setLineOf (dpa : Nat) (s : State) : Option SetLine :=
  let ch := dpaChan dpa
  match s.shells.find? (fun e => ownsChan ch e.2) with
  | none => none
  | some (d, sh) =>
    match sh.comp.sets.find? (fun x => x.2.chans.contains ch) with
    | none => none
    | some (i, st) =>
      let c := st.data.length
      let q := dpaLine dpa
      let k := st.data.idxOf ch
      let fold := (q ^^^ (q / 2 ^ 5) ^^^ (q / 2 ^ 10) ^^^ (q / 2 ^ 15) ^^^ (q / 2 ^ 20)) % 32
      if st.data.contains ch then some ⟨d, sh, i, st, q * c + (k + c - fold % c) % c⟩ else none

/-- The range that maps a set line. -/
def SetLine.range (x : SetLine) : Option (Nat × Range) :=
  x.sh.ranges.find? (fun e => e.2.set == x.ix && decide (e.2.frame0 ≤ x.l / 4096) && decide (x.l / 4096 < e.2.frame0 + e.2.frames))

/-- The mirror word of a primary DPA (R302). -/
def mirrorOf (dpa : Nat) (s : State) : Option Nat :=
  match setLineOf dpa s with
  | none => none
  | some x =>
    match x.range with
    | some (_, r) =>
      if r.mirror && !r.mirrorLost then
        (match setOf x.sh r.mset with
        | some m => let cq := interleave m.chans x.l; some (dpaOf cq.1 cq.2 + dpa % 512)
        | none => none)
      else none
    | none => none

/-- The word of the same place on another channel. -/
def onChannel (ch dpa : Nat) : Nat := dpaOf ch (dpaLine dpa) + dpa % 512

/-- Where a write to a word is forwarded (R303): the other set of its mirrored range, while that is whole or once its copy of the line is built
(R304); the new channel of a substitution, once its lines are copied (11 R336). -/
def forwardsOf (dpa : Nat) (s : State) : List Nat :=
  match setLineOf dpa s with
  | none => []
  | some x =>
    let pair := fun (m : Nat) => match setOf x.sh m with | some st => let cq := interleave st.data x.l; [dpaOf cq.1 cq.2 + dpa % 512] | none => []
    let inRun := fun (r : Range) => decide (r.frame0 ≤ x.l / 4096) && decide (x.l / 4096 < r.frame0 + r.frames)
    let built := fun (i : Nat) => x.sh.mirrors.any (fun b => b.range == i && b.done.contains x.l)
    let mirror := x.sh.ranges.flatMap (fun e =>
      let r := e.2
      if !inRun r then []
      else if r.set = x.ix && !r.side then (if r.mirror && !r.mirrorLost then pair r.mset else if built e.1 then pair r.mset else [])
      else if r.mset = x.ix && r.side && r.mirror && built e.1 then pair r.set
      else [])
    let copy := match x.sh.rebind with
      | some b => (match b.subst with | some (_, o, n) => if b.copied && b.step == 0 && o == dpaChan dpa then [onChannel n dpa] else [] | none => [])
      | none => []
    mirror ++ copy

/-- The words that a failed word of a sealed coded line is rebuilt from: the other data channels' and the parity channel's (11 R346). -/
def codedPeers (dpa : Nat) (s : State) : List Nat :=
  match setLineOf dpa s with
  | none => []
  | some x =>
    if x.st.coded = 0 then []
    else match x.range with
      | some (i, r) => if r.sealed && !x.sh.seals.any (fun y => y.range == i) then (x.st.chans.filter (fun c => c != dpaChan dpa)).map (fun c => dpaOf c (dpaLine dpa) + dpa % 512) else []
      | none => []

/-- Whether a shell's seat runs a command of that shell now (R217). -/
def seatRuns (cdom seat : Nat) (s : State) : Bool :=
  s.cmds.any (fun e => e.2.cdom == cdom && (e.2.st == .running || e.2.st == .parked) &&
    (match cmdGraph e.2 s with | some g => g.seatMap.contains seat | none => false))

/-- Checker seats of a Sampled shell: the last ceil(n / (N + 1)) (R433). -/
def checkers (sh : Shell) : Nat := ceilDiv sh.comp.seats.length (sh.comp.sampleN + 1)

/-- Whether a shell seat is a partner or a checker, which no graph seat uses (R433). -/
def spareSeat (sh : Shell) (seat : Nat) : Bool :=
  (sh.comp.redund == 2 && seat % 2 == 1) || (sh.comp.redund == 1 && decide (sh.comp.seats.length ≤ seat + checkers sh))

/-- A scratchpad window of a shell's seat (R217). -/
def windowLoc (sh : Shell) (cdom seat off : Nat) (s : State) : Loc :=
  match seatCore sh seat with
  | none => .unmapped
  | some core =>
    if 0x1C0000 ≤ off then .bad
    else if (coreOf core s).holder != some (cdom, seat) || (coreOf core s).fenced then .bad
    else if !seatRuns cdom seat s then .bad
    else .spad core off

/-- The route entry of a destination device (R409). -/
def routeOf (dev : Nat) (s : State) : Nat :=
  let w := tabGet 0 dev s.dev.board.routes
  if bit w 31 && s.dev.routesOff.contains dev then w - 2 ^ 31 else w

/-- Where an address of a shell is performed (T8-1, R216, R217, R407). `seatMap` is the running command's map of graph seats. -/
def locate (cdom : Nat) (seatMap : List Nat) (a : Nat) (s : State) : Loc :=
  match shellOf cdom s with
  | none => .unmapped
  | some sh =>
    if a < 0x100000000000 then
      match translate s sh a with
      | some (d, r) => .mem d (r.wr && !r.sealed) r.stream
      | none => .unmapped
    else if a < 0x100008000000 then
      match seatMap[(a - 0x100000000000) / 2 ^ 21]? with
      | some seat => windowLoc sh cdom seat (a % 2 ^ 21) s
      | none => .unmapped
    else if a < 0x110000000000 then .unmapped
    else if a < 0x110040000000 then
      (let seat := (a - 0x110000000000) / 2 ^ 21
      if spareSeat sh seat then .unmapped else windowLoc sh cdom seat (a % 2 ^ 21) s)
    else if a < 0x400000000000 then .unmapped
    else if a < 0x800000000000 then .host (a - 0x400000000000)
    else if a < 0x1000000000000 then
      let d := a / 2 ^ 35 % 4096
      if d = s.dev.board.devId || !bit (routeOf d s) 31 || 0x740000000 ≤ a % 2 ^ 35 then .unmapped else .peer d (a % 2 ^ 35)
    else .unmapped

/-! ### Words of memories (10 R289..R291) -/

/-- Key of a word's tag: array `src` of T10-4, unit, word index. -/
def tagKey (src unit word : Nat) : Nat := src * 2 ^ 60 + unit * 2 ^ 44 + word

/-- Tag of a word. -/
def tagOf (k : Nat) (s : State) : WTag := tabGet ⟨false, 0⟩ k s.mem.tags

/-- Sets a word's tag. -/
def setTag (k : Nat) (t : WTag) (s : State) : State := { s with mem := { s.mem with tags := tabSet ⟨false, 0⟩ k t s.mem.tags } }

/-- Tag key of a memory word by DPA. -/
def dramKey (dpa : Nat) : Nat := tagKey (if dpa < Config.tierSBase then 1 else 2) 0 (dpa / 8)

/-- Tag key of a scratchpad word. -/
def spadKey (core off : Nat) : Nat := tagKey 5 core (off / 8)

/-! ### Injections (R431) -/

/-- Takes an armed injection of a detector at a target whose stroke has come. -/
def takeInj (det target : Nat) (s : State) : Option Inj × State :=
  match (s.flt.injs.find? (fun i => i.det == det && i.target == target && decide (i.stroke ≤ s.stroke.count))) with
  | none => (none, s)
  | some i => (some i, { s with flt := { s.flt with watch := true, injs := s.flt.injs.filter (fun j => j.num != i.num) } })

/-- The error pattern of an ECC injection (T15-3): bit positions in [6:0], [13:7], [20:14]; 0x7F leaves a field unused. -/
def eccPattern (pat : Nat) : Nat := maskOf ([bits pat 6 0, bits pat 13 7, bits pat 20 14].filter (fun i => decide (i < 80)))

/-- An armed ECC injection acts on the next word written at its target (R431). -/
def injectWord (det target key : Nat) (s : State) : State :=
  if s.flt.injs.isEmpty then s
  else match takeInj det target s with
    | (none, _) => s
    | (some i, s) =>
      let t := tagOf key s
      let s := setTag key { t with e := t.e ^^^ eccPattern i.pat } s
      { s with flt := { s.flt with marks := tabPut key i.num s.flt.marks } }

/-- Index of a scratchpad byte in `mem.spad`. -/
def spadIx (core off : Nat) : Nat := core * 2 ^ 21 + off

/-- Reads scratchpad bytes as stored. -/
def spadBytes (core off n : Nat) (s : State) : List Byte := memRead s.mem.spad (spadIx core off) n

/-- Decodes the scratchpad words that a span touches. -/
def spadDec (core off n : Nat) (s : State) : List (Nat × Dec) :=
  (List.range ((off + n + 7) / 8 - off / 8)).map (fun i =>
    let w := off / 8 + i
    (w, decodeEcc (leNat (memRead s.mem.spad (spadIx core (8 * w)) 8)) (tagOf (spadKey core (8 * w)) s)))

/-- What a read of scratchpad returns: the corrected bytes, whether every word was good, whether one was corrected. -/
def spadRead (core off n : Nat) (s : State) : List Byte × Bool × Bool :=
  let ds := spadDec core off n s
  let bytes := (ds.flatMap (fun d => leBytes d.2.data 8)).drop (off % 8)
  (bytes.take n, ds.all (fun d => d.2.good), ds.any (fun d => d.2.n == 1 || d.2.n == 2))

/-- The cells of bytes from an offset on. -/
def cellsOf (off : Nat) : List Byte → List Cell
  | [] => []
  | b :: bs => (off, b) :: cellsOf (off + 1) bs

/-- Groups cells by word: the cells of word `w`, with offsets 0..7. -/
def cellsOfWord (w : Nat) (cells : List Cell) : List Cell := (cells.filter (fun c => c.1 / 8 == w)).map (fun c => (c.1 % 8, c.2))

/-- Whether any stored word of a span has a tag. -/
def spadTagged (core off n : Nat) (s : State) : Bool :=
  s.mem.tags.any (fun e => decide (spadKey core off ≤ e.1) && decide (e.1 ≤ spadKey core (off + n)))

/-! ### Records of memory errors (10 R298, T10-4) -/

/-- Detector code of a memory event (T15-3): 0x0003 MEM_IF for RETRY and RETRY_FAIL (R292), else 0x0002 DRAM_ECC for both tiers and 0x0001 SRAM_ECC
for the SRAM arrays. -/
def memDet (src cls : Nat) : Nat := if cls = 4 || cls = 5 then 3 else if src ≤ 2 then 2 else 1

/-- Unit kind of a memory record (T15-2, T15-10; entry 87): channel, home slice, die-cache half, core, host core, Cox. -/
def memKind (src : Nat) : Nat :=
  if src ≤ 2 then 8 else if src = 3 then 3 else if src = 4 then 2 else if src ≤ 6 then 1 else if src = 7 then 6 else 9

/-- Bank, row and column of a DPA's word (R288). -/
def dpaPlace (s : State) (dpa : Nat) : Nat × Nat × Nat :=
  let q := dpaLine dpa
  if dpa < Config.tierSBase then
    ((q % 64) ^^^ (q / 2048 % 64), q / 128 % 65536, (q / 64 % 2 * 512 + dpa % 512) / 8)
  else
    let j := q / 16
    let b := dpa % 512
    let byte := 640 * j + 320 * (b / 256) + b % 256
    let _ := s
    ((q % 16) ^^^ (q / 16 % 16), byte / 2048, byte % 2048 / 8)

/-- Severity and action of a memory class (T15-12); `write` for a write that failed. -/
def memSev (cls : Nat) (write : Bool) : Nat × Nat :=
  if cls = 0 || cls = 1 || cls = 6 || cls = 8 then (1, 1)
  else if cls = 4 then (1, 2)
  else if cls = 7 then (3, 0)
  else if cls = 5 && write then (3, 5)
  else (3, 3)

/-- The identity of a memory record for merging: class and word (R298). -/
def memWord0 (s : State) (src cls unit index addr : Nat) : Nat :=
  let pl := if src ≤ 2 then dpaPlace s addr else (0, 0, 0)
  src * 2 ^ 56 + cls * 2 ^ 52 + unit * 2 ^ 46 + pl.1 * 2 ^ 40 + pl.2.1 * 2 ^ 20 + pl.2.2 * 2 ^ 9 + index

/-- Writes or merges a memory record (R298): class, array, unit, index, requester's domain, address, syndrome and corrected bits. -/
def logMem (src cls unit index cdom addr syn bitA bitB : Nat) (write : Bool) (inj : Option Nat) (s : State) : State :=
  let w0 := memWord0 s src cls unit index addr
  let key := w0 * 2 ^ 40 + addr
  let same := fun (r : FRec) => r.detail.head? == some w0 && (r.detail.getD 1 0) % 2 ^ 40 == addr && (r.det == memDet src cls)
  let young := match tabFind key s.flt.merges with | some t => decide (s.now < t + Config.sec 1) | none => false
  if young && s.flt.log.any same then
    let last := ((s.flt.log.filter same).getLast?.map (fun r => r.seq)).getD 0
    { s with flt := { s.flt with log := s.flt.log.map (fun r =>
      if r.seq = last && same r then
        let w3 := r.detail.getD 3 0
        { r with detail := r.detail.set 3 (if w3 / 2 ^ 32 < 2 ^ 32 - 1 then w3 + 2 ^ 32 else w3) }
      else r) } }
  else
    let sv := memSev cls write
    let s := logRec { newRec (memDet src cls) sv.1 sv.2 0 with
      cdom := cdom, ukind := memKind src, unit := if src ≤ 2 then unit else index, inj := inj,
      detail := [w0, cdom * 2 ^ 48 + addr, syn * 2 ^ 48 + s.stroke.count, 2 ^ 32 + bitB * 128 + bitA] } s
    { s with flt := { s.flt with merges := tabPut key s.now s.flt.merges } }

/-- The injection that flawed a stored word. -/
def injMark (src index addr : Nat) (s : State) : Option Nat :=
  let key := if src = 1 || src = 2 then dramKey addr else if src = 5 then spadKey index addr else tagKey src 0 (addr / 8)
  tabFind key s.flt.marks

/-- Records what a decode found. -/
def logDec (src unit index cdom addr : Nat) (d : Dec) (s : State) : State :=
  match d.cls with
  | none => s
  | some c => logMem src c unit index cdom addr d.syn d.bitA d.bitB false (injMark src index addr s) s

/-- Records every flawed scratchpad word of a span that was read. -/
def logSpad (core off n cdom : Nat) (s : State) : State :=
  (spadDec core off n s).foldl (fun s d => logDec 5 (dieOf core) core cdom (8 * d.1) d.2 s) s

/-! ### Writes to scratchpads (10 R290, R291) -/

/-- What a write that replaces or moves a decoded word records: corrections and losses, not that it was poison already (R290, R291). -/
def Dec.moved (d : Dec) : Dec := if d.p && d.n != 3 then { d with p := false } else d

/-- Writes scratchpad bytes; whole words lose their tag, part words keep the decoded p and store a new codeword, and an uncorrectable word
becomes the poison word and what the merge found is recorded for the shell that holds the core (R290, R291). -/
def spadWriteWord (core w : Nat) (cells : List Cell) (s : State) : State :=
  let k := spadKey core (8 * w)
  let d := decodeEcc (leNat (memRead s.mem.spad (spadIx core (8 * w)) 8)) (tagOf k s)
  if (List.range 8).all (fun i => cells.any (fun c => c.1 == i)) then
    setTag k ⟨false, 0⟩ { s with mem := { s.mem with spad := memCells s.mem.spad (spadIx core (8 * w)) cells } }
  else
  let s := logDec 5 (dieOf core) core (match (coreOf core s).holder with | some (c, _) => c | none => 0) (8 * w) d.moved s
  if d.n = 3 then
    setTag k ⟨true, 0⟩ { s with mem := { s.mem with spad := memWrite s.mem.spad (spadIx core (8 * w)) (leBytes 0 8) } }
  else
    setTag k ⟨d.p, 0⟩ { s with mem := { s.mem with spad := memCells (memWrite s.mem.spad (spadIx core (8 * w)) (leBytes d.data 8)) (spadIx core (8 * w)) cells } }

/-- Writes scratchpad bytes. Words without a tag need no decode. -/
def spadWrite (core off : Nat) (bytes : List Byte) (s : State) : State :=
  injectWord 1 (5 * 2 ^ 24 + core) (spadKey core off) <|
  if spadTagged core off bytes.length s then
    let cells := cellsOf off bytes
    (List.range ((off + bytes.length + 7) / 8 - off / 8)).foldl (fun s i => spadWriteWord core (off / 8 + i) (cellsOfWord (off / 8 + i) cells) s) s
  else { s with mem := { s.mem with spad := memWrite s.mem.spad (spadIx core off) bytes } }

end Sys2Proof.Machine
end

