-- ==== Sys2Proof/Machine/Image.lean ====
section
/-! DEFINITION. The Winemar image and the pattern blob (17 R494..R498): chunks, header, verification. -/
namespace Sys2Proof.Machine

/-- Bytes of a chunk that a firmware page carries. -/
def chunkBytes : Nat := 4048

/-- Firmware offset of image byte `k`: chunk c stands in page c. -/
def chunkPos (base k : Nat) : Nat := base + 4096 * (k / chunkBytes) + k % chunkBytes

/-- `n` image bytes from byte `k` on. -/
def chunkRead (m : Tab Byte) (base k : Nat) : Nat → List Byte
  | 0 => []
  | n + 1 => memGet m (chunkPos base k) :: chunkRead m base (k + 1) n

/-- Every chunk of the first `len` bytes is there; `pages` has each page's byte count. -/
def chunksThere (pages : Tab Nat) (base len : Nat) : Bool :=
  (List.range (ceilDiv len chunkBytes)).all (fun c => decide (min chunkBytes (len - chunkBytes * c) ≤ tabGet 0 (base / 4096 + c) pages))

/-- First page of the pattern area. -/
def patternBase : Nat := 0x800000

/-- What the device keeps of an image that it runs or checked. -/
structure ImageInfo where
  ver     : Nat
  svn     : Nat
  digest  : List Byte
  patLen  : Nat
  patWant : List Byte
  deriving DecidableEq, Repr

/-- A section entry: target, offset, length, load address. -/
structure Section where
  target : Nat
  off    : Nat
  len    : Nat
  load   : Nat
  deriving DecidableEq, Repr

/-- 64-bit word `i` of a header. -/
def headWord (h : List Byte) (i : Nat) : Nat := leNat ((h.drop (8 * i)).take 8)

/-- Section entry `i`. -/
def sectionAt (h : List Byte) (i : Nat) : Section :=
  let a := headWord h (8 + 2 * i)
  let b := headWord h (9 + 2 * i)
  ⟨bits a 63 56, bits a 31 0, bits b 63 32, bits b 31 0⟩

/-- The sections are in range and no two overlap in their target (R495). -/
def sectionsOk (h : List Byte) (n len : Nat) : Bool :=
  let l := (List.range n).map (sectionAt h)
  l.all (fun x => decide (1 ≤ x.target) && decide (x.target ≤ 4) && decide (x.off + x.len ≤ len) && (x.target != 1 || decide (x.load + x.len ≤ 768 * 1024))) &&
  (List.range n).all (fun i => bits (headWord h (8 + 2 * i)) 55 32 == 0) &&
  (List.range 16).all (fun i => decide (i < n) || (headWord h (8 + 2 * i) == 0 && headWord h (9 + 2 * i) == 0)) &&
  l.zipIdx.all (fun x => (l.take x.2).all (fun y => x.1.target != y.target || decide (x.1.load + x.1.len ≤ y.load) || decide (y.load + y.len ≤ x.1.load)))

/-- Length of a header. -/
def headLen : Nat := 0x440

/-- Header fields in range (R495). -/
def headOk (h : List Byte) : Bool :=
  let w0 := headWord h 0
  let w1 := headWord h 1
  let len := bits w1 63 40
  let n := bits w1 31 24
  bits w0 31 16 == 1 && bits w0 15 0 != 0 && len % 8 == 0 && decide (4096 ≤ len) && decide (len ≤ 8290304) && decide (bits w1 39 32 ≤ 64) &&
  decide (1 ≤ n) && decide (n ≤ 16) && bits w1 23 0 == 0 && decide (bits (headWord h 2) 63 32 ≤ 24870912) && bits (headWord h 2) 31 0 == 0 &&
  headWord h 7 == 0 && sectionsOk h n len

/-- Minimum `svn`: the count of blown bits (T17-3). -/
def svnMin (f : Fuses) : Nat := popCount f.svnMin 64

/-- Verification (R496, T17-8) of an image in a chunked store: a loader cause, or what it is. `bad` is the cause for a missing chunk. -/
def verifyImage (f : Fuses) (m : Tab Byte) (pages : Tab Nat) (bad : Nat) : Nat ⊕ ImageInfo :=
  if (tabFind 0 pages).isNone then .inl (if bad = 8 then 8 else 1)
  else
    let h := chunkRead m 0 0 headLen
    let len := bits (headWord h 1) 63 40
    if bits (headWord h 0) 63 32 != 0x5354574D then .inl 1
    else if !headOk h then .inl 2
    else if !chunksThere pages 0 len then .inl bad
    else
      let img := chunkRead m 0 0 len
      let modulus := (img.drop 0x140).take 384
      let digest := sha256 (img.take 0x2C0 ++ List.replicate 384 0 ++ img.drop 0x440)
      if sha256 modulus != f.rootHash then .inl 3
      else if bits (headWord h 1) 39 32 < svnMin f then .inl 5
      else if !rsaVerify modulus ((img.drop 0x2C0).take 384) digest then .inl 4
      else .inr { ver := bits (headWord h 0) 15 0, svn := bits (headWord h 1) 39 32, digest := digest, patLen := bits (headWord h 2) 63 32, patWant := (h.drop 24).take 32 }

/-- The pattern area holds the blob of a digest (R496). -/
def patternsMatch (fl : Flash) (len : Nat) (want : List Byte) : Bool :=
  chunksThere fl.pages patternBase len && sha256 (chunkRead fl.image patternBase 0 len) == want

/-- Reads the patterns for a scan: they verify against the running image's digest whenever they are read (R496); none where they do not. -/
def readPatterns (s : State) : Option State :=
  if s.dev.patOk then some s
  else if !s.dev.patWant.isEmpty && patternsMatch s.flash s.dev.patLen s.dev.patWant then some { s with dev := { s.dev with patOk := true } }
  else none

/-- Programs a firmware page (R494, R498): data, and the trailer that names its length. -/
def programPage (page : Nat) (data : List Byte) (fl : Flash) : Flash :=
  { fl with image := memWrite fl.image (4096 * page) data, pages := tabPut page data.length fl.pages }

/-- Erases the pages [lo, hi). -/
def erasePages (lo hi : Nat) (fl : Flash) : Flash :=
  { fl with image := memClear fl.image (4096 * lo) (4096 * hi), pages := fl.pages.filter (fun e => !(decide (lo ≤ e.1) && decide (e.1 < hi))) }

/-- The image in force. -/
def runImage (i : ImageInfo) (s : State) : State :=
  { s with dev := { s.dev with fwVer := i.ver, fwSvn := i.svn, fwDigest := i.digest, patLen := i.patLen, patWant := i.patWant, patOk := false } }

end Sys2Proof.Machine
end

