-- ==== Sys2Proof/Machine/Home.lean ====
section
/-! DEFINITION. The home of a line (09): home-cache words, merging of writes (R252, R253), reads with decoding (10 R290..R294), mirrors
(10 R303), and coherent accesses that one step performs whole. -/
namespace Sys2Proof.Machine

def HLine.zero : HLine := { way := 0, direct := false, valid := 0, dirty := 0, data := [], used := 0 }

/-- A home-cache line; absent lines hold nothing. -/
def hlineOf (line : Nat) (s : State) : HLine := tabGet HLine.zero line s.coh.home

/-- Sets a home-cache line; one that holds nothing is absent. -/
def setHLine (line : Nat) (h : HLine) (s : State) : State :=
  { s with coh := { s.coh with home := if h.valid = 0 then tabDel line s.coh.home else tabPut line h s.coh.home } }

/-- Tag key of a home-cache word. -/
def homeKey (w : Nat) : Nat := tagKey 3 0 w

/-- Memory's own bytes of a word, with the part-word writes that wait at its controller laid over them (R252). -/
def overlay (w : Nat) (bytes : Tab Byte) : List (Nat × List Cell) → Tab Byte
  | [] => bytes
  | (w', cells) :: t => overlay w (if w' = w then memCells bytes 0 cells else bytes) t

/-- Decodes a word at its home: the home-cache copy where it is valid, else memory (10 R290). -/
def homeDec (w : Nat) (s : State) : Nat × Dec :=
  let h := hlineOf (w / 64) s
  if bit h.valid (w % 64) then (3, decodeEcc (leNat (memRead h.data (w % 64 * 8) 8)) (tagOf (homeKey w) s))
  else
    let d := decodeEcc (leNat (memRead s.mem.dram (8 * w) 8)) (tagOf (dramKey (8 * w)) s)
    let bs := overlay w (memWrite [] 0 (leBytes d.data 8)) s.mem.rmw
    (if 8 * w < Config.tierSBase then 1 else 2, { d with data := leNat (memRead bs 0 8) })

/-- A memory word as its controller decodes it. -/
def rawWord (dpa : Nat) (s : State) : Dec := decodeEcc (leNat (memRead s.mem.dram dpa 8)) (tagOf (dramKey dpa) s)

/-- A DPA on a fenced channel: the channel answers no request (15 R448). -/
def fencedAt (dpa : Nat) (s : State) : Bool := (chanOf (dpaChan dpa) s).fenced

/-- A word that memory itself can give. -/
def rawGood (dpa : Nat) (s : State) : Bool := (rawWord dpa s).good && !fencedAt dpa s

/-- What is returned of a word that memory lost: the mirror's word (R305), or the one rebuilt from a coded line (11 R346). -/
def rescue (w : Nat) (s : State) : Option Nat :=
  match mirrorOf (8 * w) s with
  | some m => if rawGood m s then some (rawWord m s).data else none
  | none =>
    let ps := codedPeers (8 * w) s
    if !ps.isEmpty && ps.all (fun p => rawGood p s) then some (ps.foldl (fun x p => x ^^^ (rawWord p s).data) 0) else none

/-- The word that a read at the home returns; an uncorrectable word, or one of a fenced channel, comes from elsewhere where it can (R305). -/
def homeWord (w : Nat) (s : State) : Dec :=
  let r := homeDec w s
  if r.1 = 3 then r.2
  else if r.2.n != 3 && !fencedAt (8 * w) s then r.2
  else
    match rescue w s with
    | some v => ⟨v, false, 0, 0, 0x7F, 0x7F⟩
    | none => { r.2 with data := 0, n := 3 }

/-- Stores a whole word in memory with its poison bit (R291); waiting part-word writes of the word stand before it in order. -/
def memPutWord (w v : Nat) (p : Bool) (s : State) : State :=
  injectWord 2 (if 8 * w < Config.tierSBase then 2 ^ 24 + dpaChan (8 * w) else 2 ^ 25 + dpaChan (8 * w) - 64) (dramKey (8 * w)) <|
  setTag (dramKey (8 * w)) ⟨p, 0⟩
    { s with mem := { s.mem with dram := memWrite s.mem.dram (8 * w) (leBytes v 8), rmw := s.mem.rmw.filter (fun e => e.1 != w) } }

/-- Takes the tags of a home-cache line's words away. -/
def dropHomeTags (line : Nat) (s : State) : State :=
  { s with mem := { s.mem with tags := s.mem.tags.filter (fun e => !(decide (homeKey (line * 64) ≤ e.1) && decide (e.1 < homeKey (line * 64 + 64)))) } }

/-- Evicts a home-cache line: its dirty words are decoded and go to memory (R253, R290, R294), and to the mirror (R303). -/
def homeEvict (line : Nat) (s : State) : State :=
  let h := hlineOf line s
  let s := (bitList h.dirty 64).foldl (fun s i =>
    let w := line * 64 + i
    let d := decodeEcc (leNat (memRead h.data (8 * i) 8)) (tagOf (homeKey w) s)
    let s := logDec 3 0 (dpaChan (8 * w)) ((chanOwner (dpaChan (8 * w)) s).getD 0) (8 * w) d.moved s
    let v := if d.n = 3 then 0 else d.data
    let p := d.n == 3 || d.p
    (forwardsOf (8 * w) s).foldl (fun s m => memPutWord (m / 8) v p s) (memPutWord w v p s)) s
  setHLine line HLine.zero (dropHomeTags line s)

/-- Lines of the home-cache set of a line: 256 sets of its slice, by line q (entry 7). -/
def homeSet (line : Nat) (s : State) : List (Nat × HLine) :=
  s.coh.home.filter (fun e => dpaChan (e.1 * 512) == dpaChan (line * 512) && dpaLine (e.1 * 512) % 256 == dpaLine (line * 512) % 256)

/-- A line's atomic unit has operations (R264). -/
def hasAtoms (line : Nat) (s : State) : Bool := !(tabGet [] line s.coh.atoms).isEmpty

/-- The home-cache ways of the domain that owns a line's channel (T9-11); a channel that nobody owns lends all 16. -/
def homeWays (line : Nat) (s : State) : Nat :=
  match chanOwner (dpaChan (line * 512)) s with
  | none => 16
  | some d =>
    match shellOf d s with
    | none => 16
    | some sh => match sh.comp.sets.find? (fun e => e.2.chans.contains (dpaChan (line * 512))) with | some e => e.2.ways | none => 16

/-- Lines of a home-cache set that a pinned line may fill: half the ways of the channel's owner (R265). -/
def pinLimit (line : Nat) (s : State) : Nat := homeWays line s / 2

/-- Two lines of one home-cache set: one slice, line q modulo 256 (entry 7). -/
def sameHomeSet (a b : Nat) : Bool := dpaChan (a * 512) == dpaChan (b * 512) && dpaLine (a * 512) % 256 == dpaLine (b * 512) % 256

/-- A line is pinned in the home cache while its atomic unit has operations, once it took its place (R264, R265; entry 85). -/
def pinned (line : Nat) (s : State) : Bool := s.coh.pins.contains line

/-- A line's set holds as many pinned lines as it may (R265). -/
def pinFull (line : Nat) (s : State) : Bool := decide (pinLimit line s ≤ (s.coh.pins.filter (fun l => sameHomeSet l line)).length)

/-- A line takes its pin. -/
def pin (line : Nat) (s : State) : State := if pinned line s then s else { s with coh := { s.coh with pins := s.coh.pins ++ [line] } }

/-- A line whose queue drained loses its pin. -/
def unpin (line : Nat) (s : State) : State := if hasAtoms line s then s else { s with coh := { s.coh with pins := s.coh.pins.filter (fun l => l != line) } }

/-- The atomic unit has the next turn at a line: no message that came before its oldest operation still waits (R236, R265). -/
def atomNext (line : Nat) (s : State) : Bool := match tabGet [] line s.coh.atoms with | [] => false | a :: _ => a.after == 0

/-- The entry used longest ago. -/
def oldestOf {α : Type} (used : α → Nat) : List (Nat × α) → Option (Nat × α)
  | [] => none
  | e :: t =>
    match oldestOf used t with
    | none => some e
    | some f => if used e.2 ≤ used f.2 then some e else some f

/-- The ways of a line's slice that a holder may fill (T9-11): the first ones for the channel's owner, the rest for direct agents; every way where
nobody owns the channel. A way that still holds a line of the other holder is not clean yet (R281). -/
def homeMayUse (direct : Bool) (line way : Nat) (s : State) : Bool :=
  let ch := dpaChan (line * 512)
  let n := homeWays line s
  if s.flt.badWays.contains (2 ^ 24 + ch * 256 + way) then false
  else if (chanOwner ch s).isNone then decide (way < 16)
  else (if direct then decide (n ≤ way) && decide (way < 16) else decide (way < n)) &&
    !s.coh.home.any (fun e => e.2.way == way && e.2.direct != direct && dpaChan (e.1 * 512) == ch)

/-- The way in which a holder's line stands or may be put: where it is, else the lowest free way of the holder, else that of the holder's least recently
used line that is not pinned, which is evicted (R265, R278; entry 85). -/
def homePlace (direct : Bool) (line : Nat) (s : State) : Option Nat × State :=
  if (hlineOf line s).valid != 0 then (some (hlineOf line s).way, s)
  else
    let set := homeSet line s
    let ways := (List.range 16).filter (fun k => homeMayUse direct line k s)
    match ways.find? (fun k => !set.any (fun e => e.2.way == k)) with
    | some k => (some k, s)
    | none =>
      match oldestOf (fun h : HLine => h.used) (set.filter (fun e => ways.contains e.2.way && !pinned e.1 s)) with
      | none => (none, s)
      | some (v, h) => (some h.way, homeEvict v s)

/-- Puts a whole word into the home cache, dirty (R252); a holder without a way writes it to memory. -/
def homePutWord (direct : Bool) (w v : Nat) (p : Bool) (s : State) : State :=
  let r := homePlace direct (w / 64) s
  match r.1 with
  | none => memPutWord w v p s
  | some k =>
    let h := hlineOf (w / 64) r.2
    let i := w % 64
    let m := fun x => if bit x i then x else x + 2 ^ i
    injectWord 1 (3 * 2 ^ 24 + dpaChan (8 * w)) (homeKey w) <|
    setTag (homeKey w) ⟨p, 0⟩
      (setHLine (w / 64) { way := k, direct := if h.valid = 0 then direct else h.direct, valid := m h.valid, dirty := m h.dirty
                           data := memWrite h.data (8 * i) (leBytes v 8), used := s.stamp } r.2)

/-- Lays cells over a word's number. -/
def mergeWord (v : Nat) (cells : List Cell) : Nat := leNat (memRead (memCells (memWrite [] 0 (leBytes v 8)) 0 cells) 0 8)

/-- Whether cells cover all 8 bytes of a word. -/
def wholeWord (cells : List Cell) : Bool := (List.range 8).all (fun i => cells.any (fun c => c.1 == i))

/-- Merges a write to one word at the home (R252); cells have offsets 0..7; `cdom` is the writer's domain. -/
def homeMergeWord (direct : Bool) (cdom w : Nat) (cells : List Cell) (s : State) : State :=
  let h := hlineOf (w / 64) s
  if wholeWord cells then homePutWord direct w (mergeWord 0 cells) false s
  else if bit h.valid (w % 64) then
    let d := decodeEcc (leNat (memRead h.data (w % 64 * 8) 8)) (tagOf (homeKey w) s)
    let s := logDec 3 0 (dpaChan (8 * w)) cdom (8 * w) d.moved s
    if d.n = 3 then homePutWord direct w 0 true s else homePutWord direct w (mergeWord d.data cells) d.p s
  else { s with mem := { s.mem with rmw := s.mem.rmw ++ [(w, cells)] } }

/-- The words that cells of a line touch, ascending. -/
def cellWords (cells : List Cell) : List Nat := (List.range 64).filter (fun i => cells.any (fun c => c.1 / 8 == i))

/-- Forwards a word that the home wrote to the word's other copies (R303). -/
def homeForward (w : Nat) (cells : List Cell) (s : State) : State :=
  (forwardsOf (8 * w) s).foldl (fun s m =>
    if wholeWord cells then memPutWord (m / 8) (mergeWord 0 cells) false s
    else { s with mem := { s.mem with rmw := s.mem.rmw ++ [(m / 8, cells)] } }) s

/-- Merges written cells (offsets in the line) at the home and forwards them to the mirror (R252, R303). -/
def homeMerge (direct : Bool) (cdom line : Nat) (cells : List Cell) (s : State) : State :=
  if fencedAt (line * 512) s then s
  else
  (cellWords cells).foldl (fun s i =>
    let w := line * 64 + i
    homeForward w (cellsOfWord i cells) (homeMergeWord direct cdom w (cellsOfWord i cells) s)) (tick s)

/-- Marks words of a line as poison in the home-cache copy (R272, R276, R294). -/
def homePoison (line mask : Nat) (s : State) : State :=
  (bitList mask 64).foldl (fun s i => homePutWord false (line * 64 + i) 0 true s) s

/-- An owner's dirty bytes, and the words that its copy lost, come to the home (R252, R257, R294). -/
def homeTake (cdom line : Nat) (cells : List Cell) (pois : Nat) (s : State) : State :=
  homePoison line pois (homeMerge false cdom line cells s)

/-! ### Cached copies -/

/-- Tag key of a word in an agent's array: source 4 a half, 7 a host core's L2 (T10-4). -/
def agentKey (agent w : Nat) : Nat := if agent < 16 then tagKey 4 agent w else tagKey 7 (agent - 16) w

/-- Key of an agent's line. -/
def lineKey (agent line : Nat) : Nat := agent * 2 ^ 40 + line

/-- An agent's line. -/
def clineOf (agent line : Nat) (s : State) : Option CLine := tabFind (lineKey agent line) s.coh.lines

/-- Sets an agent's line. -/
def setCLine (agent line : Nat) (c : CLine) (s : State) : State :=
  { s with coh := { s.coh with lines := tabPut (lineKey agent line) c s.coh.lines } }

/-- Takes the tags of an agent's line away. -/
def dropLineTags (agent line : Nat) (s : State) : State :=
  let k := agentKey agent (line * 64)
  { s with mem := { s.mem with tags := s.mem.tags.filter (fun e => !(decide (k ≤ e.1) && decide (e.1 < k + 64))) } }

/-- Removes an agent's line and its words' tags. -/
def delCLine (agent line : Nat) (s : State) : State :=
  dropLineTags agent line { s with coh := { s.coh with lines := tabDel (lineKey agent line) s.coh.lines } }

/-- Directory entry of a line. -/
def dirOf (line : Nat) (s : State) : DirEntry := tabGet DirEntry.zero line s.coh.dir

/-- Sets a directory entry. -/
def setDir (line : Nat) (e : DirEntry) (s : State) : State := { s with coh := { s.coh with dir := tabSet DirEntry.zero line e s.coh.dir } }

/-- An entry that becomes INV keeps its ownership tag only. -/
def DirEntry.toInv (e : DirEntry) : DirEntry := { DirEntry.zero with otag := e.otag }

/-- Dirty bytes of a line as cells. -/
def dirtyCells (dirty : Nat) (data : Tab Byte) : List Cell := (bitList dirty 512).map (fun i => (i, memGet data i))

/-- A line is busy at its home: an open transaction, waiting messages or atomics (R258, R259, R264). -/
def lineBusy (line : Nat) (s : State) : Bool :=
  (tabFind line s.coh.open').isSome || !(tabGet [] line s.coh.queue).isEmpty || hasAtoms line s

/-- Takes back every tracked copy of a line at once, merging the owner's dirty bytes (the whole of a snoop round in one step). -/
def recallAll (line : Nat) (s : State) : State :=
  let e := dirOf line s
  if e.dstate = .inv then s
  else
    let s := (bitList e.presence 32).foldl (fun s a =>
      match clineOf a line s with
      | none =>
        (match tabFind (lineKey a line) s.coh.wbuf with
        | some b => homeTake e.cdom line (dirtyCells b.dirty b.data) b.pois s
        | none => s)
      | some c =>
        if c.st = .N then s
        else
          let s := delCLine a line s
          if c.st = .M then homeTake e.cdom line (dirtyCells c.dirty c.data) c.pois s else s) s
    setDir line e.toInv s

/-- Bytes that have left an owner in snoop responses and are not yet merged, with the words among them that are poison. -/
def respCells (line : Nat) (s : State) : List Cell × Nat :=
  s.coh.net.foldl (fun r m => match m with
    | .sresp _ l dirty pois cells _ _ => if l = line && (dirty != 0 || pois != 0) then (r.1 ++ cells, r.2 ||| pois) else r
    | _ => r) ([], 0)

/-- The bytes that a message writes. -/
def HMsg.writes : HMsg → List Cell
  | .push _ _ cells | .spush _ _ cells | .dwrite _ _ cells | .rwrite _ _ _ _ cells => cells
  | _ => []

/-- The bytes of writes that have arrived at a line's home and wait there, in arrival order (R258). -/
def waitingCells (line : Nat) (s : State) : List Cell :=
  (match tabFind line s.coh.open' with | some t => t.msg.writes | none => []) ++ (tabGet [] line s.coh.queue).flatMap HMsg.writes

/-- The bytes of a line that its owner holds dirty, and its poisoned words. -/
def ownerCells (line : Nat) (s : State) : List Cell × Nat :=
  let e := dirOf line s
  if e.dstate = .owned then
    (bitList e.presence 32).foldl (fun r a =>
      match clineOf a line s with
      | some c => if c.st = .M then (r.1 ++ dirtyCells c.dirty c.data, r.2 ||| c.pois) else r
      | none => match tabFind (lineKey a line) s.coh.wbuf with | some b => (r.1 ++ dirtyCells b.dirty b.data, r.2 ||| b.pois) | none => r) ([], 0)
  else ([], 0)

/-- A read at the home: the bytes, good, corrected. Over the home's words lie the owner's dirty bytes, those on their way in a snoop response, and the
given writes of each line. -/
def homeReadOver (late : Nat → List Cell) (dpa n : Nat) (s : State) : List Byte × Bool × Bool :=
  let w0 := dpa / 8
  let ds := (List.range ((dpa + n + 7) / 8 - w0)).map (fun i =>
    let w := w0 + i
    let d := homeWord w s
    let o := ownerCells (w / 64) s
    let r := respCells (w / 64) s
    let late := cellsOfWord (w % 64) (late (w / 64))
    let cs := cellsOfWord (w % 64) (o.1 ++ r.1) ++ late
    (if bit (o.2 ||| r.2) (w % 64) && !wholeWord late then (0, false, false)
     else if wholeWord cs then (mergeWord 0 cs, true, false)
     else (mergeWord d.data cs, d.good, d.n == 1 || d.n == 2)))
  (((ds.flatMap (fun d => leBytes d.1 8)).drop (dpa % 8)).take n, ds.all (fun d => d.2.1), ds.any (fun d => d.2.2))

/-- A read that one step performs whole, in coherence order: behind the writes that arrived before it and wait (R220, R257, R258; entry 25). -/
def homeRead (dpa n : Nat) (s : State) : List Byte × Bool × Bool := homeReadOver (fun l => waitingCells l s) dpa n s

/-- A read whose turn at its home has come: what waits came after it (R258). -/
def homeAt (dpa n : Nat) (s : State) : List Byte × Bool × Bool := homeReadOver (fun _ => []) dpa n s

/-- Records what a read at the home found, installs poison for a word that memory lost (10 R294), and writes a mirror's word back (R305). -/
def noteWord (cdom w : Nat) (s : State) : State :=
  let r := homeDec w s
  let ch := dpaChan (8 * w)
  let unit := if r.1 = 3 then 0 else if ch < 64 then ch else ch - 64
  let ix := if r.1 = 3 then ch else 0
  let fen := r.1 != 3 && fencedAt (8 * w) s
  if !fen && (r.1 == 3 || r.2.n != 3) then logDec r.1 unit ix cdom (8 * w) r.2 s
  else if (homeWord w s).good then
    let s := logMem r.1 8 unit ix cdom (8 * w) r.2.syn 0x7F 0x7F false none s
    if fen || (mirrorOf (8 * w) s).isNone then s else memPutWord w (homeWord w s).data false s
  else if fen then s
  else homePutWord false w 0 true (logDec r.1 unit ix cdom (8 * w) r.2 s)

/-- Notes every word of a span. -/
def homeNote (cdom dpa n : Nat) (s : State) : State :=
  (List.range ((dpa + n + 7) / 8 - dpa / 8)).foldl (fun s i => noteWord cdom (dpa / 8 + i) s) s

/-- Notes the words of a line's sectors. -/
def noteSectors (cdom line mask : Nat) (s : State) : State := (bitList mask 8).foldl (fun s k => homeNote cdom (line * 512 + 64 * k) 64 s) s

/-- A write to one line that reaches its home in this step: copies are recalled, then the cells merge (R257, Push or direct write); a line with an open
transaction or waiting messages holds it in its queue (R258). -/
def homeWriteLine (m : List Cell → HMsg) (direct : Bool) (cdom line : Nat) (cells : List Cell) (s : State) : State :=
  if lineBusy line s then
    { s with coh := { s.coh with queue := tabPut line (tabGet [] line s.coh.queue ++ [m cells]) s.coh.queue } }
  else homeMerge direct cdom line cells (recallAll line s)

/-- Splits a write into lines. -/
def homeWriteBy (m : List Cell → HMsg) (direct : Bool) (cdom dpa : Nat) (bytes : List Byte) (s : State) : State :=
  let cells := cellsOf dpa bytes
  (List.range ((dpa + bytes.length + 511) / 512 - dpa / 512)).foldl (fun s i =>
    let line := dpa / 512 + i
    homeWriteLine m direct cdom line ((cells.filter (fun c => c.1 / 512 == line)).map (fun c => (c.1 % 512, c.2))) s) s

/-- A write of a station or copy of a half: Push (T9-2). -/
def homePush (agent cdom dpa : Nat) (bytes : List Byte) (s : State) : State := homeWriteBy (.spush agent cdom) false cdom dpa bytes s

/-- A write of a direct agent: direct write (T9-2). -/
def homeWrite (who : DirectAgent) (cdom dpa : Nat) (bytes : List Byte) (s : State) : State := homeWriteBy (.dwrite who cdom) true cdom dpa bytes s

/-- Writes of a domain's stations, copies and of the Cox for it that wait at homes: not visible yet (08 R224, R229, R231). -/
def writesQueued (cdom : Nat) (s : State) : Bool :=
  let f := fun (m : HMsg) => match m with | .spush _ d _ => d == cdom | .dwrite .cox d _ => d == cdom | _ => false
  s.coh.open'.any (fun e => f e.2.msg) || s.coh.queue.any (fun e => e.2.any f)

/-- A half has a Push of its own on its way or waiting at a line's home: its array copy is older than its own write (R220). -/
def pushWaits (agent line : Nat) (s : State) : Bool :=
  let f := fun (m : HMsg) => match m with | .spush a _ _ => a == agent | _ => false
  (match tabFind line s.coh.open' with | some t => f t.msg | none => false) || (tabGet [] line s.coh.queue).any f

end Sys2Proof.Machine
end

