-- ==== Sys2Proof/Machine/CmdOps.lean ====
section
/-! DEFINITION. Commands as a whole: completion records (12 R369; 13 R388), the end on a fault (03 R96; 06 R170), the words of a park
record (07 R214). -/
namespace Sys2Proof.Machine

/-! ### Status codes (T13-10) -/
def stOK : Nat := 0x0000
def stOKFallback : Nat := 0x0001
def stForcedDrain : Nat := 0x0002
def stParked : Nat := 0x0003
def stReserved : Nat := 0x0100
def stUnknown : Nat := 0x0101
def stBadEntry : Nat := 0x0102
def stBadParam : Nat := 0x0103
def stNotPermitted : Nat := 0x0104
def stWrongState : Nat := 0x0105
def stBadHandle : Nat := 0x0106
def stNotGuaranteed : Nat := 0x0107
def stBadToken : Nat := 0x0200
def stBadMac : Nat := 0x0201
def stBadSeq : Nat := 0x0202
def stSessionBusy : Nat := 0x0203
def stNoKey : Nat := 0x0204
def stLockedOut : Nat := 0x0205
def stProofRefused : Nat := 0x0206
def stGraphRefused : Nat := 0x0300
def stShellRefused : Nat := 0x0301
def stConfigRefused : Nat := 0x0302
def stNotAdmitted : Nat := 0x0400
def stNoCredit : Nat := 0x0401
def stMissed : Nat := 0x0402
def stLate : Nat := 0x0403
def stFaultPark : Nat := 0x0500
def stFaultData : Nat := 0x0501
def stTranslation : Nat := 0x0502
def stDomainFailed : Nat := 0x0503
def stAbandoned : Nat := 0x0504
def stShellGone : Nat := 0x0505
def stTorn : Nat := 0x0600
def stHostLost : Nat := 0x0601
def stNoResource : Nat := 0x0700
def stBusy : Nat := 0x0701
def stHandoverRefused : Nat := 0x0702
def stListFull : Nat := 0x0703
def stClaimed : Nat := 0x0800
def stSignatureBad : Nat := 0x0801
def stFlashError : Nat := 0x0802

/-! ### Completions -/

/-- Detail code and offset as word 1 of T12-13 packs them. -/
def packDetail (detail offset : Nat) : Nat := detail * 2 ^ 48 + offset

/-- Records a completion with its queue; a queue pair that is gone drops it (11 R325). -/
def owe (q : Nat) (c : Compl) (s : State) : State :=
  match tabFind q s.qps with
  | none => s
  | some p => { s with qps := tabPut q { p with owed := p.owed ++ [c], awaiting := p.awaiting - 1 } s.qps }

/-- Frees what a command holds on the cores: its groups, saved groups and copies. -/
def clearCores (n : Nat) (s : State) : State :=
  { s with cores := (s.cores.map (fun e => (e.1, { e.2 with
      groups := e.2.groups.filter (fun g => g.2.cmd != n)
      saved := e.2.saved.filter (fun g => g.2.cmd != n)
      copies := e.2.copies.filter (fun c => c.2.cmd != n) }))).filter (fun e => decide (e.2 ≠ Core.zero)) }

/-- Drops an unregistered graph once no command uses it (13 R391). -/
def reapGraphs (s : State) : State :=
  let used := fun (k : Nat) => s.cmds.any (fun c =>
    let h := c.2.cdom * 65536 + c.2.handle
    h == k || (match tabFind h s.graphs with | some g => g.fallback == some (k % 65536) && c.2.cdom == k / 65536 | none => false))
  let kept := s.graphs.filter (fun e => !e.2.gone || used e.1)
  if kept.length = s.graphs.length then s
  else { s with graphs := kept.map (fun (e : Nat × RegGraph) =>
    (e.1, { e.2 with fallback := match e.2.fallback with | some f => if (tabFind (e.1 / 65536 * 65536 + f) kept).isSome then some f else none | none => none })) }

/-- A command completes (R36, R388): its record goes to its queue. -/
def finishWith (n status out0 out1 : Nat) (s : State) : State :=
  match cmdOf n s with
  | none => s
  | some c =>
    let s := owe c.q ⟨c.cid, status, (if status = stMissed || status = stLate then c.cause else 0), c.void, c.irq, false, s.stroke.count, out0, out1, c.guarNow⟩ s
    let s := { clearCores n s with cmds := tabDel n s.cmds }
    reapGraphs s

/-- A command completes with its own results: time since the first step's start and the count of flagged status words (T13-4). -/
def finishCmd (n status : Nat) (s : State) : State :=
  match cmdOf n s with
  | none => s
  | some c => finishWith n status (if c.started then (s.now - c.startAt) % 2 ^ 32 else 0) (c.flagged % 2 ^ 32) s

/-- A fault ends the command on every seat (03 R96). -/
def faultCmd (n status : Nat) (s : State) : State := finishCmd n status s

/-! ### Parking -/

/-- Words of a park record (T7-17). -/
def parkWord0 (r : ParkRec) (slot seat : Nat) : Nat := r.code * 2 ^ 56 + slot * 2 ^ 51 + seat * 2 ^ 45 + r.lane * 2 ^ 40 + r.pc * 2 ^ 28

/-- The group in a slot of a core. -/
def groupOf (core slot : Nat) (s : State) : Option Group := tabFind slot (coreOf core s).groups

/-- Sets a group. -/
def setGroup (core slot : Nat) (g : Group) (s : State) : State :=
  let c := coreOf core s
  setCore core { c with groups := tabPut slot g c.groups } s

/-- Codes of T6-3 and T7-16 that a resume replays. -/
def replayable (code : Nat) : Bool := code == 0x06 || code == 0x16

end Sys2Proof.Machine
end

