-- ==== Sys2Proof/Machine/Remote.lean ====
section
/-! DEFINITION. Messages of Falnar links (14): header units (T14-3), packing into flits (R400, R401), routes (R409), requests and tags (R418). -/
namespace Sys2Proof.Machine

/-! Message kinds of T14-3. -/
def kRead : Nat := 0x01
def kWrite : Nat := 0x02
def kSector : Nat := 0x03
def kAtom : Nat := 0x04
def kAddx : Nat := 0x05
def kData : Nat := 0x10
def kAck : Nat := 0x11
def kError : Nat := 0x12
def kBeacon : Nat := 0x18
def kRetract : Nat := 0x1A
def kCox : Nat := 0x1B

/-- A link. -/
def linkOf (l : Nat) (s : State) : Link := tabGet Link.zero l s.links

/-- Sets a link. -/
def setLink (l : Nat) (k : Link) (s : State) : State := { s with links := tabSet Link.zero l k s.links }

/-- A link that carries traffic: in operation, or retraining with its flits kept (R405). -/
def linkRuns (l : Nat) (s : State) : Bool := let k := linkOf l s; k.st == .up || k.st == .retraining

/-- The bytes of a message: header unit, then data units (R401, T14-3; entry 34). -/
def msgBytes (kind : Nat) (m : RemoteMsg) : List Byte :=
  let narrow := kind == kWrite && decide (m.data.length < 16)
  let body := if narrow then padTo 16 (List.replicate (m.offset % 16) 0 ++ m.data) else padTo (ceilDiv m.data.length 16 * 16) m.data
  let units := if kind = kRead then ceilDiv m.len 16 else body.length / 16
  let mask := if narrow then ((2 ^ m.data.length - 1) * 2 ^ (m.offset % 16)) % 65536 else m.sub.toNat
  leBytes (m.vc * 2 ^ 61 + kind * 2 ^ 56 + m.dst * 2 ^ 44 + m.src * 2 ^ 32 + m.tenant * 2 ^ 20 + units % 64 * 2 ^ 14 + m.tag) 8 ++
  leBytes (mask * 2 ^ 48 + m.status * 2 ^ 40 + m.ctr * 2 ^ 35 + m.offset) 8 ++ body

/-- A flit: unit 0 of T14-2 with its CRC, then fifteen units. -/
def flitBytes (ftype fseq aseq : Nat) (nak : Bool) (vc n : Nat) (units : List Byte) : List Byte :=
  let w0 := leBytes (ftype * 2 ^ 62 + fseq * 2 ^ 50 + aseq * 2 ^ 38 + b2n nak * 2 ^ 37 + vc * 2 ^ 29 + n * 2 ^ 16) 8
  let body := padTo 240 units
  w0 ++ leBytes (crc64 (w0 ++ body)) 8 ++ body

/-- The virtual channel whose credits are returned next, and how many. -/
def crNext (k : Link) : Nat × Nat :=
  match k.crRet.zipIdx.find? (fun x => x.1 != 0) with | some (n, v) => (v, min n 8191) | none => (0, 0)

/-- Sends the data flits of a run of units; each flit stays in the replay buffer until acknowledged (R403). -/
def sendFlits (l : Nat) : Nat → List Byte → State → State
  | 0, _, s => s
  | n + 1, us, s =>
    let k := linkOf l s
    let cr := crNext k
    let f := flitBytes 0 k.fseq k.aseq k.nak cr.1 cr.2 (us.take 240)
    let k' := { k with sent := k.sent + 1, fseq := (k.fseq + 1) % 4096, replay := k.replay ++ [(k.fseq, f)], nak := false, crRet := k.crRet.set cr.1 (k.crRet.getD cr.1 0 - cr.2) }
    sendFlits l n (us.drop 240) (emit (.flit l false k.fseq true k.nak k.aseq) (setLink l k' s))

/-- Sends a message on a link. -/
def sendMsg (l kind : Nat) (m : RemoteMsg) (s : State) : State :=
  let bs := msgBytes kind m
  let k := linkOf l s
  let s := setLink l { k with credits := k.credits.set m.vc (k.credits.getD m.vc 0 + bs.length / 16) } s
  sendFlits l (ceilDiv bs.length 240) bs (emit (.remote l kind m) s)

/-- The link on which a message for a device leaves, and whether it is a dateline there (R409, R412). -/
def routeLink (dev : Nat) (s : State) : Option (Nat × Bool) :=
  let r := routeOf dev s
  if !bit r 31 then none
  else if linkRuns (bits r 30 26) s then some (bits r 30 26, bit r 25)
  else if bit r 24 && linkRuns (bits r 23 19) s then some (bits r 23 19, bit r 18)
  else none

/-- A link's partner is a member of this device's regatta; a device in none has no partner there (R413, R419). -/
def sameRegatta (l : Nat) (s : State) : Bool := s.dev.board.regatta != 0 && (linkOf l s).regatta == s.dev.board.regatta

/-- A request is credited: one hop, in the regatta, under a share of the shell (R413, R414). -/
def credited (cdom dev l : Nat) (s : State) : Bool :=
  bits (routeOf dev s) 17 13 == 1 && sameRegatta l s &&
  (match shellOf cdom s with | some sh => sh.comp.links.any (fun g => g.link == l && decide (0 < g.share)) | none => false)

/-- The lowest tag that is neither outstanding nor freed within the last millisecond (R401, R418). -/
def freeTag (s : State) : Option Nat :=
  let busy := fun t => (tabFind t s.rreqs).isSome || s.freedTags.any (fun f => f.1 == t && decide (s.now < f.2 + Config.ms 1))
  let n := s.rreqs.length + s.freedTags.length + 1
  (List.range (min n 16384)).find? (fun t => !busy t)

/-- A Sampled shell reaches no device outside the regatta (15 R443). -/
def sampledOut (cdom l : Nat) (s : State) : Bool := match shellOf cdom s with | some sh => sh.comp.redund == 1 && !sameRegatta l s | none => false

/-- Sends a request to a peer; none where no link is available, no tag is free or a Sampled shell may not go there: error response 0x06. -/
def sendReq (cdom dev kind : Nat) (tenant sub ctr offset len : Nat) (data : List Byte) (wait : RWait) (s : State) : Option State :=
  match routeLink dev s, freeTag s with
  | some (l, dl), some t =>
    if sampledOut cdom l s then none else
    let vc := if credited cdom dev l s then 1 else if dl then 4 else 3
    let m : RemoteMsg := ⟨vc, dev, s.dev.board.devId, tenant, t, BitVec.ofNat 16 sub, 0, ctr, offset, len, data⟩
    some (sendMsg l kind m { s with rreqs := tabPut t ⟨l, dev, offset, none, kind, s.now, wait⟩ s.rreqs })
  | _, _ => none

/-- Answers a request of another device (R401, R412): a response on VC2 to a credited one, else on VC5 or, over a dateline, VC6. -/
def answerRemote (vc dev tag kind status : Nat) (data : List Byte) (s : State) : State :=
  match routeLink dev s with
  | some (l, dl) =>
    sendMsg l kind ⟨if vc = 1 then 2 else if dl then 6 else 5, dev, s.dev.board.devId, 0, tag, 0, status, 0, 0, data.length, data⟩ s
  | none => s

/-- The indications of an ADDX in the `status` field of its response: sticky, then saturation (05 R144; entry 34). -/
def atomFlags (kind len : Nat) (got : List Byte) : Nat := if kind = 0 then 0 else (got.getD len 0).toNat + 2 * (got.getD (len + 1) 0).toNat

/-- Frees a tag (R418). -/
def dropTag (t : Nat) (s : State) : State :=
  { s with rreqs := tabDel t s.rreqs,
           freedTags := (s.freedTags.filter (fun f => decide (s.now < f.2 + Config.ms 1))) ++ [(t, s.now)] }

end Sys2Proof.Machine
end

