-- ==== Sys2Proof/Machine/Coherence.lean ====
section
/-! DEFINITION. The coherence messages of 09 at the homes: what a home does with a request by directory state (T9-7), transactions and their queue
(R258), writebacks (R263), directory credits (R267), takedown of a domain (R276). -/
namespace Sys2Proof.Machine

/-! ### Messages on their way -/

/-- Sends a message between home and agent; the message also shows outside. -/
def send (m : NMsg) (s : State) : State := { s with coh := { s.coh with net := s.coh.net ++ [m] } }

/-- Sends several. -/
def sends (ms : List NMsg) (s : State) : State := { s with coh := { s.coh with net := s.coh.net ++ ms } }

/-- Takes the first message that a test picks out of those on their way. -/
def takeFirst {α : Type} (f : α → Bool) : List α → Option (α × List α)
  | [] => none
  | m :: t => if f m then some (m, t) else (takeFirst f t).map (fun r => (r.1, m :: r.2))

/-- Takes the first message that a test picks. -/
def receive (f : NMsg → Bool) (s : State) : Option (NMsg × State) :=
  (takeFirst f s.coh.net).map (fun r => (r.1, { s with coh := { s.coh with net := r.2 } }))

/-- Shows a request of an agent for its home: kind 1 RdS, 2 RdN, 3 Own, 4 Push, 5 WB, 6 Evict (T9-6). -/
def request (agent line kind mask : Nat) (s : State) : State := emit (.coh agent line kind mask) s

/-! ### Takedown (R275, R276) -/

/-- An answer Error for a held or new request of an agent. -/
def errorTo (line : Nat) : HMsg → List NMsg
  | .rds a _ _ | .rdn a _ _ | .own a _ | .push a _ _ | .wb a _ | .evict a => [.error a line]
  | _ => []

/-- An error response to a direct agent (R276, R277); a BAR4 write is posted and has none. -/
def errorOut : HMsg → List Out
  | .dread who _ _ _ tag => [.dread who tag [] true]
  | .dwrite who _ _ => if who = .pcie then [] else [.dwrite who false]
  | _ => []

/-- A request fails: a direct agent or another device gets its error response (R276, R277; 14 T14-3). -/
def failOut (m : HMsg) (s : State) : State :=
  match m with
  | .rread vc tag src _ _ _ | .rwrite vc tag src _ _ => answerRemote vc src tag kError 4 [] s
  | m => emits (errorOut m) s

/-- The domain a message acts for; an Evict and a discard act for none that could fail them. -/
def HMsg.cdom : HMsg → Option Nat
  | .rds _ _ c | .rdn _ _ c | .own _ c | .push _ c _ | .spush _ c _ | .dread _ _ _ c _ | .dwrite _ c _ | .rread _ _ _ _ _ c | .rwrite _ _ _ c _ => some c
  | .wb _ w => some w.cdom
  | .evict _ | .discard _ => none

/-- Takes the messages that a test does not keep out of the homes' queues; an operation of the atomic unit counts those that still wait
before it. -/
def keepQueued (keep : HMsg → Bool) (s : State) : State :=
  { s with coh := { s.coh with
    atoms := s.coh.atoms.map (fun e => (e.1, e.2.map (fun a => { a with after := (((tabGet [] e.1 s.coh.queue).take a.after).filter keep).length })))
    queue := (s.coh.queue.map (fun e => (e.1, e.2.filter keep))).filter (fun e => !e.2.isEmpty) } }

/-- Directory lines of a domain. -/
def linesOf (cdom : Nat) (s : State) : List Nat :=
  (s.coh.dir.filter (fun e => e.2.cdom == cdom && decide (e.2.dstate ≠ .inv))).map (fun e => e.1)

/-- An atomic's answer reaches its requester: the old value with the indications of an ADDX, or an error (05 R144; entry 34). -/
def atomAnswer (a : AtomReq) (r : Option (List Byte)) (s : State) : State :=
  match a.by' with
  | .thread core slot pc item =>
    (match groupOf core slot s with
    | none => s
    | some g =>
      let open' := fun (f : FarReq) => f.pc == pc && (match f.items[item]? with | some it => it.got.isNone && !it.err && (match it.loc with | .mem d _ _ => d == a.dpa | _ => false) | none => false)
      match g.far.find? open' with
      | none => s
      | some f =>
        let its := f.items.zipIdx.map (fun x => if x.2 = item then (match r with | some b => { x.1 with got := some b } | none => { x.1 with err := true }) else x.1)
        setGroup core slot { g with far := g.far.map (fun h => if h = f then { f with items := its } else h) } s)
  | .link vc tag src ret =>
    (match r with
    | some b => answerRemote vc src tag (if ret then kData else kAck) (atomFlags a.kind a.len b) (if ret then padTo 16 (b.take a.len) else []) s
    | none => answerRemote vc src tag kError 4 [] s)

/-- Error answers to queued operations of the atomic units that a test picks by line; pins that they leave go with them. -/
def failAtomsIf (pick : Nat → AtomReq → Bool) (s : State) : State :=
  let hit : List AtomReq := s.coh.atoms.flatMap (fun e => e.2.filter (pick e.1))
  let s := { s with coh := { s.coh with atoms := (s.coh.atoms.map (fun (e : Nat × List AtomReq) => (e.1, e.2.filter (fun (a : AtomReq) => !pick e.1 a)))).filter (fun e => !e.2.isEmpty) } }
  let s := { s with coh := { s.coh with pins := s.coh.pins.filter (fun l => hasAtoms l s) } }
  hit.foldl (fun s a => atomAnswer a none s) s

/-- Error answers to the queued operations of a domain in the atomic units (R276). -/
def failAtoms (cdom : Nat) (s : State) : State := failAtomsIf (fun _ a => a.cdom == cdom) s

/-- The line and the agent of a message on its way. -/
def NMsg.place : NMsg → Nat × Nat
  | .data a l _ _ _ _ _ | .grant a l _ | .pushreq a l | .snpinv a l | .snpshr a l | .snpcur a l | .snpfwd a l _ | .sresp a l _ _ _ _ _
  | .grantack a l | .wback a l _ | .pushack a l | .error a l => (a, l)

/-- A message on its way acts for a domain: it is about a line that the directory or an open transaction names for the domain, or answers a request of
one of its miss registers or writebacks (R275, R276). -/
def netOf (cdom : Nat) (m : NMsg) (s : State) : Bool :=
  let a := m.place.1
  let l := m.place.2
  match m with
  | .error _ _ => false
  | _ => (decide ((dirOf l s).dstate ≠ .inv) && (dirOf l s).cdom == cdom) ||
    (match tabFind l s.coh.open' with | some t => t.msg.cdom == some cdom | none => false) ||
    (match tabFind (lineKey a l) s.coh.miss with | some x => x.cdom == cdom | none => false) ||
    (match tabFind (lineKey a l) s.coh.wbuf with | some x => x.cdom == cdom | none => false)

/-- Steps 1 to 4 of R276 for domain `cdom`: Error to its open and queued requests and atomics, its lines dropped everywhere with what of it is on its
way, lines that were OWNED poisoned in the home cache, its entries INV. -/
def takedownBody (cdom : Nat) (s : State) : State :=
  let mine := fun (m : HMsg) => m.cdom == some cdom
  let opened := s.coh.open'.filter (fun e => mine e.2.msg)
  let queued := s.coh.queue.flatMap (fun e => (e.2.filter mine).map (fun m => (e.1, m)))
  let told := opened.map (fun e => (e.1, e.2.msg)) ++ queued ++ s.coh.bar4.filter (fun e => mine e.2)
  let net := s.coh.net.filter (fun m => !netOf cdom m s) ++ told.flatMap (fun x => errorTo x.1 x.2)
  let s := failAtoms cdom (keepQueued (fun m => !mine m) (told.foldl (fun s x => failOut x.2 s) s))
  let s := { s with coh := { s.coh with
    net := net
    bar4 := s.coh.bar4.filter (fun e => !mine e.2)
    open' := s.coh.open'.filter (fun e => !mine e.2.msg)
    lines := s.coh.lines.filter (fun e => e.2.cdom != cdom)
    miss := s.coh.miss.filter (fun e => e.2.cdom != cdom)
    wbuf := s.coh.wbuf.filter (fun e => e.2.cdom != cdom) } }
  (linesOf cdom s).foldl (fun s l =>
    let e := dirOf l s
    let s := if e.dstate = .owned then homePoison l (2 ^ 64 - 1) (tick s) else s
    setDir l e.toInv s) s

/-- A coherent domain fails (R275..R277): the takedown, the record, the shell's requests get errors until the domain reset. -/
def takedownBy (inj : Option Nat) (det ukind unit cdom : Nat) (s : State) : State :=
  if cdom ∈ s.coh.failing then s
  else
    let s := takedownBody cdom s
    let s := { s with coh := { s.coh with failing := s.coh.failing ++ [cdom] } }
    let s := match inj with | some n => { s with flt := { s.flt with domInj := tabPut cdom n s.flt.domInj } } | none => s
    let s := match shellOf cdom s with | some sh => setShell cdom { sh with failed := true } s | none => s
    logRec { (newRec det 3 6 5).at cdom ukind unit with inj := inj } s

/-- A takedown that no injection causes and that names no unit. -/
def takedown (det cdom : Nat) (s : State) : State := takedownBy none det 0 0 cdom s

/-- The code of PROTOCOL (T15-3). -/
def detProtocol : Nat := 0x35

/-! ### The home -/

/-- The sectors of a line as the home has them now. -/
def sectorCells (line mask : Nat) (s : State) : List Cell × Nat :=
  ((bitList mask 8).foldr (fun k acc =>
    (List.range 8).foldr (fun j acc =>
      let i := 8 * k + j
      let d := homeWord (line * 64 + i) s
      (cellsOf (8 * i) (leBytes d.data 8) ++ acc.1, if d.good then acc.2 else acc.2 + 2 ^ i)) acc) ([], 0))

/-- Lays forwarded sectors over home data (R255). -/
def withFwd (fwd : List Cell) (cells : List Cell) : List Cell :=
  if fwd.isEmpty then cells else cells.map (fun c => match fwd.find? (fun f => f.1 == c.1) with | some f => f | none => c)

/-- Words that forwarded sectors bring good. -/
def fwdWords (fwd : List Cell) : Nat := maskOf (cellWords fwd)

/-- A Data message for an agent: a sector that the F holder forwarded is good, whatever memory holds (R255, R257). -/
def dataMsg (agent line mask : Nat) (st : Option LState) (otag : Nat) (fwd : List Cell) (s : State) : NMsg :=
  let c := sectorCells line mask s
  .data agent line mask st otag (withFwd fwd c.1) (c.2 &&& ((2 ^ 64 - 1) ^^^ fwdWords fwd))

/-- The sectors that a span of a line touches. -/
def sectorsOf (off len : Nat) : Nat := maskOf ((List.range 8).filter (fun k => decide (64 * k < off + len) && decide (off < 64 * k + 64)))

/-- Sectors of a mask of which some word is not valid in the home cache. -/
def absent (line mask : Nat) (s : State) : Nat :=
  maskOf ((bitList mask 8).filter (fun k => bits (hlineOf line s).valid (8 * k + 7) (8 * k) != 255))

/-- Agents named by an entry. -/
def holders (e : DirEntry) : List Nat := bitList e.presence 32

/-- The snoops a request needs (T9-7, R268, R274), with the agents awaited. -/
def snoopsOf (line : Nat) (m : HMsg) (s : State) : List NMsg :=
  let e := dirOf line s
  let inv := fun (l : List Nat) => l.map (fun a => NMsg.snpinv a line)
  match e.dstate with
  | .inv | .failed => []
  | d =>
    match m with
    | .rds r mask c =>
      if c != e.cdom then inv (holders e)
      else if d = .owned then (if bit e.presence r then [] else (holders e).map (fun o => .snpshr o line))
      else (match e.fwd with | some f => if f = r || absent line mask s = 0 then [] else [.snpfwd f line (absent line mask s)] | none => [])
    | .rdn r mask c =>
      if c != e.cdom then inv (holders e)
      else if d = .owned then (holders e).map (fun o => .snpcur o line)
      else (match e.fwd with | some f => if f = r || absent line mask s = 0 then [] else [.snpfwd f line (absent line mask s)] | none => [])
    | .dread _ off len _ _ | .rread _ _ _ off len _ =>
      let mask := sectorsOf off len
      if d = .owned then (holders e).map (fun o => .snpcur o line)
      else (match e.fwd with | some f => if absent line mask s = 0 then [] else [.snpfwd f line (absent line mask s)] | none => [])
    | .own r c =>
      if c != e.cdom then inv (holders e) else inv ((holders e).filter (fun a => a != r))
    | .push _ _ _ | .spush _ _ _ | .dwrite _ _ _ | .rwrite _ _ _ _ _ => inv (holders e)
    | .wb _ _ | .evict _ | .discard _ => []

/-- The agent a snoop goes to. -/
def snoopee : NMsg → Nat
  | .snpinv a _ | .snpshr a _ | .snpcur a _ | .snpfwd a _ _ => a
  | _ => 0

/-- Directory set of a line: its slice, line q modulo 2,048 (entry 7). -/
def dirSet (line : Nat) (s : State) : List (Nat × DirEntry) :=
  s.coh.dir.filter (fun e => decide (e.2.dstate ≠ .inv) && dpaChan (e.1 * 512) == dpaChan (line * 512) &&
    dpaLine (e.1 * 512) % 2048 == dpaLine (line * 512) % 2048)

/-- Whether a domain holds credits in the set of a line (R275, T9-9). -/
def hasCredit (line cdom : Nat) (s : State) : Bool := cdom == 0 || chanOwner (dpaChan (line * 512)) s == some cdom

/-- Records what the home's words of a tracked or direct read show, but for sectors that the F holder forwarded (10 R290, R294, R305). -/
def noteRead (cdom line mask : Nat) (fwd : List Cell) (s : State) : State :=
  noteSectors cdom line (mask &&& ((2 ^ 8 - 1) ^^^ maskOf ((List.range 8).filter (fun k => fwd.any (fun c => c.1 / 64 == k))))) s

/-- The answer to a direct read (R257): home bytes, over which lie sectors that the F holder forwarded (R255). -/
def directBytes (line off len : Nat) (fwd : List Cell) (s : State) : List Byte × Bool :=
  if fwd.isEmpty then let r := homeAt (line * 512 + off) len s; (r.1, r.2.1)
  else
    let ws := (List.range ((off + len + 7) / 8 - off / 8)).map (fun i =>
      let w := off / 8 + i
      let f := cellsOfWord w fwd
      if wholeWord f then (mergeWord 0 f, true) else let r := homeAt (line * 512 + 8 * w) 8 s; (leNat r.1, r.2.1))
    (((ws.flatMap (fun x => leBytes x.1 8)).drop (off % 8)).take len, ws.all (fun x => x.2))

/-- The acknowledgement of a direct write (R260); a posted BAR4 write has none. -/
def ackWrite (who : DirectAgent) (s : State) : State := if who = .pcie || who = .cox then s else emit (.dwrite who true) s

/-- The outcome once no snoop is awaited: T9-7, R261, R263. A host-core L2 has no F state (T9-3), so among host cores no entry names an F holder. -/
def serve (line : Nat) (m : HMsg) (fwd : List Cell) (s0 : State) : State :=
  let s := tick { s0 with coh := { s0.coh with open' := tabDel line s0.coh.open' } }
  let e := dirOf line s
  let lock := fun (a : Nat) (s : State) =>
    { s with coh := { s.coh with open' := tabPut line ⟨m, [], some a, none, [], s.now⟩ s.coh.open' } }
  match m with
  | .rds r mask c =>
    let data := fun (st : Option LState) (tag : Nat) (s : State) => send (dataMsg r line mask st tag fwd s) (noteRead c line mask fwd s)
    if e.dstate = .owned && bit e.presence r then data none e.otag s
    else if e.dstate = .inv then
      let ot := (e.otag + 1) % 256
      let s := setDir line { cdom := c, dstate := .owned, lock := true, otag := ot, fwd := none, presence := 2 ^ r, used := s.stamp } s
      lock r (data (some .E) ot s)
    else if e.dstate = .owned then
      let o := (holders e).headD 0
      let s := setDir line { e with dstate := .shared, lock := true, fwd := (if o < 16 then some o else none), presence := 2 ^ o + 2 ^ r, used := s.stamp } s
      lock r (data (some .S) 0 s)
    else
      let st := if 16 ≤ r then LState.S else if e.fwd.isSome then (if e.fwd = some r then .F else .S) else .F
      let pr := if bit e.presence r then e.presence else e.presence + 2 ^ r
      let s := setDir line { e with lock := true, fwd := (if e.fwd.isSome || 16 ≤ r then e.fwd else some r), presence := pr, used := s.stamp } s
      lock r (data (some st) 0 s)
  | .rdn r mask c => send (dataMsg r line mask (some .N) 0 fwd s) (noteRead c line mask fwd s)
  | .own r c =>
    let ot := (e.otag + 1) % 256
    let s := setDir line { cdom := c, dstate := .owned, lock := true, otag := ot, fwd := none, presence := 2 ^ r, used := s.stamp } s
    lock r (send (.grant r line ot) s)
  | .push a c cells => send (.pushack a line) (homeMerge false c line cells (setDir line e.toInv s))
  | .spush _ c cells => homeMerge false c line cells (setDir line e.toInv s)
  | .dwrite who c cells => ackWrite who (homeMerge true c line cells (setDir line e.toInv s))
  | .dread who off len c tag =>
    let r := directBytes line off len fwd s
    emit (.dread who tag r.1 (!r.2)) (noteRead c line (sectorsOf off len) fwd s)
  | .rwrite vc tag src c cells => answerRemote vc src tag kAck 0 [] (homeMerge true c line cells (setDir line e.toInv s))
  | .rread vc tag src off len c =>
    let r := directBytes line off len fwd s
    let s := noteRead c line (sectorsOf off len) fwd s
    if r.2 then answerRemote vc src tag kData 0 r.1 s else answerRemote vc src tag kError 4 [] s
  | .wb a w =>
    if e.dstate = .owned && bit e.presence a && e.otag == w.otag then
      send (.wback a line true) (setDir line e.toInv (homeTake w.cdom line (dirtyCells w.dirty w.data) w.pois s))
    else send (.wback a line false) s
  | .evict a =>
    if e.dstate != .inv && bit e.presence a then
      let p := e.presence - 2 ^ a
      if p = 0 then setDir line e.toInv s
      else setDir line { e with presence := p, fwd := none } s
    else s
  | .discard _ => s

/-- Whether a request needs a new directory entry (R268). -/
def needsEntry (line : Nat) (m : HMsg) (s : State) : Bool :=
  match m with
  | .rds _ _ _ | .own _ _ => decide ((dirOf line s).dstate = .inv)
  | _ => false

/-- The least recently used entry of a full set that is not locked (R267, R268). -/
def victimOf (line : Nat) (s : State) : Option Nat :=
  if (dirSet line s).length < 16 then none
  else (oldestOf (fun e : DirEntry => e.used) ((dirSet line s).filter (fun e => !e.2.lock && !pinned e.1 s && (tabFind e.1 s.coh.open').isNone))).map (fun e => e.1)

/-- Opens a transaction that waits for snoop responses. -/
def openTxn (line : Nat) (t : Txn) (s : State) : State :=
  let s := setDir line (if (dirOf line s).dstate = .inv then dirOf line s else { dirOf line s with lock := true }) s
  { s with coh := { s.coh with open' := tabPut line t s.coh.open' } }

/-- A request of a caching agent (T9-7). -/
def HMsg.caching : HMsg → Bool
  | .rds _ _ _ | .rdn _ _ _ | .own _ _ | .push _ _ _ => true
  | _ => false

/-- A request acts for a domain that failed (R276). -/
def actsFailed (m : HMsg) (s : State) : Bool := match m.cdom with | some c => s.coh.failing.contains c | none => false

/-- The domain of a caching request that holds no credit in the set (R275). -/
def uncreditedDom (line : Nat) (m : HMsg) (s : State) : Option Nat :=
  match m.cdom with | some c => if m.caching && !hasCredit line c s then some c else none | none => none

/-- The home answers Error at once: the domain failed or does not own the slice's channel (R275, R276). -/
def turnedAway (line : Nat) (m : HMsg) (s : State) : Bool :=
  actsFailed m s || (m.caching && decide ((dirOf line s).dstate = .failed)) || (uncreditedDom line m s).isSome

/-- Begins a request on a line that is not busy (R257, R268, R275). -/
def begin' (line : Nat) (m : HMsg) (s : State) : State :=
  if actsFailed m s || (m.caching && decide ((dirOf line s).dstate = .failed)) then sends (errorTo line m) (failOut m s)
  else match uncreditedDom line m s with
  | some c => takedown detProtocol c (sends (errorTo line m) s)
  | none =>
    let snoops := snoopsOf line m s
    if !snoops.isEmpty then openTxn line ⟨m, snoops.map snoopee, none, none, [], s.now⟩ (sends snoops s)
    else if needsEntry line m s then
      match victimOf line s with
      | none => serve line m [] s
      | some v =>
        let hs := holders (dirOf v s)
        if hs.isEmpty then serve line m [] (setDir v (dirOf v s).toInv s)
        else
          let s := { s with coh := { s.coh with open' := tabPut line ⟨m, [v], none, none, [], s.now⟩ s.coh.open' } }
          openTxn v ⟨.discard false, hs, none, some line, [], s.now⟩ (sends (hs.map (fun a => .snpinv a v)) s)
    else serve line m [] s

/-! ### Directory credits (R267, T9-9) -/

/-- Two lines of one directory set: one slice, line q modulo 2,048 (entry 7). -/
def sameDirSet (a b : Nat) : Bool := dpaChan (a * 512) == dpaChan (b * 512) && dpaLine (a * 512) % 2048 == dpaLine (b * 512) % 2048

/-- The holder that an agent's request counts for (T9-9): 0 the channel owner's halves, 2 the host cores' L2s. -/
def agentClass (agent : Nat) : Nat := if agent < 16 then 0 else 2

/-- The holder that a message's credit counts for (T9-9): 0 the channel's owner, 1 remote requests, 2 other direct agents. -/
def HMsg.creditClass : HMsg → Nat
  | .rds a _ _ | .rdn a _ _ | .own a _ | .push a _ _ | .spush a _ _ | .wb a _ | .evict a => agentClass a
  | .dread (.link _) _ _ _ _ | .dwrite (.link _) _ _ | .rread _ _ _ _ _ _ | .rwrite _ _ _ _ _ => 1
  | .dread _ _ _ _ _ | .dwrite _ _ _ => 2
  | .discard _ => 3

/-- The holder that an operation of the atomic unit counts for (T9-9). -/
def AtomReq.creditClass (a : AtomReq) : Nat := match a.by' with | .thread _ _ _ _ => 0 | .link _ _ _ _ => 1

/-- Credits of a holder in a set (T9-9). -/
def creditCap (k : Nat) : Nat := if k = 0 then 9 else if k = 1 then 1 else 2

/-- The holder of a pinned line's credit: that of its oldest operation. -/
def pinClass (line : Nat) (s : State) : Nat := match tabGet [] line s.coh.atoms with | a :: _ => a.creditClass | [] => 3

/-- Credits that a holder has out in a line's set: one for an open transaction, one for a pinned line; a directory eviction runs inside its
request's (R267, R268). -/
def creditsUsed (line k : Nat) (s : State) : Nat :=
  (s.coh.open'.filter (fun e => sameDirSet e.1 line && e.2.evictFor.isNone && e.2.msg.creditClass == k)).length +
  (s.coh.pins.filter (fun l => sameDirSet l line && pinClass l s == k && (tabFind l s.coh.open').isNone)).length

/-- A line is pinned in its home-cache set, or may take a pin with a credit of an operation's holder (R265, R267). -/
def takesPin (line : Nat) (a : AtomReq) (s : State) : Bool :=
  pinned line s || (!pinFull line s && decide (creditsUsed line a.creditClass s < creditCap a.creditClass))

/-- An operation enters its line's queue of the atomic unit behind every message that already waits at the line's home (R236, R264). Where none waits and no
transaction is open the line is pinned from now on, if it may; else it waits unpinned until its turn (R265; entry 85). -/
def pushAtom (line : Nat) (a : AtomReq) (s : State) : State :=
  let n := (tabGet [] line s.coh.queue).length
  let now := (tabFind line s.coh.open').isNone && n == 0 && takesPin line a s
  let s := { s with coh := { s.coh with atoms := tabPut line (tabGet [] line s.coh.atoms ++ [{ a with after := n }]) s.coh.atoms } }
  if now then pin line s else s

/-- A request opens a transaction: it grants E, F, S or ownership, or waits for snoops (R257, R258). -/
def opensTxn (line : Nat) (m : HMsg) (s : State) : Bool :=
  match m with
  | .rds r _ c => !(decide ((dirOf line s).dstate = .owned) && bit (dirOf line s).presence r && c == (dirOf line s).cdom)
  | .own _ _ => true
  | _ => !(snoopsOf line m s).isEmpty

/-- The sectors that a request reads at its home. -/
def HMsg.reads : HMsg → Nat
  | .rds _ mask _ | .rdn _ mask _ => mask
  | .dread _ off len _ _ | .rread _ _ _ off len _ => sectorsOf off len
  | _ => 0

/-- Memory has been filled since the cold reset (10 R297). -/
def memFilled (s : State) : Bool := match s.dev.stage with | .filled | .tested | .released => true | _ => false

/-- Sectors of a line can be read: memory has been filled (10 R297), and the home cache has the sectors or no calibration runs on the channel (10 R306). -/
def sectorsOpen (line mask : Nat) (s : State) : Bool := memFilled s && (!(chanOf (dpaChan (line * 512)) s).calib || absent line mask s == 0)

/-- A request's sectors can be read. -/
def readsOpen (line : Nat) (m : HMsg) (s : State) : Bool := m.reads == 0 || sectorsOpen line m.reads s

/-- A request may begin: its bytes can be read, and it opens no transaction, or a credit of its holder is free in the set (R267). -/
def mayBegin (line : Nat) (m : HMsg) (s : State) : Bool :=
  turnedAway line m s || (readsOpen line m s && (!opensTxn line m s || decide (creditsUsed line m.creditClass s < creditCap m.creditClass)))

/-- Takes the first waiting message of a line; operations of the atomic unit behind it move up. -/
def unqueue (line : Nat) (rest : List HMsg) (s : State) : State :=
  let atoms := if hasAtoms line s then tabPut line ((tabGet [] line s.coh.atoms).map (fun a => { a with after := a.after - 1 })) s.coh.atoms else s.coh.atoms
  { s with coh := { s.coh with queue := tabSet [] line rest s.coh.queue, atoms := atoms } }

/-- Processes the messages that wait on a line, in arrival order, until one opens a transaction, finds no credit, or stands behind an
operation of the atomic unit (R258, R265, R267). -/
def drain (line : Nat) : Nat → State → State
  | 0, s => s
  | fuel + 1, s =>
    if (tabFind line s.coh.open').isSome || atomNext line s then s
    else
      match tabGet [] line s.coh.queue with
      | [] => s
      | m :: rest => if mayBegin line m s then drain line fuel (begin' line m (unqueue line rest s)) else s

/-- Drains a line. -/
def drainLine (line : Nat) (s : State) : State := drain line (tabGet [] line s.coh.queue).length s

/-- A message waits at its line's home. -/
def enqueue (line : Nat) (m : HMsg) (s : State) : State :=
  { s with coh := { s.coh with queue := tabPut line (tabGet [] line s.coh.queue ++ [m]) s.coh.queue } }

/-- The agent whose request has a line's transaction open. -/
def Txn.requester (t : Txn) : Option Nat :=
  match t.msg with | .rds r _ _ | .rdn r _ _ | .own r _ | .push r _ _ => some r | _ => none

/-- A request arrives at the home (R258, R259, R267): on a busy line an Own of another agent is told PushReq and everything else waits; a request
that may not begin waits. -/
def arriveHome (line : Nat) (m : HMsg) (s : State) : State :=
  if lineBusy line s then
    match m with
    | .own r _ => if (tabFind line s.coh.open').bind Txn.requester == some r then enqueue line m s else send (.pushreq r line) s
    | _ => enqueue line m s
  else if !mayBegin line m s then enqueue line m s
  else begin' line m s

/-- A BAR4 write waits at its home (08 R242, R243). -/
def bar4Waits (s : State) : Bool :=
  let f := fun (m : HMsg) => match m with | .dwrite .pcie _ _ => true | _ => false
  s.coh.open'.any (fun e => f e.2.msg) || s.coh.queue.any (fun e => e.2.any f)

/-- BAR4 requests that waited behind a read go to their homes, the read once every write before it is visible (08 R242). -/
def bar4Go : Nat → State → State
  | 0, s => s
  | n + 1, s =>
    match s.coh.bar4 with
    | [] => s
    | (l, m) :: rest =>
      if (match m with | .dread _ _ _ _ _ => bar4Waits s | _ => false) then s
      else bar4Go n (arriveHome l m { s with coh := { s.coh with bar4 := rest } })

/-- A BAR4 request reaches the endpoint's direct agent: behind every one that waits (08 R242). -/
def bar4Push (line : Nat) (m : HMsg) (s : State) : State :=
  bar4Go (s.coh.bar4.length + 1) { s with coh := { s.coh with bar4 := s.coh.bar4 ++ [(line, m)] } }

/-- Drains every line whose messages wait. -/
def drainAll (s : State) : State :=
  let s := (s.coh.queue.map (fun e => e.1)).foldl (fun s l => drainLine l s) s
  bar4Go s.coh.bar4.length s

/-- A transaction of a line closed, or its pins went: the line drains, then the others of its set, which may have waited for the credit (R267), then
BAR4 reads that waited for the line's write. -/
def drainSet (line : Nat) (s : State) : State :=
  let s := drainLine line s
  let s := ((s.coh.queue.filter (fun e => e.1 != line && sameDirSet e.1 line)).map (fun e => e.1)).foldl (fun s l => drainLine l s) s
  bar4Go s.coh.bar4.length s

/-- A takedown and what it frees: the messages of other domains that waited behind its transactions go on (R258, R276). -/
def takeDown (inj : Option Nat) (det ukind unit cdom : Nat) (s : State) : State := drainAll (takedownBy inj det ukind unit cdom s)

/-- A request arrives; a takedown that it caused frees what waited behind the domain's transactions. -/
def arrive (line : Nat) (m : HMsg) (s : State) : State :=
  let t := arriveHome line m s
  if t.coh.failing = s.coh.failing then t else drainAll t

/-- A half of a fenced die issues nothing (15 R448). -/
def agentFenced (agent : Nat) (s : State) : Bool := decide (agent < 16) && s.flt.fences.any (fun f => f.dom == 3 && f.unit == agent / 2)

/-- A request that an agent issues reaches its home. -/
def issue (agent line : Nat) (m : HMsg) (s : State) : Res := .next (if agentFenced agent s then s else arrive line m s)

/-- A host core's own request: its L2 awaits the answer (T9-2, T9-4). A half's register stands since its core's miss. -/
def hostMiss (agent line cdom mask : Nat) (own : Bool) (s : State) : State :=
  if agent < 16 then s
  else
    let old := (tabFind (lineKey agent line) s.coh.miss).getD ⟨cdom, 0, 0, false, false, 0, false, false, [], []⟩
    { s with coh := { s.coh with miss := tabPut (lineKey agent line) { old with mask := old.mask ||| mask, fill := old.fill ||| mask, own := old.own || own } s.coh.miss } }

/-- RDS (R257). -/
def execRds (agent line : Nat) (mask : BitVec 8) (cdom : Nat) (s : State) : Res :=
  issue agent line (.rds agent mask.toNat cdom) (hostMiss agent line cdom mask.toNat false s)

/-- RDN (R257, R269). -/
def execRdn (agent line : Nat) (mask : BitVec 8) (cdom : Nat) (s : State) : Res := issue agent line (.rdn agent mask.toNat cdom) s

/-- OWN (R257, R259). -/
def execOwn (agent line cdom : Nat) (s : State) : Res := issue agent line (.own agent cdom) (hostMiss agent line cdom 0 true s)

/-- The bytes of an agent's Push: those of the stores that wait in its miss register after a PushReq (R259), else the ones given (entry 6). -/
def pushBytes (agent line : Nat) (bytes : List Cell) (s : State) : List Cell :=
  match tabFind (lineKey agent line) s.coh.miss with
  | some m => if m.push && !m.cells.isEmpty then m.cells else bytes.filter (fun c => decide (c.1 < 512))
  | none => bytes.filter (fun c => decide (c.1 < 512))

/-- PUSH (R257). -/
def execPush (agent line cdom : Nat) (bytes : List Cell) (s : State) : Res :=
  issue agent line (.push agent cdom (pushBytes agent line bytes s)) s

/-- WB (R263): what the agent's writeback buffer holds. -/
def execWb (agent line : Nat) (s : State) : Res :=
  match tabFind (lineKey agent line) s.coh.wbuf with
  | none => .next s
  | some w => issue agent line (.wb agent w) s

/-- EVICT (R261). A host core's L2 gives the line up in this step; a half's is gone since it chose its victim. -/
def execEvict (agent line : Nat) (s : State) : Res :=
  issue agent line (.evict agent) (match clineOf agent line s with | some c => if 16 ≤ agent && c.st == .E then delCLine agent line s else s | none => s)

/-- DIRECT_READ (R257): within one line. -/
def execDirectRead (da : DirectAgent) (addr len cdom : Nat) (s : State) : Res :=
  if cdom ∈ s.coh.failing then .next (emit (.dread da addr [] true) s)
  else .next (arrive (addr / 512) (.dread da (addr % 512) (min len (512 - addr % 512)) cdom addr) s)

/-- DIRECT_WRITE (R257): within one line. -/
def execDirectWrite (da : DirectAgent) (addr cdom : Nat) (bytes : List Byte) (s : State) : Res :=
  if cdom ∈ s.coh.failing then .next (emits (errorOut (.dwrite da cdom [])) s)
  else .next (arrive (addr / 512) (.dwrite da cdom ((cellsOf (addr % 512) bytes).filter (fun c => decide (c.1 < 512)))) s)

/-! ### Answers of agents -/

/-- The domain that a message which nobody awaited takes down (T9-10): the entry's, or the message's where the line has no entry. -/
def strayDom (agent line : Nat) (s : State) : Nat :=
  if (dirOf line s).dstate != .inv then (dirOf line s).cdom else if 16 ≤ agent then 0 else (chanOwner (dpaChan (line * 512)) s).getD 0

/-- SNOOP_RESPONSE (R257): the home merges returned dirty bytes and continues the waiting transaction; a response of an agent that was not
snooped takes the entry's domain down (R275). -/
def execSnoopResponse (agent line : Nat) (s : State) : Res :=
  match receive (fun m => match m with | .sresp a l _ _ _ _ _ => a == agent && l == line | _ => false) s with
  | some (.sresp _ _ dirty pois cells sectors _, s) =>
    (match tabFind line s.coh.open' with
    | none => .next (takeDown none detProtocol 0 0 (strayDom agent line s) s)
    | some t =>
      if !t.waits.contains agent then .next (takeDown none detProtocol 0 0 (strayDom agent line s) s)
      else
        let s := if dirty = 0 && pois = 0 then s
          else homeTake (dirOf line s).cdom line cells pois s
        let t := { t with waits := t.waits.erase agent, fwd := if sectors = 0 then t.fwd else t.fwd ++ cells }
        if !t.waits.isEmpty then .next { s with coh := { s.coh with open' := tabPut line t s.coh.open' } }
        else .next (finish line t s))
  | _ => .next s
where
  /-- The entry as the snoops left it: invalidated copies leave an INV entry (R257, R274). -/
  settle (line : Nat) (t : Txn) (s : State) : State :=
    let e := dirOf line s
    match t.msg with
    | .rds _ _ c | .rdn _ _ c => if c != e.cdom then setDir line e.toInv s else s
    | .own _ _ | .push _ _ _ | .spush _ _ _ | .dwrite _ _ _ | .rwrite _ _ _ _ _ | .discard _ => setDir line e.toInv s
    | _ => s
  /-- Every awaited response is in. A request that waited for a directory entry takes it before anything that waits on the victim's line (R268). -/
  finish (line : Nat) (t : Txn) (s : State) : State :=
    let s := settle line t s
    match t.evictFor with
    | some l =>
      let s := { s with coh := { s.coh with open' := tabDel line s.coh.open' } }
      drainSet l (match tabFind l s.coh.open' with | some u => serve l u.msg [] s | none => s)
    | none =>
      let s := { s with coh := { s.coh with open' := tabDel line s.coh.open' } }
      let s := setDir line { dirOf line s with lock := false } s
      if needsEntry line t.msg s then drainSet line (begin' line t.msg s) else drainSet line (serve line t.msg t.fwd s)

/-- GRANTACK (R258): closes the transaction; one with no grant outstanding, or one that an armed PROTOCOL injection makes unexpected, takes the entry's
domain down (R275; 15 T15-3). -/
def execGrantack (agent line : Nat) (s : State) : Res :=
  match receive (fun m => match m with | .grantack a l => a == agent && l == line | _ => false) s with
  | some (_, s) =>
    let i := takeInj 0x35 (dpaChan (line * 512)) s
    if i.1.isSome then .next (takeDown (i.1.map (fun x => x.num)) detProtocol 3 (dpaChan (line * 512)) (strayDom agent line s) i.2) else
    (match tabFind line s.coh.open' with
    | some t =>
      if t.grantee = some agent then
        let s := { s with coh := { s.coh with open' := tabDel line s.coh.open' } }
        .next (drainSet line (setDir line { dirOf line s with lock := false } s))
      else .next (takeDown none detProtocol 0 0 (strayDom agent line s) s)
    | none => .next (takeDown none detProtocol 0 0 (strayDom agent line s) s))
  | none => .next s

end Sys2Proof.Machine
end

