-- ==== Sys2Proof/Machine/AgentOps.lean ====
section
/-! DEFINITION. The caching agents (09): lines and their ways (R270, R278, R279), miss registers (R280), what an agent does with the messages it
receives (T9-4), hits, fills and stores of a half's cores (R248..R251, R269), and bulk reads that one step performs whole (entry 25). -/
namespace Sys2Proof.Machine

/-! ### Hits (R254, R290) -/

/-- A miss register. -/
def missOf (agent line : Nat) (s : State) : Option Miss := tabFind (lineKey agent line) s.coh.miss

/-- Whether the half holds the line in N and the read may not use it (T9-4). -/
def nMiss (c : CLine) (acq stream : Bool) : Bool := c.st == .N && (acq || !stream)

/-- Words of a span within a line. -/
def spanWords (off len : Nat) : List Nat := (List.range ((off + len + 7) / 8 - off / 8)).map (fun i => off / 8 + i)

/-- A word of an agent's line as a read decodes it (10 R290); a poisoned one reads as the poison code word. -/
def lineDec (agent line : Nat) (c : CLine) (w : Nat) (s : State) : Dec :=
  let d := decodeEcc (leNat (memRead c.data (8 * w) 8)) (tagOf (agentKey agent (line * 64 + w)) s)
  if bit c.pois w && d.n != 3 then { d with data := 0, p := true } else d

/-- The bytes of a span of a held line, good, corrected. -/
def lineRead (agent line : Nat) (c : CLine) (off len : Nat) (s : State) : List Byte × Bool × Bool :=
  let ds := (spanWords off len).map (fun w => lineDec agent line c w s)
  (((ds.flatMap (fun d => leBytes d.data 8)).drop (off % 8)).take len, ds.all (fun d => d.good), ds.any (fun d => d.n == 1 || d.n == 2))

/-- A read that hits on a line of its domain in a half: the bytes, and whether a word is lost. A line whose miss register holds stores does not answer yet, nor one on which
the half's own Push still waits (R220). -/
def halfHit (agent cdom dpa len : Nat) (acq stream : Bool) (s : State) : Option (List Byte × Bool) :=
  let line := dpa / 512
  let off := dpa % 512
  match clineOf agent line s with
  | none => none
  | some c =>
    if c.cdom != cdom || nMiss c acq stream || !bit c.valid (off / 64) then none
    else if (match missOf agent line s with | some m => !m.cells.isEmpty | none => false) || pushWaits agent line s then none
    else let r := lineRead agent line c off len s; some (r.1, !r.2.1)

/-- The array that a cached word's record names (T10-4): source, unit, index. -/
def agentSrc (agent : Nat) : Nat × Nat × Nat := if agent < 16 then (4, agent / 2, agent) else (7, 0, agent - 16)

/-- Records what the read of a cached word found; an uncorrectable word of an M line is poison from then on, one of a clean line goes with the line
(10 R290, R294). -/
def noteLineWord (agent line cdom w : Nat) (s : State) : State :=
  match clineOf agent line s with
  | none => s
  | some c =>
    let d := lineDec agent line c w s
    let a := agentSrc agent
    let s := logDec a.1 a.2.1 a.2.2 cdom (8 * (line * 64 + w)) d s
    if d.n != 3 then s
    else if c.st = .M then
      setTag (agentKey agent (line * 64 + w)) ⟨false, 0⟩ (setCLine agent line { c with pois := if bit c.pois w then c.pois else c.pois + 2 ^ w } s)
    else delCLine agent line s

/-- A use of a line makes it the most recent of its set (R270, R279). -/
def touchLine (agent line : Nat) (s : State) : State :=
  match clineOf agent line s with
  | none => s
  | some c => let s := tick s; setCLine agent line { c with used := s.stamp } s

/-- A read of a held line: its use, and what its words show. -/
def noteHit (agent dpa len cdom : Nat) (s : State) : State :=
  (spanWords (dpa % 512) len).foldl (fun s w => noteLineWord agent (dpa / 512) cdom w s) (touchLine agent (dpa / 512) s)

/-- A held M line's flawed dirty words are decoded before a snoop sends them (10 R290, R294). -/
def settleLine (agent line : Nat) (s : State) : State :=
  match clineOf agent line s with
  | none => s
  | some c =>
    if c.st != .M || s.mem.tags.isEmpty then s
    else (cellWords (dirtyCells c.dirty c.data)).foldl (fun s w =>
      match clineOf agent line s with
      | none => s
      | some c =>
        let k := agentKey agent (line * 64 + w)
        if (tagOf k s).e = 0 then s
        else
          let d := decodeEcc (leNat (memRead c.data (8 * w) 8)) (tagOf k s)
          let s := noteLineWord agent line c.cdom w s
          if d.n = 3 then s
          else setTag k ⟨false, 0⟩ (setCLine agent line { c with data := memWrite c.data (8 * w) (leBytes d.data 8) } s)) s

/-! ### Ways (R270, R278, R281) -/

/-- Lines of an agent's set: 2,048 sets of a half, 128 of an L2, by line q (entry 7). -/
def agentSet (agent line : Nat) (s : State) : List (Nat × CLine) :=
  let sets := if agent < 16 then 2048 else 128
  s.coh.lines.filter (fun e => e.1 / 2 ^ 40 == agent && dpaLine (e.1 % 2 ^ 40 * 512) % sets == dpaLine (line * 512) % sets)

/-- The N limit of a domain in a half (R270). -/
def nLimit (agent cdom : Nat) (s : State) : Nat :=
  match shellOf cdom s with
  | none => 1
  | some sh => match sh.comp.halves.find? (fun h => h.half == agent) with | some h => h.nWays | none => 1

/-- The domain that holds a way of a half (T9-11); none: the shared remainder. -/
def wayHolder (agent way : Nat) (s : State) : Option Nat := tabFind (agent * 32 + way) s.coh.ways

/-- A way test withdrew a way of a half. -/
def wayBad (agent way : Nat) (s : State) : Bool := s.flt.badWays.contains (agent * 256 + way)

/-- No line of another domain stands in a way of a half: it is clean for a new holder (R281). -/
def wayClean (agent way cdom : Nat) (s : State) : Bool :=
  s.coh.lines.all (fun e => e.1 / 2 ^ 40 != agent || e.2.way != way || e.2.cdom == cdom)

/-- Every way that a domain holds is clean for it (R281; 11 R323). -/
def waysClean (cdom : Nat) (s : State) : Bool := s.coh.ways.all (fun e => e.2 != cdom || wayClean (e.1 / 32) (e.1 % 32) cdom s)

/-- The home-cache ways of a set's channels hold no line of the other holder's (R281). -/
def slicesClean (st : ChSet) (s : State) : Bool :=
  s.coh.home.all (fun e => !st.chans.contains (dpaChan (e.1 * 512)) || e.2.direct == decide (st.ways ≤ e.2.way))

/-- Ways of a half that a domain holds. -/
def waysHeld (half cdom : Nat) (s : State) : List Nat := (List.range 32).filter (fun k => wayHolder half k s == some cdom)

/-- Lets a domain hold `n` ways of a half: the lowest ways that nobody holds come, the highest go back to the shared remainder (R278; entry 43). -/
def giveWays (half cdom n : Nat) (s : State) : State :=
  let have' := waysHeld half cdom s
  let free := (List.range 32).filter (fun k => (wayHolder half k s).isNone && !wayBad half k s)
  let w := (have'.drop n).foldl (fun t k => tabDel (half * 32 + k) t) s.coh.ways
  { s with coh := { s.coh with ways := (free.take (n - have'.length)).foldl (fun t k => tabPut (half * 32 + k) cdom t) w } }

/-- A domain may fill a way: its own once clean, or one of the shared remainder as best effort (R278, R279, R281); the host cores' L2s are not
divided. -/
def mayUse (agent cdom way : Nat) (s : State) : Bool :=
  if 16 ≤ agent then decide (way < 16)
  else decide (way < 32) && !wayBad agent way s &&
    (match wayHolder agent way s with | some d => d == cdom && wayClean agent way cdom s | none => true)

/-- A line may be chosen as a victim: no request for it is under way, or it leaves silently (T9-4; entry 91). -/
def evictable (agent : Nat) (s : State) (e : Nat × CLine) : Bool :=
  (missOf agent (e.1 % 2 ^ 40) s).isNone || e.2.st == .S || e.2.st == .N

/-- Where a domain's new line goes in an agent's set: the victims that leave, if any must, and the way; none while there is no room. An N line beyond
the limit replaces the domain's least recently used N line (R270); otherwise a free way, then the domain's N lines, then its oldest tracked line, then
the oldest line of the shared remainder (R270, R279). -/
def roomFor (agent line cdom : Nat) (n : Bool) (s : State) : Option (List Nat × Nat) :=
  let old := oldestOf (fun c : CLine => c.used)
  let out := fun (e : Nat × CLine) => e.1 % 2 ^ 40
  let all := agentSet agent line s
  let ns := all.filter (fun e => e.2.cdom == cdom && e.2.st == .N)
  let over' := if n && decide (nLimit agent cdom s ≤ ns.length) then (match old ns with | some e => [e] | none => []) else []
  let set := all.filter (fun e => !over'.any (fun x => x.1 == e.1))
  let ways := (List.range 32).filter (fun k => mayUse agent cdom k s)
  let mine := ways.filter (fun k => wayHolder agent k s == some cdom) ++ ways.filter (fun k => wayHolder agent k s != some cdom)
  match mine.find? (fun k => !set.any (fun e => e.2.way == k)) with
  | some k => some (over'.map out, k)
  | none =>
    let can := set.filter (fun e => ways.contains e.2.way && evictable agent s e)
    let own := can.filter (fun e => e.2.cdom == cdom)
    match old (own.filter (fun e => e.2.st == .N)), old own, old can with
    | some e, _, _ => some (over'.map out ++ [out e], e.2.way)
    | none, some e, _ => some (over'.map out ++ [out e], e.2.way)
    | none, none, some e => some (over'.map out ++ [out e], e.2.way)
    | none, none, none => none

/-- Evicts a line of an agent (T9-4): M to the writeback buffer with a WB, E and F with an Evict, S and N silently. -/
def evictLine (agent line : Nat) (s : State) : State :=
  match clineOf agent line s with
  | none => s
  | some c0 =>
    let s := settleLine agent line s
    let c := (clineOf agent line s).getD c0
    match c.st with
    | .M =>
      let s := delCLine agent line s
      let s := { s with coh := { s.coh with wbuf := tabPut (lineKey agent line) ⟨c.cdom, c.otag, c.dirty, c.pois, c.data⟩ s.coh.wbuf } }
      request agent line 5 0 s
    | .E | .F => request agent line 6 0 (delCLine agent line s)
    | .S | .N => delCLine agent line s

/-- Makes room for a domain's line in an agent's set and says its way. An N line of another domain gives way. -/
def agentRoom (agent line cdom : Nat) (n : Bool) (s : State) : Option (Nat × State) :=
  match clineOf agent line s with
  | some c =>
    if c.cdom = cdom then some (c.way, s)
    else (roomFor agent line cdom n (delCLine agent line s)).map (fun r => (r.2, r.1.foldl (fun s v => evictLine agent v s) (delCLine agent line s)))
  | none => (roomFor agent line cdom n s).map (fun r => (r.2, r.1.foldl (fun s v => evictLine agent v s) s))

/-! ### Miss registers (R280) -/

/-- Miss registers that a domain holds in a half (R280). -/
def missRegs (agent cdom : Nat) (s : State) : Nat :=
  match shellOf cdom s with
  | none => 0
  | some sh => match sh.comp.halves.find? (fun h => h.half == agent) with | some h => h.regs | none => 0

/-- Miss registers that a domain uses in a half. -/
def missUsed (agent cdom : Nat) (s : State) : Nat :=
  (s.coh.miss.filter (fun e => e.1 / 2 ^ 40 == agent && e.2.cdom == cdom)).length

/-- A request for a line can have a miss register: it has one, or its domain has one free. -/
def missRoom (agent line cdom : Nat) (s : State) : Bool :=
  (missOf agent line s).isSome || decide (missUsed agent cdom s < missRegs agent cdom s)

/-- Sets or frees a miss register. -/
def setMiss (agent line : Nat) (m : Option Miss) (s : State) : State :=
  match m with
  | some m => { s with coh := { s.coh with miss := tabPut (lineKey agent line) m s.coh.miss } }
  | none => { s with coh := { s.coh with miss := tabDel (lineKey agent line) s.coh.miss } }

/-- A register that waits for nothing yet. -/
def Miss.zero (cdom : Nat) : Miss := ⟨cdom, 0, 0, false, false, 0, false, false, [], []⟩

/-- The agent may send a request for a line: its writeback buffer does not hold it (R262). -/
def mayRequest (agent line : Nat) (s : State) : Bool := (tabFind (lineKey agent line) s.coh.wbuf).isNone

/-- Merges a store's cells into a line held in M (R250). -/
def storeCells (cells : List Cell) (c : CLine) : CLine :=
  { c with st := .M, data := memCells c.data 0 cells, dirty := cells.foldl (fun d x => d ||| 2 ^ x.1) c.dirty,
           pois := (cellWords cells).foldl (fun p w => if bit p w && wholeWord (cellsOfWord w cells) then p - 2 ^ w else p) c.pois }

/-- One word of a store in an array: the merge decodes the stored word first; a corrected word is stored anew, a lost one becomes poison (10 R291). -/
def storeWord (agent line cdom : Nat) (cells : List Cell) (s : State) (w : Nat) : State :=
  match clineOf agent line s with
  | none => s
  | some c =>
    let k := agentKey agent (line * 64 + w)
    let d := decodeEcc (leNat (memRead c.data (8 * w) 8)) (tagOf k s)
    if wholeWord (cellsOfWord w cells) || (tagOf k s).e = 0 then setTag k ⟨false, 0⟩ s
    else
      let a := agentSrc agent
      let s := logDec a.1 a.2.1 a.2.2 cdom (8 * (line * 64 + w)) d.moved s
      setTag k ⟨false, 0⟩ (setCLine agent line
        (if d.n = 3 then { c with pois := if bit c.pois w then c.pois else c.pois + 2 ^ w } else { c with data := memWrite c.data (8 * w) (leBytes d.data 8) }) s)

/-- A store into a line that the agent owns (R250; 10 R291). -/
def storeHeld (agent line cdom : Nat) (cells : List Cell) (s : State) : State :=
  let s := (cellWords cells).foldl (storeWord agent line cdom cells) (touchLine agent line s)
  match clineOf agent line s with
  | none => s
  | some c => setCLine agent line (storeCells cells c) s

/-- Bytes of returned sectors that a line's dirty mask lets in (R251). -/
def fillCells (dirty : Nat) (cells : List Cell) : List Cell := cells.filter (fun c => !bit dirty c.1)

/-- The line after a fill of sectors (R251, R254). -/
def fillLine (mask : Nat) (cells : List Cell) (pois : Nat) (c : CLine) : CLine :=
  let inMask := maskOf ((List.range 64).filter (fun w => bit mask (w / 8)))
  { c with valid := c.valid ||| mask, data := memCells c.data 0 (fillCells c.dirty cells),
           pois := (c.pois &&& ((2 ^ 64 - 1) ^^^ inMask)) ||| (pois &&& inMask) ||| (c.pois &&& inMask &&& maskOf (cellWords (dirtyCells c.dirty c.data))) }

/-- Installs returned sectors in a line; their words are new codewords (10 R289). -/
def installFill (agent line mask : Nat) (cells : List Cell) (pois : Nat) (c : CLine) (s : State) : State :=
  let k := agentKey agent (line * 64)
  setCLine agent line (fillLine mask cells pois c)
    { s with mem := { s.mem with tags := s.mem.tags.filter (fun e => !(decide (k ≤ e.1) && decide (e.1 < k + 64) && bit mask ((e.1 - k) / 8))) } }

/-- Every group of a half's cores (R247). -/
def mapGroups (agent : Nat) (f : Group → Group) (s : State) : State :=
  { s with cores := s.cores.map (fun (e : Nat × Core) =>
      if halfOf s e.1 = agent then
        (e.1, { e.2 with groups := e.2.groups.map (fun (g : Nat × Group) => (g.1, f g.2)), saved := e.2.saved.map (fun (g : Nat × Group) => (g.1, f g.2)) })
      else e) }

/-- A far load's item that waits for its line. -/
def itemWaits (line : Nat) (f : FarReq) (it : FarItem) : Bool :=
  f.kind == 0 && (match it.loc with | .mem d _ _ => d / 512 == line && it.got.isNone && !it.err | _ => false)

/-- The data that a waiting item can take from its half now. -/
def itemHit (agent line cdom : Nat) (f : FarReq) (s : State) (it : FarItem) : FarItem :=
  if !itemWaits line f it then it
  else match it.loc with
  | .mem dpa _ st => (match halfHit agent cdom dpa it.len (f.acq != 0) st s with | some (b, bad) => { it with got := some b, err := bad } | none => it)
  | _ => it

/-- Waiters of a line, in list order, take their bytes as its sectors arrive (R280): so one agent's reads keep the line's order (08 R220). -/
def wakeLoads (agent line : Nat) (s : State) : State :=
  let groups := s.cores.flatMap (fun e => if halfOf s e.1 = agent then e.2.groups.map (fun g => g.2) ++ e.2.saved.map (fun g => g.2) else [])
  let read := groups.flatMap (fun g => g.far.flatMap (fun f =>
    (f.items.filter (fun it => itemWaits line f it && (itemHit agent line g.cdom f s it).got.isSome)).map (fun it => (g.cdom, it))))
  if read.isEmpty then s
  else
    let s' := mapGroups agent (fun g => { g with far := g.far.map (fun f => { f with items := f.items.map (itemHit agent line g.cdom f s) }) }) s
    read.foldl (fun s x => match x.2.loc with | .mem d _ _ => noteHit agent d x.2.len x.1 s | _ => s) s'

/-- Sectors that a register's readers still lack: tracked reads need a tracked line, a read under `stream` takes any (T9-4). -/
def missing (m : Miss) (c : Option CLine) : Nat × Nat :=
  match c with
  | none => (m.mask, m.nmask)
  | some c => if c.cdom != m.cdom then (m.mask, m.nmask) else (if c.st = .N then m.mask else m.mask &&& ((2 ^ 8 - 1) ^^^ c.valid), m.nmask &&& ((2 ^ 8 - 1) ^^^ c.valid))

/-- What a register does once nothing of it is with the home (R250, R251, R259, R262, R280): stores go into a line that the agent owns, else an Own is
sent; then the missing sectors are asked for in one request; a register that waits for nothing is freed. -/
def pump (agent line : Nat) (s : State) : State :=
  match missOf agent line s with
  | none => s
  | some m =>
    if m.own || m.push || m.fill != 0 || !mayRequest agent line s then s
    else
      let c := clineOf agent line s
      let owned := match c with | some c => c.cdom == m.cdom && (c.st == .M || c.st == .E) | none => false
      if !m.cells.isEmpty && !owned then
        request agent line 3 0 (setMiss agent line (some { m with own := true }) (match c with | some c => if c.st = .N then delCLine agent line s else s | none => s))
      else
        let s := if m.cells.isEmpty then s else storeHeld agent line m.cdom m.cells s
        let m := { m with cells := [], by' := [] }
        let lack := missing m (clineOf agent line s)
        if lack.1 != 0 then
          request agent line 1 (lack.1 ||| lack.2) (setMiss agent line (some { m with fill := lack.1 ||| lack.2, nfill := false, stale := false })
            (match clineOf agent line s with | some c => if c.st = .N then delCLine agent line s else s | none => s))
        else if lack.2 != 0 then
          let tracked := match clineOf agent line s with | some c => c.st != .N | none => false
          request agent line (if tracked then 1 else 2) lack.2 (setMiss agent line (some { m with fill := lack.2, nfill := !tracked, stale := false }) s)
        else setMiss agent line none s

/-- A register after something of its line changed: its stores and requests go on, its readers take what is there. A register whose readers were all
served is freed. -/
def wakeMiss (agent line : Nat) (s : State) : State := wakeLoads agent line (pump agent line s)

/-! ### What an agent does with a message (T9-4) -/

/-- DATA (R249, R251, R254): the agent installs the sectors in the granted state and answers a grant of E, F or S with GrantAck (R258). Sectors for an
owner whose line left meanwhile, and N sectors that a drop of N lines overtook (R233), are asked for again. A fill waits while its set has no room.
A Data nobody asked for takes the message's domain down (R275). -/
def execData (agent line : Nat) (s0 : State) : Res :=
  match receive (fun m => match m with | .data a l _ _ _ _ _ => a == agent && l == line | _ => false) s0 with
  | some (.data _ _ mask st otag cells pois, s) =>
    (match missOf agent line s with
    | none =>
      let d := match clineOf agent line s with | some c => c.cdom | none => strayDom agent line s
      .next (takeDown none detProtocol 0 0 d s)
    | some m =>
      if m.fill = 0 then .next (takeDown none detProtocol 0 0 m.cdom s)
      else
        let again := setMiss agent line (some { m with fill := 0, nfill := false, stale := false }) s
        if (st.isNone && (clineOf agent line s).isNone) || (st == some .N && m.stale) then .next (pump agent line again)
        else
          match agentRoom agent line m.cdom (st == some .N) (tick again) with
          | none => .next s0
          | some (k, s) =>
            let c0 : CLine := match clineOf agent line s with
              | some c => { c with otag := if st == some .E then otag else c.otag }
              | none => { st := st.getD .S, way := k, cdom := m.cdom, otag := otag, valid := 0, dirty := 0, pois := 0, data := [], used := s.stamp }
            let s := installFill agent line mask cells pois c0 s
            let s := if st == some .E || st == some .F || st == some .S then send (.grantack agent line) s else s
            .next (wakeMiss agent line s))
  | _ => .next s0

/-- GRANT (R250): ownership without data; the waiting store merges. -/
def execGrant (agent line : Nat) (s0 : State) : Res :=
  match receive (fun m => match m with | .grant a l _ => a == agent && l == line | _ => false) s0 with
  | some (.grant _ _ otag, s) =>
    (match missOf agent line s with
    | none => .next (takeDown none detProtocol 0 0 (strayDom agent line s) s)
    | some m =>
      if !m.own then .next (takeDown none detProtocol 0 0 m.cdom s)
      else
        match agentRoom agent line m.cdom false (tick (setMiss agent line (some { m with own := false }) s)) with
        | none => .next s0
        | some (k, s) =>
          let c0 : CLine := match clineOf agent line s with
            | some c => { c with st := .M, otag := otag }
            | none => { st := .M, way := k, cdom := m.cdom, otag := otag, valid := 0, dirty := 0, pois := 0, data := [], used := s.stamp }
          let s := setCLine agent line c0 s
          .next (send (.grantack agent line) (wakeMiss agent line s)))
  | _ => .next s0

/-- PUSHREQ (R259): the half keeps the line in I and sends the store's bytes as a Push. -/
def execPushreq (agent line : Nat) (s : State) : Res :=
  match receive (fun m => match m with | .pushreq a l => a == agent && l == line | _ => false) s with
  | some (_, s) =>
    (match missOf agent line s with
    | none => .next s
    | some m => .next (request agent line 4 0 (delCLine agent line (setMiss agent line (some { m with push := true, own := false }) s))))
  | none => .next s

/-- PUSHACK (R259): the half retires the pushed store; what else the register waits for is asked for now. -/
def execPushack (agent line : Nat) (s : State) : Res :=
  match receive (fun m => match m with | .pushack a l => a == agent && l == line | _ => false) s with
  | some (_, s) =>
    (match missOf agent line s with
    | some m => .next (if m.push then wakeMiss agent line (setMiss agent line (some { m with push := false, cells := [], by' := [] }) s) else s)
    | none => .next s)
  | none => .next s

/-- What an agent answers a snoop with (R255, R262): its array's bytes, its writeback buffer's, or a miss. -/
def snoopAnswer (agent line : Nat) (s : State) : NMsg :=
  match clineOf agent line s with
  | some c => if c.st = .M then .sresp agent line c.dirty c.pois (dirtyCells c.dirty c.data) 0 false else .sresp agent line 0 0 [] 0 false
  | none =>
    match tabFind (lineKey agent line) s.coh.wbuf with
    | some w => .sresp agent line w.dirty w.pois (dirtyCells w.dirty w.data) 0 true
    | none => .sresp agent line 0 0 [] 0 false

/-- Sends a snoop's answer. An armed SNOOP_TIMEOUT injection makes the agent keep it back (15 T15-3). -/
def respondSnoop (agent line : Nat) (ans : NMsg) (s : State) : State :=
  match takeInj 0x34 agent s with
  | (some i, s) => { s with flt := { s.flt with withheld := tabPut (lineKey agent line) i.num s.flt.withheld } }
  | (none, s) => send ans s

/-- SNPINV (R254): the line goes to I, dirty bytes return. -/
def execSnpinv (agent line : Nat) (s : State) : Res :=
  match receive (fun m => match m with | .snpinv a l => a == agent && l == line | _ => false) s with
  | some (_, s) =>
    let s := settleLine agent line s
    let ans := snoopAnswer agent line s
    let s := match clineOf agent line s with | some c => if c.st = .N then s else delCLine agent line s | none => s
    .next (respondSnoop agent line ans s)
  | none => .next s

/-- SNPSHR (R254): M or E goes to F, dirty bytes return; a host-core L2 has no F and goes to S. -/
def execSnpshr (agent line : Nat) (s : State) : Res :=
  match receive (fun m => match m with | .snpshr a l => a == agent && l == line | _ => false) s with
  | some (_, s) =>
    let s := settleLine agent line s
    let ans := snoopAnswer agent line s
    let s := match clineOf agent line s with
      | some c => if c.st = .M || c.st = .E then setCLine agent line { c with st := (if agent < 16 then .F else .S), dirty := 0, valid := sharedValid c } s else s
      | none => s
    .next (respondSnoop agent line ans s)
  | none => .next s
where
  /-- Sectors that stay readable: those valid, and those the dirty bytes cover whole. -/
  sharedValid (c : CLine) : Nat :=
    maskOf ((List.range 8).filter (fun k => bit c.valid k || bits c.dirty (64 * k + 63) (64 * k) == 2 ^ 64 - 1))

/-- SNPCUR (R254): M returns its dirty bytes and keeps them dirty. -/
def execSnpcur (agent line : Nat) (s : State) : Res :=
  match receive (fun m => match m with | .snpcur a l => a == agent && l == line | _ => false) s with
  | some (_, s) => let s := settleLine agent line s; .next (respondSnoop agent line (snoopAnswer agent line s) s)
  | none => .next s

/-- SNPFWD (R255): an F holder returns the requested sectors that it holds, each whose words are good. -/
def execSnpfwd (agent line : Nat) (s : State) : Res :=
  match receive (fun m => match m with | .snpfwd a l _ => a == agent && l == line | _ => false) s with
  | some (.snpfwd _ _ mask, s) =>
    let ans := match clineOf agent line s with
      | some c =>
        if c.st = .F then
          let ks := (bitList (mask &&& c.valid) 8).filter (fun k => (lineRead agent line c (64 * k) 64 s).2.1)
          NMsg.sresp agent line 0 0 (ks.flatMap (fun k => cellsOf (64 * k) (lineRead agent line c (64 * k) 64 s).1)) (maskOf ks) false
        else .sresp agent line 0 0 [] 0 false
      | none => snoopAnswer agent line s
    .next (respondSnoop agent line ans s)
  | _ => .next s

/-- WBACK (R262): the agent frees its writeback buffer; a request that waited for it goes out. -/
def execWback (agent line : Nat) (s : State) : Res :=
  match receive (fun m => match m with | .wback a l _ => a == agent && l == line | _ => false) s with
  | some (_, s) => .next (pump agent line { s with coh := { s.coh with wbuf := tabDel (lineKey agent line) s.coh.wbuf } })
  | none => .next s

/-! ### Reads and stores of a half's cores (R248..R251) -/

/-- Drops a line in N (T9-4). -/
def dropN (agent line : Nat) (s : State) : State :=
  match clineOf agent line s with
  | some c => if c.st = .N then delCLine agent line s else s
  | none => s

/-- A read miss: the sector joins the line's miss register, and a request goes to the home unless one is there already (R251, R280). -/
def askFill (agent dpa cdom : Nat) (acq stream : Bool) (s : State) : State :=
  let line := dpa / 512
  let b := 2 ^ (dpa % 512 / 64)
  let s := if acq || !stream then dropN agent line s else s
  let m := (missOf agent line s).getD (Miss.zero cdom)
  let m := if stream && !acq then { m with nmask := m.nmask ||| b } else { m with mask := m.mask ||| b }
  pump agent line (setMiss agent line (some m) s)

/-- A line that takes a store now: no push of it is on its way (R259). -/
def storeOpen (agent line : Nat) (s : State) : Bool := match missOf agent line s with | some m => !m.push | none => true

/-- A thread store (R250): merges in M or E, else waits for ownership. Cells have offsets in the line; `by'` says who stores. -/
def storeLine (agent line cdom : Nat) (by' : Nat × Nat × Nat × Nat × Nat) (cells : List Cell) (s : State) : State :=
  let s := dropN agent line s
  let held := match clineOf agent line s with | some c => c.cdom == cdom && (c.st == .M || c.st == .E) | none => false
  let waits := match missOf agent line s with | some m => !m.cells.isEmpty || m.own | none => false
  if held && !waits then storeHeld agent line cdom cells s
  else
    let m := (missOf agent line s).getD (Miss.zero cdom)
    pump agent line (setMiss agent line (some { m with cells := m.cells ++ cells, by' := m.by' ++ [by'] }) s)

/-- Drops every N line of a domain in a half (R233, R269); an RdN on its way brings nothing that stays. -/
def dropAllN (agent cdom : Nat) (s : State) : State :=
  { s with coh := { s.coh with
    lines := s.coh.lines.filter (fun e => !(e.1 / 2 ^ 40 == agent && e.2.st == .N && e.2.cdom == cdom))
    miss := s.coh.miss.map (fun e => if e.1 / 2 ^ 40 == agent && e.2.cdom == cdom && e.2.nfill then (e.1, { e.2 with stale := true }) else e) } }

/-- Whether a half still holds stores of a domain that are not performed. -/
def storesWait (agent cdom : Nat) (s : State) : Bool :=
  s.coh.miss.any (fun e => e.1 / 2 ^ 40 == agent && e.2.cdom == cdom && !e.2.cells.isEmpty)

/-! ### Bulk reads -/

/-- Makes room for a new entry of a line at once: a full set loses its oldest entry that is not locked (R268). -/
def dirRoom (line : Nat) (s : State) : State :=
  match victimOf line s with
  | none => s
  | some v => recallAll v s

/-- A copy of another domain is recalled and its entry freed before a line is served (R274). -/
def retag (line cdom : Nat) (s : State) : State :=
  if (dirOf line s).dstate != .inv && (dirOf line s).cdom != cdom then recallAll line s else s

/-- The directory's part of a tracked read performed whole (T9-7): the new state of the reader's line and the ownership tag. -/
def grantRead (agent line cdom : Nat) (s : State) : LState × Nat × State :=
  let s := retag line cdom s
  let e := dirOf line s
  match e.dstate with
  | .owned =>
    let o := (holders e).headD 0
    if o = agent then (.E, e.otag, s)
    else
      let s := settleLine o line s
      let s := match clineOf o line s with
        | some c =>
          let s := if c.st = .M then homeTake e.cdom line (dirtyCells c.dirty c.data) c.pois s else s
          setCLine o line { c with st := (if o < 16 then .F else .S), dirty := 0, valid := execSnpshr.sharedValid c } s
        | none => (match tabFind (lineKey o line) s.coh.wbuf with | some w => homeTake e.cdom line (dirtyCells w.dirty w.data) w.pois s | none => s)
      (.S, 0, setDir line { e with dstate := .shared, fwd := (if o < 16 then some o else none), presence := 2 ^ o + 2 ^ agent, used := s.stamp } s)
  | .shared =>
    let st := if e.fwd.isSome && e.fwd != some agent then LState.S else .F
    (st, 0, setDir line { e with fwd := (if e.fwd.isSome then e.fwd else some agent), presence := e.presence ||| 2 ^ agent, used := s.stamp } s)
  | .failed => (.S, 0, s)
  | .inv =>
    let s := dirRoom line s
    let ot := (e.otag + 1) % 256
    (.E, ot, setDir line { cdom := cdom, dstate := .owned, lock := false, otag := ot, fwd := none, presence := 2 ^ agent, used := s.stamp } s)

/-- Sectors as a read at the home finds them now, and their lost words. -/
def curSectors (line mask : Nat) (s : State) : List Cell × Nat :=
  ((bitList mask 8).flatMap (fun k => cellsOf (64 * k) (homeRead (line * 512 + 64 * k) 64 s).1),
   maskOf ((List.range 64).filter (fun w => bit mask (w / 8) && !(homeRead (line * 512 + 8 * w) 8 s).2.1)))

/-- Fills sectors of a line in a half at once. On a line that is busy at its home the request takes its place in the queue (R258) and the line comes
with its Data; while the writeback buffer holds the line nothing is kept (R262). -/
def bulkFill (agent line mask cdom : Nat) (stream : Bool) (s : State) : State :=
  let s := tick s
  if !mayRequest agent line s || cdom ∈ s.coh.failing then s
  else if (missOf agent line s).isSome || lineBusy line s then
    if !missRoom agent line cdom s then s
    else
      let m := (missOf agent line s).getD (Miss.zero cdom)
      let fresh := (missOf agent line s).isNone
      let n := stream && (match clineOf agent line s with | some c => c.st == .N | none => true)
      let m := if stream then { m with nmask := m.nmask ||| mask } else { m with mask := m.mask ||| mask }
      if !fresh then setMiss agent line (some m) s
      else enqueue line (if n then .rdn agent mask cdom else .rds agent mask cdom) (setMiss agent line (some { m with fill := mask, nfill := n }) s)
  else
    match (clineOf agent line s).filter (fun c => c.cdom == cdom) with
    | some c =>
      let d := curSectors line mask s
      installFill agent line mask d.1 d.2 { c with used := s.stamp } s
    | none =>
      match agentRoom agent line cdom stream s with
      | none => s
      | some (k, s) =>
        let g : LState × Nat × State := if stream then (.N, 0, retag line cdom s) else grantRead agent line cdom s
        let s := g.2.2
        let d := curSectors line mask s
        installFill agent line mask d.1 d.2 { st := g.1, way := k, cdom := cdom, otag := g.2.1, valid := 0, dirty := 0, pois := 0, data := [], used := s.stamp } s

/-- The bytes of one span within a line as a half's bulk read returns them: its own valid sectors (N lines under `stream` only), the rest from
the home under its own dirty bytes and the stores that wait in its miss register; whether all words were good, whether one was corrected. -/
def bulkSpan (agent cdom dpa len : Nat) (stream : Bool) (s : State) : List Byte × Bool × Bool :=
  let line := dpa / 512
  let own := if pushWaits agent line s then none else match clineOf agent line s with | some c => if c.cdom != cdom || nMiss c false stream then none else some c | none => none
  let wait := match missOf agent line s with | some m => m.cells | none => []
  let rd := (spanWords (dpa % 512) len).map (fun w =>
    let base : List Byte × Bool × Bool := match own with
      | some c =>
        if bit c.valid (w / 8) then lineRead agent line c (8 * w) 8 s
        else
          let h := homeRead (line * 512 + 8 * w) 8 s
          (memRead (memCells (memWrite [] 0 h.1) 0 (cellsOfWord w (dirtyCells c.dirty c.data))) 0 8, h.2.1 && !bit c.pois w, h.2.2)
      | none => homeRead (line * 512 + 8 * w) 8 s
    (memRead (memCells (memWrite [] 0 base.1) 0 (cellsOfWord w wait)) 0 8, base.2.1, base.2.2))
  (((rd.flatMap (fun x => x.1)).drop (dpa % 8)).take len, rd.all (fun x => x.2.1), rd.any (fun x => x.2.2))

/-- A bulk read's sectors can be had: those that the half does not hold can be read at the home (10 R297, R306). -/
def bulkOpen (agent cdom dpa len : Nat) (stream : Bool) (s : State) : Bool :=
  let line := dpa / 512
  let have' := match clineOf agent line s with | some c => if c.cdom = cdom && !nMiss c false stream then c.valid else 0 | none => 0
  let mask := sectorsOf (dpa % 512) len &&& ((2 ^ 8 - 1) ^^^ have')
  mask == 0 || decide (cdom ∈ s.coh.failing) || sectorsOpen line mask s

/-- A station's or copy's read of one span within a line (T9-2): the bytes, good, corrected, and the state with the line kept. A failed domain's read
is an error (R277). -/
def bulkRead (agent cdom dpa len : Nat) (stream : Bool) (s : State) : List Byte × Bool × Bool × State :=
  let line := dpa / 512
  if cdom ∈ s.coh.failing then ([], false, false, s)
  else
    let s := if stream then s else dropN agent line s
    let r := bulkSpan agent cdom dpa len stream s
    let have' := match clineOf agent line s with | some c => if c.cdom = cdom then c.valid else 0 | none => 0
    let mask := sectorsOf (dpa % 512) len &&& ((2 ^ 8 - 1) ^^^ have')
    let s := noteHit agent dpa len cdom s
    if mask = 0 then (r.1, r.2.1, r.2.2, s)
    else (r.1, r.2.1, r.2.2, bulkFill agent line mask cdom stream (noteSectors cdom line mask s))

end Sys2Proof.Machine
end

