-- ==== Sys2Proof/Machine/Num.lean ====
section
/-! DEFINITION. Exact values and their rounding: dyadic numbers, the element formats of T4-1, binary32 arithmetic (06 R175), block and
tile scales (04 R107, R110), and the conversion of Outlet (04 R121, R122). -/
namespace Sys2Proof.Machine

/-- The dyadic number m × 2^e. -/
structure Dy where
  m : Int
  e : Int
  deriving DecidableEq, Repr

def dyZero : Dy := ⟨0, 0⟩
def dyMul (a b : Dy) : Dy := ⟨a.m * b.m, a.e + b.e⟩
def dyNeg (a : Dy) : Dy := ⟨-a.m, a.e⟩
def dyAbs (a : Dy) : Dy := ⟨a.m.natAbs, a.e⟩

/-- Exact sum. -/
def dyAdd (a b : Dy) : Dy :=
  if a.e ≤ b.e then ⟨a.m + b.m * (2 : Int) ^ (b.e - a.e).toNat, a.e⟩
  else ⟨a.m * (2 : Int) ^ (a.e - b.e).toNat + b.m, b.e⟩

/-- Sign of a − b. -/
def dySign (a b : Dy) : Int := (dyAdd a (dyNeg b)).m
def dyLt (a b : Dy) : Bool := decide (dySign a b < 0)
def dyEq (a b : Dy) : Bool := decide (dySign a b = 0)

/-- Number of bits of a magnitude; 0 for 0. -/
def bitLen (n : Nat) : Nat := if n = 0 then 0 else n.log2 + 1

/-- floor(log2 |x|) of a nonzero dyadic. -/
def dyLog (a : Dy) : Int := (bitLen a.m.natAbs : Int) - 1 + a.e

/-- How a rounding treats what lies between two results. -/
inductive Rnd where
  | nearest
  | toZero
  deriving DecidableEq, Repr

/-- m / 2^k rounded to an integer: to nearest with ties to even, or toward zero. -/
def rndShift (r : Rnd) (m : Int) (k : Nat) : Int :=
  let p : Int := (2 : Int) ^ k
  match r with
  | .toZero => if m < 0 then -((-m) / p) else m / p
  | .nearest =>
    let q := m / p
    let rem2 := 2 * (m % p)
    if rem2 < p then q else if rem2 > p then q + 1 else if q % 2 = 0 then q else q + 1

/-- x / 2^a rounded to an integer (05 R128 with `nearest`). -/
def quantize (r : Rnd) (x : Dy) (a : Int) : Int :=
  if a ≤ x.e then x.m * (2 : Int) ^ (x.e - a).toNat else rndShift r x.m (a - x.e).toNat

/-! ### Formats -/

/-- A floating-point format: exponent bits, mantissa bits, bias, largest finite pattern without sign, NaN pattern written. -/
structure FFmt where
  eb   : Nat
  mb   : Nat
  bias : Int
  maxP : Nat
  nanP : Nat
  deriving DecidableEq, Repr

def fp4 : FFmt := ⟨2, 1, 1, 0x7, 0x0⟩
def fp6e2m3 : FFmt := ⟨2, 3, 1, 0x1F, 0x0⟩
def fp6e3m2 : FFmt := ⟨3, 2, 3, 0x1F, 0x0⟩
def fp8e4m3 : FFmt := ⟨4, 3, 7, 0x7E, 0x7F⟩
def fp8e5m2 : FFmt := ⟨5, 2, 15, 0x7B, 0x7E⟩
def bf16 : FFmt := ⟨8, 7, 127, 0x7F7F, 0x7FC0⟩
def fp16 : FFmt := ⟨5, 10, 15, 0x7BFF, 0x7E00⟩
def fp32 : FFmt := ⟨8, 23, 127, 0x7F7FFFFF, 0x7FC00000⟩

/-- The float format of a code of T3-1. -/
def ffmtOf : Nat → Option FFmt
  | 0x01 => some fp4 | 0x02 => some fp6e2m3 | 0x03 => some fp6e3m2 | 0x04 => some fp8e4m3
  | 0x05 => some fp8e5m2 | 0x08 => some bf16 | 0x09 => some fp16 | 0x0A => some fp32 | _ => none

/-- Element bits of a code of T3-1; 0 for a reserved code. -/
def fmtBits : Nat → Nat
  | 0x01 => 4 | 0x02 => 6 | 0x03 => 6 | 0x04 => 8 | 0x05 => 8 | 0x06 => 8 | 0x07 => 4
  | 0x08 => 16 | 0x09 => 16 | 0x0A => 32 | 0x0B => 32 | 0x0C => 128 | _ => 0

/-- What a stored pattern decodes to (04 R105). -/
inductive FVal where
  | nan
  | inf (neg : Bool)
  | fin (neg : Bool) (mag : Dy)
  deriving DecidableEq, Repr

/-- The signed value of a finite decode. -/
def finDy (neg : Bool) (mag : Dy) : Dy := if neg then dyNeg mag else mag

/-- Decodes a pattern of a float format. E4M3 has no infinity and one NaN mantissa; the formats below 8 bits have neither. -/
def decodeF (f : FFmt) (p : Nat) : FVal :=
  let neg := bit p (f.eb + f.mb)
  let body := p % 2 ^ (f.eb + f.mb)
  let e := body / 2 ^ f.mb
  let m := body % 2 ^ f.mb
  if body > f.maxP then
    (if f = fp8e4m3 then .nan else if m = 0 then .inf neg else .nan)
  else if e = 0 then .fin neg ⟨m, 1 - f.bias - f.mb⟩
  else .fin neg ⟨(2 ^ f.mb + m : Nat), (e : Int) - f.bias - f.mb⟩

/-- Rounds a magnitude to a format with an unbounded exponent; the result is the pattern without sign, which passes `maxP` when the
magnitude exceeds the range (04 R122). -/
def encodeMag (r : Rnd) (f : FFmt) (x : Dy) : Nat :=
  if x.m = 0 then 0
  else
    let emin : Int := 1 - f.bias
    let ex := max (dyLog x) emin
    let q := (quantize r x (ex - f.mb)).toNat
    (ex - emin).toNat * 2 ^ f.mb + q

/-- Pattern with sign. -/
def withSign (f : FFmt) (neg : Bool) (p : Nat) : Nat := b2n neg * 2 ^ (f.eb + f.mb) + p

/-- The pattern of infinity. -/
def infPat (f : FFmt) (neg : Bool) : Nat := withSign f neg ((2 ^ f.eb - 1) * 2 ^ f.mb)

/-- IEEE rounding of an exact nonzero or signed-zero result: overflow goes to infinity, or toward zero to the largest finite value. -/
def roundF (r : Rnd) (f : FFmt) (neg : Bool) (x : Dy) : Nat :=
  let p := encodeMag r f (dyAbs x)
  if p > f.maxP then (match r with | .nearest => infPat f neg | .toZero => withSign f neg f.maxP)
  else withSign f neg p

/-! ### binary32 (06 R175) -/

def dec32 (p : W32) : FVal := decodeF fp32 p.toNat
def qnan32 : W32 := 0x7FC00000#32
def ofPat (n : Nat) : W32 := BitVec.ofNat 32 n

/-- An exact real rounded once to binary32; an exact zero takes the sign given. -/
def rnd32 (x : Dy) (zeroNeg : Bool) : W32 :=
  if x.m = 0 then ofPat (withSign fp32 zeroNeg 0) else ofPat (roundF .nearest fp32 (decide (x.m < 0)) x)

def fadd (a b : W32) : W32 :=
  match dec32 a, dec32 b with
  | .nan, _ => qnan32
  | _, .nan => qnan32
  | .inf s, .inf t => if s = t then a else qnan32
  | .inf _, .fin _ _ => a
  | .fin _ _, .inf _ => b
  | .fin s x, .fin t y => rnd32 (dyAdd (finDy s x) (finDy t y)) (s && t)

def fneg (a : W32) : W32 := match dec32 a with | .nan => qnan32 | _ => a ^^^ 0x80000000#32
def fabs32 (a : W32) : W32 := match dec32 a with | .nan => qnan32 | _ => a &&& 0x7FFFFFFF#32
def fsub (a b : W32) : W32 :=
  match dec32 b with | .nan => qnan32 | _ => fadd a (b ^^^ 0x80000000#32)

def fmul (a b : W32) : W32 :=
  match dec32 a, dec32 b with
  | .nan, _ => qnan32
  | _, .nan => qnan32
  | .inf s, .inf t => ofPat (infPat fp32 (s != t))
  | .inf s, .fin t y => if y.m = 0 then qnan32 else ofPat (infPat fp32 (s != t))
  | .fin s x, .inf t => if x.m = 0 then qnan32 else ofPat (infPat fp32 (s != t))
  | .fin s x, .fin t y => rnd32 (dyMul (finDy s x) (finDy t y)) (s != t)

/-- a × b + c with one rounding. -/
def ffma (a b c : W32) : W32 :=
  match dec32 a, dec32 b, dec32 c with
  | .nan, _, _ => qnan32
  | _, .nan, _ => qnan32
  | _, _, .nan => qnan32
  | .fin s x, .fin t y, .fin u z =>
    let p := dyMul (finDy s x) (finDy t y)
    rnd32 (dyAdd p (finDy u z)) ((s != t) && u)
  | .fin _ _, .fin _ _, .inf _ => c
  | _, _, _ => fadd (fmul a b) c

/-- An order key: −0 below +0 (R175). -/
def fkey (s : Bool) (x : Dy) : Dy := finDy s x

/-- Whether a < b, with −0 below +0 when `zeros`; neither is NaN. -/
def flt (zeros : Bool) (a b : FVal) : Bool :=
  match a, b with
  | .inf s, .inf t => s && !t
  | .inf s, .fin _ _ => s
  | .fin _ _, .inf t => !t
  | .fin s x, .fin t y =>
    if x.m = 0 ∧ y.m = 0 then zeros && s && !t else dyLt (fkey s x) (fkey t y)
  | _, _ => false

def feq (a b : FVal) : Bool :=
  match a, b with
  | .inf s, .inf t => s == t
  | .fin s x, .fin t y => dyEq (fkey s x) (fkey t y)
  | _, _ => false

def fmin (a b : W32) : W32 :=
  match dec32 a, dec32 b with
  | .nan, .nan => qnan32
  | .nan, _ => b
  | _, .nan => a
  | x, y => if flt true y x then b else a

def fmax (a b : W32) : W32 :=
  match dec32 a, dec32 b with
  | .nan, .nan => qnan32
  | .nan, _ => b
  | _, .nan => a
  | x, y => if flt true x y then b else a

/-- The quotient of two dyadics with a sticky last bit: enough for any rounding of at most 64 bits (b nonzero). -/
def dyDiv (a b : Dy) : Dy :=
  let n := a.m.natAbs * 2 ^ (128 + bitLen b.m.natAbs)
  let q := n / b.m.natAbs
  let s := if n % b.m.natAbs = 0 then 0 else 1
  let v : Int := (2 * q + s : Nat)
  ⟨if decide (a.m < 0) != decide (b.m < 0) then -v else v, a.e - b.e - (128 + bitLen b.m.natAbs : Nat) - 1⟩

def fdiv (a b : W32) : W32 :=
  match dec32 a, dec32 b with
  | .nan, _ => qnan32
  | _, .nan => qnan32
  | .inf _, .inf _ => qnan32
  | .inf s, .fin t _ => ofPat (infPat fp32 (s != t))
  | .fin s _, .inf t => ofPat (withSign fp32 (s != t) 0)
  | .fin s x, .fin t y =>
    if y.m = 0 then (if x.m = 0 then qnan32 else ofPat (infPat fp32 (s != t)))
    else rnd32 (dyDiv (finDy s x) (finDy t y)) (s != t)

/-- An integer rounded to binary32. -/
def fofInt (i : Int) : W32 := rnd32 ⟨i, 0⟩ false

/-- Widening of BF16 and FP16 to binary32 is exact (R175). -/
def widen (f : FFmt) (p : Nat) : W32 :=
  match decodeF f p with
  | .nan => qnan32
  | .inf s => ofPat (infPat fp32 s)
  | .fin s x => rnd32 (finDy s x) s

/-- A binary32 value written to a float format (R175). -/
def narrow (r : Rnd) (f : FFmt) (a : W32) : Nat :=
  match dec32 a with
  | .nan => f.nanP
  | .inf s => infPat f s
  | .fin s x => if x.m = 0 then withSign f s 0 else roundF r f s x

/-- A value clamped to the INT32 limits. -/
def clamp32 (i : Int) : W32 :=
  BitVec.ofInt 32 (if i > 2147483647 then 2147483647 else if i < -2147483648 then -2147483648 else i)

/-- A binary32 value written to INT32 (R175). -/
def toInt32 (r : Rnd) (a : W32) : W32 :=
  match dec32 a with
  | .nan => 0
  | .inf s => if s then 0x80000000#32 else 0x7FFFFFFF#32
  | .fin s x => clamp32 (quantize r (finDy s x) 0)

/-! ### Elements and scales (04 R105 to R110) -/

/-- What an element code of a format decodes to; integers are two's complement. -/
def decodeElt (fmt p : Nat) : FVal :=
  match ffmtOf fmt with
  | some f => decodeF f p
  | none =>
    let i := signed (fmtBits fmt) p
    .fin (decide (i < 0)) ⟨i.natAbs, 0⟩

/-- The value of an element under its block scale and its tile scale: none where it is a NaN or an infinity (04 R110, R118). -/
def eltValue (fmt p scale : Nat) (ts : W32) : Option Dy :=
  if scale = 0xFF then none
  else match decodeElt fmt p, dec32 ts with
    | .fin s x, .fin t y => some (dyMul ⟨(finDy s x).m, x.e + ((scale : Int) - 127)⟩ (finDy t y))
    | _, _ => none

/-- The reciprocal of a tile scale rounded to binary32 (04 R121). -/
def recipScale (ts : W32) : W32 := fdiv 0x3F800000#32 ts

/-- v converted to a destination format: the element code and whether it exceeds the range (04 R122). -/
def convElt (fmt : Nat) (v : Dy) : Nat × Bool :=
  let neg := decide (v.m < 0)
  match ffmtOf fmt with
  | some f =>
    if v.m = 0 then (0, false)
    else
      let p := encodeMag .nearest f (dyAbs v)
      if p > f.maxP then (withSign f neg f.maxP, true) else (withSign f neg p, false)
  | none =>
    let w := fmtBits fmt
    let i := quantize .nearest v 0
    let hi : Int := 2 ^ (w - 1) - 1
    let lo : Int := -(2 ^ (w - 1))
    if i > hi then (unsigned w hi, true) else if i < lo then (unsigned w lo, true) else (unsigned w i, false)

/-- The element code written for a NaN cell (T4-3). -/
def nanElt (fmt : Nat) : Nat := match ffmtOf fmt with | some f => f.nanP | none => 0

/-- e_max of T4-4. -/
def emaxOf : Nat → Int
  | 0x01 => 2 | 0x02 => 2 | 0x03 => 4 | 0x04 => 8 | 0x05 => 15 | 0x06 => 6 | _ => 2

/-- U of T5-4. -/
def boundU : Nat → Int
  | 0x01 => 3 | 0x02 => 3 | 0x03 => 5 | 0x04 => 9 | 0x05 => 16 | 0x06 => 7 | 0x07 => 3 | 0x08 => 128 | 0x09 => 16 | _ => 0

end Sys2Proof.Machine
end

