-- ==== Sys2Proof/Machine/StationTiles.lean ====
section
/-! DEFINITION. Tiles and where they lie (03 R71, R73, R75; 04 R108, R536), the nodes of a step, ponds. -/
namespace Sys2Proof.Machine

/-- Nodes of a step with their indices (R100). -/
def stepNodes (g : Graph) (i : Nat) : List (Nat × Node) :=
  match g.steps[i]? with
  | none => []
  | some st => (List.range st.n).filterMap (fun k => (g.nodes[st.first + k]?).map (fun n => (st.first + k, n)))

/-- A seat's part of a command. -/
def runOf (c : Cmd) (seat : Nat) : SeatRun := (tabFind seat c.seats).getD SeatRun.zero

/-- Repetitions that a node has done. -/
def repsDone (q : SeatRun) (ix : Nat) : Nat := tabGet 0 ix q.reps

/-- Lines of a tile along its other axis, and elements of one (R71). -/
def Tile.lines (t : Tile) : Nat := if t.col then t.cols else t.rows
def Tile.perLine (t : Tile) : Nat := if t.col then t.rows else t.cols
/-- Bytes of a line. -/
def Tile.lineBytes (t : Tile) : Nat := (t.perLine * fmtBits t.fmt + 7) / 8
/-- Scale lines and blocks of one (R108). -/
def Tile.scaleLines (t : Tile) : Nat := if t.mx then (if t.saxis then t.cols else t.rows) else 0
def Tile.blocks (t : Tile) : Nat := if t.saxis then t.rows / 32 else t.cols / 32
/-- Bytes of the elements in a pond slot, rounded to where the scales begin (R108). -/
def Tile.slotData (t : Tile) : Nat := ceilDiv (t.lines * t.stride) 32 * 32

/-- The scale address of a tile moved by a byte offset (R536). -/
def Tile.scaleAt (t : Tile) (a : Int) : Nat :=
  let st : Int := t.stride
  let w := if st = 0 then 0 else Int.tdiv a st
  let el := if fmtBits t.fmt = 0 then 0 else (a - w * st) * 8 / (fmtBits t.fmt : Nat)
  let dr := if t.col then el else w
  let dc := if t.col then w else el
  ((t.saddr : Int) + (if t.saxis then dc * t.sstride + dr / 32 else dr * t.sstride + dc / 32)).toNat

/-- Where a tile lies: in a core's scratchpad or at a shell address, its element and scale addresses; for a pond slot its pond, production
number, and what travels with it. -/
structure Place where
  shell : Bool
  core  : Nat
  base  : Nat
  sbase : Nat
  t     : Tile
  pond  : Option (Nat × Nat)
  slot  : PondSlot
  deriving DecidableEq, Repr

def PondSlot.zero : PondSlot := { landed := false, ts := 0x3F800000#32, anchor := 0, survey := none, idx := false, ecc := false }

/-- Seat whose scratchpad holds a pond. -/
def pondSeat (g : Graph) (p : Nat) : Nat := ((g.ponds[p]?).map (fun x => x.cons)).getD 0

/-- Addresses and lengths of a tile's bytes: elements, then scales. -/
def spansOf (pl : Place) : List (Nat × Nat) :=
  (List.range pl.t.lines).map (fun i => (pl.base + i * pl.t.stride, pl.t.lineBytes)) ++
  (List.range pl.t.scaleLines).map (fun i => (pl.sbase + i * pl.t.sstride, pl.t.blocks))

/-- An operand of a node: role 0 dst, 1 src0, 2 src1; tile index, tile, advance per position. -/
structure Opnd where
  role : Nat
  ix   : Nat
  t    : Tile
  adv  : Int

/-- The operands that a node has; Gather addresses its source and its table without an advance (R87). -/
def opnds (g : Graph) (n : Node) : List Opnd :=
  let gather := n.op == 0x20 || n.op == 0x21
  [(0, n.dst, n.advD), (1, n.src0, if gather then 0 else n.adv0), (2, n.src1, if gather then 0 else n.adv1)].filterMap (fun e =>
    if e.2.1 = 0xFFFF then none else (g.tiles[e.2.1]?).map (fun t => ⟨e.1, e.2.1, t, e.2.2⟩))

/-- Positions that an operand takes over a node (R75, T3-6). -/
def positions (n : Node) (role : Nat) : Nat :=
  if n.op = 0x30 && role != 0 then (if bit n.param (if role = 1 then 47 else 46) then bits n.param 55 48 else n.count) * bits n.param 63 56
  else if n.op = 0x42 then n.count * (bits n.param 63 60 + 1)
  else n.count

/-- Address and length of a tile's elements and block scales, moved by an offset (R74; 04 R108, R536). -/
def extentsAt (t : Tile) (a : Int) : List (Int × Nat) :=
  ((t.addr : Int) + a, (t.lines - 1) * t.stride + t.lineBytes) ::
  (if t.mx then [((t.scaleAt a : Int), (t.scaleLines - 1) * t.sstride + t.blocks)] else [])

/-- Pieces of a span that each lie in one line of 512 bytes. -/
def piecesOf (a n : Nat) : List (Nat × Nat) :=
  (List.range ((a + n + 511) / 512 - a / 512)).map (fun i =>
    let lo := max a ((a / 512 + i) * 512)
    (lo, min (a + n) ((a / 512 + i + 1) * 512) - lo))

/-- Operations that write status words (R101). -/
def hasStatus (op : Nat) : Bool := op == 0x51 || op == 0x70 || op == 0x71 || op == 0x72

end Sys2Proof.Machine
end

