-- ==== Sys2Proof/Machine/Outputs.lean ====
section
/-! DEFINITION. A repetition's places (03 R73, R173), the outputs that a stopped command leaves undefined (03 R96; 02 R68), and parking
(06 R169..R171). -/
namespace Sys2Proof.Machine

/-- A repetition about to run: command, graph, graph seat, core, node index and record. -/
structure Rep where
  cmd  : Nat
  c    : Cmd
  rg   : RegGraph
  seat : Nat
  core : Nat
  ix   : Nat
  nd   : Node
  deriving DecidableEq, Repr

/-- The stations of a command run now: a step is under way and its segment is not (R89). -/
def stepRuns (c : Cmd) : Bool := c.st == .running && c.started && !c.inSeg && !c.segDone && !c.skips.contains c.step

/-- Issue ports that a step's Vector nodes claim on a core for the whole step (R80, R176); all eight while a guaranteed command's step runs there (06
R153). -/
def portsClaimed (core : Nat) (s : State) : Nat :=
  s.cmds.foldl (fun a e =>
    if !stepRuns e.2 then a
    else match cmdGraph e.2 s with
      | none => a
      | some rg =>
        let here := (stepNodes rg.graph e.2.step).filter (fun x => cmdCore e.2 x.2.seat s == some core && !(runOf e.2 x.2.seat).held)
        if here.isEmpty then a
        else if e.2.guarNow then a + 8
        else here.foldl (fun a x => if x.2.op == 0x40 || x.2.op == 0x41 || x.2.op == 0x42 then a + bits x.2.param 55 52 else a) a) 0

/-- The seat's part of a command as it stands. -/
def seatRunOf (n seat : Nat) (s : State) : SeatRun := match cmdOf n s with | some c => runOf c seat | none => SeatRun.zero

/-- Sets a seat's part of a command. -/
def setRun (n seat : Nat) (q : SeatRun) (s : State) : State :=
  match cmdOf n s with
  | some c => setCmd n { c with seats := tabPut seat q c.seats } s
  | none => s

/-- Repetition number of the node. -/
def Rep.num (r : Rep) : Nat := repsDone (runOf r.c r.seat) r.ix

/-- Tiles that the current repetition has consumed. -/
def Rep.part (r : Rep) : Nat := tabGet 0 r.ix (runOf r.c r.seat).part

/-- The place of an operand's tile at an offset; a patched address replaces the descriptor's (R173). -/
def tilePlace (r : Rep) (t : Tile) (field : Nat) (a : Int) : Place :=
  let q := runOf r.c r.seat
  let base := (tabFind (8 * r.ix + field) q.patches).getD t.addr
  ⟨t.space == 1, r.core, ((base : Int) + a).toNat, t.scaleAt a, t, none, PondSlot.zero⟩

/-- The next `n` free bytes (log entry 4). -/
def takeFree (n : Nat) (s : State) : List Byte × State := ((List.range n).map (fun i => Config.freeByte (s.fresh + i)), { s with fresh := s.fresh + n })

/-- A piece of an undefined output takes free bytes, where it is memory of this part that the shell may write. -/
def losePiece (c : Cmd) (core0 : Nat) (seatMap : List Nat) (s : State) (p : Nat × Nat) : State :=
  let x := takeFree p.2 s
  match (if 2 ^ 48 ≤ p.1 then Loc.unmapped else locate c.cdom seatMap p.1 s) with
  | .mem dpa wr _ => if wr && !s.coh.failing.contains c.cdom then homePush (halfOf s core0) c.cdom dpa x.1 x.2 else s
  | .spad core off => spadWrite core off x.1 x.2
  | _ => s

/-- A span of an undefined output. -/
def loseSpan (c : Cmd) (seatMap : List Nat) (pl : Place) (s : State) (p : Nat × Nat) : State :=
  if pl.shell then (piecesOf p.1 p.2).foldl (losePiece c pl.core seatMap) s
  else let x := takeFree p.2 s; spadWrite pl.core p.1 x.1 x.2

/-- The output tiles that a command leaves undefined: all of them where it is aborted at its finish instant (02 R68), those of repetitions not done
where it faults (R96). -/
def loseOutputs (n : Nat) (all : Bool) (s : State) : State :=
  match cmdOf n s with
  | none => s
  | some c =>
    match cmdGraph c s with
    | none => s
    | some rg =>
      rg.graph.nodes.zipIdx.foldl (fun s x =>
        match rg.graph.tiles[x.1.dst]?, cmdCore c x.1.seat s with
        | some t, some core =>
          if !hasStatus x.1.op || 2 ≤ t.space then s
          else
            let lo := if all then 0 else repsDone (runOf c x.1.seat) x.2
            (List.range (x.1.count - lo)).foldl (fun s k =>
              let pl := tilePlace ⟨n, c, rg, x.1.seat, core, x.2, x.1⟩ t 2 (((lo + k : Nat) : Int) * x.1.advD)
              (spansOf pl).foldl (loseSpan c rg.seatMap pl) s) s
        | _, _ => s) s

/-! ### Slot areas (06 R156; 07 R215) -/

/-- A path entry of the slot area (T7-18). -/
def pathBytes (p : Path) : List Byte :=
  leBytes p.mask.toNat 4 ++ leBytes p.pc 2 ++ leBytes (p.reconv.headD 0) 2 ++ leBytes p.stack.length 1 ++ List.replicate 7 0 ++
  (List.range 8).flatMap (fun i => leBytes (p.stack.reverse.getD i 0) 2)

/-- The park record as a slot area keeps it; zero while the group is not parked. -/
def parkBytes (slot seat : Nat) (r : Option ParkRec) : List Byte :=
  match r with | some r => leBytes (parkWord0 r slot seat) 8 ++ leBytes r.detail 8 | none => List.replicate 16 0

/-- A group's slot area (T7-18); the stall count in whole cycles (R165). -/
def slotArea (slot : Nat) (g : Group) : List Byte :=
  ((List.range 48).flatMap (fun n => (List.range 32).flatMap (fun l => leBytes (tabGet 0 (n * 32 + l) g.g).toNat 4))) ++
  ((List.range 32).flatMap (fun n => leBytes (tabGet 0 n g.u).toNat 4)) ++
  ((List.range 8).flatMap (fun n => leBytes (if n = 7 then 0xFFFFFFFF else (tabGet 0 n g.p).toNat) 4)) ++ List.replicate 0x60 0 ++
  padTo 0x400 (g.paths.flatMap pathBytes) ++
  ((List.range 64).flatMap (fun k => leBytes (tabGet 0 k g.loops) 4)) ++ parkBytes slot g.seat g.park ++ leBytes (g.stall / 100) 4 ++ List.replicate 0x1EC 0

/-- The address of a slot's area in its core's scratchpad. -/
def slotBase (slot : Nat) : Nat := Config.threadArea + Config.slotArea * slot

/-- Writes the full state of groups into their slot areas. -/
def writeAreas (core : Nat) (gs : List (Nat × Group)) (s : State) : State :=
  gs.foldl (fun s (e : Nat × Group) => spadWrite core (slotBase e.1) (slotArea e.1 e.2) s) s

/-! ### Parking -/

/-- Stops every group of a command at its next instruction boundary, those put aside too (R169). -/
def stopGroups (n : Nat) (b : Bool) (s : State) : State :=
  let f := fun (g : Nat × Group) => (g.1, if g.2.cmd = n then { g.2 with stopped := b } else g.2)
  { s with cores := s.cores.map (fun (e : Nat × Core) => (e.1, { e.2 with groups := e.2.groups.map f, saved := e.2.saved.map f })) }

/-- The group of a command in a slot of a core: resident, or put aside in its slot area (06 R156). -/
def groupFor (n core slot : Nat) (s : State) : Option Group :=
  match groupOf core slot s with
  | some g => if g.cmd = n then some g else ((coreOf core s).saved.find? (fun e => e.1 == slot && e.2.cmd == n)).map (fun e => e.2)
  | none => ((coreOf core s).saved.find? (fun e => e.1 == slot && e.2.cmd == n)).map (fun e => e.2)

/-- The seat of a park record: its group's, or that of the copy that stopped (06 R168). -/
def parkSeat (n core slot : Nat) (s : State) : Nat :=
  match groupFor n core slot s with
  | some g => g.seat
  | none => (match (coreOf core s).copies.find? (fun e => e.2.slot == slot && e.2.cmd == n && e.2.stopped) with | some e => e.2.seat | none => 0)

/-- Changes the group of a command in a slot of a core, wherever it is. -/
def mapGroup (n core slot : Nat) (f : Group → Group) (s : State) : State :=
  let k := coreOf core s
  let at' := fun (e : Nat × Group) => (e.1, if e.1 = slot && e.2.cmd = n then f e.2 else e.2)
  setCore core { k with groups := k.groups.map at', saved := k.saved.map at' } s

/-- A command's group parks, resident or put aside (R169, R170, R171): a guaranteed command ends with FAULT_PARK and undefined outputs as in 03 R96, a
best-effort command stays open and owes a park report. The slot area keeps the record (07 R214). -/
def parkOf (n core slot : Nat) (r : ParkRec) (s : State) : State :=
  let seat := parkSeat n core slot s
  let s := spadWrite core (slotBase slot + 0x1E00) (parkBytes slot seat (some r)) (stopGroups n true (mapGroup n core slot (fun g => { g with park := some r }) s))
  match cmdOf n s with
  | none => s
  | some c =>
    if c.guarNow then finishWith n stFaultPark (parkWord0 r slot seat) r.detail (loseOutputs n false s)
    else if c.park.isSome then s
    else setCmd n { c with st := .parked, park := some (core, slot, r), parkOwed := true } s

/-- The resident group in a slot parks. -/
def park (core slot : Nat) (r : ParkRec) (s : State) : State :=
  match groupOf core slot s with
  | none => s
  | some g => parkOf g.cmd core slot r s

end Sys2Proof.Machine
end

