-- ==== Sys2Proof/Machine/StationTimes.lean ====
section
/-! DEFINITION. Cycles, latency and scratchpad bytes of a station repetition (03 T3-3, R77, R78). -/
namespace Sys2Proof.Machine

/-- S_x: bytes of a tile with its block scales. -/
def sizeOf' (t : Tile) : Nat := t.lines * t.lineBytes + t.scaleLines * t.blocks

/-- A tile of a graph as a size, 0 where there is none. -/
def szAt (g : Graph) (i : Nat) : Nat := match g.tiles[i]? with | some t => sizeOf' t | none => 0

/-- Elements of a tile. -/
def eltsAt (g : Graph) (i : Nat) : Nat := match g.tiles[i]? with | some t => t.rows * t.cols | none => 0

/-- Half cycles per K element of a format (R77): 1/ρ doubled. -/
def halfPerK (fmt : Nat) : Nat := if fmt ≤ 3 then 1 else if fmt = 8 || fmt = 9 then 4 else 2

/-- t of T3-3; `gf` is the factor g of R86. -/
def nodeT (g : Graph) (nd : Node) (gf : Nat) : Nat :=
  let ports := max 1 (bits nd.param 55 52)
  let E := eltsAt g nd.dst
  match nd.op with
  | 0x10 => ceilDiv (szAt g nd.dst) 128
  | 0x11 => ceilDiv (szAt g nd.dst) 128 + 4
  | 0x20 | 0x21 => (match g.tiles[nd.dst]? with | some t => t.rows * (t.lineBytes / 64) * gf | none => 0)
  | 0x30 =>
    (match g.tiles[nd.src0]?, g.tiles[nd.src1]? with
    | some a, some b => bits nd.param 63 56 * ceilDiv (a.cols * max (halfPerK a.fmt) (halfPerK b.fmt)) 2
    | _, _ => 0)
  | 0x40 => ceilDiv (E * (if 0x20 ≤ bits nd.param 63 56 then 4 else 1)) (32 * ports)
  | 0x41 => ceilDiv (eltsAt g nd.src0) (32 * ports) + 7
  | 0x42 => ceilDiv (6 * (eltsAt g nd.src0 * (bits nd.param 63 60 + 1))) (32 * ports)
  | 0x50 => bits nd.param 63 56 * ceilDiv E 32
  | 0x51 => bits nd.param 63 56 * ceilDiv E 128
  | 0x60 => ceilDiv (szAt g nd.src0) 256
  | 0x61 | 0x62 | 0x63 => ceilDiv (szAt g nd.dst) 512
  | 0x70 | 0x71 => ceilDiv E 128
  | 0x72 => ceilDiv E 32
  | _ => 0

/-- Latency of T3-3. -/
def latencyOf (g : Graph) (nd : Node) : Nat :=
  let mx := match g.tiles[nd.dst]? with | some t => t.mx | none => false
  match nd.op with
  | 0x10 => 8
  | 0x11 | 0x20 | 0x21 | 0x40 | 0x41 | 0x42 => 12
  | 0x30 => 32
  | 0x50 | 0x51 => 10
  | 0x70 | 0x71 => if mx then 48 else 16
  | _ => 16

/-- Scratchpad bytes per repetition (T3-3). -/
def spadBytesOf (g : Graph) (nd : Node) : Nat :=
  let d := szAt g nd.dst
  let a := szAt g nd.src0
  let b := szAt g nd.src1
  let own := match g.tiles[nd.dst]? with | some t => t.space == 0 || t.space == 2 | none => false
  match nd.op with
  | 0x10 | 0x11 => d
  | 0x20 | 0x21 => d + 4 * (match g.tiles[nd.dst]? with | some t => t.rows | none => 0)
  | 0x30 => bits nd.param 63 56 * (a + b)
  | 0x40 => a + b + d
  | 0x41 => a + d
  | 0x42 => (4 * a + d) * (bits nd.param 63 60 + 1)
  | 0x50 => 16 * bits nd.param 63 56 * eltsAt g nd.dst
  | 0x51 => bits nd.param 63 56 * a + d
  | 0x60 | 0x61 | 0x62 | 0x63 => a + d
  | 0x70 => if own then d else 0
  | 0x71 => b + (if own then d else 0)
  | 0x72 => if own then 16 * eltsAt g nd.dst else 0
  | _ => 0

end Sys2Proof.Machine
end

