-- ==== Sys2Proof/Machine/Wcet.lean ====
section
/-! DEFINITION. Worst-case execution times (02 R44, R45; 03 R91..R94; 06 R180; 10 R285; 11 R318, R319), in picoseconds. -/
namespace Sys2Proof.Machine

/-! ### Hops and shares -/

/-- A hop of R29: the UCIe-3D port, mesh or half-link of a half, a channel set, a Falnar link; for a link also the message units sent out on it
and those that come back (14 R402). -/
inductive Hop where
  | ucie (half : Nat)
  | mesh (half : Nat)
  | hlink (half : Nat)
  | set (i : Nat)
  | link (l : Nat)
  | unitsOut (l : Nat)
  | unitsIn (l : Nat)
  deriving DecidableEq, Repr

/-- Reservable rate of a channel in MB/s (T10-1): GDDR7 at 32 or 28 Gb/s. -/
def chanRate (s : State) (ch : Nat) : Nat := if ch < 64 then 224000 else if s.dev.board.rate32 then 120000 else 105000

/-- Seats of a composition whose core lies in a half. -/
def seatsIn (s : State) (c : Comp) (half : Nat) : Nat := (c.seats.filter (fun x => halfOf s x.core == half)).length

/-- A composition's reservation on a hop in MB/s, and the number of its seats that share it (R45, R46, R318; entry 39). What the partners hold
on the links comes off a channel set (14 R414; entry 44). -/
def shareOf (s : State) (c : Comp) (h : Hop) : Nat × Nat :=
  let half := fun (k : Nat) (f : HalfGrant → Nat) => match c.halves.find? (fun g => g.half == k) with | some g => (f g * 10000, max 1 (seatsIn s c k)) | none => (0, 1)
  match h with
  | .ucie k => half k (fun g => g.ucie)
  | .mesh k => half k (fun g => g.mesh)
  | .hlink k => half k (fun g => g.hlink)
  | .set i =>
    (match c.sets.find? (fun e => e.1 == i) with
    | some (_, st) => (st.data.length * (chanRate s (st.chans.headD 0)) - s.links.foldl (fun n l => n + l.2.reserved) 0 * 1000, max 1 c.seats.length)
    | none => (0, 1))
  | .link l => (match c.links.find? (fun g => g.link == l) with | some g => (g.share * 1000, max 1 c.seats.length) | none => (0, 1))
  | .unitsOut _ | .unitsIn _ => (0, 1)

/-- The share of a hop: of the seats that use it in the composition in force (R44, R45); while a re-binding is in progress the lower of the old and new
reservations, where both compositions have one (log entry 89), less the rate of its copy on the channel's set (11 R336). -/
def shareNow (s : State) (sh : Shell) (h : Hop) : Nat × Nat :=
  let a := shareOf s sh.comp h
  match sh.rebind with
  | none => a
  | some r =>
    let b := shareOf s (if r.step = 0 then r.comp else r.old.getD sh.comp) h
    let low := if a.1 = 0 then b else if b.1 = 0 then a else (min a.1 b.1, a.2)
    match h, r.subst with
    | .set i, some (j, _, _) => if i = j && r.step = 0 then (low.1 - (match setOf sh i with | some st => st.data.length | none => 1) * (r.rcopy * 100), low.2) else low
    | _, _ => low

/-- Picoseconds for bytes at a share. -/
def bytesPs (d : Nat) (b : Nat × Nat) : Nat := ceilDiv (d * 1000000 * b.2) b.1

/-- Picoseconds of arithmetic cycles at a clock in MHz. -/
def cyclesPs (c mhz : Nat) : Nat := ceilDiv (c * 1000000) mhz

/-- A time in ps as a fraction: the terms of R45 are added without rounding. -/
abbrev Frac := Nat × Nat

/-- Sum of two fractions. -/
def fracAdd (a b : Frac) : Frac := if a.2 = b.2 then (a.1 + b.1, a.2) else (a.1 * b.2 + b.1 * a.2, a.2 * b.2)

/-- The larger of two fractions. -/
def fracMax (a b : Frac) : Frac := if a.1 * b.2 ≤ b.1 * a.2 then b else a

/-- Units of `n` ps that cover a fraction. -/
def fracUp (n : Nat) (a : Frac) : Nat := ceilDiv a.1 (n * a.2)

/-- Bytes by hop, bytes by set and channel, bytes by set that may fall on any one channel (R319), and the largest latency in ps of the accesses counted. -/
structure Traffic where
  hops : List (Hop × Nat)
  chan : List ((Nat × Nat) × Nat)
  any' : List (Nat × Nat)
  lat  : Nat
  deriving DecidableEq, Repr

def Traffic.zero : Traffic := ⟨[], [], [], 0⟩

/-- Adds to an entry of a list. -/
def addTo {α : Type} [DecidableEq α] (k : α) (v : Nat) : List (α × Nat) → List (α × Nat)
  | [] => [(k, v)]
  | (k', v') :: t => if k' = k then (k', v' + v) :: t else (k', v') :: addTo k v t

/-- Adds two counts of traffic. -/
def Traffic.add (a b : Traffic) : Traffic :=
  ⟨b.hops.foldl (fun l e => addTo e.1 e.2 l) a.hops, b.chan.foldl (fun l e => addTo e.1 e.2 l) a.chan,
   b.any'.foldl (fun l e => addTo e.1 e.2 l) a.any', max a.lat b.lat⟩

/-- Bytes on every hop: a channel set of c channels counts c times the most that one
channel can get (R319); a link counts the flits of the direction that sends
more units (14 R402). -/
def hopBytes (sh : Shell) (t : Traffic) : List (Hop × Nat) :=
  let sets := (t.chan.map (fun e => e.1.1) ++ t.any'.map (fun e => e.1)).eraseDups
  let links := (t.hops.filterMap (fun e => match e.1 with | .unitsOut l | .unitsIn l => some l | _ => none)).eraseDups
  let units := fun (h : Hop) => (t.hops.filter (fun e => e.1 == h)).foldl (fun n e => n + e.2) 0
  t.hops.filter (fun e => match e.1 with | .unitsOut _ | .unitsIn _ => false | _ => true) ++
  links.map (fun l => (Hop.link l, 256 * ceilDiv (max (units (.unitsOut l)) (units (.unitsIn l))) 15)) ++ sets.map (fun i =>
    let c := match setOf sh i with | some st => st.data.length | none => 1
    let top := (t.chan.filter (fun e => e.1.1 == i)).foldl (fun m e => max m e.2) 0
    (Hop.set i, c * (top + (t.any'.filter (fun e => e.1 == i)).foldl (fun m e => m + e.2) 0)))

/-- The hops between two halves and the latency bound of the farther scratchpad (R29, R84, T1-5). -/
def pathOf (h1 h2 : Nat) : List Hop × Nat :=
  if h1 = h2 then ([.mesh h1], 80000)
  else if h1 / 2 = h2 / 2 then ([.mesh h1, .hlink h1, .mesh h2], 120000)
  else ([.ucie h1, .ucie h2], 360000)

/-- Channel bytes of the sectors of one line (R285): `secs` gives bytes by sector. -/
def lineCost (tierS write : Bool) (secs : List (Nat × Nat)) : Nat :=
  let halves := (secs.map (fun e => e.1 / 4)).eraseDups
  64 * secs.length +
  (if tierS then 64 * halves.length + (if write then 64 * (halves.filter (fun h => (List.range 4).any (fun i => tabGet 0 (4 * h + i) secs < 64))).length else 0) else 0)

/-- The sectors of a span within a line. -/
def secsOf (off len : Nat) : List (Nat × Nat) :=
  (List.range ((off + len + 63) / 64 - off / 64)).map (fun i =>
    let k := off / 64 + i
    (k, min (off + len) (64 * k + 64) - max off (64 * k)))

/-- The link that a credited access to a peer takes: one hop to a partner in the regatta (14 R414); 31, which no shell has a share of, for any
other. -/
def peerLink (s : State) (dev : Nat) : Nat :=
  let r := routeOf dev s
  let l := bits r 30 26
  if bits r 17 13 = 1 && s.dev.board.regatta != 0 && (tabGet Link.zero l s.links).regatta = s.dev.board.regatta then l else 31

/-- Latency bound in ps of a credited access to a peer (14 T14-5): which tier a peer's range lies in is a free value (entry 46). -/
def peerLat (dev off : Nat) : Nat := if 0x700000000 ≤ off then 2100000 else if Config.peerTierS dev off then 2700000 else 2400000

/-- Message units of an access of `n` bytes to a peer: out and back (14 R401). -/
def peerUnits (s : State) (dev : Nat) (write : Bool) (n : Nat) : List (Hop × Nat) :=
  let l := peerLink s dev
  let u := 1 + ceilDiv n 16
  [(.unitsOut l, if write then u else 1), (.unitsIn l, if write then 1 else u)]

/-- The lines of spans, with their sectors and the bytes of each. -/
def spanLines (spans : List (Nat × Nat)) : Tab (Tab Nat) :=
  (spans.flatMap (fun p => piecesOf p.1 p.2)).foldl (fun l p =>
    tabPut (p.1 / 512) ((secsOf (p.1 % 512) p.2).foldl (fun m e => tabPut e.1 (tabGet 0 e.1 m + e.2) m) (tabGet [] (p.1 / 512) l)) l) ([] : Tab (Tab Nat))

/-- The channel bytes that a write to a mirrored range costs its mirror, and the mirror's latency in ps (10 R303). -/
def mirrorTraffic (sh : Shell) (r : Range) (a : Nat) (secs : Tab Nat) : Traffic :=
  if r.mirror && !r.mirrorLost then
    match rangeDpa sh r r.mset a with
    | some m => let tS := decide (64 ≤ dpaChan m); ⟨[], [((r.mset, dpaChan m), lineCost tS true secs)], [], if tS then 950000 else 620000⟩
    | none => Traffic.zero
  else Traffic.zero

/-- Traffic of spans at shell addresses for a seat in a half (R285, R319; 10 R303). -/
def spanTraffic (s : State) (cdom : Nat) (sh : Shell) (seatMap : List Nat) (half : Nat) (write : Bool) (spans : List (Nat × Nat)) : Traffic :=
  (spanLines spans).foldl (fun t e =>
    let a := e.1 * 512
    let total := e.2.foldl (fun n x => n + x.2) 0
    match locate cdom seatMap a s with
    | .mem dpa _ _ =>
      let rg := (translate s sh a).map (fun x => x.2)
      let ix := match rg with | some r => serveSet r | none => 0
      let t := t.add ⟨[(.ucie half, 64 * e.2.length)], [((ix, dpaChan dpa), lineCost (decide (64 ≤ dpaChan dpa)) write e.2)], [], if dpaChan dpa < 64 then 620000 else 950000⟩
      (match rg with | some r => if write then t.add (mirrorTraffic sh r a e.2) else t | none => t)
    | .peer dev off => t.add ⟨(.ucie half, total) :: peerUnits s dev write total, [], [], peerLat dev off⟩
    | .host _ => t
    | .unmapped => t
    | _ =>
      let core := if a < 0x110000000000 then (match seatMap[(a - 0x100000000000) / 2 ^ 21]? with | some x => seatCore sh x | none => none) else seatCore sh ((a - 0x110000000000) / 2 ^ 21)
      (match core with
      | some k => let p := pathOf half (halfOf s k); t.add ⟨p.1.map (fun h => (h, total)), [], [], p.2⟩
      | none => t)) Traffic.zero

/-- Traffic of spans whose address a patch may replace (R173, R319): on each set all bytes on one channel, at the costliest place in a line. -/
def movedTraffic (s : State) (cdom : Nat) (sh : Shell) (seatMap : List Nat) (half : Nat) (write : Bool) (spans : List (Nat × Nat)) : Traffic :=
  let t := spanTraffic s cdom sh seatMap half write spans
  let cost := fun (tS : Bool) => (List.range 8).foldl (fun m k =>
    max m ((spanLines (spans.map (fun (p : Nat × Nat) => (p.1 + 64 * k, p.2)))).foldl (fun n e => n + lineCost tS write e.2) 0)) 0
  let one := (t.chan.map (fun e => e.1.1)).eraseDups.filterMap (fun i => t.chan.find? (fun e => e.1.1 == i))
  { t with chan := [], any' := one.map (fun (e : (Nat × Nat) × Nat) => (e.1.1, cost (decide (64 ≤ e.1.2)))) }

/-- Farthest latency bound in ps of what a tile names: its own scratchpad has none. -/
def tileLat (s : State) (cdom : Nat) (sh : Shell) (seatMap : List Nat) (half : Nat) (t : Tile) : Nat :=
  if t.space = 1 then (spanTraffic s cdom sh seatMap half false [(t.addr, 64)]).lat else 0

/-! ### Nodes and steps -/

/-- The decoded code of a segment. -/
def segCode (s : State) (cdom : Nat) (sh : Shell) (sg : Segment) : List (Option Instr) :=
  (List.range sg.codeLen).map (fun k =>
    let _ := cdom
    match translate s sh (sg.codeAddr + 8 * k) with
    | some (dpa, _) => let d := homeRead dpa 8 s; if d.2.1 then decodeCode 0 0 (BitVec.ofNat 64 (leNat d.1)) else none
    | none => none)

/-- The nodes and fields that a graph's ST.PATCH instructions name (06 R173). -/
def patchesOf (s : State) (cdom : Nat) (sh : Shell) (g : Graph) : List (Nat × Nat) :=
  (g.segs.flatMap (fun sg => (segCode s cdom sh sg).filterMap (fun c => match c with | some (Instr.stPatch _ _ n f) => some (n, f) | _ => none))).eraseDups

/-- What a derivation works on; `patches` are the fields that a patch may replace. -/
structure WCtx where
  s    : State
  cdom : Nat
  sh   : Shell
  rg   : RegGraph
  patches : List (Nat × Nat)

/-- What the derivation of a graph of a shell works on. -/
def wctx (s : State) (cdom : Nat) (sh : Shell) (rg : RegGraph) : WCtx := ⟨s, cdom, sh, rg, patchesOf s cdom sh rg.graph⟩

/-- A patch names the address of a tile (R319). -/
def WCtx.moved (x : WCtx) (ti : Nat) : Bool :=
  x.patches.any (fun p => match x.rg.graph.nodes[p.1]? with
    | some nd => (p.2 == 2 && nd.dst == ti) || (p.2 == 3 && nd.src0 == ti) || (decide (4 ≤ p.2) && nd.src1 == ti)
    | none => false)

/-- The half of a graph seat. -/
def WCtx.half (x : WCtx) (seat : Nat) : Nat :=
  match x.rg.seatMap[seat]? with | some k => (match seatCore x.sh k with | some c => halfOf x.s c | none => 0) | none => 0

/-- Traffic of one repetition of node `i`: its tile in `space` 0b01, its pond on another seat (R76, R84, R285, R319). The slot bytes of R84 are those of the
produced tile with its scales, not the pond record's `slot_bytes` (DESIGN CHOICE, log entry 94). -/
def repTraffic (x : WCtx) (i : Nat) (nd : Node) (r : Nat) : Traffic :=
  let g := x.rg.graph
  let h := x.half nd.seat
  let spansT := fun (ti : Nat) => if x.moved ti then movedTraffic x.s x.cdom x.sh x.rg.seatMap h else spanTraffic x.s x.cdom x.sh x.rg.seatMap h
  let mv := fun (t : Tile) (a : Int) => Place.mk true 0 ((t.addr : Int) + a).toNat (t.scaleAt a) t none PondSlot.zero
  let main : Traffic :=
    match g.tiles[nd.dst]?, g.tiles[nd.src0]? with
    | some d, some a =>
      if (nd.op = 0x10 || nd.op = 0x11) && a.space = 1 then spansT nd.src0 false (spansOf (mv a ((r : Int) * nd.adv0)))
      else if (nd.op = 0x20 || nd.op = 0x21) && a.space = 1 then gatherTraffic d a h
      else if (nd.op = 0x70 || nd.op = 0x71 || nd.op = 0x72) && d.space = 1 then spansT nd.dst true (spansOf (mv d ((r : Int) * nd.advD)))
      else Traffic.zero
    | _, _ => Traffic.zero
  match g.tiles[nd.dst]? with
  | some d =>
    if d.space = 2 then
      let seat := pondSeat g (d.addr % 1024)
      if seat = nd.seat then main else let p := pathOf h (x.half seat); main.add ⟨p.1.map (fun k => (k, sizeOf' d)), [], [], p.2⟩
    else main
  | none => main
where
  /-- R319: an aligned paged Gather counts by its page layout, every other Gather as if all its bytes fell on one channel. -/
  gatherTraffic (d a : Tile) (h : Nat) : Traffic :=
    let rb := d.lineBytes
    match translate x.s x.sh a.addr with
    | none =>
      (match locate x.cdom x.rg.seatMap a.addr x.s with
      | .peer dev off =>
        let n := d.rows * (rb / 64)
        ⟨(.ucie h, d.rows * rb) :: (peerUnits x.s dev false 64).map (fun e => (e.1, n * e.2)), [], [], peerLat dev off⟩
      | _ => spanTraffic x.s x.cdom x.sh x.rg.seatMap h false [(a.addr, d.rows * rb)])
    | some (dpa, rr) =>
      let tS := decide (64 ≤ dpaChan dpa)
      let lat := if tS then 950000 else 620000
      let c := match setOf x.sh (serveSet rr) with | some st => st.data.length | none => 1
      let page := 2 ^ bits nd.param 63 59
      let line0 := (rr.frame0 + (a.addr / 2 ^ 21 - rr.base)) * 4096 + a.addr / 512 % 4096
      let hop : List (Hop × Nat) := [(.ucie h, d.rows * rb)]
      if nd.op = 0x21 && !x.moved nd.src0 && a.addr % 512 = 0 && line0 % c = 0 && page % (c * 512) = 0 && 0 < a.stride && a.stride ≤ page then
        let rpp := page / a.stride
        let starts := bits nd.param 55 32 :: (if x.patches.contains (i, 0) then List.range (min rpp (2 ^ 24)) else [])
        let top := fun (pos : Nat) =>
         let groups := (List.range d.rows).foldl (fun m j =>
          let p := pos + r * d.rows + j
          (piecesOf (p % rpp * a.stride) rb).foldl (fun m pc =>
            let li := pc.1 / 512
            addTo (p / rpp, li) (lineCost tS false (secsOf (pc.1 % 512) pc.2)) m) m) ([] : List ((Nat × Nat) × Nat))
         let tops := (groups.map (fun e => (e.1.1, e.1.2 / c))).eraseDups.map (fun k => (groups.filter (fun e => e.1.1 == k.1 && e.1.2 / c == k.2)).foldl (fun m e => max m e.2) 0)
         tops.foldl (fun a b => a + b) 0
        ⟨hop, [], [(serveSet rr, starts.foldl (fun m p => max m (top p)) 0)], lat⟩
      else
        let n := ceilDiv rb 64
        ⟨hop, [], [(serveSet rr, d.rows * (64 * n + (if tS then 64 * ((n + 6) / 4) else 0)))], lat⟩

/-- The largest latency in ps of the target a Gather node names (R86): 2.0 µs for another device. -/
def gatherLat (x : WCtx) (nd : Node) : Nat :=
  match x.rg.graph.tiles[nd.src0]? with | some t => min 2000000 <| tileLat x.s x.cdom x.sh x.rg.seatMap (x.half nd.seat) t | none => 0

/-- Cycles of one repetition at a clock (T3-3, R86). -/
def nodeCycles (x : WCtx) (nd : Node) (mhz : Nat) : Nat := nodeT x.rg.graph nd (max 4 (ceilDiv (gatherLat x nd * mhz) 512000000))

/-- Nodes of a step that feed a node through a pond or the accumulator (R91). -/
def feeders (g : Graph) (nodes : List (Nat × Node)) (y : Nat × Node) : List (Nat × Node) :=
  let pondIn := fun (ti : Nat) => match g.tiles[ti]? with | some t => if t.space = 2 then some (t.addr % 1024) else none | none => none
  nodes.filter (fun x => x.1 != y.1 &&
    (match pondIn x.2.dst with
    | some p => pondIn y.2.src0 == some p || pondIn y.2.src1 == some p
    | none =>
      x.2.seat == y.2.seat && (x.2.op == 0x30 || x.2.op == 0x50) &&
      (hasOutlet y.2.op || (y.2.op == 0x50 && bit y.2.param 55 && x.2.op == 0x30))))
where
  hasOutlet (op : Nat) : Bool := op == 0x70 || op == 0x71 || op == 0x72

/-- Chains that end at a node, at most `fuel` nodes long. -/
def chainsTo (g : Graph) (nodes : List (Nat × Node)) : Nat → (Nat × Node) → List (List (Nat × Node))
  | 0, y => [[y]]
  | n + 1, y =>
    let ps := feeders g nodes y
    if ps.isEmpty then [[y]] else ps.flatMap (fun p => (chainsTo g nodes n p).map (fun c => c ++ [y]))

/-- c_iq: the arithmetic cycles of a step on a seat (R91). Of the chain's nodes that tie for the largest count × t the first in the chain is the one whose t
F_iq leaves out (DESIGN CHOICE, log entry 94). -/
def seatCycles (x : WCtx) (nodes : List (Nat × Node)) (seat mhz : Nat) : Nat :=
  let g := x.rg.graph
  let mine := nodes.filter (fun e => e.2.seat == seat)
  let t := fun (e : Nat × Node) => nodeCycles x e.2 mhz
  let bytes := mine.foldl (fun b e => b + e.2.count * spadBytesOf g e.2) 0
  (mine.flatMap (fun e => chainsTo g nodes nodes.length e)).foldl (fun m ch =>
    let set := mine ++ ch.filter (fun e => !mine.contains e)
    let busy := set.foldl (fun m e => max m (e.2.count * t e)) 0
    let tops := ch.foldl (fun m e => max m (e.2.count * t e)) 0
    let top := match ch.find? (fun e => e.2.count * t e == tops) with | some e => t e | none => 0
    let F := ch.foldl (fun a e => a + latencyOf g e.2 + t e) 0 - top
    max m (max busy (ceilDiv bytes 1024) + F)) 0

/-- Traffic of node `i` over all its repetitions. -/
def nodeTraffic (x : WCtx) (i : Nat) (nd : Node) : Traffic := (List.range nd.count).foldl (fun t r => t.add (repTraffic x i nd r)) Traffic.zero

/-- Latency bound of the farthest pair of a graph's seats (R92). -/
def barrierLat (x : WCtx) : Nat :=
  let hs := (List.range x.rg.graph.nSeats).map x.half
  hs.foldl (fun m a => hs.foldl (fun m b => if hs.length ≤ 1 then 0 else max m (pathOf a b).2) m) 0

/-- A step's time in ps at a clock (R45, R91, R92): a step on one seat that touches only that seat's scratchpad has no latency term; a Paired shell adds 80 ns where items leave (15 R435). -/
def stepTime (x : WCtx) (i mhz : Nat) : Frac :=
  let nodes := stepNodes x.rg.graph i
  let seats := (nodes.map (fun e => e.2.seat)).eraseDups
  let c := seats.foldl (fun m q => max m (seatCycles x nodes q mhz)) 0
  let trs := seats.map (fun q => (nodes.filter (fun e => e.2.seat == q)).foldl (fun t e => t.add (nodeTraffic x e.1 e.2)) Traffic.zero)
  let paired := x.sh.comp.redund == 2
  let trs := if paired then (List.zip seats trs).map (fun p => let n := (nodes.filter (fun e => e.2.seat == p.1 && (e.2.op == 0x10 || e.2.op == 0x11 || e.2.op == 0x20 || e.2.op == 0x21))).foldl (fun n e => n + e.2.count * (match x.rg.graph.tiles[e.2.dst]? with | some t => sizeOf' t | none => 0)) 0; p.2.add ⟨[(.mesh (x.half p.1), n)], [], [], 0⟩) else trs
  let mem := trs.foldl (fun m t => (hopBytes x.sh t).foldl (fun m e => let b := shareNow x.s x.sh e.1; if b.1 = 0 then m else fracMax m (e.2 * 1000000 * b.2, b.1)) m) ((0, 1) : Frac)
  let far := trs.foldl (fun m t => max m t.lat) 0
  let lat := if seats.length ≤ 1 && far = 0 then 0 else max far (barrierLat x)
  let leaves := paired && nodes.any (fun e => hasStatus e.2.op)
  fracAdd (fracMax (c * 1000000, mhz) mem) (lat + (if leaves then 80000 else 0), 1)

/-- A step's time in whole ps. -/
def stepPs (x : WCtx) (i mhz : Nat) : Nat := fracUp 1 (stepTime x i mhz)

/-! ### Segments (R180) -/

/-- Charges of an instruction (T6-6): C, and the bytes of an M charge (0: none). -/
def charge (c : Instr) : Nat × Nat :=
  match c with
  | .vf _ _ _ _ _ f _ _ => (if 0x20 ≤ f then 16 else 6, 0)
  | .rngP _ _ _ _ => (20, 0)
  | .ld _ _ m | .st _ _ m => if m.glob then (0, 2048) else (8, 0)
  | .atom _ _ _ _ | .addxI _ _ _ _ | .addxF _ _ _ _ => (0, 2048)
  | .bra _ _ _ | .bri _ _ _ | .call _ _ | .ret _ | .exitT _ | .spin _ | .ctrSet _ _ _ _ | .ctrWait _ _ _ _ => (4, 0)
  | .barG _ | .barB _ _ _ | .stPatch _ _ _ _ | .stSkip _ _ => (8, 0)
  | .memfence _ scope _ => if 2 ≤ scope then (0, 2048) else (8, 0)
  | .cpAsync _ _ _ _ n _ => (4, 64 * n)
  | _ => (6, 0)

/-- Times an instruction runs: the product of the bounds of the loops around it. -/
def timesAt (loops : List (Nat × Nat × Nat)) (pc : Nat) : Nat :=
  loops.foldl (fun n l => if l.1 ≤ pc && pc ≤ l.2.1 then n * l.2.2 else n) 1

/-- Loops of a segment: target and pc of each declared backward branch, with its bound. -/
def loopsOf (code : List Instr) (tab : List (Nat × Nat)) : List (Nat × Nat × Nat) :=
  tab.filterMap (fun e => match code[e.1]? with | some (Instr.bra _ t _) => if t ≤ e.1 then some (t, e.1, e.2) else none | _ => none)

/-- Largest cost from each instruction on, highest first; `callee` gives a callee's cost. A guarded EXIT goes on too. -/
def costFrom (code : List Instr) (cost : Nat → Nat) (times : Nat → Nat) (callee : Nat → Nat) : Tab Nat :=
  code.zipIdx.foldr (fun e t =>
    let pc := e.2
    let on := tabGet 0 (pc + 1) t
    let rest := match e.1 with
      | .bra i tg _ => if i.guard = 7 && !i.gneg then (if pc < tg then tabGet 0 tg t else on) else if pc < tg then max (tabGet 0 tg t) on else on
      | .exitT i => if i.guard = 7 && !i.gneg then 0 else on
      | .ret _ => 0
      | .call _ tg => callee tg * times pc + on
      | _ => on
    tabPut pc (cost pc * times pc + rest) t) []

/-- Calls inline, to a depth. -/
def costDeep (code : List Instr) (cost : Nat → Nat) (times : Nat → Nat) : Nat → Nat → Nat
  | 0, _ => 0
  | n + 1, pc => tabGet 0 pc (costFrom code cost times (costDeep code cost times n))

/-- Halves of the seats that a segment runs on. -/
def segHalves (x : WCtx) (sg : Segment) : List Nat := ((bitList sg.mask 64).map x.half).eraseDups

/-- The kinds of memory on which a shell holds credit (R180; T1-5), each with its bound in ps: its channel sets, its links. -/
def memKinds (x : WCtx) : List (Hop × Nat) :=
  (x.sh.comp.sets.map (fun (e : Nat × ChSet) => (Hop.set e.1, if 64 ≤ e.2.chans.headD 0 then 950000 else 620000)) ++
    x.sh.comp.links.map (fun (g : LinkGrant) => (Hop.link g.link, 2000000))).filter (fun (e : Hop × Nat) => (shareNow x.s x.sh e.1).1 != 0)

/-- The smaller of two per-seat shares. -/
def lowShare (a b : Nat × Nat) : Nat × Nat := if a.1 * b.2 < b.1 * a.2 then a else b

/-- The set that holds a segment's code, and whether it is Tier S. -/
def codeSet (x : WCtx) (sg : Segment) : Option (Nat × Bool) := (translate x.s x.sh sg.codeAddr).map (fun e => (e.2.set, decide (64 ≤ dpaChan e.1)))

/-- Cycles at a clock of a latency in ps and bytes at a share, rounded up once. -/
def cyclesOf (l d : Nat) (b : Nat × Nat) (mhz : Nat) : Nat := ceilDiv ((l * b.1 + d * 1000000 * b.2) * mhz) (b.1 * 1000000)

/-- w_j in arithmetic cycles at a clock (R180). -/
def segCycles (x : WCtx) (sg : Segment) (mhz : Nat) : Nat :=
  let code := (segCode x.s x.cdom x.sh sg).filterMap id
  let loops := loopsOf code sg.loopTab
  let kinds := memKinds x
  let L := kinds.foldl (fun m e => max m e.2) 0
  let hops := (segHalves x sg).map Hop.ucie ++ kinds.map (fun e => e.1)
  let b := hops.foldl (fun m h => let y := shareNow x.s x.sh h; match m with | none => some y | some z => some (lowShare y z)) (none : Option (Nat × Nat))
  let mCost := fun (n : Nat) => if n = 0 then 0 else cyclesOf L n (b.getD (0, 1)) mhz
  let C := costDeep code (fun pc => match code[pc]? with | some i => (charge i).1 | none => 0) (timesAt loops) 9 0
  let M := costDeep code (fun pc => match code[pc]? with | some i => mCost (charge i).2 | none => 0) (timesAt loops) 9 0
  let cs := (codeSet x sg).getD (0, false)
  let launch := 64 + cyclesOf (if cs.2 then 950000 else 620000) (8 * sg.codeLen) (shareNow x.s x.sh (.set cs.1)) mhz
  launch + (ceilDiv sg.n 8 + 1) * sg.d * C + sg.n * sg.d * M

/-- A segment uses a hop without credit (R29, R47): its seats read its code through their half's port from its set; an access outside the own scratchpad
needs memory on which the shell holds credit. -/
def segUncredited (x : WCtx) (sg : Segment) : Bool :=
  let none' := fun (h : Hop) => (shareNow x.s x.sh h).1 == 0
  (segHalves x sg).any (fun h => none' (.ucie h)) || (match codeSet x sg with | some c => none' (.set c.1) | none => false) ||
  (((segCode x.s x.cdom x.sh sg).any (fun c => match c with | some i => (charge i).2 != 0 | none => false)) && (memKinds x).isEmpty)

/-- Time of the segment after a step (R45). -/
def segTime (x : WCtx) (i mhz : Nat) : Frac :=
  match x.rg.graph.steps[i]? with
  | some st => (match st.seg with | some k => (match x.rg.graph.segs[k]? with | some sg => (segCycles x sg mhz * 1000000, mhz) | none => (0, 1)) | none => (0, 1))
  | none => (0, 1)

/-- A step with its segment, in whole ps. -/
def stepSegPs (x : WCtx) (i mhz : Nat) : Nat := fracUp 1 (fracAdd (stepTime x i mhz) (segTime x i mhz))

/-- The WCET at a clock (R45): 2 µs to start, then the steps and segments. -/
def wcetTime (x : WCtx) (mhz : Nat) : Frac :=
  (List.range x.rg.graph.steps.length).foldl (fun a i => fracAdd a (fracAdd (stepTime x i mhz) (segTime x i mhz))) (2000000, 1)

/-- WCET in whole ps. -/
def wcetPs (x : WCtx) (mhz : Nat) : Nat := fracUp 1 (wcetTime x mhz)

/-- WCETs at OP0..OP3 and OPE in 10 ns, rounded up (R44, 13 R390). -/
def deriveWcet (x : WCtx) : List Nat := (List.range 5).map (fun op => fracUp 10000 (wcetTime x (Config.clockMHz op)))

/-- A node's longest repetition in ps at OPE (R93). A hop on which the shell holds no share sets no bound: for guaranteed use it fails 0x0012 (DESIGN CHOICE,
log entry 94). -/
def longestRep (x : WCtx) (i : Nat) (nd : Node) : Nat :=
  let mhz := Config.clockMHz 4
  (List.range nd.count).foldl (fun m r =>
    let t := repTraffic x i nd r
    let mem := (hopBytes x.sh t).foldl (fun m e => let b := shareNow x.s x.sh e.1; if b.1 = 0 then m else max m (bytesPs e.2 b)) 0
    max m (max (cyclesPs (nodeCycles x nd mhz + latencyOf x.rg.graph nd) mhz) mem + t.lat)) 0

/-- Whether a node's traffic uses a hop without credit (R29, R47): no share, or a peer more than one hop or outside the regatta away (14 R414). -/
def uncredited (x : WCtx) (i : Nat) (nd : Node) : Bool :=
  (List.range nd.count).any (fun r => (hopBytes x.sh (repTraffic x i nd r)).any (fun e => e.2 != 0 && (shareNow x.s x.sh e.1).1 == 0))

/-- A time is longer than 50 µs. -/
def over50 (a : Frac) : Bool := decide (50000000 < fracUp 1 a)

/-- The first step in which a gap between milestones at the GOP passes 50 µs (R94): the step's time is spread evenly over its pace node's repetitions, with
a milestone after each `ms_interval` of them and one at the step's end, after its segment; T_start counts before the first. -/
def milestoneGap (x : WCtx) : Option Nat :=
  let mhz := Config.clockMHz x.sh.comp.gop
  (List.range x.rg.graph.steps.length).find? (fun i =>
    match x.rg.graph.steps[i]? with
    | none => false
    | some st =>
      let n := match x.rg.graph.nodes[st.first + st.pace]? with | some nd => max 1 nd.count | none => 1
      let p := stepTime x i mhz
      let part := fun (k : Nat) => ((p.1 * k, p.2 * n) : Frac)
      let head : Frac := (if i = 0 then 2000000 else 0, 1)
      let marks := if st.msInt = 0 then 0 else n / st.msInt
      if marks = 0 then over50 (fracAdd head (fracAdd p (segTime x i mhz)))
      else over50 (fracAdd head (part st.msInt)) || over50 (fracAdd (part (n - marks * st.msInt)) (segTime x i mhz)))

/-- A graph uses a channel set: some tile, its code or its status area lies there (11 R347). -/
def usesSet (s : State) (sh : Shell) (g : Graph) (i : Nat) : Bool :=
  let at' := fun (a : Nat) => match translate s sh a with | some (_, r) => r.set == i || (r.mirror && r.mset == i) | none => false
  g.tiles.any (fun t => t.space == 1 && at' t.addr) || g.segs.any (fun x => at' x.codeAddr) || at' g.statusBase

/-- What takes guaranteed use from a graph for now: a rule of R93, R47 or R94 that fails (03 R93), a set with a fenced channel (11 R347), a
seat whose core left service (15 R451). -/
def lostNow (x : WCtx) : Bool :=
  !(x.rg.graph.nodes.zipIdx.all (fun n => decide (longestRep x n.2 n.1 ≤ 40000000) && !uncredited x n.2 n.1)) || x.rg.graph.segs.any (segUncredited x) || (milestoneGap x).isSome ||
  x.sh.comp.sets.any (fun e => e.2.chans.any (fun c => (chanOf c x.s).fenced) && usesSet x.s x.sh x.rg.graph e.1) ||
  x.rg.seatMap.any (fun k => match seatCore x.sh k with | some c => coreGone c x.s | none => false)

/-- Derives a shell's WCETs again (R44). Whether the graph may run guaranteed is judged anew each time, so that one that lost it can have it back (DESIGN
CHOICE, log entry 94). -/
def rederive (cdom : Nat) (s : State) : State :=
  match shellOf cdom s with
  | none => s
  | some sh =>
    { s with graphs := s.graphs.map (fun e =>
        if e.1 / 65536 = cdom then
          let x := wctx s cdom sh e.2
          (e.1, { e.2 with wcet := deriveWcet x, lostCredit := e.2.guar && lostNow x })
        else e) }

end Sys2Proof.Machine
end

