-- ==== Sys2Proof/Machine/Deadline.lean ====
section
/-! DEFINITION. Instants of a stroke, milestones (03 R94), the deadline monitor and the substitution of fallbacks (02 R64..R67). -/
namespace Sys2Proof.Machine

/-! ### Instants -/

/-- The configuration in force in a stroke (R35). -/
def cfgOf (stroke : Nat) (s : State) : StrokeCfg :=
  match s.stroke.pend with
  | some (t, c) => if (stroke + 2 ^ 48 - t) % 2 ^ 48 < 2 ^ 47 then c else s.stroke.cfg
  | none => s.stroke.cfg

/-- The long-recovery extension of a stroke in 10 ns (R61). -/
def extOf (stroke : Nat) (s : State) : Nat := tabGet 0 stroke s.stroke.exts

/-- Strokes from one count to another, modulo 2^48 (R33). -/
def strokesTo (a b : Nat) : Nat := (b + 2 ^ 48 - a) % 2 ^ 48

/-- When a stroke of now or later starts: its predecessors' periods (R34). -/
def strokeStart (stroke : Nat) (s : State) : Nat :=
  (List.range (min 65536 (strokesTo s.stroke.count stroke))).foldl (fun t k => t + (cfgOf ((s.stroke.count + k) % 2 ^ 48) s).period) s.stroke.start

/-- The finish instant of a stroke (T2-1, R61). -/
def finishTime (stroke : Nat) (s : State) : Nat :=
  let c := cfgOf stroke s
  strokeStart stroke s + c.period - c.finish - c.recovery - extOf stroke s

/-- Drive length of a stroke (R34, R49). -/
def driveLen (stroke : Nat) (s : State) : Nat :=
  let c := cfgOf stroke s
  c.period - c.catchLen - c.finish - c.recovery - extOf stroke s

/-! ### Slice plans (R56) -/

/-- The entry of a plan at a position in strokes; an entry of domain 0 is one that its seat has left. -/
def planEntry : List (Nat × Nat × Nat) → Nat → Option (Nat × Nat)
  | [], _ => none
  | (d, k, n) :: t, p => if p < n then (if d = 0 then none else some (d, k)) else planEntry t (p - n)

/-- Strokes of a plan's repetition. -/
def planLen (l : List (Nat × Nat × Nat)) : Nat := l.foldl (fun a e => a + e.2.2) 0

/-- The seat that a plan gives a position of its endless repetition. -/
def planAt (l : List (Nat × Nat × Nat)) (p : Nat) : Option (Nat × Nat) := if planLen l = 0 then none else planEntry l (p % planLen l)

/-- The seat that holds a core in a stroke of now or later: by its plan, or all the time (R49, R56). -/
def holderAt (core stroke : Nat) (s : State) : Option (Nat × Nat) :=
  let k := coreOf core s
  let d := strokesTo s.stroke.count stroke
  match k.planNext with
  | some (t, p) =>
    let a := strokesTo s.stroke.count t
    if a ≤ d then planAt p (d - a) else if k.plan.isEmpty then k.holder else planAt k.plan (k.planPos + d)
  | none => if k.plan.isEmpty then k.holder else planAt k.plan (k.planPos + d)

/-! ### Remaining time -/

/-- What a derivation of a command's graph works on. -/
def cmdCtx (c : Cmd) (s : State) : Option WCtx :=
  match shellOf c.cdom s, cmdGraph c s with | some sh, some rg => some (wctx s c.cdom sh rg) | _, _ => none

/-- The fallback of a command's graph; one that is unregistered serves the commands admitted before (13 R391). Where a
core was lost it runs on the seats that R67 gave it. -/
def fallbackOf (c : Cmd) (s : State) : Option RegGraph :=
  match graphOf c.cdom c.handle s with
  | some g =>
    (match g.fallback with
    | some f => (match graphOf c.cdom f s with | some x => if x.gone && decide (x.goneAt ≤ c.order) then none else some { x with seatMap := c.fbSeats.getD x.seatMap } | none => none)
    | none => none)
  | none => none

/-- Remaining WCET in ps at the current clock (R65): from the last milestone for a command that runs, else the whole. -/
def remainingPs (c : Cmd) (s : State) : Nat :=
  let mhz := opMHz s
  if c.substPending then
    match fallbackOf c s, shellOf c.cdom s with | some f, some sh => wcetPs (wctx s c.cdom sh f) mhz + 45000000 | _, _ => 0
  else
    match cmdCtx c s with
    | none => 0
    | some x =>
      if !c.started then wcetPs x mhz
      else
        let n := match x.rg.graph.steps[c.step]? with
          | some st => (match x.rg.graph.nodes[st.first + st.pace]? with | some nd => max 1 nd.count | none => 1)
          | none => 1
        let p := stepPs x c.step mhz
        let all := x.rg.graph.steps.length
        (if c.step < all then ceilDiv (p * (n - min n c.miles)) n + (stepSegPs x c.step mhz - p) else 0) +
        (List.range (all - c.step - 1)).foldl (fun a k => a + stepSegPs x (c.step + 1 + k) mhz) 0

/-- Guaranteed commands of a window that a shell seat still has to run, in admission order (R50). -/
def seatCmds (cdom seat : Nat) (s : State) : List (Nat × Cmd) :=
  let l := s.cmds.filter (fun e => e.2.cdom == cdom && e.2.guarNow && (e.2.st == .admitted || e.2.st == .running) &&
    (match cmdGraph e.2 s with | some g => g.seatMap.contains seat | none => false))
  (l.foldl (fun t e => tabPut e.2.order e t) ([] : Tab (Nat × Cmd))).map (fun e => e.2)

/-- The monitor predicts a miss on a seat (R65). -/
def predictsMiss (cdom seat : Nat) (s : State) : Bool :=
  let cs := seatCmds cdom seat s
  match cs with
  | [] => false
  | (_, c) :: _ => decide (finishTime c.winEnd s * 10000 < s.now * 10000 + cs.foldl (fun a e => a + remainingPs e.2 s) 0)

/-- Stops the seats of a command (03 R95). -/
def stopSeats (n : Nat) (b : Bool) (s : State) : State :=
  match cmdOf n s with
  | some c => stopGroups n b (setCmd n { c with seats := c.seats.map (fun e => (e.1, { e.2 with stopped := b })) } s)
  | none => s

/-- Substitutes a command's fallback (R66): a running command stops first and its fallback starts later. -/
def substitute (n : Nat) (s : State) : State :=
  match cmdOf n s with
  | none => s
  | some c =>
    if c.subst || c.substPending || (fallbackOf c s).isNone then s
    else if c.started then stopSeats n true (setCmd n { c with substPending := true } s)
    else setCmd n { c with subst := true } s

/-- The monitor on one seat: substitution from the command admitted last backward (R66). -/
def monitorSeat (cdom seat : Nat) (s : State) : State :=
  (seatCmds cdom seat s).reverse.foldl (fun s e => if predictsMiss cdom seat s then substitute e.1 s else s) s

/-- The monitor on every seat of a shell (R64). -/
def monitorShell (cdom : Nat) (s : State) : State :=
  match shellOf cdom s with
  | none => s
  | some sh => (List.range sh.comp.seats.length).foldl (fun s k => monitorSeat cdom k s) s

/-- The monitor on every shell, after a fence, a change of operating point, VR_ALERT_N, a supply dip or an injected fault (R64). -/
def monitorAll (s : State) : State := (s.shells.map (fun e => e.1)).foldl (fun s d => monitorShell d s) s

/-- The monitor evaluates after an injection has acted (R64). -/
def watchInj (s : State) : State := if s.flt.watch then monitorAll { s with flt := { s.flt with watch := false } } else s

/-- A step with no command: time passes, and the monitor follows what an injection did before (R64). -/
def idleNow (s : State) : State := watchInj (idleStep s)

/-- A milestone of a command after `reps` repetitions of its pace node (03 R94); the monitor evaluates its shell (R64). -/
def milestone (n reps : Nat) (s : State) : State :=
  match cmdOf n s with
  | none => s
  | some c => monitorShell c.cdom (setCmd n { c with miles := reps } s)

end Sys2Proof.Machine
end

