-- ==== Sys2Proof/Machine/HostOps.lean ====
section
/-! DEFINITION. How Winemar commands arrive and answer (12 R351..R362; 13 R380..R386): the table of commands, checks that every request
meets, requests and responses of mailboxes, entries and completions of queue pairs. -/
namespace Sys2Proof.Machine

/-! ### The commands (Tables 13-1 to 13-6) -/

/-- Who may issue a command (R382). -/
inductive Priv where
  | none'
  | owner
  | tenant
  | map
  | guar
  | hand
  | debug
  | tenantOrOwner
  | debugOrOwner
  | loader
  deriving DecidableEq, Repr

/-- A command's row: paths, privilege, parameter words it requires, masks of the bits that its words name, how many more words follow, by word 0. -/
structure CmdInfo where
  mail  : Bool
  fast  : Bool
  priv  : Priv
  words : Nat
  masks : List Nat
  more  : Nat → Nat

/-- Bits [hi:lo] set. -/
def bm (hi lo : Nat) : Nat := 2 ^ (hi + 1) - 2 ^ lo

/-- All 64 bits. -/
def bmAll : Nat := 2 ^ 64 - 1

/-- A mailbox command. -/
def onMail (p : Priv) (masks : List Nat) : CmdInfo := ⟨true, false, p, masks.length, masks, fun _ => 0⟩
/-- A command of both paths. -/
def onBoth (p : Priv) (masks : List Nat) : CmdInfo := ⟨true, true, p, masks.length, masks, fun _ => 0⟩
/-- A fast-path command. -/
def onFast (p : Priv) (masks : List Nat) : CmdInfo := ⟨false, true, p, masks.length, masks, fun _ => 0⟩

/-- The commands of groups OWNER, SESSION and SHELL. -/
def cmdInfoA : Nat → Option CmdInfo
  | 0x0101 => some (onMail .none' (List.replicate 12 bmAll))
  | 0x0102 => some (onMail .owner [bm 11 0 + bm 24 16 + bm 35 32, bm 19 0])
  | 0x0103 => some (onMail .owner [bm 11 0])
  | 0x0104 => some (onMail .owner (bm 11 0 :: List.replicate 5 bmAll))
  | 0x0105 => some (onMail .owner (List.replicate 5 bmAll))
  | 0x0106 => some (onMail .owner [bm 8 0])
  | 0x0107 => some (onMail .owner [1])
  | 0x0201 => some (onMail .none' [bm 15 0])
  | 0x0202 => some (onMail .none' (bm 15 0 :: List.replicate 4 bmAll))
  | 0x0203 => some (onMail .tenantOrOwner [])
  | 0x0301 => some (onMail .owner [bmAll, bm 19 0 + bm 40 32])
  | 0x0302 => some (onMail .owner [bmAll, bm 19 0 + bm 40 32, bm 8 0, bm 23 0])
  | 0x0303 => some (onMail .owner [bm 8 0])
  | 0x0304 => some (onBoth .hand [bm 2 0 + bm 24 16])
  | 0x0305 => some { onMail .hand [bm 8 0 + bm 18 16 + bm 40 32, bm 31 0] with more := fun w => bits w 40 32 }
  | 0x0306 => some (onBoth .tenant [1 + bm 27 16])
  | _ => none

/-- The commands of groups MEMORY and GRAPH. -/
def cmdInfoB : Nat → Option CmdInfo
  | 0x0401 => some (onBoth .map [bm 47 0, bm 23 0, bm 8 0, bmAll])
  | 0x0402 => some (onBoth .map [bm 47 0])
  | 0x0403 => some (onBoth .map [bm 47 0, bm 39 0])
  | 0x0404 => some (onMail .owner [bm 1 0, bm 39 0])
  | 0x0405 => some (onBoth .map [bm 47 0])
  | 0x0406 => some (onBoth .map [bm 47 0])
  | 0x0407 => some (onBoth .map [bm 47 0])
  | 0x0408 => some (onBoth .map [bm 9 0 + bm 17 16, bm 47 0])
  | 0x0409 => some (onFast .tenant [bm 47 0, bm 47 0, bm 31 0])
  | 0x0410 => some (onFast .tenant [2 ^ 63 + bm 47 0, bmAll])
  | 0x0501 => some { onMail .map (bm 47 0 :: (3 + bm 31 16) :: List.replicate 16 bmAll) with words := 2 }
  | 0x0502 => some (onBoth .map [bm 15 0])
  | 0x0503 => some (onFast .tenant [bmAll, bm 47 0, bmAll, bmAll, 2 ^ 63])
  | 0x0504 => some (onBoth .tenant [bm 11 0 + bm 31 16, 1])
  | 0x0505 => some (onMail .tenant [bm 15 0])
  | _ => none

/-- The commands of groups STROKE to DEBUG. -/
def cmdInfoC : Nat → Option CmdInfo
  | 0x0601 => some (onMail .owner [bm 47 0, bmAll, bmAll, bmAll, bmAll])
  | 0x0602 => some (onBoth .tenant [])
  | 0x0603 => some (onBoth .tenant [bm 47 0])
  | 0x0701 => some (onMail .tenant [bmAll, bmAll, bm 4 0 + bm 26 16 + bm 39 32])
  | 0x0702 => some (onMail .tenant [bm 11 0])
  | 0x0703 => some (onMail .tenant [bm 11 0])
  | 0x0801 => some { onMail .tenantOrOwner [bm 31 0, bm 15 0, bmAll, bm 19 0] with words := 3 }
  | 0x0802 => some (onMail .debugOrOwner [bm 15 0, bm 31 0, bm 47 0, bmAll])
  | 0x0803 => some (onMail .owner [bm 31 0])
  | 0x0804 => some (onMail .owner [bm 3 0 + bm 19 8, bm 1 0])
  | 0x0901 => some (onMail .owner [bm 15 0])
  | 0x0902 => some (onBoth .tenant [])
  | 0x0903 => some (onFast .tenant [bm 47 0, bm 1 0 + bm 12 8, bm 15 0])
  | 0x0A01 => some (onMail .tenant [bmAll, bmAll, bmAll, bmAll, bm 7 0])
  | 0x0A02 => some (onMail .tenant [bm 31 0])
  | 0x0B01 => some (onBoth .tenant [])
  | 0x0B02 => some { onMail .owner [bm 47 0] with more := fun w => ceilDiv (bits w 47 32) 8 }
  | 0x0B03 => some (onMail .owner [])
  | 0x0C01 => some { onMail .loader [bm 47 0 + 2 ^ 62 + 2 ^ 63] with more := fun w => ceilDiv (bits w 47 32) 8 }
  | 0x0C02 => some (onMail .loader [])
  | 0x0D01 => some (onMail .debugOrOwner [bm 3 0 + bm 24 16, bmAll])
  | 0x0D02 => some (onMail .debugOrOwner [bm 8 0 + bm 16 16])
  | _ => none

/-- A command's row by its code (R361, R386). -/
def cmdInfo (code : Nat) : Option CmdInfo :=
  if code / 256 ≤ 3 then cmdInfoA code else if code / 256 ≤ 5 then cmdInfoB code else cmdInfoC code

/-- Nonzero reserved bits (R11, R380). -/
def hasReserved (i : CmdInfo) (params : List Byte) : Bool :=
  let ws := wordsOf params (ceilDiv params.length 8)
  let n := i.masks.length
  ws.zipIdx.any (fun w => if w.2 < n then decide (w.1 &&& i.masks.getD w.2 0 ≠ w.1) else decide (n + i.more (ws.getD 0 0) ≤ w.2) && w.1 != 0)

/-! ### Tenants -/

/-- The tenant code of the owner and of nobody (T12-10). -/
def ownerId : Nat := 0xFFFE
def nobody : Nat := 0xFFFF

/-- A valid tenant record. -/
def tenantOf (t : Nat) (s : State) : Option Tenant := tabFind t s.tenants

/-- Sets a tenant record. -/
def setTenant (t : Nat) (r : Tenant) (s : State) : State := { s with tenants := tabPut t r s.tenants }

/-- The shell of a tenant. -/
def tenantShell (t : Nat) (s : State) : Nat := match tenantOf t s with | some r => r.shell | none => 0

/-- PASID of a tenant. -/
def pasidOf (t : Nat) (s : State) : Nat := match tenantOf t s with | some r => r.pasid | none => 0

/-- A tenant or the owner has the privilege of a command (R382). -/
def hasPriv (p : Priv) (t : Nat) (s : State) : Bool :=
  match p with
  | .none' => true
  | .owner => t == ownerId
  | .tenant => (tenantOf t s).isSome
  | .map => (match tenantOf t s with | some r => r.rMap | none => false)
  | .guar => (match tenantOf t s with | some r => r.rGuar | none => false)
  | .hand => (match tenantOf t s with | some r => r.rHand | none => false)
  | .debug => (match tenantOf t s with | some r => r.rDebug | none => false)
  | .tenantOrOwner => t == ownerId || (tenantOf t s).isSome
  | .debugOrOwner => t == ownerId || (match tenantOf t s with | some r => r.rDebug | none => false)
  | .loader => false

/-- Commands that an out-of-service device executes (R383). -/
def oosCode (code : Nat) : Bool :=
  code / 256 == 2 || code == 0x0107 || code == 0x0105 || code == 0x0801 || code / 256 == 0x0A || code == 0x0B01 || code == 0x0B02 || code == 0x0B03

/-- The state of the device lets a command run (R383). -/
def stateAllows (code : Nat) (s : State) : Bool :=
  let l := code == 0x0C01 || code == 0x0C02
  if s.dev.state = 2 then !l else if s.dev.state = 1 then l else if s.dev.state = 3 then oosCode code else false

/-! ### Mailboxes -/

/-- A mailbox: 0..63 of BAR0, 64..127 of the local window. -/
def mbxOf (m : Nat) (s : State) : Mbx := tabGet Mbx.zero m s.mbx

/-- Sets a mailbox. -/
def setMbx (m : Nat) (b : Mbx) (s : State) : State := { s with mbx := tabSet Mbx.zero m b s.mbx }

/-- The key of a session's messages; none without a session. -/
def sessionKey (b : Mbx) : List Byte := if b.session then b.key else []

/-- Writes a response (R352, R353): results, header, `mac` under the key that goes with the request; `busy` clears, `done` is set, and the vector
is signalled where `irq_en` says so. -/
def answer (m code seq : Nat) (key : List Byte) (status detail offset : Nat) (res : List Byte) (s : State) : State :=
  let b := mbxOf m s
  let hd := leBytes (code * 2 ^ 48 + status * 2 ^ 32 + res.length) 8 ++ leBytes (packDetail detail offset) 8 ++ leBytes seq 8
  let mac := if key.isEmpty then List.replicate 8 0 else (hmac key (hd ++ List.replicate 8 0 ++ res)).take 8
  let s := setMbx m { b with busy := false, done := true, cur := none, went := none, resp := memWrite b.resp 0 (hd ++ mac ++ res) } s
  if b.irqEn then signal (decide (64 ≤ m)) b.vec s else s

/-- Ends the session of a mailbox (R356). -/
def endSession (m : Nat) (s : State) : State :=
  setMbx m { mbxOf m s with session := false, tenant := nobody, seq := 0, token := 0, key := [], badMacs := 0, nonce := none } s

/-- Checks of an accepted request that its code and parameters show (R362, R380..R383): none where it may run. Their order, which the spec does not give, is the
model's (DESIGN CHOICE, entry 79): device state, reserved header bits, code and path, `len`, reserved parameter bits, privilege. -/
def requestStatus (code hdRsv len : Nat) (params : List Byte) (t : Nat) (s : State) : Option Nat :=
  if !stateAllows code s then some stWrongState
  else if hdRsv != 0 then some stReserved
  else match cmdInfo code with
    | none => some stUnknown
    | some i =>
      if !i.mail then some stUnknown
      else if len < 8 * i.words then some stBadParam
      else if hasReserved i params then some stReserved
      else if s.dev.state = 1 then none
      else if hasPriv i.priv t s then none
      else some stNotPermitted

/-- Processes a copied request (R352, R355, R358, R383). -/
def process (m : Nat) (req : List Byte) (s : State) : State :=
  let b := mbxOf m s
  let w := fun i => leNat ((req.drop (8 * i)).take 8)
  let code := w 0 / 2 ^ 48
  let len := w 0 % 2 ^ 32
  let seq := w 2 % 2 ^ 32
  let params := (req.drop 32).take len
  let key := sessionKey b
  if 4064 < len then answer m code seq key stBadParam 0 0 [] s
  else
    let hdRsv := w 0 / 2 ^ 32 % 2 ^ 16 + w 2 / 2 ^ 32
    let opener := code == 0x0201 || code == 0x0202 || code == 0x0101
    if s.dev.state = 1 || opener || !b.session then
      let bad := if s.dev.state = 1 then none
        else if opener && b.session && code != 0x0101 then none
        else if w 1 != 0 then some stBadToken
        else if !opener then some stBadToken
        else if w 3 != 0 then some stBadMac
        else if seq != 0 then some stBadSeq
        else none
      match bad with
      | some st => answer m code seq key st 0 0 [] s
      | none =>
        match requestStatus code hdRsv len params nobody s with
        | some st => answer m code seq key st 0 0 [] s
        | none => setMbx m { b with cur := some ⟨code, params, seq, key, b.tenant, false⟩, went := none } s
    else
      let good := (hmac b.key (req.take 24 ++ List.replicate 8 0 ++ params)).take 8
      if w 1 != b.token.toNat then answer m code seq key stBadToken 0 0 [] (setMbx m { b with badMacs := 0 } s)
      else if (req.drop 24).take 8 != good then
        let s := answer m code seq key stBadMac 0 0 [] (setMbx m { b with badMacs := b.badMacs + 1 } s)
        if 16 ≤ b.badMacs + 1 then endSession m s else s
      else if seq != (b.seq + 1) % 2 ^ 32 then answer m code seq key stBadSeq 0 0 [] (setMbx m { b with badMacs := 0 } s)
      else
        let s := setMbx m { b with seq := seq, badMacs := 0 } s
        match requestStatus code hdRsv len params b.tenant s with
        | some st => answer m code seq key st 0 0 [] s
        | none => setMbx m { mbxOf m s with cur := some ⟨code, params, seq, key, b.tenant, false⟩, went := none } s

/-- Requests copied before the device was ready or in loader state are processed now (R383). -/
def serveWaiting (s : State) : State :=
  s.mbx.foldl (fun s e => match e.2.went with | some r => process e.1 r s | none => s) s

/-! ### Requests -/

/-- A request that a command's row acts on: whose it is, its parameter bytes. -/
structure Req where
  src    : Src
  tenant : Nat
  params : List Byte

/-- Parameter word k (R380). -/
def Req.word (r : Req) (k : Nat) : Nat := leNat ((r.params.drop (8 * k)).take 8)

/-- Bits of a parameter word. -/
def Req.field (r : Req) (k hi lo : Nat) : Nat := bits (r.word k) hi lo

/-- The owner's request. -/
def Req.byOwner (r : Req) : Bool := r.tenant == ownerId

/-- The shell that the request's tenant belongs to. -/
def Req.cdom (r : Req) (s : State) : Nat := tenantShell r.tenant s

/-- Work commands of a queue that still wait for a catch stand before its head (R385). -/
def queueBlocked (q : Nat) (s : State) : Bool := s.cmds.any (fun e => e.2.q == q && e.2.st == .queued)

/-- The request of a source for a command: accepted in the mailbox, or a control entry at the head of its queue; not one already begun. -/
def reqOf (code : Nat) (src : Src) (s : State) : Option Req :=
  match src with
  | .mbx m =>
    (match (mbxOf m s).cur with
    | some r => if r.code = code && !r.begun then some ⟨src, r.tenant, r.params⟩ else none
    | none => none)
  | .queue q =>
    (match tabFind q s.qps with
    | some p =>
      (match p.entries with
      | e :: _ => if e.code = code && !p.ctlBusy && !queueBlocked q s then some ⟨src, p.tenant, e.body.flatMap (fun w => leBytes w 8)⟩ else none
      | [] => none)
    | none => none)

/-- Marks a request as begun: its command waits. -/
def setBegun (src : Src) (s : State) : State :=
  match src with
  | .mbx m => let b := mbxOf m s; setMbx m { b with cur := b.cur.map (fun r => { r with begun := true }) } s
  | .queue q => (match tabFind q s.qps with | some p => { s with qps := tabPut q { p with ctlBusy := true } s.qps } | none => s)

/-- Checks of an entry that its queue examines (R362): none where it may go on. -/
def entryStatus (p : QPair) (e : Entry) (s : State) : Option Nat :=
  let i := cmdInfo e.code
  let work := e.code == 0x0503 || e.code == 0x0409
  let body := e.body.flatMap (fun w => leBytes w 8)
  if e.rsv || (match i with | some i => i.fast && hasReserved i body | none => false) then some stReserved
  else match i with
    | none => some stUnknown
    | some i =>
      if !i.fast then some stUnknown
      else if 192 < e.inlLen || (e.inlLen != 0 && !p.slot256) then some stBadEntry
      else if work && !e.be && !hasPriv .guar p.tenant s then some stNotPermitted
      else if !hasPriv i.priv p.tenant s then some stNotPermitted
      else if !stateAllows e.code s then some stWrongState
      else none

/-- Examines the entry at a queue's head: one that fails R362 completes, and the queue goes on with the next. -/
def examine (q : Nat) : Nat → State → State
  | 0, s => s
  | n + 1, s =>
    match tabFind q s.qps with
    | none => s
    | some p =>
      match p.entries with
      | [] => s
      | e :: t =>
        if p.ctlBusy then s
        else match entryStatus p e s with
          | none => s
          | some st => examine q n (owe q ⟨e.cid, st, 0, false, e.irq, false, s.stroke.count, 0, 0, false⟩ { s with qps := tabPut q { p with entries := t } s.qps })

/-- Takes the entry at a queue's head away and examines the next. -/
def popEntry (q : Nat) (s : State) : State :=
  match tabFind q s.qps with
  | none => s
  | some p => examine q p.entries.length { s with qps := tabPut q { p with entries := p.entries.tail, ctlBusy := false } s.qps }

/-- Answers a request: a mailbox response, or the completion of the entry at its queue's head, which later entries may then follow. -/
def respondBytes (src : Src) (status detail offset : Nat) (res : List Byte) (s : State) : State :=
  match src with
  | .mbx m => (match (mbxOf m s).cur with | some r => answer m r.code r.seq r.key status detail offset res s | none => s)
  | .queue q =>
    (match tabFind q s.qps with
    | some p =>
      (match p.entries with
      | e :: _ =>
        let out0 := if detail = 0 then leNat (res.take 8) else packDetail detail offset
        popEntry q (owe q ⟨e.cid, status, 0, false, e.irq, false, s.stroke.count, out0, if detail = 0 then leNat ((res.drop 8).take 8) else 0, false⟩ s)
      | [] => s)
    | none => s)

/-- Answers with words. -/
def respond (src : Src) (status : Nat) (outs : List Nat) (s : State) : State := respondBytes src status 0 0 (outs.flatMap (fun w => leBytes w 8)) s

/-- Answers with a refused check (T12-13). -/
def refuse (src : Src) (status detail offset : Nat) (s : State) : State := respondBytes src status detail offset [] s

/-- Runs a command's body on its request; nothing happens where no such request stands. -/
def onReq (code : Nat) (src : Src) (s : State) (f : Req → State) : Res :=
  match reqOf code src s with
  | none => .next s
  | some r => .next (f r)

end Sys2Proof.Machine
end

