-- ==== Sys2Proof/Machine/EndOps.lean ====
section
/-! DEFINITION. What ends commands and takes hardware out of service: the device state, the device section (17 R493), out of service
(15 R452), fences of cores (02 R67; 15 R448), retirement (15 R445, R451), fences of channels (11 R347). -/
namespace Sys2Proof.Machine

/-! ### The device -/

/-- A change of DEV_STATUS `state` signals vector 0 (13 R396). -/
def setDevState (st : Nat) (s : State) : State :=
  if s.dev.state = st then s else signal false 0 { s with dev := { s.dev with state := st } }

/-- A change of `unaligned` signals vector 0 and is recorded (13 R396; 15 T15-11). -/
def setUnaligned (b : Bool) (s : State) : State :=
  if s.dev.unaligned = b then s
  else signal false 0 (logRec (newRec 0x6F (if b then 2 else 0) 0 0) { s with dev := { s.dev with unaligned := b } })

/-- The valid copy of higher generation, and whether it is copy 0 (17 R491). -/
def bestCopy {α : Type} (a b : Copy2 α) : Option (Copy2 α × Bool) :=
  if a.valid && (!b.valid || decide (b.gen ≤ a.gen)) then some (a, true) else if b.valid then some (b, false) else none

/-- Writes the device section to the copy not in use (17 R491, R493). -/
def writeDevSec (d : DevSec) (s : State) : State :=
  let f := s.flash
  let s := { s with dev := { s.dev with devsec := d } }
  match bestCopy f.dev0 f.dev1 with
  | some (c, true) => { s with flash := { f with dev1 := ⟨true, c.gen + 1, d⟩ } }
  | some (c, false) => { s with flash := { f with dev0 := ⟨true, c.gen + 1, d⟩ } }
  | none => { s with flash := { f with dev0 := ⟨true, 1, d⟩ } }

/-! ### Commands that an event ends -/

/-- Ends a command with ABANDONED and the detail that names the event (13 R394, R397). -/
def abandonCmd (n detail : Nat) (s : State) : State := finishWith n stAbandoned (packDetail detail 0) 0 s

/-- Ends every command that a test picks. -/
def endCmds (pick : Cmd → Bool) (status out0 : Nat) (s : State) : State :=
  ((s.cmds.filter (fun e => pick e.2)).map (fun e => e.1)).foldl (fun s n => finishWith n status out0 0 s) s

/-- Ends every fetched entry of a queue that is not yet examined. -/
def endEntries (q status out0 : Nat) (s : State) : State :=
  match tabFind q s.qps with
  | none => s
  | some p =>
    let cs := p.entries.map (fun e => (⟨e.cid, status, 0, false, e.irq, false, s.stroke.count, out0, 0, false⟩ : Compl))
    { s with qps := tabPut q { p with entries := [], ctlBusy := false, owed := p.owed ++ cs, awaiting := p.awaiting - cs.length } s.qps }

/-- Puts a queue event into every queue pair of a shell's tenants. -/
def shellEvent (cdom status out0 : Nat) (s : State) : State :=
  { s with qps := s.qps.map (fun (e : Nat × QPair) => (e.1, if tenantShell e.2.tenant s = cdom && (tenantOf e.2.tenant s).isSome then
      { e.2 with owed := e.2.owed ++ [⟨0xFFFF, status, 0, false, false, true, s.stroke.count, out0, 0, false⟩] } else e.2)) }

/-- Cores that are neither retired nor failed. -/
def liveCores (s : State) : Nat := ((List.range Config.cores).filter (fun c => !coreGone c s)).length

/-- The device leaves service (R452). -/
def goOutOfService (s : State) : State :=
  if s.dev.devsec.oos then s
  else
    let s := writeDevSec { s.dev.devsec with oos := true } s
    let s := logRec (newRec 0x65 4 8 0) s
    let s := endCmds (fun _ => true) stAbandoned (packDetail 0x0208 0) s
    let s := (s.qps.map (fun e => e.1)).foldl (fun s q => endEntries q stAbandoned (packDetail 0x0208 0) s) s
    let s := { s with links := s.links.map (fun (e : Nat × Link) => (e.1, { e.2 with reserved := 0 })), dev := { s.dev with coldOos := false } }
    let s := { s with shells := s.shells.map (fun (e : Nat × Shell) => (e.1, { e.2 with comp := { e.2.comp with links := [] } })) }
    setDevState 3 s

/-- The floor of R451: too few cores take the device out of service. -/
def checkFloor (s : State) : State := if liveCores s < s.dev.devsec.floor then goOutOfService s else s

/-! ### Fences of cores -/

/-- Seats of a shell that graphs may use and whose cores are in service. -/
def liveSeats (sh : Shell) (s : State) : List Nat :=
  (List.range sh.comp.seats.length).filter (fun k => !spareSeat sh k && (match seatCore sh k with | some core => !(coreOf core s).fenced && !coreGone core s | none => false))

/-- Where a fallback can run (R67): on its own seats, and in place of one out of service on the lowest seat in service that it does not name (entry 96). -/
def fallbackSeats (f : RegGraph) (sh : Shell) (s : State) : Option (List Nat) :=
  let live := liveSeats sh s
  f.seatMap.foldl (fun a k =>
    match a with
    | none => none
    | some l => if live.contains k then some (l ++ [k]) else (live.find? (fun x => !l.contains x && !f.seatMap.contains x)).map (fun x => l ++ [x])) (some [])

/-- What is left of a seat's drive budget in a window, in 10 ns (R49, R67): what remains of the present drive phase, and the drive phases that follow in which
the seat holds its core. -/
def driveLeft (cdom seat core winEnd : Nat) (s : State) : Nat :=
  (List.range (strokesTo s.stroke.count winEnd + 1)).foldl (fun a i =>
    let n := (s.stroke.count + i) % 2 ^ 48
    if holderAt core n s != some (cdom, seat) then a
    else if i = 0 then a + (finishTime n s - max s.now (strokeStart n s + (cfgOf n s).catchLen)) else a + driveLen n s) 0

/-- The seats on which a command's fallback fits (R67): seats in service whose remaining budgets hold it beside what they still have to run. -/
def fallbackPlace (c : Cmd) (s : State) : Option (List Nat) :=
  match fallbackOf c s, shellOf c.cdom s with
  | some f, some sh =>
    (match fallbackSeats f sh s with
    | none => none
    | some l =>
      let w := wcetPs (wctx s c.cdom sh { f with seatMap := l }) (opMHz s) + 45000000
      let ok := l.all (fun k =>
        let others := (seatCmds c.cdom k s).filter (fun e => e.2.order != c.order)
        decide (others.foldl (fun a e => a + remainingPs e.2 s) 0 + w ≤ driveLeft c.cdom k ((seatCore sh k).getD 0) c.winEnd s * 10000))
      if ok then some l else none)
  | _, _ => none

/-- Whether a command has a graph seat on a core. -/
def usesCore (c : Cmd) (core : Nat) (s : State) : Bool :=
  match cmdGraph c s, shellOf c.cdom s with
  | some g, some sh => g.seatMap.any (fun k => seatCore sh k == some core)
  | _, _ => false

/-- The miss cause of an event, kept unless an earlier one stands (T2-5). -/
def Cmd.blame (c : Cmd) (k : Nat) : Cmd := if c.cause = 0 then { c with cause := k } else c

/-- Commands on a core that is fenced (R67): guaranteed ones take their fallback where it fits, best-effort ones end (entry 41). A guaranteed one
that has run there and has no fallback stops. `cause` is its miss cause (T2-5). -/
def loseSeat (core cause : Nat) (s : State) : State :=
  ((s.cmds.filter (fun e => e.2.st != .queued && usesCore e.2 core s)).map (fun e => e.1)).foldl (fun s n =>
    match cmdOf n s with
    | none => s
    | some c =>
      if c.guarNow then
        let s := setCmd n (c.blame cause) s
        let place := if c.subst then none else fallbackPlace c s
        if place.isSome then
          (let s := setCmd n { c.blame cause with fbSeats := place } s
          if c.substPending then s else substitute n s)
        else if c.started then (match cmdOf n s with | some c => stopSeats n true (setCmd n { c with seatLost := true } s) | none => s)
        else s
      else if c.st = .admitted && !c.started then s
      else abandonCmd n 0x0201 s) s

/-- Fences a core (R67, R448); the deadline monitor evaluates (R64). A fence by an injection is the miss cause FAULT_INJECT (15 R432). -/
def fenceCoreBy (inj : Option Nat) (core : Nat) (s : State) : State :=
  let k := coreOf core s
  if k.fenced then s
  else
    let s := setCore core { k with fenced := true } s
    let s := { s with flt := { s.flt with fences := s.flt.fences ++ [⟨2, core, s.now, false, false, inj, false⟩] } }
    monitorAll (loseSeat core (if inj.isSome then 4 else 3) s)

/-- Fences a core that no injection touches. -/
def fenceCore (core : Nat) (s : State) : State := fenceCoreBy none core s

/-- A fence is lifted. -/
def unfence (dom unit : Nat) (s : State) : State :=
  { s with flt := { s.flt with fences := s.flt.fences.filter (fun f => !(f.dom == dom && f.unit == unit)) } }

/-- Graphs of every shell are derived again. -/
def rederiveAll (s : State) : State := (s.shells.map (fun e => e.1)).foldl (fun s d => rederive d s) s

/-- Retires a core (R445, R451). -/
def retireCore (core : Nat) (s : State) : State :=
  if s.dev.devsec.coresRet.contains core then s
  else
    let s := fenceCore core s
    let s := setCore core { coreOf core s with retired := true } s
    let s := writeDevSec { s.dev.devsec with coresRet := s.dev.devsec.coresRet ++ [core] } s
    let s := logRec ((newRec 0x64 3 7 0).at 0x1FF 1 core) s
    checkFloor (rederiveAll s)

/-- Retires a die with its 46 cores (R451). -/
def retireDie (die : Nat) (s : State) : State :=
  if bit s.dev.devsec.diesRet die then s
  else
    let s := (List.range 46).foldl (fun s i => fenceCore (46 * die + i) s) s
    let s := writeDevSec { s.dev.devsec with diesRet := s.dev.devsec.diesRet + 2 ^ die } s
    let s := logRec ((newRec 0x64 3 7 0).at 0x1FF 2 die) s
    checkFloor (rederiveAll s)

/-! ### Fences of channels (10 R305; 11 R347) -/

/-- A mirrored range loses one of its sets: `side` where it is the primary. -/
def loseMirror (cdom i : Nat) (side : Bool) (s : State) : State :=
  match shellOf cdom s with
  | none => s
  | some sh =>
    match tabFind i sh.ranges with
    | none => s
    | some r =>
      if !r.mirror || r.mirrorLost then s
      else logRec ((newRec 0x70 3 0 0).at cdom 0 0) (setShell cdom { sh with ranges := tabPut i { r with mirrorLost := true, side := side } sh.ranges } s)

/-- Fences a channel: mirrored ranges on it serve from the other set, graphs that use its set lose guaranteed use. -/
def fenceChannel (ch : Nat) (s : State) : State :=
  let k := chanOf ch s
  if k.fenced then s
  else
    let lines := (s.coh.dir.filter (fun e => decide (e.2.dstate ≠ .inv) && dpaChan (e.1 * 512) == ch)).map (fun e => e.1)
    let mirrored := (lines.filter (fun l => (mirrorOf (l * 512) s).isSome))
    let s := mirrored.foldl (fun s l => recallAll l s) s
    let s := (s.coh.home.filter (fun e => dpaChan (e.1 * 512) == ch)).foldl (fun s e => homeEvict e.1 s) s
    let s := setChan ch { k with fenced := true } s
    let s := { s with flt := { s.flt with fences := s.flt.fences ++ [⟨8, ch, s.now, false, false, none, false⟩] } }
    match chanOwner ch s with
    | none => s
    | some d =>
      match shellOf d s with
      | none => s
      | some sh =>
        let hit := fun (i : Nat) => match setOf sh i with | some st => st.chans.contains ch | none => false
        let s := (sh.ranges.filter (fun e => hit e.2.set || (e.2.mirror && hit e.2.mset))).foldl (fun s e => loseMirror d e.1 (hit e.2.set) s) s
        rederive d s

end Sys2Proof.Machine
end

