-- ==== Sys2Proof/Machine/Calendar.lean ====
section
/-! DEFINITION. Slice plans (02 R56, R59), the calibration calendar (R60..R62, Table 2-4) and moves of its slots (R540). -/
namespace Sys2Proof.Machine

/-! ### Context switches -/

/-- Cores with a slice plan, now or to come. -/
def slicedCores (s : State) : List Nat := (s.cores.filter (fun e => !e.2.plan.isEmpty || e.2.planNext.isSome)).map (fun e => e.1)

/-- A context switch: core, outgoing and incoming seat. -/
structure Switch where
  core : Nat
  out  : Option (Nat × Nat)
  in'  : Option (Nat × Nat)

/-- Context switches of the recovery phase of a stroke (R59). -/
def switchesAt (stroke : Nat) (s : State) : List Switch :=
  (slicedCores s).filterMap (fun c =>
    let a := holderAt c stroke s
    let b := holderAt c ((stroke + 1) % 2 ^ 48) s
    if a = b then none else some ⟨c, a, b⟩)

/-- Tier F channels of a shell. -/
def tierF (sh : Shell) : List Nat := (sh.comp.sets.flatMap (fun e => e.2.chans)).filter (fun c => decide (c < 64))

/-- Shells that save or restore in a list of switches. -/
def switchShells (sw : List Switch) : List Nat := (sw.flatMap (fun x => (x.out.toList ++ x.in'.toList).map (fun y => y.1))).eraseDups

/-- T_cs of R59 in 10 ns for a list of switches. -/
def switchTime (sw : List Switch) (s : State) : Nat :=
  if sw.isEmpty then 0
  else
    let ds := switchShells sw
    let n := fun (d : Nat) (f : Switch → Option (Nat × Nat)) => (sw.filter (fun x => match f x with | some y => y.1 == d | none => false)).length
    let b := fun (d : Nat) => match shellOf d s with | some sh => (tierF sh).length * 2240 | none => 0
    let save := ds.foldl (fun m d => max m (ceilDiv (n d (fun x => x.out) * Config.contextBytes) (b d))) 0
    let both := ds.foldl (fun m d => max m (ceilDiv ((n d (fun x => x.out) + n d (fun x => x.in')) * Config.contextBytes) (b d))) 0
    save + both + Config.us 1

/-! ### Calibrations (Table 2-4) -/

/-- A number for each resource, for the table of last placements. -/
def calKey : CalRes → Nat
  | .zqF k => k
  | .trainF c => 16 + c
  | .zqS c => 96 + c
  | .trainS c => 128 + c
  | .falnar l => 160 + l
  | .sensors => 192

/-- Duration bound in 10 ns. -/
def calTime : CalRes → Nat
  | .zqF _ => 100
  | .trainF _ => 400
  | .zqS _ => 50
  | .trainS _ => 600
  | .falnar _ => 1200
  | .sensors => 200

/-- Interval in 10 ns. -/
def calEvery : CalRes → Nat
  | .zqF _ | .zqS _ => Config.ms 128
  | .trainF _ | .trainS _ | .sensors => Config.sec 1
  | .falnar _ => Config.sec 10

/-- Channels that a calibration takes, keyed 0..63 and 64..87. -/
def calChans : CalRes → List Nat
  | .zqF k => (List.range 16).map (fun i => 16 * k + i)
  | .trainF c => [c]
  | .zqS c | .trainS c => [64 + c]
  | _ => []

/-- The resources of the device that calibrate: channels and links in service, the sensors. -/
def calResources (s : State) : List CalRes :=
  let us := fun (c : Nat) => (chanOf c s).usable && !(chanOf c s).fenced
  ((List.range 4).filter (fun k => (List.range 16).any (fun i => us (16 * k + i)))).map .zqF ++
  ((List.range 64).filter us).map .trainF ++
  ((List.range 24).filter (fun c => us (64 + c))).map .zqS ++
  ((List.range 24).filter (fun c => us (64 + c))).map .trainS ++
  ((s.links.filter (fun e => e.2.st == .up)).map (fun e => .falnar e.1)) ++ [.sensors]

/-- Slots of a stroke. -/
def slotsAt (stroke : Nat) (s : State) : List CalSlot := s.stroke.cal.filter (fun x => x.stroke == stroke)

/-- When the schedule of a stroke's slots and context switches ends, from the recovery phase's start (R61): slots on one resource run one after
another and never beside a context move on it. -/
def scheduleEnd (slots : List CalRes) (sw : List Switch) (s : State) : Nat :=
  let tcs := switchTime sw s
  let moving := (switchShells sw).flatMap (fun d => match shellOf d s with | some sh => tierF sh | none => [])
  let chs := (slots.flatMap calChans).eraseDups
  let ch := chs.foldl (fun m c => max m ((slots.filter (fun r => (calChans r).contains c)).foldl (fun a r => a + calTime r) 0 + (if moving.contains c then tcs else 0))) 0
  let lone := (slots.filter (fun r => (calChans r).isEmpty)).foldl (fun m r => max m (calTime r)) 0
  max tcs (max ch lone)

/-- A stroke can hold slots: its recovery phase lengthened by at most `grow` ends no earlier than their schedule (R61). -/
def canHold (stroke : Nat) (slots : List CalRes) (grow : Nat) (s : State) : Bool :=
  decide (scheduleEnd slots (switchesAt stroke s) s ≤ (cfgOf stroke s).recovery + grow)

/-- A slot of the resource stands in the calendar. -/
def inCalendar (r : CalRes) (s : State) : Bool := s.stroke.cal.any (fun x => x.res == r)

/-- A drift alarm brings a channel's retraining forward (R62; 10 R307). -/
def drifts (r : CalRes) (s : State) : Bool :=
  match r with
  | .trainF c => (chanOf c s).drift
  | .trainS c => (chanOf (64 + c) s).drift
  | .falnar l => (tabGet Link.zero l s.links).eqSoon
  | _ => false

/-- A calibration is due in a stroke: waiting one more would pass its interval, or a drift alarm asks for it. -/
def calDue (stroke : Nat) (r : CalRes) (s : State) : Bool :=
  let last := tabGet 0 (calKey r) s.dev.calLast
  decide (last + calEvery r < strokeStart ((stroke + 1) % 2 ^ 48) s) || (drifts r s && !inCalendar r s)

/-- The end of a link that proposes its equalisation (14 R406): the lower device ID. -/
def proposes (l : Nat) (s : State) : Bool := decide (s.dev.board.devId < (tabGet Link.zero l s.links).partner)

/-- Puts a slot into a stroke, with the extension it needs (R61). -/
def placeSlot (stroke : Nat) (r : CalRes) (s : State) : State :=
  let all := (slotsAt stroke s).map (fun x => x.res) ++ [r]
  let e := scheduleEnd all (switchesAt stroke s) s - (cfgOf stroke s).recovery
  { s with
    stroke := { s.stroke with cal := s.stroke.cal ++ [⟨stroke, r⟩], exts := tabSet 0 stroke (max e (extOf stroke s)) s.stroke.exts }
    dev := { s.dev with calLast := tabPut (calKey r) (strokeStart stroke s) s.dev.calLast } }

/-- Fixes a slot in a stroke. A Falnar slot within the regatta is proposed to the partner (14 R406). -/
def fixSlot (stroke : Nat) (r : CalRes) (s : State) : State :=
  let s := placeSlot stroke r s
  match r with
  | .falnar l =>
    let k := tabGet Link.zero l s.links
    if s.dev.board.regatta != 0 && k.regatta = s.dev.board.regatta then
      emit (.cox l (.equalise l stroke)) { s with links := tabPut l { k with eq' := some ⟨stroke, false⟩ } s.links }
    else s
  | _ => s

/-- Fixes the calendar of one more stroke (R60, R62): every calibration due there that the stroke can hold. -/
def fixStroke (stroke : Nat) (s : State) : State :=
  (calResources s).foldl (fun s r =>
    let mine := match r with | .falnar l => proposes l s | _ => true
    if mine && calDue stroke r s && !(slotsAt stroke s).any (fun x => x.res == r) &&
      canHold stroke ((slotsAt stroke s).map (fun x => x.res) ++ [r]) 2000 s then fixSlot stroke r s else s) s

/-- Strokes of windows already admitted. -/
def inAdmitted (stroke : Nat) (s : State) : Bool :=
  s.cmds.any (fun e => e.2.guarNow && decide (strokesTo s.stroke.count stroke ≤ strokesTo s.stroke.count e.2.winEnd))

/-- The slots of a stroke that fit there within the extension already fixed, taken in order, and the others. -/
def keepSlots (stroke : Nat) (l : List CalSlot) (s : State) : List CalSlot × List CalSlot :=
  l.foldl (fun a x => if canHold stroke ((a.1 ++ [x]).map (fun y => y.res)) (extOf stroke s) s then (a.1 ++ [x], a.2) else (a.1, a.2 ++ [x])) ([], [])

/-- Moves one slot to the first later stroke that holds it within that stroke's extension (R540); the first number bounds the strokes tried, and a slot that none of
them holds is dropped (DESIGN CHOICE, entry 95). -/
def moveSlot (x : CalSlot) (s : State) : Nat → Nat → State
  | 0, _ => s
  | n + 1, stroke =>
    let others := (slotsAt stroke s).map (fun y => y.res)
    if !inAdmitted stroke s && canHold stroke (others ++ [x.res]) (extOf stroke s) s then fixSlot stroke x.res s
    else moveSlot x s n ((stroke + 1) % 2 ^ 48)

/-- Fits the calendar to a configuration accepted for a target stroke (R540). -/
def refitCalendar (target : Nat) (s : State) : State :=
  let later := fun (x : CalSlot) => decide (strokesTo s.stroke.count target ≤ strokesTo s.stroke.count x.stroke)
  let ks := ((s.stroke.cal.filter later).map (fun x => x.stroke)).eraseDups
  ks.foldl (fun s k =>
    let p := keepSlots k (slotsAt k s) s
    let s := { s with stroke := { s.stroke with cal := s.stroke.cal.filter (fun x => x.stroke != k) ++ p.1 } }
    p.2.foldl (fun s x => moveSlot x s 4096 ((k + 1) % 2 ^ 48)) s) s

/-- Drops what lies before the present stroke. -/
def trimCalendar (s : State) : State :=
  let old := fun (k : Nat) => decide (2 ^ 47 ≤ strokesTo s.stroke.count k)
  { s with stroke := { s.stroke with cal := s.stroke.cal.filter (fun x => !old x.stroke), exts := s.stroke.exts.filter (fun e => !old e.1) } }

end Sys2Proof.Machine
end

