-- ==== Sys2Proof/Machine/Anchored.lean ====
section
/-! DEFINITION. AX128 cells (05): patterns (T5-1), contributions (R128), the content of a cell (R129, T5-2), re-anchoring (R139), ADDX (R144). -/
namespace Sys2Proof.Machine

/-- The largest finite magnitude: 2^127 − 2 (T5-1). -/
def axMax : Int := 2 ^ 127 - 2

def Cell128.zero : Cell128 := { sum := 0, nan := false, pos := false, neg := false }
def Cell128.nanC : Cell128 := { Cell128.zero with nan := true }
def Cell128.posC : Cell128 := { Cell128.zero with pos := true }
def Cell128.negC : Cell128 := { Cell128.zero with neg := true }

/-- Adds contributions (R129): the content depends on the multiset only. -/
def Cell128.add (a b : Cell128) : Cell128 := { sum := a.sum + b.sum, nan := a.nan || b.nan, pos := a.pos || b.pos, neg := a.neg || b.neg }

/-- A finite number in units of 2^A as a contribution (R128). -/
def contribQ (q : Int) : Cell128 :=
  if axMax < q then Cell128.posC else if q < -axMax then Cell128.negC else { Cell128.zero with sum := q }

/-- The contribution of a finite real at anchor `A` (R128), and whether it sets `sticky`. -/
def contrib (x : Dy) (A : Int) : Cell128 × Bool :=
  let q := quantize .nearest x A
  (contribQ q, x.m != 0 && q == 0)

/-- Class of a cell as T5-2 forms it: 0 finite, 1 +SAT, 2 −SAT, 3 NaN; with N and the flags `nan`, `sat`. -/
def Cell128.form (c : Cell128) : Nat × Int × Bool × Bool :=
  if c.nan then (3, 0, true, false)
  else if c.pos && c.neg then (3, 0, true, true)
  else if c.pos then (1, 2 ^ 127 - 1, false, true)
  else if c.neg then (2, -(2 ^ 127 - 1), false, true)
  else if axMax < c.sum then (1, 2 ^ 127 - 1, false, true)
  else if c.sum < -axMax then (2, -(2 ^ 127 - 1), false, true)
  else (0, c.sum, false, false)

/-- The 128-bit pattern of a formed cell (T5-1). -/
def patOf (f : Nat × Int × Bool × Bool) : Nat :=
  if f.1 = 3 then 2 ^ 127 else if f.1 = 2 then 2 ^ 127 + 1 else unsigned 128 f.2.1

/-- A stored pattern as a contribution at its own anchor (T5-1). -/
def ofPat128 (p : Nat) : Cell128 :=
  if p = 2 ^ 127 then Cell128.nanC
  else if p = 2 ^ 127 + 1 then Cell128.negC
  else if p = 2 ^ 127 - 1 then Cell128.posC
  else { Cell128.zero with sum := signed 128 p }

/-- Class and N of a pattern. -/
def classOf128 (p : Nat) : Nat × Int := let f := (ofPat128 p).form; (f.1, f.2.1)

/-- A pattern of anchor `a` as a contribution at anchor `A` (R139), and `sticky`. -/
def reanchor (p : Nat) (a A : Int) : Cell128 × Bool :=
  let c := ofPat128 p
  if c.nan || c.pos || c.neg then (c, false) else contrib ⟨c.sum, a⟩ A

/-- ADDX (R144): the new pattern, sticky and saturation indications from the old pattern and a contribution. -/
def addxCell (old : Nat) (c : Cell128 × Bool) : Nat × Bool × Bool :=
  let o := ofPat128 old
  let f := (o.add c.1).form
  (patOf f, c.2, f.1 != 0 || o.form.1 != 0)

/-- An FP32 value as a contribution at an anchor (R144): NaN and ±∞ are NaN contributions. -/
def contrib32 (v : W32) (A : Int) : Cell128 × Bool :=
  match decodeF fp32 v.toNat with
  | .fin neg m => contrib (finDy neg m) A
  | _ => (Cell128.nanC, false)

end Sys2Proof.Machine
end

