-- ==== Sys2Proof/Machine/Redundancy.lean ====
section
/-! DEFINITION. Paired and Sampled seats (15 R433, R434, R437): roles, signatures, items held by a primary, checks that open. -/
namespace Sys2Proof.Machine

/-- The checker seat of a working seat (R433). -/
def checkerOf (sh : Shell) (seat : Nat) : Nat := sh.comp.seats.length - checkers sh + seat % checkers sh

/-- The shell that holds a core, and the seat. -/
def holderOf (core : Nat) (s : State) : Option (Nat × Nat × Shell) :=
  match (coreOf core s).holder with
  | some (d, seat) => (match shellOf d s with | some sh => some (d, seat, sh) | none => none)
  | none => none

/-- A core is the primary of a pair (R433). -/
def isPrimary (core : Nat) (s : State) : Bool :=
  match holderOf core s with | some (_, seat, sh) => sh.comp.redund == 2 && seat % 2 == 0 | none => false

/-- The signature of an item (R434): CRC-64 over address, byte mask and data (entry 35). -/
def signature (addr : Nat) (bytes : List Byte) : Word :=
  BitVec.ofNat 64 (crc64 (leBytes addr 8 ++ leBytes (2 ^ bytes.length - 1) (ceilDiv bytes.length 8) ++ bytes))

/-- Holds an item on a primary (R434); `node` is the node and repetition it comes from. -/
def holdItem (core addr : Nat) (bytes : List Byte) (node : Option (Nat × Nat)) (w : HeldWhat) (s : State) : State :=
  let k := coreOf core s
  setCore core { k with held := k.held ++ [⟨signature addr bytes, s.now, node, w⟩] } s

/-- An Outlet repetition of a seat opens a Sampled check where its number says so (R437). -/
def openSample (n gseat core number node rep : Nat) (c : Cmd) (at' : Nat) (s : State) : State :=
  match holderOf core s with
  | some (d, seat, sh) =>
    if sh.comp.redund = 1 && sh.comp.sampleN != 0 && number % sh.comp.sampleN == at' % sh.comp.sampleN then
      match seatCore sh (checkerOf sh seat) with
      | some k => { s with flt := { s.flt with sampled := s.flt.sampled ++ [{ core := core, cdom := d, seat := gseat, cmd := n, tenant := c.tenant, checker := k, stroke := s.stroke.count, handle := c.handle, node := node, rep := rep }] } }
      | none => s
    else s
  | none => s

end Sys2Proof.Machine
end

