-- ==== Sys2Proof/Machine/Flags.lean ====
section
/-! DEFINITION. Guards (07 R186), conditions (T7-11) and how a condition is combined (R194). -/
namespace Sys2Proof.Machine

/-- A thread's guard (R186). -/
def guardOf (g : Group) (i : Iss) (lane : Nat) : Bool := rdP g lane (.p i.guard) != i.gneg

/-- Active lanes of the running path whose guard is true. -/
def votingLanes (g : Group) (i : Iss) : List Nat :=
  match g.paths with
  | [] => []
  | p :: _ => (lanesOf p.mask).filter (fun l => guardOf g i l)

/-- Integer conditions (T7-11). -/
def icond (c : Nat) (a b : W32) : Bool :=
  match c with
  | 0 => a == b
  | 1 => a != b
  | 2 => a.slt b
  | 3 => a.sle b
  | 4 => b.slt a
  | 5 => b.sle a
  | 6 => a.ult b
  | 7 => a.ule b
  | 8 => b.ult a
  | 9 => b.ule a
  | _ => false

/-- Floating-point conditions (T7-11, R175). -/
def fcond (c : Nat) (a b : FVal) : Bool :=
  let nan := match a, b with | .nan, _ => true | _, .nan => true | _, _ => false
  match c with
  | 0 => feq a b
  | 1 => nan || !feq a b
  | 2 => !nan && flt false a b
  | 3 => !nan && (flt false a b || feq a b)
  | 4 => !nan && flt false b a
  | 5 => !nan && (flt false b a || feq a b)
  | 10 => !nan
  | 11 => nan
  | _ => false

/-- How a condition is combined with predicate c (R194). -/
def combine (comb : Nat) (t c : Bool) : Bool :=
  match comb with
  | 0 => t
  | 1 => t && c
  | 2 => t || c
  | _ => t != c

/-- PCOMB's operations (T7-10). -/
def pcombOp (op : Nat) (a b : Bool) : Bool :=
  match op with
  | 0 => a && b
  | 1 => a || b
  | 2 => a != b
  | _ => a && !b

end Sys2Proof.Machine
end

