-- ==== Sys2Proof/Machine/Special.lean ====
section
/-! DEFINITION. The special functions of T6-5 (06 R177): the binary32 value nearest to the exact result. SQRT, RCP and RSQRT are exact
integer computations. The others evaluate the function in fixed point with over 200 bits and round once, which is the nearest value
wherever the exact result is not within 2^-150 of a tie (DEDUCED, entry 23). -/
namespace Sys2Proof.Machine

/-- floor(√n) by bits, from bit `k` down. -/
def isqrtGo (n : Nat) : Nat → Nat → Nat
  | 0, acc => acc
  | k + 1, acc =>
    let t := acc + 2 ^ k
    isqrtGo n k (if t * t ≤ n then t else acc)

def isqrt (n : Nat) : Nat := isqrtGo n (bitLen n / 2 + 1) 0

/-- m × 2 + 1 unless the result is exact: a dyadic strictly between, for rounding. -/
def sticky (q : Nat) (exact : Bool) (e : Int) : Dy := if exact then ⟨q, e⟩ else ⟨(2 * q + 1 : Nat), e - 1⟩

/-- √x for x > 0. -/
def dySqrt (x : Dy) : Dy :=
  let sh : Nat := 128 + (if (x.e - 128) % 2 = 0 then 0 else 1)
  let n := x.m.natAbs * 2 ^ sh
  let q := isqrt n
  sticky q (q * q == n) ((x.e - sh) / 2)

/-- Σ over odd denominators for atanh: z^1/1 + z^3/3 + …, all scaled by 2^P. -/
def atanhGo (P z2 : Nat) : Nat → Nat → Nat → Nat → Nat
  | 0, _, _, acc => acc
  | n + 1, k, t, acc => atanhGo P z2 n (k + 2) (t * z2 / 2 ^ P) (acc + t / k)

/-- atanh(z) for 0 ≤ z ≤ 1/3, scaled by 2^P. -/
def atanhFix (P z : Nat) : Nat := atanhGo P (z * z / 2 ^ P) 160 1 z 0

/-- ln 2, scaled by 2^P. -/
def ln2Fix (P : Nat) : Nat := 2 * atanhFix P (2 ^ P / 3)

/-- Σ t^n/n!, scaled by 2^P. -/
def expGo (P x : Nat) : Nat → Nat → Nat → Nat → Nat
  | 0, _, _, acc => acc
  | n + 1, k, t, acc => expGo P x n (k + 1) (t * x / 2 ^ P / k) (acc + t)

/-- e^x for 0 ≤ x < 1, scaled by 2^P. -/
def expFix (P x : Nat) : Nat := expGo P x 120 1 (2 ^ P) 0

/-- floor of x × 2^P. -/
def toFix (P : Nat) (x : Dy) : Int :=
  let s : Int := x.e + P
  if 0 ≤ s then x.m * (2 : Int) ^ s.toNat else x.m / (2 : Int) ^ (-s).toNat

def prec : Nat := 240

/-- 2^x for a dyadic x of moderate size. -/
def exp2Dy (x : Dy) : Dy :=
  let fx := toFix prec x
  let one : Int := 2 ^ prec
  let k := fx / one
  let f := (fx % one).toNat
  if f = 0 ∧ (0 ≤ x.e ∨ x.m % (2 : Int) ^ (-x.e).toNat = 0) then ⟨1, k⟩
  else sticky (expFix prec (f * ln2Fix prec / 2 ^ prec)) false (k - prec)

/-- e^x for |x| below 1,024: 2^(x / ln 2). -/
def expDy (x : Dy) : Dy :=
  let fx := toFix (prec + 16) x
  let y := fx * (2 : Int) ^ prec / (ln2Fix prec : Int)
  let one : Int := 2 ^ (prec + 16)
  let k := y / one
  let f := (y % one).toNat / 2 ^ 16
  ⟨(expFix prec (f * ln2Fix prec / 2 ^ prec) : Nat), k - prec⟩

/-- ln of a dyadic in [1, 2), scaled by 2^prec. -/
def lnFix (m : Dy) : Nat :=
  let v := (toFix prec m).toNat
  2 * atanhFix prec ((v - 2 ^ prec) * 2 ^ prec / (v + 2 ^ prec))

/-- log2 x for x > 0. -/
def log2Dy (x : Dy) : Dy :=
  let k := dyLog x
  let m : Dy := ⟨x.m, x.e - k⟩
  if dyEq m ⟨1, 0⟩ then ⟨k, 0⟩
  else
    let f : Nat := lnFix m * 2 ^ prec / ln2Fix prec
    let v : Int := k * (2 : Int) ^ prec + (f : Int)
    ⟨2 * v + 1, -(prec : Int) - 1⟩

/-- arctan(1/n) by its series, scaled by 2^P. -/
def atanInvGo (n2 : Nat) : Nat → Nat → Nat → Bool → Int → Int
  | 0, _, _, _, acc => acc
  | c + 1, k, t, neg, acc =>
    atanInvGo n2 c (k + 2) (t / n2) (!neg) (if neg then acc - (t / k : Nat) else acc + (t / k : Nat))

/-- π scaled by 2^P (Machin). -/
def piFix (P : Nat) : Nat :=
  (4 * (4 * atanInvGo 25 (P / 4 + 20) 1 (2 ^ P / 5) false 0 - atanInvGo 57121 (P / 14 + 20) 1 (2 ^ P / 239) false 0)).toNat

/-- Alternating series for sine (from x) or cosine (from 1), scaled by 2^P. -/
def trigGo (P x2 : Nat) : Nat → Nat → Nat → Bool → Int → Int
  | 0, _, _, _, acc => acc
  | c + 1, k, t, neg, acc =>
    trigGo P x2 c (k + 2) (t * x2 / 2 ^ P / (k * (k + 1))) (!neg) (if neg then acc - (t : Int) else acc + (t : Int))

/-- sin(π t) for 0 < t ≤ 1/2 with a relative precision of over 200 bits. -/
def sinPiDy (t : Dy) : Dy :=
  let P := prec + 16 + (if dyLog t < 0 then (-(dyLog t)).toNat else 0)
  let x := (toFix P t).toNat * piFix P / 2 ^ P
  ⟨2 * trigGo P (x * x / 2 ^ P) 80 2 x false 0 + 1, -(P : Int) - 1⟩

/-- cos(π t) for 0 ≤ t < 1/2: sin(π(1/2 − t)). -/
def cosPiDy (t : Dy) : Dy := sinPiDy (dyAdd ⟨1, -1⟩ (dyNeg t))

/-- a reduced modulo 2 into [0, 2). -/
def mod2 (a : Dy) : Dy := if 1 ≤ a.e then dyZero else ⟨a.m % (2 : Int) ^ (1 - a.e).toNat, a.e⟩

def isInt (a : Dy) : Bool := if 0 ≤ a.e then true else decide (a.m % (2 : Int) ^ (-a.e).toNat = 0)

/-- sin(π a), not an integer a. -/
def sinPiVal (a : Dy) : Dy :=
  let r := mod2 a
  let (neg, r1) := if dyLt r ⟨1, 0⟩ then (false, r) else (true, dyAdd r ⟨-1, 0⟩)
  let r2 := if dyLt ⟨1, -1⟩ r1 then dyAdd ⟨1, 0⟩ (dyNeg r1) else r1
  let v := if dyEq r2 ⟨1, -1⟩ then ⟨1, 0⟩ else sinPiDy r2
  if neg then dyNeg v else v

def fspec (a : W32) (nanIn : W32) (infIn : Bool → W32) (fin : Bool → Dy → W32) : W32 :=
  match dec32 a with
  | .nan => nanIn
  | .inf s => infIn s
  | .fin s x => fin s x

def one32 : W32 := 0x3F800000#32
def pinf32 : W32 := 0x7F800000#32

/-- SQRT. -/
def fSqrt (a : W32) : W32 :=
  fspec a qnan32 (fun s => if s then qnan32 else pinf32)
    (fun s x => if x.m = 0 then a else if s then qnan32 else rnd32 (dySqrt x) false)

/-- EXP2. -/
def fExp2 (a : W32) : W32 :=
  fspec a qnan32 (fun s => if s then 0 else pinf32)
    (fun s x =>
      if x.m = 0 then one32
      else if 8 ≤ dyLog x then (if s then 0 else pinf32)
      else rnd32 (exp2Dy (finDy s x)) false)

/-- LOG2. -/
def fLog2 (a : W32) : W32 :=
  fspec a qnan32 (fun s => if s then qnan32 else pinf32)
    (fun s x => if x.m = 0 then 0xFF800000#32 else if s then qnan32 else rnd32 (log2Dy x) false)

/-- RCP. -/
def fRcp (a : W32) : W32 :=
  fspec a qnan32 (fun s => ofPat (withSign fp32 s 0))
    (fun s x => if x.m = 0 then ofPat (infPat fp32 s) else rnd32 (dyDiv ⟨1, 0⟩ (finDy s x)) s)

/-- RSQRT. -/
def fRsqrt (a : W32) : W32 :=
  fspec a qnan32 (fun s => if s then qnan32 else 0)
    (fun s x =>
      if x.m = 0 then ofPat (infPat fp32 s)
      else if s then qnan32
      else
        let r := dyDiv ⟨1, 0⟩ x
        rnd32 (dySqrt r) false)

/-- SINPI. -/
def fSinPi (a : W32) : W32 :=
  fspec a qnan32 (fun _ => qnan32)
    (fun s x => if isInt x then ofPat (withSign fp32 s 0) else rnd32 (sinPiVal (finDy s x)) false)

/-- COSPI. -/
def fCosPi (a : W32) : W32 :=
  fspec a qnan32 (fun _ => qnan32)
    (fun s x =>
      if isInt x then (if (mod2 x).m = 0 then one32 else 0xBF800000#32)
      else if isInt ⟨x.m, x.e + 1⟩ then 0
      else rnd32 (sinPiVal (dyAdd (finDy s x) ⟨1, -1⟩)) false)

/-- TANH: (1 − u) / (1 + u) with u = e^(−2|a|); below 2^-70, a − a³/3 lies just under a. -/
def fTanh (a : W32) : W32 :=
  fspec a qnan32 (fun s => if s then 0xBF800000#32 else one32)
    (fun s x =>
      if x.m = 0 then 0
      else
        let v : Dy :=
          if 6 ≤ dyLog x then ⟨2 ^ 100 - 1, -100⟩
          else if dyLog x < -70 then ⟨x.m * 2 ^ 100 - 1, x.e - 100⟩
          else
            let u := expDy ⟨-2 * x.m, x.e⟩
            dyDiv (dyAdd ⟨1, 0⟩ (dyNeg u)) (dyAdd ⟨1, 0⟩ u)
        rnd32 (finDy s v) false)

/-- 1 / (1 + e^−a) as a dyadic. -/
def sigmoidDy (s : Bool) (x : Dy) : Dy :=
  if 9 ≤ dyLog x then (if s then ⟨1, -700⟩ else ⟨2 ^ 100 - 1, -100⟩)
  else
    let e := expDy (dyNeg x)
    if s then dyDiv e (dyAdd ⟨1, 0⟩ e) else dyDiv ⟨1, 0⟩ (dyAdd ⟨1, 0⟩ e)

/-- SIGMOID. -/
def fSigmoid (a : W32) : W32 :=
  fspec a qnan32 (fun s => if s then 0 else one32)
    (fun s x => if x.m = 0 then 0x3F000000#32 else rnd32 (sigmoidDy s x) false)

/-- SILU. -/
def fSilu (a : W32) : W32 :=
  fspec a qnan32 (fun s => if s then 0x80000000#32 else pinf32)
    (fun s x => if x.m = 0 then 0 else rnd32 (dyMul (finDy s x) (sigmoidDy s x)) s)

end Sys2Proof.Machine
end

