-- ==== Sys2Proof/Machine/VecFun.lean ====
section
/-! DEFINITION. The Vector functions of T6-4 on typed operands, for VF, FCMP and VECTOR.MAP (06 R175..R177; 07 R195). A type is a format
code of T3-1: 0x0A FP32, 0x0B INT32, 0x08 BF16, 0x09 FP16. -/
namespace Sys2Proof.Machine

/-- A stored pattern read as FP32 (R175). -/
def readF32 (fmt : Nat) (p : W32) : W32 :=
  if fmt = 0x08 then widen bf16 (p.toNat % 65536)
  else if fmt = 0x09 then widen fp16 (p.toNat % 65536)
  else if fmt = 0x0B then fofInt p.toInt
  else p

/-- An FP32 result written to a type (R175). -/
def writeF32 (r : Rnd) (fmt : Nat) (v : W32) : W32 :=
  if fmt = 0x08 then ofPat (narrow r bf16 v)
  else if fmt = 0x09 then ofPat (narrow r fp16 v)
  else if fmt = 0x0B then toInt32 r v
  else v

/-- An integer result written to a type: rounded once (R175; entry 29). -/
def writeInt (r : Rnd) (fmt : Nat) (v : W32) : W32 :=
  let x : Dy := ⟨v.toInt, 0⟩
  let f := fun (f : FFmt) => if v.toInt = 0 then 0#32 else ofPat (roundF r f (decide (v.toInt < 0)) x)
  if fmt = 0x0B then v else if fmt = 0x08 then f bf16 else if fmt = 0x09 then f fp16 else f fp32

/-- Functions whose INT32 form is integer arithmetic (R175). -/
def intForm (func : Nat) : Bool := func == 0 || func == 1 || func == 2 || (decide (4 ≤ func) && decide (func ≤ 7))

/-- The integer forms. -/
def vecInt (func : Nat) (a b : W32) : W32 :=
  match func with
  | 0 => a + b
  | 1 => a - b
  | 2 => a * b
  | 4 => if a.slt b then a else b
  | 5 => if a.slt b then b else a
  | 6 => if a.slt b then 1 else 0
  | _ => if a = b then 1 else 0

/-- FP32 results of T6-4, `c` standing for `scalar`. -/
def vecF32 (func : Nat) (a b c : W32) : W32 :=
  match func with
  | 0x00 => fadd a b
  | 0x01 => fsub a b
  | 0x02 => fmul a b
  | 0x03 => ffma a c b
  | 0x04 => fmin a b
  | 0x05 => fmax a b
  | 0x06 => if fcond 2 (dec32 a) (dec32 b) then one32 else 0
  | 0x07 => if fcond 0 (dec32 a) (dec32 b) then one32 else 0
  | 0x08 => fabs32 a
  | 0x09 => fneg a
  | 0x0A => fmul a c
  | 0x0B => fadd a c
  | 0x20 => fExp2 a
  | 0x21 => fLog2 a
  | 0x22 => fRcp a
  | 0x23 => fRsqrt a
  | 0x24 => fSqrt a
  | 0x25 => fSinPi a
  | 0x26 => fCosPi a
  | 0x27 => fTanh a
  | 0x28 => fSigmoid a
  | 0x29 => fSilu a
  | _ => (match dec32 a with | .nan => qnan32 | _ => a)

/-- A function of typed sources to a typed result (R175, R195). Stations pass their scaled FP32 values. -/
def vecFun (func at' dt : Nat) (a b c : W32) : W32 :=
  if at' = 0x0B && intForm func then writeInt .nearest dt (vecInt func a b)
  else if func = 0x10 || func = 0x11 then
    let r : Rnd := if func = 0x11 then .toZero else .nearest
    if at' = 0x0B then writeInt r dt a
    else writeF32 r dt (vecF32 0x10 (readF32 at' a) 0 0)
  else writeF32 .nearest dt (vecF32 func (readF32 at' a) (readF32 at' b) (readF32 at' c))

/-- Format of a type code of T7-12. -/
def typeFmt : Nat → Nat
  | 0 => 0x0A | 1 => 0x0B | 2 => 0x08 | 3 => 0x09 | 4 => 0x08 | _ => 0x09

/-- A source word read as a type code: the high halves are moved down (T7-12). -/
def typeIn (t : Nat) (v : W32) : W32 := if 4 ≤ t then v >>> 16 else if 2 ≤ t then v &&& 0xFFFF#32 else v

/-- A result laid into a register word: a 16-bit half leaves the other half (R195). -/
def typeOut (t : Nat) (old v : W32) : W32 :=
  if 4 ≤ t then (old &&& 0xFFFF#32) ||| (v <<< 16) else if 2 ≤ t then (old &&& 0xFFFF0000#32) ||| (v &&& 0xFFFF#32) else v

end Sys2Proof.Machine
end

