-- ==== Sys2Proof/Machine/StationOps.lean ====
section
/-! DEFINITION. What every station repetition shares (03): the node that runs on a core, where tiles lie (R73, R75, R536), pond slots (R82),
reading and writing tiles (R106, R108), status words (R101), the end on a fault (R96). -/
namespace Sys2Proof.Machine

/-! ### The running node -/

/-- A node may start or go on with a repetition: it has one left, and a stopped seat only ends what it began (R95). -/
def nodeOpen (q : SeatRun) (ix : Nat) (nd : Node) : Bool :=
  !q.held && decide (repsDone q ix < nd.count) && (!q.stopped || tabGet 0 ix q.part != 0)

/-- The node with one of the opcodes that runs on a core now; "one station per seat per step" (R104). The first step of a command with inline data waits until
no write of its shell is held up at a home, so that its nodes read the data (08 R224). -/
def findRep (core op : Nat) (s : State) : Option Rep :=
  if (coreOf core s).fenced || (coreOf core s).scanning then none
  else
    s.cmds.findSome? (fun e =>
      if !stepRuns e.2 || (!e.2.inl.isEmpty && e.2.step == 0 && writesQueued e.2.cdom s) then none
      else match cmdGraph e.2 s with
        | none => none
        | some rg =>
          ((stepNodes rg.graph e.2.step).find? (fun x => x.2.op == op && cmdCore e.2 x.2.seat s == some core && nodeOpen (runOf e.2 x.2.seat) x.1 x.2 &&
            !(s.pwr.limit && !e.2.guarNow && tabGet 0 x.1 (runOf e.2 x.2.seat).part == 0))).map
            (fun x => ⟨e.1, e.2, rg, x.2.seat, core, x.1, x.2⟩))

/-! ### Tiles -/

/-- Pond slots of a pond that are in use. -/
def pondUsed (q : SeatRun) (p : Nat) : Nat := (q.ponds.filter (fun e => e.1 / 2 ^ 32 == p)).length

/-- The place of a pond's slot of a production number (R82, R108). -/
def slotPlace (r : Rep) (p k : Nat) (t : Tile) (slot : PondSlot) (s : State) : Option Place :=
  match r.rg.graph.ponds[p]? with
  | none => none
  | some po =>
    match cmdCore r.c po.cons s with
    | none => none
    | some core =>
      let b := po.base + (if po.depth = 0 then 0 else k % po.depth) * po.bytes
      some ⟨false, core, b, b + t.slotData, t, some (p, k), slot⟩

/-- A tile descriptor of the graph. -/
def tileOf (r : Rep) (i : Nat) : Option Tile := r.rg.graph.tiles[i]?

/-- An input operand, `j` tiles ahead in FIFO order: none while its pond's slot is not filled (R82). -/
def inPlaceN (r : Rep) (ti field : Nat) (a : Int) (j : Nat) (s : State) : Option Place :=
  match tileOf r ti with
  | none => none
  | some t =>
    if t.space = 2 then
      let p := t.addr % 1024
      let q := seatRunOf r.cmd (pondSeat r.rg.graph p) s
      let k := tabGet 0 p q.consIx + j
      match tabFind (p * 2 ^ 32 + k) q.ponds with
      | some sl => if sl.landed then slotPlace r p k { t with ts := sl.ts } sl s else none
      | none => none
    else if t.space = 3 then none
    else some (tilePlace r t field a)

/-- The next input tile of an operand. -/
def inPlace (r : Rep) (ti field : Nat) (a : Int) (s : State) : Option Place := inPlaceN r ti field a 0 s

/-- An output operand, `j` tiles ahead: none while its pond's slot is still occupied (R82). -/
def outPlaceN (r : Rep) (ti field : Nat) (a : Int) (j : Nat) (s : State) : Option Place :=
  match tileOf r ti with
  | none => none
  | some t =>
    if t.space = 2 then
      let p := t.addr % 1024
      let q := seatRunOf r.cmd (pondSeat r.rg.graph p) s
      match r.rg.graph.ponds[p]? with
      | some po => if pondUsed q p + j < po.depth then slotPlace r p (tabGet 0 p q.prodIx + j) t PondSlot.zero s else none
      | none => none
    else if t.space = 3 then none
    else some (tilePlace r t field a)

/-- The next output tile of an operand. -/
def outPlace (r : Rep) (ti field : Nat) (a : Int) (s : State) : Option Place := outPlaceN r ti field a 0 s

/-- A tile of an operand, `j` ahead, is there or on its way: no pond, or a slot of the pond that is filled or waits to be. -/
def slotComing (r : Rep) (ti j : Nat) (s : State) : Bool :=
  match tileOf r ti with
  | some t =>
    if t.space = 2 then
      let p := t.addr % 1024
      let q := seatRunOf r.cmd (pondSeat r.rg.graph p) s
      (tabFind (p * 2 ^ 32 + (tabGet 0 p q.consIx + j)) q.ponds).isSome
    else true
  | none => true

/-- Both sources of a node are one pond: it takes src0's tile first, src1's next (log entry 92). -/
def onePond (r : Rep) : Bool :=
  match tileOf r r.nd.src0, tileOf r r.nd.src1 with
  | some a, some b => a.space == 2 && b.space == 2 && a.addr % 1024 == b.addr % 1024
  | _, _ => false

/-- The next tile of src1. -/
def inPlace1 (r : Rep) (a : Int) (s : State) : Option Place := inPlaceN r r.nd.src1 4 a (b2n (onePond r)) s

/-- A repetition that has begun cannot go on before another node's next repetition (log entry 88): a pond it takes tiles from is empty, or the pond
it fills is full. -/
def starved (r : Rep) (s : State) : Bool :=
  let full := (outPlace r r.nd.dst 2 0 s).isNone
  if r.nd.op = 0x42 then (if r.part < bits r.nd.param 63 60 + 1 then !slotComing r r.nd.src0 0 s else full)
  else !slotComing r r.nd.src0 0 s || (r.nd.op == 0x30 && !slotComing r r.nd.src1 (b2n (onePond r)) s) || (r.nd.op == 0x51 && full)

/-- The consumer's last read of a slot has completed (R82). -/
def freeSlot (r : Rep) (pl : Place) (s : State) : State :=
  match pl.pond with
  | none => s
  | some (p, k) =>
    let seat := pondSeat r.rg.graph p
    let q := seatRunOf r.cmd seat s
    setRun r.cmd seat { q with ponds := tabDel (p * 2 ^ 32 + k) q.ponds, consIx := tabPut p (k + 1) q.consIx } s

/-! ### Elements -/

/-- Elements of a line (R106): element `n` of `w` bits stands at bit n × w of the line's little-endian number. -/
def unpack (w n : Nat) (bs : List Byte) : List Nat := let v := leNat bs; (List.range n).map (fun i => v / 2 ^ (i * w) % 2 ^ w)

/-- The bytes of a line. -/
def packLine (w : Nat) (es : List Nat) : List Byte := leBytes (es.foldr (fun e a => e % 2 ^ w + 2 ^ w * a) 0) ((es.length * w + 7) / 8)

/-- Rows and columns changed over; `n` is the number of columns. -/
def flipRows (n : Nat) (rows : List (List Nat)) : List (List Nat) := (List.range n).map (fun j => rows.map (fun r => r.getD j 0))

/-- A tile's contents: element patterns by row, scale bytes by scale line, what marks came with it, how a read went (0 well, 1 uncorrectable,
2 translation). -/
structure TData where
  rows   : List (List Nat)
  scales : List (List Nat)
  idx    : Bool
  ecc    : Bool
  bad    : Nat
  deriving DecidableEq, Repr

/-- Whether a command is guaranteed now, so that the Host region is closed to it (R38, R96). -/
def repGuar (r : Rep) : Bool := r.c.guarNow

/-- A read on its way: bytes so far, state of the answer, corrected, what is left of the outside data. -/
structure RdAcc where
  bytes : List Byte
  bad   : Nat
  ecc   : Bool
  ext   : Ext
  st    : State

/-- Reads one piece at a shell address (T8-1, T9-2, R96); `bad` 3 where memory cannot be read yet, so that the repetition waits. -/
def readPiece (r : Rep) (x : RdAcc) (p : Nat × Nat) : RdAcc :=
  if x.bad != 0 then x
  else
    let outside := fun (_ : Unit) =>
      if x.ext.err = 0 && decide (p.2 ≤ x.ext.data.length) then { x with bytes := x.bytes ++ x.ext.data.take p.2, ext := { x.ext with data := x.ext.data.drop p.2 } }
      else { x with bad := if x.ext.err = 2 then 2 else 1 }
    match (if 2 ^ 48 ≤ p.1 then Loc.unmapped else locate r.c.cdom r.rg.seatMap p.1 x.st) with
    | .mem dpa _ st =>
      let half := halfOf x.st r.core
      let d := bulkRead half r.c.cdom dpa p.2 st x.st
      if !bulkOpen half r.c.cdom dpa p.2 st x.st then { x with bad := 3 }
      else { x with bytes := x.bytes ++ d.1, bad := if d.2.1 then 0 else 1, ecc := x.ecc || d.2.2.1, st := d.2.2.2 }
    | .spad c off =>
      let d := spadRead c off p.2 x.st
      { x with bytes := x.bytes ++ d.1, bad := if d.2.1 then 0 else 1, ecc := x.ecc || d.2.2, st := logSpad c off p.2 r.c.cdom x.st }
    | .host _ => if repGuar r || x.st.host.lost then { x with bad := if repGuar r then 2 else 1 } else outside ()
    | .peer _ _ => outside ()
    | .bad => { x with bad := 1 }
    | .unmapped => { x with bad := 2 }

/-- Reads a span of a place. -/
def readSpan (r : Rep) (pl : Place) (x : RdAcc) (p : Nat × Nat) : RdAcc :=
  if x.bad != 0 then x
  else if pl.shell then (piecesOf p.1 p.2).foldl (readPiece r) x
  else
    let d := spadRead pl.core p.1 p.2 x.st
    { x with bytes := x.bytes ++ d.1, bad := if d.2.1 then 0 else 1, ecc := x.ecc || d.2.2,
             st := if spadTagged pl.core p.1 p.2 x.st then logSpad pl.core p.1 p.2 r.c.cdom x.st else x.st }

/-- Marks of the scratchpad blocks of a seat that a span covers: bit 0 idx_oob, bit 1 ecc_corr (R88, R101). -/
def blockMarks (fl : Tab Nat) (m : Nat) (p : Nat × Nat) : Nat :=
  (List.range ((p.1 + p.2 + 31) / 32 - p.1 / 32)).foldl (fun m i => m ||| tabGet 0 (p.1 / 32 + i) fl) m

/-- Marks of what a place holds: those of a pond slot travel with it. -/
def marksOf (r : Rep) (pl : Place) (s : State) : Nat :=
  if pl.shell then 0
  else match pl.pond with
    | some _ => b2n pl.slot.idx + 2 * b2n pl.slot.ecc
    | none => (spansOf pl).foldl (blockMarks (seatRunOf r.cmd r.seat s).flags) 0

/-- Cuts a byte list into lines. -/
def chop : Nat → Nat → List Byte → List (List Byte)
  | 0, _, _ => []
  | n + 1, w, bs => bs.take w :: chop n w (bs.drop w)

/-- The contents that a tile's bytes spell. -/
def tileData (t : Tile) (bs : List Byte) : List (List Nat) × List (List Nat) :=
  let ls := (chop t.lines t.lineBytes bs).map (unpack (fmtBits t.fmt) t.perLine)
  let sc := (chop t.scaleLines t.blocks (bs.drop (t.lines * t.lineBytes))).map (fun l => l.map (fun b => b.toNat))
  (if t.col then flipRows t.rows ls else ls, sc)

/-- Reads a tile. -/
def readTile (r : Rep) (pl : Place) (ext : Ext) (s : State) : TData × Ext × State :=
  let m := marksOf r pl s
  let x := (spansOf pl).foldl (readSpan r pl) ⟨[], 0, false, ext, s⟩
  let d := tileData pl.t (if x.bad = 0 then x.bytes else [])
  (⟨d.1, d.2, bit m 0, bit m 1 || x.ecc, x.bad⟩, x.ext, x.st)

/-- Reads a tile that needs nothing from outside. -/
def readHere (r : Rep) (pl : Place) (s : State) : TData × State :=
  let d := readTile r pl ⟨[], 1⟩ s
  (d.1, d.2.2)

/-! ### Writing -/

/-- Writes one piece at a shell address; 0 well, 1 bus error, 2 translation fault (R96, 11 R345). -/
def writePiece (n cdom core : Nat) (seatMap : List Nat) (guar : Bool) (x : Nat × State) (p : Nat × List Byte) : Nat × State :=
  if x.1 != 0 then x
  else
    let s := x.2
    let tenant := match cmdOf n s with | some c => c.tenant | none => 0
    match (if 2 ^ 48 ≤ p.1 then Loc.unmapped else locate cdom seatMap p.1 s) with
    | .mem dpa wr _ => if !wr then (2, s) else if cdom ∈ s.coh.failing then (1, s) else (0, homePush (halfOf s core) cdom dpa p.2 s)
    | .spad c off => (0, spadWrite c off p.2 s)
    | .host h =>
      if guar then (2, s)
      else if s.host.lost then (1, s)
      else (0, emit (.hostWrite (match tabFind tenant s.tenants with | some t => t.pasid | none => 0) h p.2 true) s)
    | .peer dev off => (match sendReq cdom dev kWrite tenant 0 0 off p.2.length p.2 (.station n core) s with | some s => (0, s) | none => (1, s))
    | .bad => (1, s)
    | .unmapped => (2, s)

/-- A tile's place has a line that is busy at its home, so that data written there would not be visible at once: a repetition with a status word waits, since
the word follows the data (R102). -/
def placeBusy (r : Rep) (pl : Place) (s : State) : Bool :=
  pl.shell && !isPrimary r.core s && ((spansOf pl).flatMap (fun p => piecesOf p.1 p.2)).any (fun p =>
    match (if 2 ^ 48 ≤ p.1 then Loc.unmapped else locate r.c.cdom r.rg.seatMap p.1 s) with | .mem dpa _ _ => lineBusy (dpa / 512) s | _ => false)

/-- Writes bytes at a shell address, line by line. -/
def writeShell (n cdom core : Nat) (seatMap : List Nat) (guar : Bool) (a : Nat) (bytes : List Byte) (s : State) : Nat × State :=
  (piecesOf a bytes.length).foldl (fun x p => writePiece n cdom core seatMap guar x (p.1, (bytes.drop (p.1 - a)).take p.2)) (0, s)

/-- Writes a span of a place. A primary holds what leaves its core (15 R434). -/
def writeSpan (r : Rep) (pl : Place) (x : Nat × State) (p : Nat × List Byte) : Nat × State :=
  if x.1 != 0 then x
  else if !pl.shell then (0, spadWrite pl.core p.1 p.2 x.2)
  else if isPrimary r.core x.2 then (0, holdItem r.core p.1 p.2 (some (r.ix, r.num)) (.write r.cmd p.1 p.2) x.2)
  else writeShell r.cmd r.c.cdom r.core r.rg.seatMap (repGuar r) p.1 p.2 x.2

/-- Bytes of a tile's contents with their addresses. -/
def tileBytes (pl : Place) (rows scales : List (List Nat)) : List (Nat × List Byte) :=
  let ls := if pl.t.col then flipRows pl.t.cols rows else rows
  (ls.zipIdx.map (fun x => (pl.base + x.2 * pl.t.stride, packLine (fmtBits pl.t.fmt) x.1))) ++
  (scales.zipIdx.map (fun x => (pl.sbase + x.2 * pl.t.sstride, x.1.map (fun v => BitVec.ofNat 8 v))))

/-- Sets the marks of the scratchpad blocks that a tile covers. -/
def markTile (r : Rep) (pl : Place) (idx ecc : Bool) (s : State) : State :=
  if pl.shell || pl.pond.isSome then s
  else
    let q := seatRunOf r.cmd r.seat s
    let m := b2n idx + 2 * b2n ecc
    let fl := (spansOf pl).foldl (fun fl p => (List.range ((p.1 + p.2 + 31) / 32 - p.1 / 32)).foldl (fun fl i => tabSet 0 (p.1 / 32 + i) m fl) fl) q.flags
    setRun r.cmd r.seat { q with flags := fl } s

/-- The producer has written its next slot; it counts as filled when the write is acknowledged (R82). -/
def fillSlot (r : Rep) (pl : Place) (sl : PondSlot) (s : State) : State :=
  match pl.pond with
  | none => s
  | some (p, k) =>
    let seat := pondSeat r.rg.graph p
    let q := seatRunOf r.cmd seat s
    setRun r.cmd seat { q with ponds := tabPut (p * 2 ^ 32 + k) sl q.ponds, prodIx := tabPut p (k + 1) q.prodIx } s

/-- Writes a tile with its marks; a pond slot takes along scale, anchor and survey value (R112, R126, R132). -/
def writeTile (r : Rep) (pl : Place) (rows scales : List (List Nat)) (idx ecc : Bool) (anchor : Int) (survey : Option Int) (s : State) : Nat × State :=
  let x := (tileBytes pl rows scales).foldl (writeSpan r pl) (0, s)
  if x.1 != 0 then x
  else (0, fillSlot r pl ⟨false, pl.t.ts, anchor, survey, idx, ecc⟩ (markTile r pl idx ecc x.2))

/-! ### The end of a repetition -/

/-- Counts a repetition; the pace node's milestones (R94). -/
def repEnd (r : Rep) (s : State) : State :=
  let q := seatRunOf r.cmd r.seat s
  let n := repsDone q r.ix + 1
  let s := setRun r.cmd r.seat { q with reps := tabPut r.ix n q.reps, part := tabDel r.ix q.part, logic := tabDel r.ix q.logic } s
  match r.rg.graph.steps[r.c.step]? with
  | some st => if st.first + st.pace = r.ix && st.msInt != 0 && n % st.msInt == 0 then milestone r.cmd n s else s
  | none => s

/-- Index of a repetition's status word (R101). -/
def statusIx (r : Rep) : Nat := ((r.rg.graph.nodes.take r.ix).filter (fun n => hasStatus n.op)).foldl (fun k n => k + n.count) r.num

/-- The status area of a run: the one its GRAPH.RUN names, or the descriptor's (13 T13-7). -/
def statusArea (c : Cmd) (rg : RegGraph) : Nat := if c.status = 0 then rg.graph.statusBase else c.status

/-- The graph that runs is a fallback: it was registered as one, or it replaces its primary (R101; 02 R63, R66). -/
def runsFallback (r : Rep) : Bool := r.c.subst || r.rg.primary.isSome

/-- Writes a status word after the tile's data (R101, R102); flags count in the completion (T13-4). -/
def writeStatus (r : Rep) (w : Nat) (s : State) : State :=
  let w := w + 2 ^ 63 + (if runsFallback r then 512 else 0)
  let a := statusArea r.c r.rg + 8 * statusIx r
  let bs := leBytes w 8
  let s := if isPrimary r.core s then holdItem r.core a bs (some (r.ix, r.num)) (.write r.cmd a bs) s
    else (writeShell r.cmd r.c.cdom r.core r.rg.seatMap (repGuar r) a bs s).2
  if w / 1024 % 64 = 0 then s
  else match cmdOf r.cmd s with | some c => setCmd r.cmd { c with flagged := c.flagged + 1 } s | none => s

/-- What a REDUCE.LOGIC or VECTOR.SOFTMAX repetition has taken so far. -/
def partOf (r : Rep) (s : State) : PartTile := (tabFind r.ix (seatRunOf r.cmd r.seat s).logic).getD ⟨[], false, false⟩

/-- Sets what a repetition has taken so far. -/
def setPart (r : Rep) (p : PartTile) (s : State) : State :=
  let q := seatRunOf r.cmd r.seat s
  setRun r.cmd r.seat { q with logic := tabPut r.ix p q.logic } s

/-- Adds to what a repetition has consumed. -/
def addPart (r : Rep) (s : State) : State :=
  let q := seatRunOf r.cmd r.seat s
  setRun r.cmd r.seat { q with part := tabPut r.ix (tabGet 0 r.ix q.part + 1) q.part } s

/-- An accumulator slot of a seat by production number. -/
def accOf (r : Rep) (p : Nat) (s : State) : Option AccSlot := tabFind p (seatRunOf r.cmd r.seat s).acc

/-- The slot that an Outlet repetition consumes: passed by its producer (R79, R150). -/
def outSlot (r : Rep) (s : State) : Option AccSlot := match accOf r r.num s with | some a => if a.full then some a else none | none => none

/-- Marks as they stand in a status word (T3-8). -/
def markBits (idx ecc : Bool) : Nat := b2n idx * 2 ^ 11 + b2n ecc * 2 ^ 10

/-- Status word fields of a slot with the flags of its conversion (T3-8, R135). -/
def slotStatus (a : AccSlot) (sticky sat nan ovf idx ecc : Bool) : Nat :=
  a.satCells * 2 ^ 32 + unsigned 10 a.anchor * 2 ^ 22 + b2n sticky * 2 ^ 15 + b2n sat * 2 ^ 14 + b2n nan * 2 ^ 13 + b2n ovf * 2 ^ 12 + markBits idx ecc

/-- The flags that a started tile of a node has by now (R103): those of its accumulator slot, or of the tiles it has taken. -/
def repFlags (r : Rep) (s : State) : Nat :=
  if r.nd.op == 0x51 then markBits (partOf r s).idx (partOf r s).ecc
  else if hasStatus r.nd.op then (match outSlot r s with | some a => slotStatus a a.sticky a.sat a.nan false a.idx a.ecc | none => 0)
  else 0

/-- Status words of the tiles that a command started and does not complete, with the `fault` that the tiles of a seat and core get (R101..R103): 0x03 where it is
only stopped. A core that is fenced writes none. -/
def stopStatusAt (fault : Nat → Nat → Nat) (n : Nat) (s : State) : State :=
  match cmdOf n s with
  | none => s
  | some c =>
    match cmdGraph c s with
    | none => s
    | some rg =>
      (stepNodes rg.graph c.step).foldl (fun s x =>
        match cmdCore c x.2.seat s with
        | some core =>
          if hasStatus x.2.op && tabGet 0 x.1 (runOf c x.2.seat).part != 0 && !(coreOf core s).fenced then
            let r : Rep := ⟨n, c, rg, x.2.seat, core, x.1, x.2⟩
            writeStatus r (fault x.2.seat core * 2 ^ 48 ||| repFlags r s) s
          else s
        | none => s) s

/-- The same with `fault` 0x03. -/
def stopStatus (n : Nat) (s : State) : State := stopStatusAt (fun _ _ => 3) n s

/-- A fault ends a command and leaves its other outputs undefined (R96). -/
def faultStop (n status : Nat) (s : State) : State := faultCmd n status (stopStatus n (loseOutputs n false s))

/-- A station's access from a seat and core comes back with uncorrectable data: its started tiles there carry `fault` 0x01 (10 R293). -/
def stationFault (here : Nat → Nat → Bool) (n : Nat) (s : State) : State :=
  faultCmd n stFaultData (stopStatusAt (fun q k => if here q k then 1 else 3) n (loseOutputs n false s))

/-- A repetition that met an uncorrectable error (1) or a translation fault (2) ends the command (R96, R293); `flags` are status word fields that it met
beside those its tile has (R103). -/
def repFault (r : Rep) (bad flags : Nat) (s : State) : State :=
  let s := if hasStatus r.nd.op then writeStatus r (bad * 2 ^ 48 ||| repFlags r s ||| flags) s else s
  let q := seatRunOf r.cmd r.seat s
  let s := setRun r.cmd r.seat { q with part := tabDel r.ix q.part } s
  faultStop r.cmd (if bad = 1 then stFaultData else stTranslation) s

/-- Runs a repetition's body on the node of an opcode that is open on a core; nothing happens where there is none. -/
def onNode (core op : Nat) (s : State) (f : Rep → State → State) : Res :=
  match findRep core op s with
  | none => .next s
  | some r => .next (f r s)

end Sys2Proof.Machine
end

