-- ==== Sys2Proof/Machine/ThreadOps.lean ====
section
/-! DEFINITION. How a thread group issues, moves and stops: readiness (06 R152), paths and their meeting points (R157), loop counts (R179),
barriers (R159, R160), the end of a segment on a seat (R155), parking at an instruction (07 R214). -/
namespace Sys2Proof.Machine

/-- A resident group that is neither parked, stopped nor waiting. -/
def unheld (g : Group) : Bool := g.park.isNone && !g.stopped && !g.idle && g.ctrWait.isNone && !g.copyWait && (match g.paths with | p :: _ => p.wait == .run | [] => false)

/-- Instructions that nothing but their operands can hold: no memory access, copy, counter or barrier, and no special function, whose ports may be
busy (R152; entry 27). -/
def plainInstr : Instr → Bool
  | .vf _ _ _ _ _ func _ _ => decide (func < 0x20)
  | .ld _ _ _ | .st _ _ _ | .atom _ _ _ _ | .addxI _ _ _ _ | .addxF _ _ _ _ | .barG _ | .barB _ _ _ | .memfence _ _ _ | .cpAsync _ _ _ _ _ _
  | .ctrSet _ _ _ _ | .ctrWait _ _ _ _ | .ctrRd _ _ _ | .spin _ | .rngP _ _ _ _ => false
  | _ => true

/-- A group that is ready whatever the ports do. -/
def surelyReady (g : Group) : Bool :=
  unheld g && (match g.paths with
    | p :: _ => (match g.code[p.pc]? with | some w => (match decodeCode 0 0 w with | some c => plainInstr c && operandsReady c g | none => false) | none => false)
    | [] => false)

/-- It is a slot's turn: no slot between the one that issued last and this one, in round-robin order, holds a group that is surely ready (R152). -/
def turnOf (k : Core) (slot : Nat) : Bool :=
  (((List.range 31).map (fun j => (k.last + 1 + j) % 32)).takeWhile (fun t => t != slot)).all (fun t =>
    match tabFind t k.groups with | some g => !surelyReady g | none => true)

/-- The group that may issue command `c` now: resident on a held core, neither parked, stopped, idle nor waiting, operands available, a port free, its
turn, and the word at its running path's pc is that of `c` (R80, R152, R153, R182; entry 27). -/
def ready (c : Instr) (s : State) : Option Group :=
  let i := issOf c
  let k := coreOf i.core s
  match tabFind i.slot k.groups with
  | none => none
  | some g =>
    if k.fenced || k.scanning || k.holder.isNone || !unheld g || !turnOf k i.slot || decide (8 ≤ portsClaimed i.core s) then none
    else match g.paths with
      | [] => none
      | p :: _ => if g.code[p.pc]? == some (encodeCode c) && operandsReady c g then some g else none

/-- The group after its instruction issued: its core goes on from its slot (R152). -/
def setIssued (i : Iss) (g : Group) (s : State) : State :=
  let k := coreOf i.core s
  setCore i.core { k with groups := tabPut i.slot g k.groups, last := i.slot } s

/-- Index of the instruction at which the running path stands. -/
def pcOf (g : Group) : Nat := match g.paths with | p :: _ => p.pc | [] => 0

/-! ### Loops (R179) -/

/-- First instruction of the loop whose backward branch stands at `b`: its target. -/
def loopHeader (g : Group) (b : Nat) : Option Nat :=
  match g.code[b]? with
  | none => none
  | some w =>
    let n := w.toNat
    if bits n 63 56 = 0x68 then some (bits n 51 40)
    else if bits n 63 56 = 0x69 then
      (match selOf (bits n 27 21) with | some r => some ((rdR g 0 r).toNat % 4096) | none => none)
    else none

/-- Whether an index lies in the loop of a loop-table entry. -/
def inLoop (g : Group) (b pc : Nat) : Bool :=
  match loopHeader g b with | some h => decide (h ≤ pc) && decide (pc ≤ b) | none => false

/-- Entering a declared loop's header from outside resets its count. -/
def enterLoops (old new : Nat) (g : Group) : Group :=
  g.loopTab.zipIdx.foldl (fun g e =>
    if loopHeader g e.1.1 == some new && !inLoop g e.1.1 old then { g with loops := tabDel e.2 g.loops } else g) g

/-- Whether a move leaves a declared loop: a progress event (R164). -/
def leavesLoop (old new : Nat) (g : Group) : Bool := g.loopTab.any (fun e => inLoop g e.1 old && !inLoop g e.1 new)

/-! ### Paths (R157, R158, R162) -/

/-- A running or runnable path that stands at its meeting point. -/
def atReconv (p : Path) : Bool := p.wait == .run && p.reconv.head? == some p.pc

/-- Two paths that have met. -/
def met (p q : Path) : Bool := p.wait == .joined && q.wait == .joined && p.pc == q.pc && p.reconv == q.reconv

/-- Marks the paths that have reached their meeting point. -/
def arriveJoin (ps : List Path) : List Path := ps.map (fun p => if atReconv p then { p with wait := .joined } else p)

/-- Merges paths that have met; the first of them stays. -/
def mergePaths : List Path → List Path
  | [] => []
  | p :: t =>
    let t' := mergePaths t
    let same := t'.filter (fun q => met p q)
    { p with mask := same.foldl (fun m q => m ||| q.mask) p.mask } :: t'.filter (fun q => !met p q)

/-- A path still on its way to the meeting points of `p`. -/
def under (p q : Path) : Bool := p.reconv.isSuffixOf q.reconv

/-- Lets a merged path on once no other path is on its way to the same point. -/
def releaseJoin (ps : List Path) : List Path :=
  ps.map (fun p =>
    if p.wait == .joined && (ps.filter (fun q => under p q)).length ≤ 1 then { p with wait := .run, reconv := p.reconv.tail } else p)

/-- Meets, merges and releases until nothing more happens; each round ends one meeting point. -/
def joinPaths : Nat → List Path → List Path
  | 0, ps => ps
  | n + 1, ps => joinPaths n (releaseJoin (mergePaths (arriveJoin ps)))

/-- Depth of meeting points: the rounds that a settling can take. -/
def joinDepth (ps : List Path) : Nat := ps.foldl (fun n p => n + p.reconv.length + 1) 1

/-- Suspended paths become runnable again (R162). -/
def wakeSpun (ps : List Path) : List Path := ps.map (fun p => if p.wait == .spun then { p with wait := .run } else p)

/-- The most recently added runnable path runs next; the path that waits joins the table. -/
def pickPath (ps : List Path) : List Path :=
  match ps with
  | [] => []
  | p :: t =>
    if p.wait == .run then p :: t
    else
      match t.reverse.find? (fun q => q.wait == .run) with
      | none => p :: t
      | some q => q :: (t.erase q ++ [p])

/-- Settles paths after the running path moved, waited or exited. -/
def settlePaths (ps : List Path) : List Path :=
  let ps := joinPaths (joinDepth ps) ps
  pickPath (match ps with | p :: _ => if p.wait == .run then ps else wakeSpun ps | [] => [])

/-- An instruction's count towards the stall trap: a progress event clears it, any other issue adds a cycle (R164, R165). -/
def stallStep (progress : Bool) (g : Group) : Nat := if progress then 0 else g.stall + 100

/-- The running path goes to instruction `pc` (R157, R179). -/
def advance (pc : Nat) (g : Group) : Group :=
  match g.paths with
  | [] => g
  | p :: t =>
    let g1 := enterLoops p.pc pc g
    let q := { p with pc := pc }
    let hit := q.reconv.head? == some pc
    let ps := if hit then settlePaths (q :: wakeSpun t) else q :: t
    { g1 with paths := ps, issued := if hit then 0 else g.issued + 1, stall := stallStep (hit || leavesLoop p.pc pc g) g }

/-- The running path goes to the next instruction. -/
def advance1 (g : Group) : Group := advance (pcOf g + 1) g

/-! ### Parking at an instruction -/

/-- Parks the group of an instruction (R169, R214). -/
def parkAt (i : Iss) (code lane detail : Nat) (s : State) : State :=
  match groupOf i.core i.slot s with
  | none => s
  | some g => park i.core i.slot ⟨code, lane, pcOf g, detail⟩ (setIssued i { g with stall := stallStep false g } s)

/-! ### Barriers (R159..R161) -/

/-- The guard of the code word at an index, for a group. -/
def wordIss (core slot : Nat) (w : Word) : Iss := ⟨core, slot, bit w.toNat 55, bits w.toNat 54 52⟩

/-- Every active thread of a waiting path counts as an arrival: its guard is true (R186). -/
def allArrive (g : Group) (p : Path) : Bool :=
  match g.code[p.pc]? with
  | none => false
  | some w => (lanesOf p.mask).all (fun l => guardOf g (wordIss 0 0 w) l)

/-- Waiting at a barrier. -/
def atBarrier (p : Path) : Bool := match p.wait with | .barG => true | .barB _ _ => true | _ => false

/-- Every non-exited thread of the group is at one barrier instruction. -/
def allAtOne (g : Group) : Bool :=
  match g.paths with
  | [] => false
  | p :: t => atBarrier p && (p :: t).all (fun q => q.wait == p.wait && q.pc == p.pc && allArrive g q)

/-- Every path waits at a barrier and they are not at one instruction (R160). -/
def diverged (g : Group) : Bool :=
  match g.paths with
  | [] => false
  | p :: t => (p :: t).all atBarrier && t.any (fun q => q.pc != p.pc || q.wait != p.wait)

/-- A completed barrier: every path goes on to the next instruction; a progress event (R164). -/
def passBarrier (g : Group) : Group :=
  let ps := g.paths.map (fun p => { p with pc := p.pc + 1, wait := .run })
  let g := ps.foldl (fun g p => enterLoops (p.pc - 1) p.pc g) g
  { g with paths := settlePaths ps, issued := 0, stall := 0 }

/-- The barrier number and count of an arrived group. -/
def barOf (g : Group) : Option (Nat × Nat) :=
  match g.paths with
  | p :: _ => (match p.wait with | .barB b n => if allAtOne g then some (b, n) else none | _ => none)
  | [] => none

/-- Completes the BAR.B of number `b` on a core for the groups whose count has arrived. -/
def passBarB (core b : Nat) (s : State) : State :=
  let k := coreOf core s
  let here := (k.groups.filter (fun e => match barOf e.2 with | some (x, _) => x == b | none => false)).length
  setCore core { k with groups := k.groups.map (fun e => match barOf e.2 with
    | some (x, n) => if x == b && decide (n ≤ here) then (e.1, passBarrier e.2) else e
    | none => e) } s

/-- What the barriers do after a path of a group waited or exited. -/
def barrierCheck (i : Iss) (s : State) : State :=
  match groupOf i.core i.slot s with
  | none => s
  | some g =>
    if diverged g then parkAt i 0x01 0 0 s
    else if allAtOne g then
      (match g.paths with
      | p :: _ =>
        (match p.wait with
        | .barG => setGroup i.core i.slot (passBarrier g) s
        | .barB b _ => passBarB i.core b s
        | _ => s)
      | [] => s)
    else s

/-! ### The end of a group -/

/-- Whether a command has groups left on any core. -/
def hasGroups (n : Nat) (s : State) : Bool :=
  s.cores.any (fun e => e.2.groups.any (fun g => g.2.cmd == n) || e.2.saved.any (fun g => g.2.cmd == n))

/-- A group that has exited leaves its slot; with the last one the segment has ended (R155). -/
def endGroup (i : Iss) (s : State) : State :=
  match groupOf i.core i.slot s with
  | none => s
  | some g =>
    if !g.paths.isEmpty then s
    else
      let k := coreOf i.core s
      let s := setCore i.core { k with groups := tabDel i.slot k.groups } s
      if hasGroups g.cmd s then s
      else match cmdOf g.cmd s with
        | none => s
        | some c => setCmd g.cmd { c with segDone := true } s

/-! ### Counters (R166) -/

/-- Whether a counter has reached a value in the wrapping order (R166). -/
def ctrReached (c v : W32) : Bool := !(c - v).msb

/-- A group whose CTR.WAIT its core's counters satisfy goes on (R164, R166). -/
def ctrGo (ctrs : Tab W32) (g : Group) : Group :=
  match g.ctrWait with
  | some (c, w) => if ctrReached (tabGet 0 c ctrs) w && g.park.isNone then { advance1 { g with ctrWait := none } with stall := 0 } else g
  | none => g

/-- Releases the groups of a core whose CTR.WAIT the counters satisfy. -/
def wakeCtrs (core : Nat) (s : State) : State :=
  let k := coreOf core s
  setCore core { k with groups := k.groups.map (fun (e : Nat × Group) => (e.1, ctrGo k.ctr e.2)) } s

/-! ### Plain instructions -/

/-- An instruction that writes registers only: its effect in the voting lanes, then the next instruction. -/
def regOp (c : Instr) (f : List Nat → Group → Group) (s : State) : Res :=
  match ready c s with
  | none => .next s
  | some g => .next (setIssued (issOf c) (advance1 (f (votingLanes g (issOf c)) g)) s)

/-- One word from up to three source words, per lane. -/
def alu3 (c : Instr) (d a b e : Sel) (f : W32 → W32 → W32 → W32) (s : State) : Res :=
  regOp c (fun ls g => perLane (fun g0 l acc => wrR l d (f (rdR g0 l a) (rdR g0 l b) (rdR g0 l e)) acc) (effLanes [d, a, b, e] ls) g) s

/-- One word from two source words. -/
def alu2 (c : Instr) (d a b : Sel) (f : W32 → W32 → W32) (s : State) : Res := alu3 c d a b .zero (fun x y _ => f x y) s

/-- One word from one source word. -/
def alu1 (c : Instr) (d a : Sel) (f : W32 → W32) (s : State) : Res := alu3 c d a .zero .zero (fun x _ _ => f x) s

/-- A predicate per lane. -/
def predOp (c : Instr) (d : Sel) (f : Group → Nat → Bool) (s : State) : Res :=
  regOp c (fun ls g => perLane (fun g0 l acc => wrP l d (f g0 l) acc) ls g) s

end Sys2Proof.Machine
end

