-- ==== Sys2Proof/Machine/Sched.lean ====
section
/-! DEFINITION. Which command runs on which seat: admission (02 R39, R49..R53), starts, preemption and resumption (R42, R43; 03 R95; 06
R153, R156), contexts (02 R59). -/
namespace Sys2Proof.Machine

/-! ### Places -/

/-- Where a command's graph seats are: graph seat, shell seat, core. -/
def placesOf (c : Cmd) (s : State) : List (Nat × Nat × Nat) :=
  match cmdGraph c s, shellOf c.cdom s with
  | some g, some sh => g.seatMap.zipIdx.filterMap (fun x => (seatCore sh x.1).map (fun k => (x.2, x.1, k)))
  | _, _ => []

/-- A seat holds its core and the core works. -/
def seatHeld (cdom seat core : Nat) (s : State) : Bool :=
  (coreOf core s).holder == some (cdom, seat) && !(coreOf core s).fenced && !(coreOf core s).scanning && !coreGone core s

/-- The seat run of a graph seat that is not stopped. -/
def liveRun (c : Cmd) (g : Nat) : Bool := match tabFind g c.seats with | some q => !q.held | none => true

/-- Best-effort work, a LATE command included (R42, R68). -/
def Cmd.isBE (c : Cmd) : Bool := !c.guarNow

/-- Commands that run best effort on a shell seat and are not stopped there, other than one. -/
def bePeers (n cdom seat : Nat) (s : State) : List (Nat × Cmd) :=
  s.cmds.filter (fun e => e.1 != n && e.2.cdom == cdom && e.2.isBE && e.2.st == .running && e.2.started &&
    (placesOf e.2 s).any (fun p => p.2.1 == seat && liveRun e.2 p.1))

/-- A graph has a segment on a seat. -/
def segOnSeat (g : Graph) (seat : Nat) : Bool := g.segs.any (fun x => bit x.mask seat)

/-- Some tile or pond of a seat lies in the thread-state area (06 R153, R156). -/
def inThreadArea (g : Graph) (seat : Nat) : Bool :=
  g.nodes.any (fun n => n.seat == seat && (opnds g n).any (fun o => o.t.space == 0 && [(0 : Int), ((positions n o.role - 1 : Nat) : Int) * o.adv].any (fun a =>
    (extentsAt o.t a).any (fun e => decide ((Config.threadArea : Int) < e.1 + e.2))))) ||
  g.ponds.any (fun p => p.cons == seat && decide (Config.threadArea < p.base + p.depth * p.bytes))

/-- No group of another command resides on a core's seat, be it parked or put aside in its slot area. -/
def groupsOnly (n core : Nat) (s : State) : Bool := ((coreOf core s).groups ++ (coreOf core s).saved).all (fun x => x.2.cmd == n)

/-- The stations of a seat are free for a best-effort command's step (06 R153). -/
def stationsFree (n : Nat) (c : Cmd) (s : State) : Bool :=
  match cmdGraph c s with
  | none => false
  | some g =>
    (placesOf c s).all (fun p =>
      let ps := bePeers n c.cdom p.2.1 s
      ps.all (fun e => e.2.inSeg) && (segOnSeat g.graph p.1 || !inThreadArea g.graph p.1 || groupsOnly n p.2.2 s))

/-! ### Starts -/

/-- A command's boundary on each of its seats: the shell's N lines in the seats' halves are dropped (08 R229, R233). -/
def boundary (c : Cmd) (s : State) : State := (placesOf c s).foldl (fun s p => dropAllN (halfOf s p.2.2) c.cdom s) s

/-- A command starts (02 R39; 06 R166; 12 R363; 15 R437): counters at 0, inline data in place, every node at repetition 0. -/
def startCmd (n : Nat) (s : State) : State :=
  match cmdOf n s with
  | none => s
  | some c =>
    match cmdGraph c s, shellOf c.cdom s with
    | some rg, some sh =>
      let off := (Config.freeW32 s.fresh).toNat % max 1 sh.comp.sampleN
      let c := { c with
        st := .running, started := true, startAt := (if c.subst && c.startAt != 0 then c.startAt else s.now), step := 0, inSeg := false, segDone := false
        seats := (List.range rg.graph.nSeats).map (fun k => (k, { SeatRun.zero with sampleAt := off })), skips := [], miles := 0, stop := 0 }
      let s := setCmd n c (bump s)
      let s := (placesOf c s).foldl (fun s p => setCore p.2.2 { coreOf p.2.2 s with ctr := [] } s) s
      let s := boundary c s
      if c.inl.isEmpty then s
      else
        let core := match placesOf c s with | p :: _ => p.2.2 | [] => 0
        let w := writeShell n c.cdom core rg.seatMap true c.inlDst c.inl s
        if w.1 = 0 then w.2 else faultStop n stTranslation w.2
    | _, _ => s

/-- The first drive phase of a command's window has begun (R39). -/
def windowDriven (c : Cmd) (s : State) : Bool :=
  match shellOf c.cdom s with
  | none => false
  | some sh => !(s.stroke.phase == .catch' && strokesTo s.stroke.count c.winEnd == sh.comp.k - 1) && s.stroke.phase != .idle

/-- An admitted guaranteed command may start: its turn on every seat, no best-effort work still runs there, and no group still resides there outside its slot
area (R50, R42; 06 R156). -/
def mayStart (n : Nat) (c : Cmd) (s : State) : Bool :=
  c.guarNow && c.st == .admitted && windowDriven c s && !c.substPending &&
  (placesOf c s).all (fun p =>
    seatHeld c.cdom p.2.1 p.2.2 s && (match seatCmds c.cdom p.2.1 s with | e :: _ => e.1 == n | [] => false) && (bePeers n c.cdom p.2.1 s).isEmpty &&
    (coreOf p.2.2 s).groups.all (fun x => x.2.cmd == n))

/-- Guaranteed commands start in admission order. -/
def startGuar (s : State) : State :=
  let l := s.cmds.foldl (fun t e => if e.2.guarNow && e.2.st == .admitted then tabPut e.2.order e.1 t else t) ([] : Tab Nat)
  l.foldl (fun s e => match cmdOf e.2 s with | some c => if mayStart e.2 c s then startCmd e.2 s else s | none => s) s

/-- A seat may carry a best-effort command now (R42; 06 R153): no guaranteed command of the window is left there, and at most one other
best-effort command runs there, in a segment. -/
def seatOpenBE (n : Nat) (c : Cmd) (p : Nat × Nat × Nat) (s : State) : Bool :=
  let enabled := match shellOf c.cdom s with | some sh => (match sh.comp.seats[p.2.1]? with | some x => x.be | none => false) | none => false
  let ps := bePeers n c.cdom p.2.1 s
  seatHeld c.cdom p.2.1 p.2.2 s && (seatCmds c.cdom p.2.1 s).isEmpty && (enabled || !c.be) && decide (ps.length ≤ 1) && ps.all (fun e => e.2.inSeg || c.inSeg)

/-- The stopped seat of a best-effort command goes on (03 R95; 06 R156, R164); a group whose counter has been reached meanwhile passes its CTR.WAIT (R166). -/
def resumeSeat (n : Nat) (p : Nat × Nat × Nat) (s : State) : State :=
  match cmdOf n s with
  | none => s
  | some c =>
    match tabFind p.1 c.seats with
    | none => s
    | some q =>
      let k := coreOf p.2.2 s
      let mine := k.saved.filter (fun g => g.2.cmd == n)
      if mine.any (fun g => (tabFind g.1 k.groups).isSome) then s
      else
        let gs := mine.foldl (fun t g => tabPut g.1 { g.2 with stopped := false, stall := 0 } t) k.groups
        let s := wakeCtrs p.2.2 (setCore p.2.2 { k with groups := gs, saved := k.saved.filter (fun g => g.2.cmd != n) } s)
        setCmd n { c with seats := tabPut p.1 { q with stopped := false, held := false } c.seats } s

/-- Best-effort commands start and go on where their seats are open, in submission order. -/
def startBE (s : State) : State :=
  (s.cmds.map (fun e => e.1)).foldl (fun s n =>
    match cmdOf n s with
    | none => s
    | some c =>
      if c.guarNow || c.substPending then s
      else if c.st == .admitted then (if (placesOf c s).all (fun p => seatOpenBE n c p s) && !(placesOf c s).isEmpty && stationsFree n c s then startCmd n s else s)
      else if c.st == .running && c.stop = 0 then
        (placesOf c s).foldl (fun s p => if !liveRun c p.1 && seatOpenBE n c p s then resumeSeat n p s else s) s
      else s) s

/-- What may start or go on does; the deadline monitor comes first (R64). -/
def schedule (s : State) : State :=
  let s := watchInj s
  if s.stroke.phase = .idle || s.dev.state != 2 then s else startBE (startGuar s)

/-! ### Stops -/

/-- Tells one seat of a command to stop at the end of its repetitions and its groups at their next instruction (03 R95; 06 R156). -/
def stopSeat (n : Nat) (p : Nat × Nat × Nat) (s : State) : State :=
  match cmdOf n s with
  | none => s
  | some c =>
    let s := match tabFind p.1 c.seats with
      | some q => setCmd n { c with seats := tabPut p.1 { q with stopped := true } c.seats } s
      | none => s
    let k := coreOf p.2.2 s
    setCore p.2.2 { k with groups := k.groups.map (fun g => (g.1, if g.2.cmd = n then { g.2 with stopped := true } else g.2)) } s

/-- A stopped seat has stopped (03 R95): its groups' full state goes to their slot areas (06 R156). -/
def holdSeat (n : Nat) (p : Nat × Nat × Nat) (s : State) : State :=
  match cmdOf n s with
  | none => s
  | some c =>
    match tabFind p.1 c.seats with
    | none => s
    | some q =>
      let k := coreOf p.2.2 s
      let mine := k.groups.filter (fun g => g.2.cmd == n)
      let s := writeAreas p.2.2 mine (setCore p.2.2 { k with groups := k.groups.filter (fun g => g.2.cmd != n), saved := k.saved ++ mine } s)
      setCmd n { c with seats := tabPut p.1 { q with stopped := true, held := true } c.seats } s

/-- Best-effort commands of a shell that are parked with groups on a seat. -/
def parkedOn (cdom seat : Nat) (s : State) : List (Nat × Cmd) :=
  s.cmds.filter (fun e => e.2.cdom == cdom && e.2.isBE && e.2.st == .parked && (placesOf e.2 s).any (fun p => p.2.1 == seat && liveRun e.2 p.1))

/-- Best-effort work stops on the seats where guaranteed work is due (R42); the groups of parked commands, which stand already, go to their slot areas (06
R156). -/
def preempt (s : State) : State :=
  let due := s.cmds.filter (fun e => e.2.guarNow && e.2.st == .admitted)
  due.foldl (fun s e =>
    (placesOf e.2 s).foldl (fun s p =>
      let at' := fun (f : Nat → Nat × Nat × Nat → State → State) (l : List (Nat × Cmd)) (s : State) =>
        l.foldl (fun s b => (placesOf b.2 s).foldl (fun s x => if x.2.1 = p.2.1 then f b.1 x s else s) s) s
      at' holdSeat (parkedOn e.2.cdom p.2.1 s) (at' stopSeat (bePeers e.1 e.2.cdom p.2.1 s) s)) s) s

/-- Every seat of a command has stopped, or its core is fenced. -/
def allHeld (c : Cmd) (s : State) : Bool :=
  (placesOf c s).all (fun p => !liveRun c p.1 || (coreOf p.2.2 s).fenced)

/-- A repetition that has begun on a seat keeps it from stopping (R95), unless it is starved. -/
def repsEnd (n : Nat) (c : Cmd) (seat core : Nat) (q : SeatRun) (s : State) : Bool :=
  q.part.all (fun e =>
    match cmdGraph c s with
    | some rg => (match rg.graph.nodes[e.1]? with | some nd => starved ⟨n, c, rg, seat, core, e.1, nd⟩ s | none => true)
    | none => true)

/-- What ends a command that was told to stop: 1 SHELL_GONE, 2 ABANDONED by a rollback, 3 the ABORT of a finish instant, 4 a LATE
command that lost its seat, else a detail of ABANDONED. -/
def endStopped (n : Nat) (c : Cmd) (s : State) : State :=
  if c.stop = 0 || !allHeld c s then s
  else
    let s := stopStatus n (if c.stop = 3 || c.stop = 4 then loseOutputs n true s else s)
    if c.stop = 1 then finishCmd n stShellGone s
    else if c.stop = 2 then abandonCmd n 0x0207 s
    else if c.stop = 3 then finishCmd n stMissed s
    else if c.stop = 4 then finishCmd n stLate s
    else abandonCmd n c.stop s

/-- Tells a command to stop for good (R68; 13 R393): a fallback that was to replace it does not start any more, and a command whose seats have
all stopped already ends at once. -/
def tellStop (n k : Nat) (s : State) : State :=
  match cmdOf n s with
  | none => s
  | some c =>
    let s := stopSeats n true (setCmd n { c with stop := k, substPending := false } s)
    match cmdOf n s with | some c => endStopped n c s | none => s

/-! ### Contexts (R59) -/

/-- Key of a seat among a core's saved contexts. -/
def ctxKey (cdom seat : Nat) : Nat := cdom * 1024 + seat

/-- Lines of each channel that a set uses (T11-5). -/
def setLines (s : State) (st : ChSet) : Nat := if st.qLim = 0 then chanLines s (st.chans.headD 0) else 4096 * st.qLim

/-- Frames of a set (R286). -/
def setFrames (s : State) (st : ChSet) : Nat := st.data.length * setLines s st / 4096

/-- Frames of the context area (R322). -/
def contextFrames (c : Comp) : Nat := ceilDiv (Config.contextBytes * (c.seats.filter (fun x => x.sliced)).length) Config.frameBytes

/-- Where a sliced seat's context lies (11 R322): its shell, set 0, and the first byte within the set; seats follow one another in seat order. -/
structure CtxPlace where
  cdom : Nat
  st   : ChSet
  base : Nat

/-- The place of a seat's context; none for a dedicated seat. -/
def ctxPlace (d seat : Nat) (s : State) : Option CtxPlace :=
  match shellOf d s with
  | none => none
  | some sh =>
    match sh.comp.seats[seat]?, setOf sh 0 with
    | some x, some st =>
      let n := ((sh.comp.seats.take seat).filter (fun y => y.sliced)).length
      if x.sliced && !st.data.isEmpty then some ⟨d, st, (setFrames s st - contextFrames sh.comp) * Config.frameBytes + n * Config.contextBytes⟩ else none
    | _, _ => none

/-- The memory word of a context's word; the scratchpad's words stand first (entry 73). -/
def ctxWord (p : CtxPlace) (i : Nat) : Nat :=
  let a := p.base + 8 * i
  let cq := interleave p.st.data (a / 512)
  (dpaOf cq.1 cq.2 + a % 512) / 8

/-- The scratchpad word of a context that a memory word holds. -/
def ctxIx (p : CtxPlace) (w : Nat) (s : State) : Option Nat :=
  match setLineOf (8 * w) s with
  | none => none
  | some x =>
    let a := x.l * 512 + 8 * w % 512
    if x.cdom = p.cdom && x.ix = 0 && decide (p.base ≤ a) && decide (a < p.base + Config.spadBytes) then some ((a - p.base) / 8) else none

/-- Memory words that hold something, here or in the home cache, or are flawed. -/
def heldWords (s : State) : List Nat :=
  let tier := fun (k : Nat) => decide (tagKey 1 0 0 ≤ k) && decide (k < tagKey 3 0 0)
  s.mem.dram.map (fun e => e.1 / 8) ++ (s.mem.tags.filter (fun e => tier e.1)).map (fun e => e.1 % 2 ^ 44) ++
  s.coh.home.flatMap (fun e => (bitList e.2.valid 64).map (fun i => 64 * e.1 + i)) ++ s.mem.rmw.map (fun e => e.1)

/-- The words of a context that memory holds something of: all of them where a channel of the set is fenced. -/
def ctxUsed (p : CtxPlace) (s : State) : List Nat :=
  if p.st.data.any (fun c => (chanOf c s).fenced) then List.range (Config.spadBytes / 8) else ((heldWords s).filterMap (fun w => ctxIx p w s)).eraseDups

/-- Writes a scratchpad's words to a context area (R59): a flawed word goes there corrected, one that is lost as the poison word (10 R290, R294). -/
def writeCtx (p : CtxPlace) (spad : Tab Byte) (tags : Tab WTag) (s : State) : State :=
  let used := ctxUsed p s
  let s := ((used.map (fun i => ctxWord p i / 64)).eraseDups).foldl (fun s l => homeEvict l s) s
  let s := used.foldl (fun s i => memPutWord (ctxWord p i) 0 false s) s
  ((spad.map (fun (e : Nat × Byte) => e.1 / 8) ++ tags.map (fun (e : Nat × WTag) => e.1)).eraseDups).foldl (fun s i =>
    let d := decodeEcc (leNat (memRead spad (8 * i) 8)) (tabGet ⟨false, 0⟩ i tags)
    memPutWord (ctxWord p i) (if d.good then d.data else 0) (!d.good) s) s

/-- Reads a scratchpad back from a context area: a word that memory lost comes back as the poison word. -/
def readCtx (p : CtxPlace) (s : State) : Tab Byte × Tab WTag :=
  (ctxUsed p s).foldl (fun a i =>
    let d := homeWord (ctxWord p i) s
    if d.good then (memWrite a.1 (8 * i) (leBytes d.data 8), a.2) else (a.1, tabPut i ⟨true, 0⟩ a.2)) ([], [])

/-- Records what a read of a context area found. -/
def noteCtx (p : CtxPlace) (s : State) : State := (ctxUsed p s).foldl (fun s i => noteWord p.cdom (ctxWord p i) s) s

/-- Takes a seat's saved scratchpad out of the context area into its record. -/
def pullCtx (core key : Nat) (s : State) : State :=
  match tabFind key (coreOf core s).ctxs with
  | none => s
  | some x =>
    match x.inMem, ctxPlace (key / 1024) (key % 1024) s with
    | true, some p =>
      let r := readCtx p s
      let s := noteCtx p s
      setCore core { coreOf core s with ctxs := tabPut key { x with spad := r.1, tags := r.2, inMem := false } (coreOf core s).ctxs } s
    | _, _ => s

/-- Puts a sliced seat's saved scratchpad into its context area; a dedicated seat has none, and its context waits in the record. -/
def pushCtx (core key : Nat) (s : State) : State :=
  match tabFind key (coreOf core s).ctxs with
  | none => s
  | some x =>
    match x.inMem, ctxPlace (key / 1024) (key % 1024) s with
    | false, some p =>
      let s := writeCtx p x.spad x.tags s
      setCore core { coreOf core s with ctxs := tabPut key { x with spad := [], tags := [], inMem := true } (coreOf core s).ctxs } s
    | _, _ => s

/-- Takes every saved context of a shell out of its area, or puts it there, at a flip that may move the area (11 R322, R331). -/
def eachCtx (f : Nat → Nat → State → State) (d : Nat) (s : State) : State :=
  (s.cores.flatMap (fun (e : Nat × Core) => (e.2.ctxs.filter (fun (x : Nat × Ctx) => x.1 / 1024 == d)).map (fun (x : Nat × Ctx) => (e.1, x.1)))).foldl (fun s (e : Nat × Nat) => f e.1 e.2 s) s

/-- Takes the entries of a byte range out of a memory, from offset 0. -/
def cutMem (m : Tab Byte) (lo n : Nat) : Tab Byte := (m.filter (fun e => decide (lo ≤ e.1) && decide (e.1 < lo + n))).map (fun e => (e.1 - lo, e.2))

/-- Commands that have started on the seat a core runs, each with the place. -/
def runsHere (core : Nat) (s : State) : List (Nat × Cmd × (Nat × Nat × Nat)) :=
  match (coreOf core s).holder with
  | none => []
  | some (d, seat) => (s.cmds.filter (fun e => e.2.cdom == d && e.2.started)).flatMap (fun e => ((placesOf e.2 s).filter (fun p => p.2.1 == seat)).map (fun p => (e.1, e.2, p)))

/-- No repetition that has begun runs on a core (R58; 03 R95); none does on a fenced one. -/
def coreQuiet (core : Nat) (s : State) : Bool :=
  (coreOf core s).fenced || (runsHere core s).all (fun e => match tabFind e.2.2.1 e.2.1.seats with | some q => q.held || repsEnd e.1 e.2.1 e.2.2.1 core q s | none => true)

/-- Saves the context of the seat that a core runs: best-effort commands stop there first (R58, R59; 03 R95), and what was told to stop for good ends. -/
def saveContext (core : Nat) (s : State) : State :=
  match (coreOf core s).holder with
  | none => setCore core { coreOf core s with saving := false } s
  | some (d, seat) =>
    let s := (runsHere core s).foldl (fun s e =>
      let s := holdSeat e.1 e.2.2 s
      match cmdOf e.1 s with | some c => endStopped e.1 c s | none => s) s
    let k := coreOf core s
    let lo := spadIx core 0
    let t0 := spadKey core 0
    let mine := s.mem.tags.filter (fun e => decide (t0 ≤ e.1) && decide (e.1 < t0 + 2 ^ 18))
    let x : Ctx := ⟨cutMem s.mem.spad lo Config.spadBytes, mine.map (fun e => (e.1 - t0, e.2)), k.ctr, k.saved, k.copies, false⟩
    let s := mine.foldl (fun s e => logSpad core (8 * (e.1 - t0)) 8 d s) s
    let s := { s with mem := { s.mem with
      spad := memClear s.mem.spad lo (lo + Config.spadBytes)
      tags := s.mem.tags.filter (fun e => !(decide (t0 ≤ e.1) && decide (e.1 < t0 + 2 ^ 18))) } }
    let k := coreOf core s
    pushCtx core (ctxKey d seat)
      (setCore core { k with holder := none, saving := false, groups := [], saved := [], ctr := [], copies := [], ctxs := tabPut (ctxKey d seat) x k.ctxs } s)

/-- The context of the seat that a core runs is saved as soon as no repetition runs there: its commands are told to stop, and the save waits for those that
have one in hand (R58). -/
def vacate (core : Nat) (s : State) : State :=
  let s := (runsHere core s).foldl (fun s e => stopSeat e.1 e.2.2 s) s
  if coreQuiet core s then saveContext core s
  else setCore core { coreOf core s with saving := true } s

/-- Restores a seat's context on a core, without what belongs to commands that have ended since; one that was never saved is all zero (11 R323). -/
def restoreContext (core d seat : Nat) (s : State) : State :=
  let s := pullCtx core (ctxKey d seat) s
  let k := coreOf core s
  let lo := spadIx core 0
  match tabFind (ctxKey d seat) k.ctxs with
  | none => setCore core { k with holder := some (d, seat), incoming := none } s
  | some x =>
    let s := { s with mem := { s.mem with
      spad := x.spad.foldl (fun m e => memSet m (lo + e.1) e.2) s.mem.spad
      tags := x.tags.foldl (fun m e => tabSet ⟨false, 0⟩ (spadKey core 0 + e.1) e.2 m) s.mem.tags } }
    setCore core { k with
      holder := some (d, seat), incoming := none, saved := x.groups.filter (fun g => (cmdOf g.2.cmd s).isSome), ctr := x.ctr
      copies := x.copies.filter (fun c => (cmdOf c.2.cmd s).isSome), ctxs := tabDel (ctxKey d seat) k.ctxs } s

/-! ### Admission -/

/-- A stroke opens a window of a shell (R39). -/
def opensWindow (sh : Shell) (stroke : Nat) : Bool := stroke % sh.comp.k == sh.comp.o

/-- Catch capacity of a configuration (R52). -/
def catchCapacity (c : StrokeCfg) : Nat := c.catchLen / 40

/-- Budget(q, W) in 10 ns of a seat in the window that opens in the present stroke (R49). -/
def budget (cdom seat : Nat) (sh : Shell) (s : State) : Nat :=
  match sh.comp.seats[seat]? with
  | none => 0
  | some x =>
    let n := s.stroke.count
    let held := fun (i : Nat) => holderAt x.core ((n + i) % 2 ^ 48) s == some (cdom, seat)
    let sum := (List.range sh.comp.k).foldl (fun a i => if held i && !(coreOf x.core s).fenced && !coreGone x.core s then a + driveLen ((n + i) % 2 ^ 48) s else a) 0
    let k := coreOf x.core s
    let np := x.be || (x.sliced && k.before.isSome && k.before != some (cdom, seat))
    sum - (if np then Config.us 40 else 0)

/-- WCETs at the GOP that the window's admitted commands put on a seat; a checker seat carries its share (15 R439). -/
def usedOn (cdom seat : Nat) (sh : Shell) (extra : List (RegGraph)) (s : State) : Nat :=
  let gs := (s.cmds.filter (fun e => e.2.cdom == cdom && e.2.guarNow && e.2.winEnd == sh.windowEnd)).filterMap (fun e => cmdGraph e.2 s) ++ extra
  let w := fun (g : RegGraph) => g.wcet.getD sh.comp.gop 0
  let direct := gs.foldl (fun a g => if g.seatMap.contains seat then a + w g else a) 0
  let n := sh.comp.seats.length
  if sh.comp.redund = 1 && n ≤ seat + checkers sh then
    gs.foldl (fun a g => g.seatMap.foldl (fun a k => if n - checkers sh + k % checkers sh = seat then a + ceilDiv (w g) sh.comp.sampleN + Config.us 2 else a) a) 0
  else direct

/-- Seats that a graph's admission loads: its own and their checkers. -/
def loadedSeats (g : RegGraph) (sh : Shell) : List Nat :=
  if sh.comp.redund = 1 then (g.seatMap ++ g.seatMap.map (fun k => sh.comp.seats.length - checkers sh + k % checkers sh)).eraseDups else g.seatMap

/-- The command fits every seat's budget (R50). -/
def fits (cdom : Nat) (g : RegGraph) (sh : Shell) (s : State) : Bool :=
  (loadedSeats g sh).all (fun k => decide (usedOn cdom k sh [g] s ≤ budget cdom k sh s))

/-- A graph uses a set that the shell no longer holds (11 R340): an address it fixes is not mapped any more. An unmapping by MEMORY.UNMAP
unregisters its graphs instead (13 R391). -/
def noCredit (g : RegGraph) (sh : Shell) (s : State) : Bool :=
  let lost := fun (a : Nat) => decide (a < 2 ^ 44) && (translate s sh a).isNone
  g.graph.tiles.any (fun t => t.space == 1 && lost t.addr) || g.graph.segs.any (fun x => lost x.codeAddr)

/-- Dispatches a best-effort command without admission (R42); one whose graph is unregistered meanwhile completes instead (13 R391). -/
def dispatchBE (n : Nat) (c : Cmd) (s : State) : State :=
  match graphOf c.cdom c.handle s with
  | some g => if g.gone then finishCmd n stBadHandle s else setCmd n { c with st := .admitted, guarNow := false } s
  | none => finishCmd n stBadHandle s

/-- Best-effort commands at a queue's front go at once (R42, 13 R385). -/
def dispatchFront (q : Nat) : Nat → State → State
  | 0, s => s
  | k + 1, s =>
    match s.cmds.find? (fun e => e.2.q == q && e.2.st == .queued) with
    | some (n, c) => if c.be then dispatchFront q k (dispatchBE n c s) else s
    | none => s

/-- A member of a regatta that takes its strokes from another device (14 R419). -/
def isMember (s : State) : Bool := s.dev.board.regatta != 0 && !s.dev.board.master

/-- A graph's traffic uses a Falnar link. -/
def usesLink (x : WCtx) : Bool :=
  x.rg.graph.nodes.zipIdx.any (fun n => (List.range n.1.count).any (fun r => (hopBytes x.sh (repTraffic x n.2 n.1 r)).any (fun e => match e.1 with | .link _ => true | _ => false)))

/-- Alignment forbids admission for now (14 R421): of anything before the join, of a graph that uses a link while unaligned. -/
def misaligned (x : WCtx) (s : State) : Bool := isMember s && (!s.reg.joined || (s.dev.unaligned && usesLink x))

/-- Windows that use a link are deferred until a step of the stroke timer (14 R422). -/
def stepWaits (x : WCtx) (s : State) : Bool := isMember s && (s.reg.stepTo.isSome || s.reg.cfg.isSome) && usesLink x

/-- Judges one queued command of a window (R50, R51): it is admitted, refused, or its queue waits. -/
def judgeCmd (n : Nat) (c : Cmd) (s : State) : State :=
  match graphOf c.cdom c.handle s, shellOf c.cdom s with
    | some g, some sh =>
      if g.gone then finishCmd n stBadHandle s
      else if noCredit g sh s then finishCmd n stNoCredit s
      else if !g.guar || g.lostCredit then finishCmd n stNotGuaranteed s
      else if stepWaits (wctx s c.cdom sh g) s then (match tabFind c.q s.qps with | some p => { s with qps := tabPut c.q { p with deferred := true } s.qps } | none => s)
      else if !s.pwr.limit && !misaligned (wctx s c.cdom sh g) s && fits c.cdom g sh s then
        { setCmd n { c with st := .admitted, guarNow := true, winEnd := sh.windowEnd, order := s.stroke.order } s with stroke := { s.stroke with order := s.stroke.order + 1 } }
      else if c.defer then (match tabFind c.q s.qps with | some p => { s with qps := tabPut c.q { p with deferred := true } s.qps } | none => s)
      else finishCmd n stNotAdmitted s
    | _, _ => finishCmd n stBadHandle s

/-- Examines one queued command; best-effort commands behind it follow. -/
def examineCmd (n : Nat) (c : Cmd) (s : State) : State := if c.be then dispatchBE n c s else dispatchFront c.q s.cmds.length (judgeCmd n c s)

/-- The queues of a shell's tenants in round-robin order, from the one after the last begun with. -/
def shellQueues (cdom : Nat) (sh : Shell) (s : State) : List Nat :=
  let l := (s.qps.filter (fun e => tenantShell e.2.tenant s == cdom)).map (fun e => e.1)
  (l.filter (fun q => decide (sh.rrQueue < q))) ++ l.filter (fun q => decide (q ≤ sh.rrQueue))

/-- The next command of a shell that a catch examines. -/
def nextQueued (cdom : Nat) (s : State) : Option (Nat × Cmd) :=
  match shellOf cdom s with
  | none => none
  | some sh =>
    (shellQueues cdom sh s).findSome? (fun q =>
      match tabFind q s.qps with
      | some p => if p.deferred then none else s.cmds.find? (fun e => e.2.q == q && e.2.st == .queued)
      | none => none)

/-- Examines up to `n` commands of a shell; how many slots are left. -/
def examineShell (cdom : Nat) : Nat → State → Nat × State
  | 0, s => (0, s)
  | n + 1, s => match nextQueued cdom s with | none => (n + 1, s) | some (k, c) => examineShell cdom n (examineCmd k c s)

/-- Slots left over go round-robin to shells that still have queued commands (R52); so does catch capacity that no opening shell holds as slots (DESIGN CHOICE,
entry 95). -/
def examineRest (ds : List Nat) : Nat → State → State
  | 0, s => s
  | n + 1, s =>
    let l := ds.filter (fun d => decide (s.stroke.rrShell < d)) ++ ds.filter (fun d => decide (d ≤ s.stroke.rrShell))
    match l.find? (fun d => (nextQueued d s).isSome) with
    | none => s
    | some d => (match nextQueued d s with
      | some (k, c) => examineRest ds n (examineCmd k c { s with stroke := { s.stroke with rrShell := d } })
      | none => s)

/-- A window that would include both the stroke before a pending configuration's target and the target is deferred (R35). -/
def deferredWindow (sh : Shell) (s : State) : Bool :=
  match s.stroke.pend with
  | some (t, _) => let d := strokesTo s.stroke.count t; decide (1 ≤ d) && decide (d < sh.comp.k)
  | none => false

/-- Opens the windows of the present stroke and admits (R39, R52). -/
def admitAll (s : State) : State :=
  let opens := s.shells.filter (fun e => opensWindow e.2 s.stroke.count && e.2.created.isNone && !e.2.failed)
  let s := opens.foldl (fun s e =>
    match shellOf e.1 s with
    | some sh => setShell e.1 { sh with windowEnd := (s.stroke.count + sh.comp.k - 1) % 2 ^ 48 } s
    | none => s) s
  let ds := (opens.filter (fun e => !deferredWindow e.2 s)).map (fun e => e.1)
  let s := { s with qps := s.qps.map (fun (e : Nat × QPair) => (e.1, if ds.contains (tenantShell e.2.tenant s) then { e.2 with deferred := false } else e.2)) }
  let cap := catchCapacity s.stroke.cfg
  let r := ds.foldl (fun (a : Nat × State) d =>
    match shellOf d a.2 with
    | some sh => let x := examineShell d (min sh.comp.slots a.1) a.2; (a.1 - (min sh.comp.slots a.1 - x.1), x.2)
    | none => a) (cap, s)
  let s := examineRest ds r.1 r.2
  ds.foldl (fun s d =>
    match shellOf d s with
    | some sh => (match shellQueues d sh s with | q :: _ => setShell d { sh with rrQueue := q } s | [] => s)
    | none => s) s

end Sys2Proof.Machine
end

