-- ==== Sys2Proof/Machine/ShellOps.lean ====
section
/-! DEFINITION. What a shell's flip does (11 R330..R333, R340..R342): range tables, sets that pass on, a re-binding's new composition;
unregistration of graphs (13 R391), abandoned re-bindings (11 R337). -/
namespace Sys2Proof.Machine

/-! ### Graphs -/

/-- Unregisters one graph (R391). -/
def markGone (d h : Nat) (s : State) : State :=
  match graphOf d h s with
  | some g => if g.gone then s else { s with graphs := tabPut (d * 65536 + h) { g with gone := true, goneAt := s.stroke.order } s.graphs }
  | none => s

/-- Unregisters a graph; a primary takes its fallback with it (R391). -/
def unregister (d h : Nat) (s : State) : State :=
  match graphOf d h s with
  | none => s
  | some g => reapGraphs (markGone d h (match g.fallback with | some f => markGone d f s | none => s))

/-- Bytes of a tile that stands `a` bytes on meet a range. -/
def tileInRange (r : Range) (t : Tile) (a : Int) : Bool :=
  t.space == 1 && (extentsAt t a).any (fun e => decide (e.1 < (((r.base + r.frames) * 2 ^ 21 : Nat) : Int)) && decide (((r.base * 2 ^ 21 : Nat) : Int) < e.1 + e.2))

/-- A graph has a tile at a fixed address in a range, at some position of it (13 R391): one whose address no patch replaces (R319). -/
def graphInRange (x : WCtx) (r : Range) : Bool :=
  let g := x.rg.graph
  g.tiles.zipIdx.any (fun e => !x.moved e.2 && tileInRange r e.1 0) ||
  g.nodes.any (fun n => (opnds g n).any (fun o => !x.moved o.ix &&
    (List.range (if o.adv = 0 then 1 else positions n o.role)).any (fun (p : Nat) => tileInRange r o.t ((p : Int) * o.adv))))

/-- Handles of a shell's registered graphs that a test picks. -/
def handlesWith (d : Nat) (f : RegGraph → Bool) (s : State) : List Nat :=
  (s.graphs.filter (fun e => decide (e.1 / 65536 = d) && !e.2.gone && f e.2)).map (fun e => e.1 % 65536)

/-! ### Cores -/

/-- A core is zeroed for a seat that newly takes it (R323). -/
def zeroCore (core : Nat) (s : State) : State :=
  let t0 := spadKey core 0
  let s := { s with mem := { s.mem with
    spad := memClear s.mem.spad (spadIx core 0) (spadIx core Config.spadBytes)
    tags := s.mem.tags.filter (fun e => !(decide (t0 ≤ e.1) && decide (e.1 < t0 + 2 ^ 18))) } }
  setCore core { coreOf core s with groups := [], saved := [], ctr := [], copies := [], held := [] } s

/-- A seat's context passes from its old core to its new one (R331): it is on the old core, or saved from it. -/
def moveSeat (d : Nat) (m : Nat × Nat × Nat) (s : State) : State :=
  let key := ctxKey d m.1
  let s := if (tabFind key (coreOf m.2.1 s).ctxs).isSome then s else saveContext m.2.1 (setCore m.2.1 { coreOf m.2.1 s with holder := some (d, m.1) } s)
  let x := tabFind key (coreOf m.2.1 s).ctxs
  let s := setCore m.2.1 { coreOf m.2.1 s with ctxs := tabDel key (coreOf m.2.1 s).ctxs } s
  let s := zeroCore m.2.2 s
  match x with
  | some c => setCore m.2.2 { coreOf m.2.2 s with ctxs := tabPut key c (coreOf m.2.2 s).ctxs } s
  | none => s

/-! ### Ranges -/

/-- The lowest unused range index (T11-1: at most 256). -/
def freeRange (sh : Shell) : Option Nat := (List.range 256).find? (fun i => (tabFind i sh.ranges).isNone)

/-- Adds ranges at the lowest unused indices. -/
def addRanges (rs : List Range) (sh : Shell) : Shell :=
  rs.foldl (fun sh r => match freeRange sh with | some i => { sh with ranges := tabPut i r sh.ranges } | none => sh) sh

/-- The domain that a remote request acts for. -/
def rreqDom (r : RReq) (s : State) : Option Nat :=
  match r.wait with
  | .thread c slot _ _ | .store c slot _ _ => (tabFind slot (coreOf c s).groups).map (fun g => g.cdom)
  | .copy c k _ => (tabFind k (coreOf c s).copies).map (fun x => x.cdom)
  | .station n _ => (cmdOf n s).map (fun c => c.cdom)
  | .queue q => (tabFind q s.qps).map (fun p => tenantShell p.tenant s)

/-- The requests of a shell that are outstanding, by kind and number (R335): 1 a miss register, 2 a message at a line's home, 3 a writeback, 4 operations of
a line's atomic unit, 5 a remote request, 6 a copy. Far requests carry their epoch themselves. -/
def requestsOf (d : Nat) (s : State) : List (Nat × Nat) :=
  let at' := fun (m : HMsg) => m.cdom == some d
  (s.coh.miss.filter (fun e => e.2.cdom == d)).map (fun e => (1, e.1)) ++
  (s.coh.open'.filter (fun e => at' e.2.msg)).map (fun e => (2, e.1)) ++ (s.coh.queue.filter (fun e => e.2.any at')).map (fun e => (2, e.1)) ++
  (s.coh.wbuf.filter (fun e => e.2.cdom == d)).map (fun e => (3, e.1)) ++ (s.coh.atoms.filter (fun e => e.2.any (fun a => a.cdom == d))).map (fun e => (4, e.1)) ++
  (s.rreqs.filter (fun e => rreqDom e.2 s == some d)).map (fun e => (5, e.1)) ++
  s.cores.flatMap (fun (e : Nat × Core) => (e.2.copies.filter (fun (c : Nat × Copy) => c.2.cdom == d)).map (fun (c : Nat × Copy) => (6, e.1 * 2 ^ 32 + c.1)))

/-- The next epoch; the requests of the old one drain (R330). -/
def nextEpoch (d : Nat) (s : State) (sh : Shell) : Shell := { sh with epoch := (sh.epoch + 1) % 8, oldEpoch := true, olds := requestsOf d s }

/-- The ownership record of a shell's set (R339). -/
def ownRec (d i : Nat) (sh : Shell) : OwnRec := tabGet ⟨d, 0, 0, 0, 0⟩ i sh.owns

/-! ### Flips without a preparation (R330) -/

/-- Performs one waiting change at a flip. -/
def applyFlip (d : Nat) (f : Flip) (s : State) : State :=
  match shellOf d s with
  | none => s
  | some sh =>
    let sh := nextEpoch d s sh
    match f with
    | .map src r i =>
      let sh := { sh with ranges := tabPut i { r with mirror := false } sh.ranges, mirrors := if r.mirror then sh.mirrors ++ [⟨i, [], some src⟩] else sh.mirrors }
      let s := setShell d sh s
      if r.mirror then s else respond src stOK [r.frame0, i] s
    | .unmap src i =>
      let gone := match tabFind i sh.ranges with | some r => handlesWith d (fun g => graphInRange (wctx s d sh g) r) s | none => []
      let s := setShell d { sh with ranges := tabDel i sh.ranges, owed := sh.owed ++ [src] } s
      gone.foldl (fun s h => unregister d h s) s
    | .release src i to' =>
      if (setOf sh i).isNone then respond src stBadParam [] s else
      let o := ownRec d i sh
      let seq := (o.seq + 1) % 2 ^ 32
      let rs := (sh.ranges.filter (fun e => e.2.set == i)).map (fun e => e.2)
      let body := (setOf sh i).getD ⟨[], 0, 0, 0⟩
      let sh := { sh with
        comp := { sh.comp with sets := sh.comp.sets.filter (fun e => e.1 != i) }
        ranges := (sh.ranges.filter (fun e => e.2.set != i)).map (fun (e : Nat × Range) => (e.1, if e.2.mirror && e.2.mset = i then { e.2 with mirrorLost := true } else e.2))
        owns := tabPut i { owner := d, to' := to', hstate := 1, seq := seq, relTime := s.now % 2 ^ 48 } sh.owns }
      let s := { setShell d sh s with released := s.released ++ [⟨d, i, to', seq, s.now, body, rs⟩] }
      respond src stOK [seq] (rederive d s)
    | .acquire src rel i bases =>
      let rs := (rel.ranges.zip bases).map (fun (x : Range × Nat) => { x.1 with base := x.2 / 2 ^ 21, set := i, mirror := false, mirrorLost := false, side := false, mset := 0 })
      let sh := { sh with
        comp := { sh.comp with sets := tabPut i rel.body sh.comp.sets }
        owns := tabPut i { owner := d, to' := 0, hstate := 0, seq := rel.seq, relTime := rel.at' % 2 ^ 48 } sh.owns }
      let s := setShell d (addRanges rs sh) s
      let s := match shellOf rel.from' s with | some a => setShell rel.from' { a with owns := tabDel rel.set a.owns } s | none => s
      respond src stOK [i] (rederive d s)
    | .restore rs => rederive d (setShell d (addRanges rs sh) s)

/-! ### Re-bindings -/

/-- Cores of a composition. -/
def Comp.cores (c : Comp) : List Nat := c.seats.map (fun x => x.core)

/-- Seats that move (R329, R333): a core in both lists stays; where a position's old core leaves and its new core is fresh, the seat moves. -/
def movesOf (old new : Comp) : List (Nat × Nat × Nat) :=
  (List.range (min old.seats.length new.seats.length)).filterMap (fun i =>
    match old.seats[i]?, new.seats[i]? with
    | some a, some b => if a.core != b.core && !new.cores.contains a.core && !old.cores.contains b.core then some (i, a.core, b.core) else none
    | _, _ => none)

/-- Where work on a seat number goes at a flip: it stays or moves, or its seat is removed. -/
def keepsSeat (old new : Comp) (k : Nat) : Bool :=
  match old.seats[k]?, new.seats[k]? with
  | some a, some b => a.core == b.core || (movesOf old new).any (fun m => m.1 == k)
  | _, _ => false

/-- Seats of a new composition whose cores no old seat held. -/
def freshSeats (old new : Comp) : List (Nat × Seat) :=
  (new.seats.zipIdx.map (fun x => (x.2, x.1))).filter (fun e => !old.cores.contains e.2.core && !(movesOf old new).any (fun m => m.1 == e.1))

/-- A plan without a shell's entries: the others keep their strokes (R56). -/
def planWithout (d : Nat) (l : List (Nat × Nat × Nat)) : List (Nat × Nat × Nat) :=
  let l := l.map (fun (e : Nat × Nat × Nat) => if e.1 = d then (0, 0, e.2.2) else e)
  if l.all (fun e => e.1 == 0) then [] else l

/-- Drops a shell's entries from a core's slice plan. -/
def unplan (d core : Nat) (s : State) : State :=
  let k := coreOf core s
  setCore core { k with plan := planWithout d k.plan, planNext := k.planNext.map (fun p => (p.1, planWithout d p.2)) } s

/-- Drops a shell's entries and contexts from a core. -/
def dropPlan (d core : Nat) (s : State) : State :=
  let s := unplan d core s
  setCore core { coreOf core s with ctxs := (coreOf core s).ctxs.filter (fun e => e.1 / 1024 != d) } s

/-- A seat that moves leaves its core; what is on the core stays until the move (R332), but for a core under a slice plan, whose context is saved. -/
def leaveCore (d : Nat) (m : Nat × Nat × Nat) (s : State) : State :=
  let k := coreOf m.2.1 s
  let s := if k.holder = some (d, m.1) && !(k.plan.isEmpty && k.planNext.isNone) then saveContext m.2.1 s else s
  let s := unplan d m.2.1 s
  let k := coreOf m.2.1 s
  setCore m.2.1 { k with holder := if k.holder = some (d, m.1) then none else k.holder, incoming := if k.incoming = some (d, m.1) then none else k.incoming } s

/-- A shell's seat on a core takes another number. -/
def renumberSeat (d core old new : Nat) (s : State) : State :=
  let k := coreOf core s
  let f := fun (l : List (Nat × Nat × Nat)) => l.map (fun (e : Nat × Nat × Nat) => if e.1 = d && e.2.1 = old then (d, new, e.2.2) else e)
  let g := fun (o : Option (Nat × Nat)) => if o = some (d, old) then some (d, new) else o
  let cs := k.ctxs.map (fun (e : Nat × Ctx) => if e.1 = ctxKey d old then (ctxKey d new, e.2) else e)
  setCore core { k with
    plan := f k.plan, planNext := k.planNext.map (fun p => (p.1, f p.2)), ctxs := cs.foldl (fun t e => tabPut e.1 e.2 t) []
    holder := g k.holder, incoming := g k.incoming, before := g k.before } s

/-- The first place of a core's plan for an entry, in place of the shell's present one (R56, R312): every entry begins at a window of its shell, checked over
strokes from the start; the position, the stroke at which the new plan starts, between repetitions of the one before it. -/
def planPlace (d seat n core : Nat) (sh : Shell) (from' : Nat) (s : State) : Option (Nat × Nat × List (Nat × Nat × Nat)) :=
  let k := coreOf core s
  let cur := planWithout d (match k.planNext with | some (_, p) => p | none => k.plan)
  let startOk := fun (t : Nat) =>
    match k.planNext with
    | some (a, p) => decide (strokesTo a t < 2 ^ 47) && (planLen p == 0 || strokesTo a t % planLen p == 0)
    | none => k.plan.isEmpty || (k.planPos + strokesTo s.stroke.count t) % planLen k.plan == 0
  let kOf := fun (x : Nat) => if x = d then some sh.comp else (shellOf x s).map (fun y => y.comp)
  let fitsAt := fun (p : List (Nat × Nat × Nat)) (t : Nat) =>
    (p.foldl (fun (a : Nat × Bool) e =>
      (a.1 + e.2.2, a.2 && (match kOf e.1 with | some c => e.2.2 % c.k == 0 && a.1 % c.k == c.o && planLen p % c.k == 0 | none => true))) (t, true)).2
  (List.range (cur.length + 1)).findSome? (fun i =>
    let p := cur.take i ++ [(d, seat, n)] ++ cur.drop i
    if 16 < (p.filter (fun e => e.1 != 0)).length then none else
    ((List.range 8192).find? (fun j => startOk ((from' + j) % 2 ^ 48) && fitsAt p (from' + j))).map (fun j => (i, (from' + j) % 2 ^ 48, p)))

/-- Puts a sliced seat into its core's plan (R56, R312). -/
def planSeat (d : Nat) (sh : Shell) (from' : Nat) (x : Nat × Seat) (s : State) : State :=
  match planPlace d x.1 x.2.len x.2.core sh from' s with
  | some (_, t, p) => setCore x.2.core { coreOf x.2.core s with planNext := some (t, p) } s
  | none => s

/-- Takes a shell's seat onto its core: a dedicated seat holds it at once, a sliced seat enters the plan (R56, R312). -/
def seatIn (d : Nat) (sh : Shell) (from' : Nat) (x : Nat × Seat) (s : State) : State :=
  if x.2.sliced then planSeat d sh from' x s
  else let s := zeroCore x.2.core s; setCore x.2.core { coreOf x.2.core s with holder := some (d, x.1) } s

/-- A core leaves a shell. -/
def seatOut (d core : Nat) (s : State) : State :=
  let s := dropPlan d core s
  let mine := fun (o : Option (Nat × Nat)) => match o with | some (x, _) => x == d | none => false
  let s := if mine (coreOf core s).incoming then setCore core { coreOf core s with incoming := none } s else s
  if mine (coreOf core s).holder then
    let s := zeroCore core s
    setCore core { coreOf core s with holder := none } s
  else s

/-- A seat that stays on its core through a flip takes its new number, length and kind (R333); what it holds it keeps until a new plan starts. -/
def seatStays (d : Nat) (sh : Shell) (n : Nat) (y x : Nat × Seat) (s : State) : State :=
  let core := x.2.core
  let s := renumberSeat d core y.1 x.1 s
  if y.2.sliced && x.2.sliced then (if y.2.len = x.2.len then s else planSeat d sh n x s)
  else if y.2.sliced then
    let s := unplan d core s
    if (coreOf core s).holder = some (d, x.1) then s else restoreContext core d x.1 s
  else if x.2.sliced then planSeat d sh n x s
  else s

/-- Groups of a core, running, put aside or saved, have an access outstanding on a channel. -/
def farOn (ch : Nat) (k : Core) : Bool :=
  let g := fun (x : Nat × Group) => x.2.far.any (fun f => f.items.any (fun i => i.got.isNone && (match i.loc with | .mem dpa _ _ => dpaChan dpa == ch | _ => false)))
  k.groups.any g || k.saved.any g || k.ctxs.any (fun e => e.2.groups.any g)

/-- Lines of a channel that its home tracks, that a cache still writes or that a request is on its way to (R222). -/
def chanBusy (ch : Nat) (s : State) : Bool :=
  let on := fun (l : Nat) => dpaChan (l * 512) == ch
  s.coh.open'.any (fun e => on e.1) || s.coh.queue.any (fun e => on e.1) || s.coh.miss.any (fun e => on (e.1 % 2 ^ 40)) ||
  s.coh.wbuf.any (fun e => on (e.1 % 2 ^ 40)) || s.coh.atoms.any (fun e => on e.1) || s.mem.rmw.any (fun e => dpaChan (8 * e.1) == ch) ||
  s.coh.net.any (fun m => on m.place.2) || s.coh.bar4.any (fun e => on e.1) || s.mem.held.any (fun e => e.1 == ch) || s.cores.any (fun e => farOn ch e.2)

/-- A channel's home recalls its lines and writes back its dirty words (T11-12). -/
def flushChan (ch : Nat) (s : State) : State :=
  let on := fun (l : Nat) => dpaChan (l * 512) == ch
  let s := ((s.coh.dir.filter (fun e => on e.1 && decide (e.2.dstate ≠ .inv))).map (fun e => e.1)).foldl (fun s l => recallAll l s) s
  let s := ((s.coh.home.filter (fun e => on e.1)).map (fun e => e.1)).foldl (fun s l => homeEvict l s) s
  { s with coh := { s.coh with lines := s.coh.lines.filter (fun e => !(on (e.1 % 2 ^ 40) && decide (e.2.st = .N))) } }

/-- Preparation has ended (R331): every new channel is cleared, the new ways are clean (R323), the copy is done and the substituted channel is quiet. -/
def rebindReady (r : Rebind) (s : State) : Bool :=
  s.shells.all (fun e => e.2.rebind != some r || (e.2.asks.isEmpty && waysClean e.1 s)) && r.comp.sets.all (fun e => e.2.chans.all (fun c => !(chanOf c s).clearing)) &&
  (match r.subst with | some (_, o, _) => r.copied && !chanBusy o s | none => true)

/-- The flip of a re-binding before stroke `n` (R331..R333). A plan that it changes starts two strokes after the present one at the earliest (R56). -/
def rebindFlip (d : Nat) (sh : Shell) (r : Rebind) (n : Nat) (s : State) : State :=
  let old := sh.comp
  let new := r.comp
  let s := match r.subst with | some (_, o, _) => flushChan o s | none => s
  let s := eachCtx pullCtx d s
  let hit := (s.cmds.filter (fun e => e.2.cdom == d && e.2.started && e.2.isBE && (placesOf e.2 s).any (fun p => !keepsSeat old new p.2.1))).map (fun e => e.1)
  let s := hit.foldl (fun s c => abandonCmd c 0x0209 s) s
  let past := fun (g : RegGraph) => g.seatMap.any (fun k => decide (new.seats.length ≤ k))
  let s := (handlesWith d past s).foldl (fun s h => unregister d h s) s
  let sh := nextEpoch d s ((shellOf d s).getD sh)
  let sh := { sh with comp := new, rebind := some { r with flip := n, step := 1, moves := movesOf old new, began := s.now, old := some old } }
  let s := setShell d sh s
  let gone := old.cores.filter (fun c => !new.cores.contains c)
  let s := (movesOf old new).foldl (fun s m => leaveCore d m s) s
  let s := gone.foldl (fun s c => if (movesOf old new).any (fun m => m.2.1 == c) then s else seatOut d c s) s
  let t := (n + 1) % 2 ^ 48
  let s := (freshSeats old new).foldl (fun s x => seatIn d sh t x s) s
  let s := new.seats.zipIdx.foldl (fun s x =>
    match old.seats.zipIdx.find? (fun y => y.1.core == x.1.core) with
    | some y => seatStays d sh t (y.2, y.1) (x.2, x.1) s
    | none => s) s
  rederive d (eachCtx pushCtx d s)

/-- The compositions whose resources a shell holds or has reserved: its own, and while a re-binding is in progress the one before or after the flip
(11 R331). -/
def Shell.comps (sh : Shell) : List Comp :=
  sh.comp :: (match sh.rebind with | some r => if r.step = 0 then [r.comp] else (match r.old with | some c => [c] | none => []) | none => [])

/-- The most that a shell holds or has reserved of a half. -/
def halfMost (s : State) (d half : Nat) (f : HalfGrant → Nat) : Nat :=
  let of := fun (c : Comp) => (c.halves.filter (fun g => g.half == half)).foldl (fun n g => n + f g) 0
  match shellOf d s with
  | some sh => sh.comps.foldl (fun n c => max n (of c)) 0
  | none => 0

/-- The ways of each half follow what a shell holds or has reserved (09 R278; entry 43). -/
def fixWays (d : Nat) (s : State) : State := (List.range 16).foldl (fun s h => giveWays h d (halfMost s d h (fun g => g.ways)) s) s

/-- Abandons a re-binding before its flip (R337, 13 R394): the new resources go back to the pool. -/
def abandonRebind (d status detail : Nat) (s : State) : State :=
  match shellOf d s with
  | none => s
  | some sh =>
    match sh.rebind with
    | none => s
    | some r => rederive d (refuse r.src status detail 0 (fixWays d (setShell d { sh with rebind := none } s)))

/-- What a fence or a failure does to a re-binding before its flip (T11-13): the detail of its abandonment. -/
def rebindHit (sh : Shell) (r : Rebind) (s : State) : Option Nat :=
  let out := fun (c : Nat) => ((coreOf c s).fenced || coreGone c s) && !r.known.contains (2, c)
  let lost := fun (c : Nat) => (chanOf c s).fenced && !r.known.contains (8, c)
  let old := sh.comp.sets.flatMap (fun e => e.2.chans)
  let new := r.comp.sets.flatMap (fun e => e.2.chans)
  if sh.failed then some 0x0204
  else if r.step != 0 then none
  else if r.comp.cores.any (fun c => !sh.comp.cores.contains c && out c) || (movesOf sh.comp r.comp).any (fun m => out m.2.1 || out m.2.2) then some 0x0201
  else if new.any (fun c => !old.contains c && lost c) then some 0x0202
  else match r.subst with
    | some (_, o, _) => if lost o then some 0x0203 else none
    | none => none

/-- Re-bindings that an event ends are abandoned (R337). -/
def settleRebinds (s : State) : State :=
  (s.shells.map (fun e => e.1)).foldl (fun s d =>
    match shellOf d s with
    | none => s
    | some sh =>
      match sh.rebind with
      | none => s
      | some r => (match rebindHit sh r s with | some k => abandonRebind d stAbandoned k s | none => s)) s

/-- A coherent domain fails, and a re-binding of its shell with it (09 R275; R337). -/
def failDomainBy (inj : Option Nat) (det ukind unit cdom : Nat) (s : State) : State := settleRebinds (takeDown inj det ukind unit cdom s)

/-- A domain fails without an injection. -/
def failDomain (det cdom : Nat) (s : State) : State := failDomainBy none det 0 0 cdom s

/-- A core is fenced, and re-bindings that count on it end (R67, R337). -/
def loseCoreBy (inj : Option Nat) (core : Nat) (s : State) : State := settleRebinds (fenceCoreBy inj core s)

/-- A core is fenced without an injection. -/
def loseCore (core : Nat) (s : State) : State := loseCoreBy none core s

/-- A fence is the beginning of a reset (15 R448). -/
def markReset (inj : Option Nat) (dom unit : Nat) (s : State) : State :=
  { s with flt := { s.flt with fences := s.flt.fences.map (fun f => if f.dom = dom && f.unit = unit && !f.reset then { f with reset := true, inj := inj } else f) } }

/-- A core is fenced for a reset (15 R448); a retired core has left service. -/
def needResetBy (inj : Option Nat) (core : Nat) (s : State) : State := if coreGone core s then s else markReset inj 2 core (loseCoreBy inj core s)

/-- A core is fenced for a reset without an injection. -/
def needReset (core : Nat) (s : State) : State := needResetBy none core s

/-- A channel is fenced, and re-bindings that count on it end (R337, R347). -/
def loseChannel (ch : Nat) (s : State) : State := settleRebinds (fenceChannel ch s)

/-- A change that no re-binding carries out: MEMORY.MAP and MEMORY.UNMAP (R330). -/
def isMapping (f : Flip) : Bool :=
  match f with | .map _ _ _ | .unmap _ _ => true | .release _ _ _ | .acquire _ _ _ _ | .restore _ => false

/-- The flip of one shell in the recovery phase of a stroke (R330, R331): the re-binding when it is ready, else the oldest change whose stroke
has come; while a re-binding is being prepared, that is a mapping alone. -/
def flipShell (d : Nat) (s : State) : State :=
  match shellOf d s with
  | none => s
  | some sh =>
    let f := (s.stroke.count + 1) % 2 ^ 48
    let due := fun (t : Nat) => decide (strokesTo t f < 2 ^ 47)
    if sh.oldEpoch || !(f % sh.comp.k == sh.comp.o) then s
    else match sh.rebind with
      | some r =>
        if sh.failed then abandonRebind d stAbandoned 0x0204 s
        else if r.step = 0 then 
          (if due r.flip && rebindReady r s && f % r.comp.k == r.comp.o then rebindFlip d sh r f s
          else match sh.flips with | (t, c) :: rest => if due t && isMapping c then applyFlip d c (setShell d { sh with flips := rest } s) else s | [] => s)
        else (match sh.flips with | (t, c) :: rest => if due t then applyFlip d c (setShell d { sh with flips := rest } s) else s | [] => s)
      | none => (match sh.flips with | (t, c) :: rest => if due t then applyFlip d c (setShell d { sh with flips := rest } s) else s | [] => s)

/-- Moved seats take their cores at the first window after their move (R332). -/
def seatArrivals (s : State) : State :=
  s.shells.foldl (fun s e =>
    match shellOf e.1 s with
    | none => s
    | some sh =>
      if sh.arriving.isEmpty || !opensWindow sh s.stroke.count then s
      else
        let s := sh.arriving.foldl (fun s x => restoreContext x.2 e.1 x.1 s) s
        setShell e.1 { sh with arriving := [] } s) s

end Sys2Proof.Machine
end

