-- ==== Sys2Proof/Machine/Compose.lean ====
section
/-! DEFINITION. Shell descriptors (11 R310..R316, Tables 11-2 to 11-8): how the Cox reads one, the checks of Table 11-7 in their order, the rules of
a re-binding (11 R329, R334). -/
namespace Sys2Proof.Machine

/-! ### Reads by the Cox -/

/-- The Host region (T8-1). -/
def inHost (a : Nat) : Bool := decide (0x400000000000 ≤ a) && decide (a < 0x800000000000)

/-- What the Cox has read: bytes, the offset of the first byte that cannot be read, the state with what the homes found. -/
structure CoxRead where
  bytes : List Byte
  bad   : Option Nat
  st    : State

/-- A read of a shell's memory for the Cox (09 T9-2): direct reads at the homes, reads of its seats' scratchpads; an uncorrectable word cannot be read
(entry 45). -/
def coxRead (cdom a n : Nat) (s : State) : CoxRead :=
  match shellOf cdom s with
  | none => ⟨[], some 0, s⟩
  | some _ =>
    if cdom ∈ s.coh.failing then ⟨[], some 0, s⟩
    else (piecesOf a n).foldl (fun (x : CoxRead) p =>
      match x.bad with
      | some _ => x
      | none =>
        match (if p.1 < 2 ^ 48 then locate cdom [] p.1 s else Loc.unmapped) with
        | .spad core off =>
          let r := spadRead core off p.2 x.st
          if r.2.1 then ⟨x.bytes ++ r.1, none, logSpad core off p.2 cdom x.st⟩ else { x with bad := some (p.1 - a), st := logSpad core off p.2 cdom x.st }
        | .host _ | .peer _ _ | .bad | .unmapped => { x with bad := some (p.1 - a) }
        | .mem dpa _ _ =>
          let r := homeRead dpa p.2 x.st
          let st := homeNote cdom dpa p.2 x.st
          if r.2.1 then ⟨x.bytes ++ r.1, none, st⟩
          else { x with bad := some (p.1 - a + ((List.range p.2).find? (fun i => !(homeRead (dpa + i) 1 x.st).2.1)).getD 0), st := st }) ⟨[], none, s⟩

/-- Bytes of a descriptor in the Host region, as far as the host answered them, or in a shell's memory (R310). -/
def descRead (a pasid cdom n : Nat) (ext : Ext) (s : State) : CoxRead :=
  if inHost a then
    ⟨ext.data.take n, if n ≤ ext.data.length then none else some ext.data.length, emit (.hostRead pasid (a - 0x400000000000) n) s⟩
  else coxRead cdom a n s

/-! ### Fields -/

/-- What reading a descriptor gives: its header counts and its words. -/
structure Desc where
  words : List Nat
  nH : Nat
  nS : Nat
  nC : Nat
  nL : Nat

/-- Offsets of the entries (R310). -/
def Desc.halfAt (_ : Desc) (i : Nat) : Nat := 24 + 8 * i
def Desc.seatAt (d : Desc) (i : Nat) : Nat := 24 + 8 * d.nH + 8 * i
def Desc.setAt (d : Desc) (i : Nat) : Nat := 24 + 8 * d.nH + 8 * d.nS + 16 * i
def Desc.linkAt (d : Desc) (i : Nat) : Nat := 24 + 8 * d.nH + 8 * d.nS + 16 * d.nC + 8 * i

/-- The word at an offset. -/
def Desc.word (d : Desc) (off : Nat) : Nat := d.words.getD (off / 8) 0

/-- Half entry (T11-3); 0 ways for N selects half of the ways, rounded up. -/
def halfOfWord (w : Nat) : HalfGrant :=
  let ways := bits w 58 53
  ⟨bits w 63 59, ways, if bits w 52 47 = 0 then (ways + 1) / 2 else bits w 52 47, bits w 46 35, bits w 34 27, bits w 26 19, bits w 18 11⟩

/-- Seat entry (T11-4): the slice length is in strokes. -/
def seatOfWord (k w : Nat) : Seat := ⟨bits w 63 55, bit w 54, if bit w 54 then (bits w 53 48 + 1) * k else 0, bit w 47⟩

/-- Data channels of a channel-set entry, keyed 0..63 and 64..87 (T11-5). -/
def maskChans (w0 w1 : Nat) : List Nat := if bit w0 63 then (bitList w0 24).map (fun c => 64 + c) else bitList w1 64

/-- Channel-set entry (T11-5). -/
def setOfWords (w0 w1 : Nat) : ChSet :=
  let cs := maskChans w0 w1
  let par := (if bit w0 63 then 64 else 0) + bits w0 61 56
  if bit w0 62 then ⟨cs ++ [par], cs.length, bits w0 55 51, bits w0 50 38⟩ else ⟨cs, 0, bits w0 55 51, bits w0 50 38⟩

/-- Link entry (T11-6). -/
def linkOfWord (w : Nat) : LinkGrant := ⟨bits w 63 59, bits w 58 52⟩

/-- Entries with their offsets. -/
def Desc.halves (d : Desc) : List (Nat × Nat) := (List.range d.nH).map (fun i => (d.halfAt i, d.word (d.halfAt i)))
def Desc.seats (d : Desc) : List (Nat × Nat) := (List.range d.nS).map (fun i => (d.seatAt i, d.word (d.seatAt i)))
def Desc.sets (d : Desc) : List (Nat × Nat × Nat) := (List.range d.nC).map (fun i => (d.setAt i, d.word (d.setAt i), d.word (d.setAt i + 8)))
def Desc.links (d : Desc) : List (Nat × Nat) := (List.range d.nL).map (fun i => (d.linkAt i, d.word (d.linkAt i)))

/-- The composition that a descriptor spells. -/
def Desc.comp (d : Desc) : Comp :=
  let h := d.word 8
  let k := bits h 31 24
  { k := k, o := bits h 23 16, gop := bits h 15 14, redund := bits h 13 12, sampleN := bits (d.word 16) 47 32, slots := bits h 47 32
    words := d.words.map (fun w => BitVec.ofNat 64 w), seats := d.seats.map (fun e => seatOfWord k e.2)
    sets := d.sets.zipIdx.map (fun e => (e.2, setOfWords e.1.2.1 e.1.2.2)), halves := d.halves.map (fun e => halfOfWord e.2), links := d.links.map (fun e => linkOfWord e.2) }

/-! ### Checks 0x0101 to 0x0103 -/

/-- A refused check: detail and offset (T11-7). -/
abbrev Bad := Nat × Nat

/-- Reads a descriptor (R310): the words, or check 0x0101. -/
def readDesc (a pasid cdom : Nat) (ext : Ext) (s : State) : (Bad ⊕ Desc) × State :=
  if a % 8 != 0 then (.inl (0x0101, 0), s)
  else
    let h := descRead a pasid cdom 24 ext s
    match h.bad with
    | some o => (.inl (0x0101, o), h.st)
    | none =>
      let ws := wordsOf h.bytes 3
      let w0 := ws.getD 0 0
      let w1 := ws.getD 1 0
      let nS := bits w1 63 48
      let nH := bits w1 11 7
      let nC := bits w1 6 3
      let nL := bits (ws.getD 2 0) 63 59
      if bits w0 63 32 != 0x53545348 || bits w0 31 16 != 1 || nS = 0 || 368 < nS || nH = 0 || 16 < nH || 8 < nC || 18 < nL then (.inl (0x0101, 0), h.st)
      else
        let n := 24 + 8 * nH + 8 * nS + 16 * nC + 8 * nL
        let r := descRead a pasid cdom n ext h.st
        match r.bad with
        | some o => (.inl (0x0101, o), r.st)
        | none => (.inr ⟨wordsOf r.bytes (n / 8), nH, nS, nC, nL⟩, r.st)

/-- The first entry that a test fails. -/
def firstBad {α : Type} (detail : Nat) (off : α → Nat) (bad : α → Bool) (l : List α) : Option Bad := (l.find? bad).map (fun e => (detail, off e))

/-- Check 0x0102 (R11). -/
def checkReserved (d : Desc) : Option Bad :=
  if bits (d.word 0) 15 0 != 0 || bits (d.word 8) 2 0 != 0 || bits (d.word 16) 58 48 != 0 || bits (d.word 16) 31 0 != 0 then some (0x0102, 0)
  else (firstBad 0x0102 (fun e => e.1) (fun e => bits e.2 10 0 != 0) d.halves).or <|
    (firstBad 0x0102 (fun e => e.1) (fun e => bits e.2 46 0 != 0) d.seats).or <|
    (firstBad 0x0102 (fun e => e.1) (fun e => bits e.2.1 37 24 != 0) d.sets).or <|
    firstBad 0x0102 (fun e => e.1) (fun e => bits e.2 51 0 != 0) d.links

/-- Entries that name again what an earlier entry names. -/
def repeats (l : List (Nat × Nat)) : Option Nat := (l.zipIdx.find? (fun e => (l.take e.2).any (fun f => f.2 == e.1.2))).map (fun e => e.1.1)

/-- Minimum of miss registers (09 R278). -/
def missMin (ucie : Nat) (sets : List (Nat × Nat × Nat)) : Nat :=
  if sets.isEmpty then 0 else ceilDiv (ucie * 10 * (if sets.any (fun e => bit e.2.1 63) then 950 else 620)) 512

/-- Check 0x0103 (T11-2 to T11-6; 15 R433, R439). -/
def checkFields (d : Desc) (s : State) : Option Bad :=
  let c := d.comp
  let n := c.seats.length
  let sampled := c.redund == 1
  let head := c.slots == 0 || c.k == 0 || decide (64 < c.k) || decide (c.k ≤ c.o) || c.redund == 3 ||
    (if sampled then decide (c.sampleN < 2) || decide (n < 2) || decide (Config.ms 10 < c.k * s.stroke.cfg.period) else c.sampleN != 0) ||
    (c.redund == 2 && n % 2 == 1)
  let half := fun (e : Nat × Nat) =>
    let g := halfOfWord e.2
    decide (15 < g.half) || g.ways == 0 || decide (32 < g.ways) || decide (g.ways < bits e.2 52 47) || decide (g.regs < missMin g.ucie d.sets) ||
    decide (3072 < g.regs) || decide (150 < g.ucie) || decide (200 < g.mesh) || decide (200 < g.hlink) ||
    (d.halves.any (fun f => decide (f.1 < e.1) && bits f.2 63 59 == g.half))
  let seat := fun (e : Nat × Nat) => decide (367 < bits e.2 63 55) || (!bit e.2 54 && bits e.2 53 48 != 0)
  let set := fun (e : Nat × Nat × Nat) =>
    let f := bit e.2.1 63
    let mask := if f then bits e.2.1 23 0 else e.2.2
    let other := if f then e.2.2 else bits e.2.1 23 0
    let par := bits e.2.1 61 56
    other != 0 || mask == 0 || decide (bits e.2.1 55 51 < 8) || decide (16 < bits e.2.1 55 51) ||
    decide ((if f then (if s.dev.board.dense then 6553 else 3276) else 2048) < bits e.2.1 50 38) ||
    (if bit e.2.1 62 then (f && decide (24 ≤ par)) || bit mask par else par != 0)
  let link := fun (e : Nat × Nat) =>
    decide (17 < bits e.2 63 59) || bits e.2 58 52 == 0 || decide (100 < bits e.2 58 52) || (d.links.any (fun f => decide (f.1 < e.1) && bits f.2 63 59 == bits e.2 63 59))
  let pair := fun (e : (Nat × Nat) × Nat) =>
    e.2 % 2 == 1 &&
    (match c.seats[e.2 - 1]?, c.seats[e.2]? with
    | some a, some b => halfOf s a.core != halfOf s b.core || a.sliced != b.sliced || a.len != b.len || a.be != b.be
    | _, _ => false)
  if head then some (0x0103, 0)
  else (firstBad 0x0103 (fun e => e.1) half d.halves).or <| (firstBad 0x0103 (fun e => e.1) seat d.seats).or <|
    (firstBad 0x0103 (fun e => e.1) set d.sets).or <| (firstBad 0x0103 (fun e => e.1) link d.links).or <|
    (if c.redund = 2 then firstBad 0x0103 (fun e => e.1.1) pair d.seats.zipIdx else none)

/-! ### Checks 0x0104 to 0x0109 -/

/-- Compositions that hold or have reserved resources for other shells. -/
def otherComps (d : Nat) (s : State) : List (Nat × Comp) :=
  (s.shells.filter (fun e => e.1 != d)).flatMap (fun e => e.2.comps.map (fun c => (e.1, c)))

/-- Check 0x0104 (R312). -/
def checkCores (d : Desc) (s : State) : Option Bad :=
  let bad := fun (e : Nat × Nat) =>
    let c := bits e.2 63 55
    coreGone c s || (coreOf c s).fenced || d.seats.any (fun f => decide (f.1 < e.1) && bits f.2 63 55 == c) ||
    !d.halves.any (fun f => bits f.2 63 59 == halfOf s c)
  firstBad 0x0104 (fun e => e.1) bad d.seats

/-- Least common multiple. -/
def lcmOf (ks : List Nat) : Nat := ks.foldl (fun a k => Nat.lcm a (max 1 k)) 1

/-- The context switches of the slice plans fit their recovery phases from the start of a core's coming plan on (02 R59, R61): over a joint repetition of every
core's plan from the last that is to come, and in every stroke that has calibration slots. -/
def planFits (start : Nat) (s : State) : Bool :=
  let plans := (slicedCores s).map (fun c => let k := coreOf c s; match k.planNext with | some (t, p) => (strokesTo s.stroke.count t, planLen p) | none => (0, planLen k.plan))
  let last := plans.foldl (fun m e => max m e.1) 0
  let first := strokesTo s.stroke.count start - 1
  let n := (last - first) + lcmOf (plans.map (fun e => e.2))
  let fit := fun (t : Nat) => decide (scheduleEnd ((slotsAt t s).map (fun x => x.res)) (switchesAt t s) s ≤ (cfgOf t s).recovery + extOf t s)
  (List.range (n + 1)).all (fun i => fit ((s.stroke.count + first + i) % 2 ^ 48)) &&
  s.stroke.cal.all (fun x => decide (strokesTo s.stroke.count x.stroke < first) || fit x.stroke)

/-- Check 0x0105 (02 R56, R59): each sliced seat finds a place in its core's plan, each dedicated seat's core is free of others. -/
def checkPlans (d : Nat) (sh : Shell) (desc : Desc) (s : State) : Option Bad :=
  let from' := (s.stroke.count + 2) % 2 ^ 48
  let others := otherComps d s
  let go := (sh.comp.seats.zip desc.seats).zipIdx.foldl (fun (a : Option Bad × State) e =>
    match a.1 with
    | some _ => a
    | none =>
      let seat := e.1.1
      let there := others.flatMap (fun o => o.2.seats.filter (fun x => x.core == seat.core))
      if !seat.sliced then (if there.isEmpty then a else (some (0x0105, e.1.2.1), a.2))
      else if there.any (fun x => !x.sliced) then (some (0x0105, e.1.2.1), a.2)
      else
        match planPlace d e.2 seat.len seat.core sh from' a.2 with
        | none => (some (0x0105, e.1.2.1), a.2)
        | some (_, t, p) =>
          let s2 := setCore seat.core { coreOf seat.core a.2 with planNext := some (t, p) } a.2
          if planFits t s2 then (none, s2) else (some (0x0105, e.1.2.1), a.2)) (none, setShell d sh s)
  go.1

/-- A channel that is out of service (10 R283, R301; 15 R448). -/
def chanOut (c : Nat) (s : State) : Bool := !(chanOf c s).usable || (chanOf c s).fenced || (chanOf c s).leaving

/-- Check 0x0106: `own` are the channels that the shell itself holds. -/
def checkChans (d : Nat) (own : List Nat) (desc : Desc) (s : State) : Option Bad :=
  let taken := (otherComps d s).flatMap (fun o => o.2.sets.flatMap (fun e => e.2.chans)) ++ (s.released.filter (fun r => r.from' != d)).flatMap (fun r => r.body.chans) ++
    s.shells.flatMap (fun e => e.2.flips.flatMap (fun f => match f.2 with | .acquire _ r _ _ => r.body.chans | _ => []))
  let names := fun (e : Nat × Nat × Nat) => (setOfWords e.2.1 e.2.2).chans
  let bad := fun (e : Nat × Nat × Nat) =>
    (names e).any (fun c => taken.contains c || (!own.contains c && chanOut c s) || desc.sets.any (fun f => decide (f.1 < e.1) && (names f).contains c))
  firstBad 0x0106 (fun e => e.1) bad desc.sets

/-- Link shares that the other shells hold or have reserved, with the partner's (14 R413). -/
def linkUsed (d l : Nat) (s : State) : Nat :=
  let of := fun (c : Comp) => (c.links.filter (fun g => g.link == l)).foldl (fun n g => n + g.share) 0
  (s.shells.filter (fun e => e.1 != d)).foldl (fun n e => n + e.2.comps.foldl (fun m c => max m (of c)) 0) 0 + (tabGet Link.zero l s.links).reserved

/-- The most that a direction of a link may grant in GB/s: 90 at 4 lanes (14 R413). -/
def linkCap (l : Nat) (s : State) : Nat := 90 * (tabGet Link.zero l s.links).width / 4

/-- Slots of the shells whose windows open in a stroke; of a shell that re-binds, the composition with more of them. -/
def slotsOpen (cs : List (List (Nat × Nat × Nat))) (n : Nat) : Nat :=
  cs.foldl (fun a l => a + l.foldl (fun m c => if n % max 1 c.1 = c.2.1 then max m c.2.2 else m) 0) 0

/-- Admission slots fit the catch capacity in every stroke (02 R53): k, o and slots of each shell's compositions. -/
def slotsFit (cs : List (List (Nat × Nat × Nat))) (s : State) : Bool :=
  let l := lcmOf (cs.flatMap (fun l => l.map (fun c => c.1)))
  match s.stroke.pend with
  | none => (List.range l).all (fun n => decide (slotsOpen cs n ≤ catchCapacity s.stroke.cfg))
  | some (t, c) =>
    (List.range (min l (strokesTo s.stroke.count t - 1))).all (fun i => decide (slotsOpen cs ((s.stroke.count + 1 + i) % 2 ^ 48) ≤ catchCapacity s.stroke.cfg)) &&
    (List.range l).all (fun n => decide (slotsOpen cs n ≤ catchCapacity c))

/-- What R53 counts of a composition. -/
def Comp.slotRow (c : Comp) : Nat × Nat × Nat := (c.k, c.o, c.slots)

/-- The rows of a shell's new composition and of every other shell; a shell that re-binds keeps its own until the flip. -/
def slotRows (d : Nat) (c : Comp) (s : State) : List (List (Nat × Nat × Nat)) :=
  (c.slotRow :: (match shellOf d s with | some sh => [sh.comp.slotRow] | none => [])) :: (s.shells.filter (fun e => e.1 != d)).map (fun e => e.2.comps.map Comp.slotRow)

/-- Ways of a half (`slice` 0) or slice (1) that way tests have withdrawn (15 T15-3). -/
def waysOut (slice unit : Nat) (s : State) : Nat := (s.flt.badWays.filter (fun w => decide (bits w 31 24 = slice) && decide (bits w 15 8 = unit))).length

/-- Check 0x0107 (R316, 09 R279, 02 R53, 14 R413). -/
def checkCapacity (d : Nat) (c : Comp) (desc : Desc) (s : State) : Option Bad :=
  let sum := fun (half : Nat) (f : HalfGrant → Nat) => (s.shells.filter (fun e => e.1 != d)).foldl (fun n e => n + halfMost s e.1 half f) 0
  let half := fun (e : Nat × Nat) =>
    let g := halfOfWord e.2
    decide (32 < sum g.half (fun x => x.ways) + g.ways + waysOut 0 g.half s) || decide (3072 < sum g.half (fun x => x.regs) + g.regs) ||
    decide (150 < sum g.half (fun x => x.ucie) + g.ucie) || decide (200 < sum g.half (fun x => x.mesh) + g.mesh) ||
    decide (200 < sum g.half (fun x => x.hlink) + g.hlink)
  let link := fun (e : Nat × Nat) =>
    let g := linkOfWord e.2
    let k := tabGet Link.zero g.link s.links
    k.st != .up || s.dev.board.regatta == 0 || k.regatta != s.dev.board.regatta || decide (linkCap g.link s < linkUsed d g.link s + g.share)
  let set := fun (e : Nat × Nat × Nat) => let x := setOfWords e.2.1 e.2.2; x.chans.any (fun c => decide (16 < x.ways + waysOut 1 c s))
  (firstBad 0x0107 (fun e => e.1) half desc.halves).or <| (firstBad 0x0107 (fun e => e.1) set desc.sets).or <|
    (firstBad 0x0107 (fun e => e.1) link desc.links).or <|
    (if slotsFit (slotRows d c s) s then none else some (0x0107, 0))

/-- The highest frame of set 0 that ranges, and ranges on their way, take, plus 1. -/
def topFrame (rs : List Range) : Nat :=
  rs.foldl (fun m r => if r.set = 0 || (r.mirror && r.mset = 0) then max m (r.frame0 + r.frames) else m) 0

/-- Check 0x0108 (R322): the context area has room above the frames of set 0 that ranges take (entry 76). -/
def checkContext (c : Comp) (rs : List Range) (desc : Desc) (s : State) : Option Bad :=
  if !c.seats.any (fun x => x.sliced) then none
  else match c.sets.find? (fun e => e.1 == 0) with
    | some (_, st) => if decide (64 ≤ st.chans.headD 0) || decide (setFrames s st < topFrame rs + contextFrames c) then some (0x0108, desc.setAt 0) else none
    | none => some (0x0108, 0)

/-- A new shell of a composition. -/
def newShell (c : Comp) : Shell :=
  { comp := c, ranges := [], owns := c.sets.foldl (fun t e => tabPut e.1 ⟨0, 0, 0, 0, 0⟩ t) [], epoch := 0, oldEpoch := false, olds := [], flips := [], owed := [], rebind := none, arriving := []
    asks := [], seals := [], mirrors := [], discardPoison := false, hint := none, failed := false, rrQueue := 0, windowEnd := 0, created := none }

/-- The cdom a new shell takes: the one offered if it is free, else the lowest (R309). -/
def freeDom (pick : Nat) (s : State) : Option Nat :=
  let free := fun (d : Nat) => decide (1 ≤ d) && decide (d ≤ 511) && (shellOf d s).isNone
  if 368 ≤ s.shells.length then none else if free pick then some pick else (List.range 512).find? free

/-- The checks of a new shell, in order (R315): where a domain could not be had the last check fails. -/
def checkNew (d : Option Nat) (desc : Desc) (s : State) : Option Bad :=
  let c := desc.comp
  let id := d.getD 512
  (checkReserved desc).or <| (checkFields desc s).or <| (checkCores desc s).or <| (checkPlans id (newShell c) desc s).or <|
    (checkChans 512 [] desc s).or <| (checkCapacity id c desc s).or <| (checkContext c [] desc s).or (if d.isNone then some (0x0109, 0) else none)

/-! ### Re-bindings (R329, R330, R334) -/

/-- A set carries a mapped range, or one that a map on its way will add. -/
def setMapped (sh : Shell) (i : Nat) : Bool :=
  sh.ranges.any (fun e => e.2.set == i || (e.2.mirror && e.2.mset == i)) ||
  sh.flips.any (fun f => match f.2 with | .map _ r _ => r.set == i || (r.mirror && r.mset == i) | _ => false)

/-- A set in a hand-over (R393). -/
def inHandover (sh : Shell) (i : Nat) : Bool :=
  (match tabFind i sh.owns with | some o => o.hstate == 1 | none => false) ||
  sh.flips.any (fun f => match f.2 with | .release _ k _ => k == i | .acquire _ _ k _ => k == i | _ => false)

/-- Puts a new channel at the place of the one it replaces (R313). -/
def replaceChan (l : List Nat) (o n : Nat) : List Nat := l.map (fun c => if c = o then n else c)

/-- A retired page's frames on a channel: the lines that have a byte in its row (10 R300). -/
def retiredLines (s : State) (ch : Nat) : List Nat :=
  (s.dev.devsec.pages.filter (fun a => dpaChan a == ch)).flatMap (fun a =>
    let p := dpaPlace s a
    let q0 := dpaLine a
    if ch < 64 then [q0 / 128 * 128 + q0 % 64, q0 / 128 * 128 + 64 + q0 % 64]
    else (List.range 9).filterMap (fun i =>
      let j := q0 / 16 + i - 4
      if q0 / 16 + i < 4 then none
      else if 640 * j < 2048 * (p.2.1 + 1) && 2048 * p.2.1 < 640 * j + 640 then some (16 * j + (p.1 ^^^ (j % 16))) else none))

/-- Frames of a set that hold a retired line (10 R300). -/
def badFrames (s : State) (st : ChSet) : List Nat :=
  let c := st.data.length
  st.data.zipIdx.flatMap (fun e => (retiredLines s e.1).map (fun q =>
    let fold := (q ^^^ (q / 2 ^ 5) ^^^ (q / 2 ^ 10) ^^^ (q / 2 ^ 15) ^^^ (q / 2 ^ 20)) % 32
    (q * c + (e.2 + c - fold % c) % c) / 4096))

/-- Two lists name the same channels. -/
def sameChans (a b : List Nat) : Bool := a.length == b.length && a.all (fun c => b.contains c)

/-- Channel list of a set under a re-binding (R313, R329): its list stays, one channel of it may change, which takes the place of the one it replaces, and a set
without a mapped range may change freely. With it the substitution that has lines to copy; none where R329 is broken. -/
def rebindSet (sh : Shell) (i : Nat) (new : ChSet) (s : State) : Option (ChSet × Option (Nat × Nat × Nat)) :=
  match setOf sh i with
  | none => some (new, none)
  | some old =>
    let gone := old.chans.filter (fun c => !new.chans.contains c)
    let come := new.chans.filter (fun c => !old.chans.contains c)
    let kept := old.coded == new.coded && old.qLim == new.qLim && old.chans.length == new.chans.length
    if kept && sameChans old.data new.data && sameChans old.chans new.chans then some ({ new with chans := old.chans }, none)
    else
      let free := if setMapped sh i then none else some (new, none)
      match gone, come with
      | [o], [n] =>
        let st := { new with chans := replaceChan old.chans o n }
        if !kept || decide (o < 64) != decide (n < 64) || !sameChans st.data new.data then free
        else if !setMapped sh i then some (st, none)
        else
          let bad := badFrames s st
          let hit := sh.ranges.any (fun e => (e.2.set == i || (e.2.mirror && e.2.mset == i)) && bad.any (fun f => decide (e.2.frame0 ≤ f) && decide (f < e.2.frame0 + e.2.frames)))
          if hit then none else some (st, some (i, o, n))
      | _, _ => free

/-- The composition that a re-binding makes of a descriptor, with its substitution; none where R329 is broken. -/
def rebindComp (sh : Shell) (c : Comp) (s : State) : Option (Comp × Option (Nat × Nat × Nat)) :=
  let lost := sh.comp.sets.any (fun e => setMapped sh e.1 && !c.sets.any (fun f => f.1 == e.1))
  if lost then none
  else
    let r := c.sets.foldl (fun (a : Option (List (Nat × ChSet) × List (Nat × Nat × Nat))) e =>
      match a, rebindSet sh e.1 e.2 s with
      | some (l, m), some (st, x) => some (l ++ [(e.1, st)], m ++ x.toList)
      | _, _ => none) (some ([], []))
    match r with
    | some (l, m) => if 1 < m.length then none else some ({ c with sets := l }, m.head?)
    | none => none

/-- T_rb in 10 ns (R334): the slowest moved seat, and the slowest written-back way, at the lower of old and new shares. -/
def rebindTime (sh : Shell) (c : Comp) (s : State) : Nat :=
  let low := fun (h : Hop) => let a := shareOf s sh.comp h; let b := shareOf s c h; if b.1 * a.2 < a.1 * b.2 then b else a
  let move := (movesOf sh.comp c).foldl (fun m x =>
    let hops := (pathOf (halfOf s x.2.1) (halfOf s x.2.2)).1
    max m (hops.foldl (fun t h => let b := low h; max t (ceilDiv (Config.contextBytes * 100 * b.2) b.1)) 0 + Config.us 1)) 0
  let way := sh.comp.halves.foldl (fun m g =>
    let new := (c.halves.filter (fun x => x.half == g.half)).foldl (fun n x => n + x.ways) 0
    if new < g.ways then max m (ceilDiv (1048576 * 100) (g.ucie * 10000)) else m) 0
  Config.us 10 + Config.us 100 + move + way

/-- The first stroke at least 2 ahead in which windows of both compositions open (R329, R331). -/
def firstFlip (old new : Comp) (s : State) : Option Nat :=
  ((List.range (64 * 64)).find? (fun i => let f := (s.stroke.count + 2 + i) % 2 ^ 48; f % old.k == old.o && f % new.k == new.o)).map (fun i => (s.stroke.count + 2 + i) % 2 ^ 48)

/-- Check 0x010A. -/
def checkRules (sh : Shell) (c : Comp) (s : State) : Option Bad :=
  let early := match firstFlip sh.comp c s, s.stroke.pend with
    | none, _ => true
    | some f, some (t, _) => decide (strokesTo s.stroke.count t ≤ strokesTo s.stroke.count f)
    | some _, none => false
  if (rebindComp sh c s).isNone || early || decide (Config.ms 8 < rebindTime sh c s) then some (0x010A, 0) else none

/-- Ranges that waiting changes add. -/
def rangesComing (sh : Shell) : List Range := sh.flips.flatMap (fun f => match f.2 with | .map _ r _ => [r] | .restore rs => rs | _ => [])

/-- The checks of a re-binding, in order. -/
def checkRebind (d : Nat) (sh : Shell) (desc : Desc) (s : State) : Option Bad :=
  let c := desc.comp
  let own := sh.comp.sets.flatMap (fun e => e.2.chans)
  (checkReserved desc).or <| (checkFields desc s).or <| (checkCores desc s).or <| (checkPlans d { sh with comp := c } desc s).or <|
    (checkChans d own desc s).or <| (checkCapacity d c desc s).or <| (checkContext c (sh.ranges.map (fun e => e.2) ++ rangesComing sh) desc s).or (checkRules sh c s)

end Sys2Proof.Machine
end

