-- ==== Sys2Proof/Machine/ThreadMem.lean ====
section
/-! DEFINITION. Memory instructions of thread groups (07 R196..R205, R212; 08): addresses, checks, loads, stores, atomics, fences, copies and
counters, and what comes back later (ACCESS_RESPONSE, COPY_SECTOR_DONE). -/
namespace Sys2Proof.Machine

/-! ### Addresses and checks -/

/-- The address of a load or store in a lane, before any check (R196). -/
def memAddr (g : Group) (lane : Nat) (m : MemOp) : Nat :=
  let ix := rdR g lane m.idx
  if m.glob then
    let i : Int := if m.isx then ix.toInt else (ix.toNat : Nat)
    unsigned 64 ((rdWide g lane m.base 2 : Nat) + i * 2 ^ m.scale + m.off.toInt)
  else unsigned 32 (((rdR g lane m.base).toNat : Int) + (ix.toNat * 2 ^ m.scale : Nat) + m.off.toInt)

/-- Bytes of a width code (T7-6). -/
def widthBytes (w : Nat) : Nat := 2 ^ w

/-- The running command's map of graph seats (R216). -/
def seatMapOf (cmd : Nat) (s : State) : List Nat :=
  match cmdOf cmd s with
  | some c => (match cmdGraph c s with | some g => g.seatMap | none => [])
  | none => []

/-- Where a group's shell address is performed; bits above 47 make it unmapped (R196). -/
def groupLoc (g : Group) (a : Nat) (s : State) : Loc := if 2 ^ 48 ≤ a then .unmapped else locate g.cdom (seatMapOf g.cmd s) a s

/-- The command of a group is guaranteed now (R38, R68). -/
def groupGuar (g : Group) (s : State) : Bool := match cmdOf g.cmd s with | some c => c.guarNow | none => false

/-- One lane's access. -/
structure Acc where
  lane : Nat
  addr : Nat
  loc  : Loc
  deriving DecidableEq, Repr

/-- What an access does: 0 load, 1 store, 2 atomic. -/
def accFail (guar : Bool) (kind align : Nat) (local' : Bool) (code : Nat) (a : Acc) : Bool :=
  match code with
  | 0x07 => a.addr % align != 0
  | 0x11 => local' && decide (Config.threadArea ≤ a.addr)
  | 0x06 => !local' && a.loc == .unmapped
  | 0x12 => (match a.loc with | .mem _ wr _ => kind != 0 && !wr | _ => false)
  | 0x13 => (match a.loc with | .host _ => guar | _ => false)
  | _ => (match a.loc with | .host _ => kind == 2 | _ => false)

/-- The first check of T7-15 that a lane fails: code, lowest lane, address (R212). -/
def firstFail (guar : Bool) (kind align : Nat) (local' : Bool) (as : List Acc) : List Nat → Option (Nat × Nat × Nat)
  | [] => none
  | c :: cs =>
    match as.find? (fun a => accFail guar kind align local' c a) with
    | some a => some (c, a.lane, a.addr)
    | none => firstFail guar kind align local' as cs

/-- The checks of T7-15 in order. -/
def checkOrder : List Nat := [0x07, 0x11, 0x06, 0x12, 0x13, 0x14]

/-- An acquire whose read has not returned holds every later access of the group (R226). -/
def acqHeld (g : Group) : Bool := g.far.any (fun f => f.acq != 0)

/-- Half of a core's caching agent. -/
def issHalf (i : Iss) (s : State) : Nat := halfOf s i.core

/-- Stores of a group to peers that are not acknowledged, or that its core holds back (R225; 15 R434). -/
def awayWrites (i : Iss) (s : State) : Bool :=
  s.rreqs.any (fun e => match e.2.wait with | .store c k _ _ => c == i.core && k == i.slot | _ => false) ||
  (coreOf i.core s).held.any (fun h => match h.what with | .store _ k _ _ _ _ _ => k == i.slot | _ => false)

/-- A release at a scope must wait (R225, R228): for the group's outstanding loads and atomics and its writes that are away, at device and system scope
also for its shell's stores that still wait in the half, and for what its core holds back. -/
def relHeld (i : Iss) (scope : Nat) (g : Group) (s : State) : Bool :=
  !g.far.isEmpty || awayWrites i s || (decide (2 ≤ scope) && (storesWait (issHalf i s) g.cdom s || !(coreOf i.core s).held.isEmpty))

/-- Two places in one 16-byte unit (R220). -/
def oneUnit (a b : Loc) : Bool :=
  match a, b with
  | .mem x _ _, .mem y _ _ => x / 16 == y / 16
  | .peer d x, .peer e y => d == e && x / 16 == y / 16
  | _, _ => false

/-- An access is held behind the group's own earlier ones to its unit (R221): anything behind an outstanding atomic, and behind a store that its core
holds back or that a peer has not acknowledged; a store or an atomic behind an outstanding load too; an atomic behind a store that waits in the half. `kind`
as in `accFail`. -/
def unitHeld (i : Iss) (g : Group) (kind : Nat) (a : Acc) (s : State) : Bool :=
  g.far.any (fun f => (kind != 0 || f.kind != 0) && f.items.any (fun it => it.got.isNone && !it.err && oneUnit it.loc a.loc)) ||
  (match a.loc with | .peer d x => s.rreqs.any (fun e => e.2.dev == d && e.2.off / 16 == x / 16 && (match e.2.wait with | .store c k _ _ => c == i.core && k == i.slot | _ => false)) | _ => false) ||
  (coreOf i.core s).held.any (fun h => match h.what with | .store _ k _ _ b _ _ => kind != 1 && k == i.slot && b / 16 == a.addr / 16 | _ => false) ||
  (match a.loc with | .mem x _ _ => kind == 2 && (match missOf (issHalf i s) (x / 512) s with | some m => !m.cells.isEmpty || m.push | none => false) | _ => false)

/-- An acquire at device or system scope drops the shell's N lines in the half (R226). -/
def acqDrop (i : Iss) (scope : Nat) (g : Group) (s : State) : State := if 2 ≤ scope then dropAllN (issHalf i s) g.cdom s else s

/-- Value of a load of `n` bytes: zero- or sign-extended to its words (R197). -/
def loadValue (n : Nat) (sx : Bool) (bs : List Byte) : Nat :=
  let v := leNat bs
  if sx then unsigned 32 (signed (8 * n) v) else v

/-- PASID of a group's tenant (R326). -/
def groupPasid (g : Group) (s : State) : Nat :=
  match cmdOf g.cmd s with
  | some c => (match tabFind c.tenant s.tenants with | some t => t.pasid | none => 0)
  | none => 0

/-- Tenant of a group's command. -/
def groupTenant (g : Group) (s : State) : Nat := match cmdOf g.cmd s with | some c => c.tenant | none => 0

/-! ### LD -/

/-- Begins one lane's far load: hits and scratchpad windows answer now, the rest later (T9-2, R217, R218). A miss takes a miss register where one is free
(R280). -/
def startLoad (i : Iss) (g : Group) (acq : Bool) (len ix : Nat) (r : State × List FarItem) (a : Acc) : State × List FarItem :=
  let s := r.1
  let mk := fun (got : Option (List Byte)) (err : Bool) => FarItem.mk a.lane a.addr a.loc len got err
  match a.loc with
  | .mem dpa _ st =>
    if g.cdom ∈ s.coh.failing then (s, r.2 ++ [mk none true])
    else
    (match halfHit (issHalf i s) g.cdom dpa len acq st s with
    | some (bs, bad) => (noteHit (issHalf i s) dpa len g.cdom s, r.2 ++ [mk (some bs) bad])
    | none => (if missRoom (issHalf i s) (dpa / 512) g.cdom s then askFill (issHalf i s) dpa g.cdom acq st s else s, r.2 ++ [mk none false]))
  | .spad core off =>
    let d := spadRead core off len s
    (logSpad core off len g.cdom s, r.2 ++ [mk (some d.1) (!d.2.1)])
  | .host h => if s.host.lost then (s, r.2 ++ [mk none true]) else (emit (.hostRead (groupPasid g s) h len) s, r.2 ++ [mk none false])
  | .peer dev off =>
    (match sendReq g.cdom dev kRead (groupTenant g s) 0 0 off len [] (.thread i.core i.slot (pcOf g) ix) s with
    | some s => (s, r.2 ++ [mk none false])
    | none => (s, r.2 ++ [mk none true]))
  | _ => (s, r.2 ++ [mk none true])

/-- Begins the lanes in ascending order. -/
def startLoads (i : Iss) (g : Group) (acq : Bool) (len : Nat) (as : List Acc) (s : State) : State × List FarItem :=
  as.zipIdx.foldl (fun r x => startLoad i g acq len x.2 r x.1) (s, [])

/-- A load may start: none of its lines misses, or a miss finds a register; lines beyond the free registers are asked for as registers come free
(R280). -/
def missesFit (i : Iss) (g : Group) (acq : Bool) (len : Nat) (as : List Acc) (s : State) : Bool :=
  let h := issHalf i s
  let lines := as.filterMap (fun a => match a.loc with
    | .mem d _ st => if (halfHit h g.cdom d len acq st s).isSome then none else some (d / 512)
    | _ => none)
  lines.isEmpty || lines.any (fun l => missRoom h l g.cdom s)

/-- A LOCAL load: performed at once; an uncorrectable word parks the group and writes nothing (R212). -/
def loadLocal (c : Instr) (d : Sel) (m : MemOp) (g : Group) (as : List Acc) (s : State) : State :=
  let i := issOf c
  let n := widthBytes m.width
  let s := as.foldl (fun s a => logSpad i.core a.addr n g.cdom s) s
  match as.find? (fun a => !(spadRead i.core a.addr n s).2.1) with
  | some a => parkAt i 0x05 a.lane a.addr s
  | none =>
    let g := as.foldl (fun g a => wrWide a.lane d (loadValue n m.sx (spadRead i.core a.addr n s).1) (widthWords m.width) g) g
    setIssued i (advance1 g) s

/-- LD (R196, R197, R212). -/
def execLd (i : Iss) (d : Sel) (m : MemOp) (s : State) : Res :=
  match ready (.ld i d m) s with
  | none => .next s
  | some g =>
    let ls := effLanes [d, m.base, m.idx] (votingLanes g i)
    let n := widthBytes m.width
    let as := ls.map (fun l => let a := memAddr g l m; Acc.mk l a (if m.glob then groupLoc g a s else .spad i.core a))
    if acqHeld g then .next s
    else
      match firstFail (groupGuar g s) 0 n (!m.glob) as checkOrder with
      | some (code, lane, addr) => .next (parkAt i code lane (addr % 2 ^ 48) s)
      | none =>
        let s := if m.order = 1 && !ls.isEmpty then acqDrop i m.scope g s else s
        if !m.glob then .next (loadLocal (.ld i d m) d m g as s)
        else if ls.isEmpty then .next (setIssued i (advance1 g) s)
        else if as.any (fun a => unitHeld i g 0 a s) || !missesFit i g (m.order == 1) n as s then .next s
        else
          let r := startLoads i g (m.order == 1) n as s
          let f : FarReq := { pc := pcOf g, kind := 0, dst := d, words := widthWords m.width, width := n, sx := m.sx, ret := true, pst := 7, psa := 7, acq := (if m.order = 1 then (if 2 ≤ m.scope then 2 else 1) else 0), epoch := epochOf g.cdom s, items := r.2 }
          .next (setIssued i (advance1 { g with far := g.far ++ [f] }) r.1)

/-! ### ST -/

/-- Performs one lane's store; the mark says that an error response came back. -/
def storeOne (i : Iss) (g : Group) (relaxed : Bool) (r : State × Option Acc) (x : Acc × List Byte) : State × Option Acc :=
  let s := r.1
  let a := x.1
  let bad := match r.2 with | some b => some b | none => some a
  let own := match a.loc with | .spad c _ => c == i.core | _ => false
  if !own && isPrimary i.core s then (holdItem i.core a.addr x.2 none (.store g.cmd i.slot (pcOf g) a.lane a.addr relaxed x.2) s, r.2)
  else
  match a.loc with
  | .mem dpa _ _ =>
    if g.cdom ∈ s.coh.failing then (s, bad)
    else (storeLine (issHalf i s) (dpa / 512) g.cdom (i.core, i.slot, pcOf g, a.lane, a.addr) (cellsOf (dpa % 512) x.2) s, r.2)
  | .spad core off => (spadWrite core off x.2 s, r.2)
  | .host h => if s.host.lost then r else (emit (.hostWrite (groupPasid g s) h x.2 relaxed) s, r.2)
  | .peer dev off =>
    (match sendReq g.cdom dev kWrite (groupTenant g s) 0 0 off x.2.length x.2 (.store i.core i.slot (pcOf g) a.lane) s with
    | some s => (s, r.2)
    | none => (s, bad))
  | _ => (s, bad)

/-- A lane's store can be performed now: its line is open, and is owned or has a miss register (R250, R280). -/
def storeFits (i : Iss) (g : Group) (a : Acc) (s : State) : Bool :=
  let h := issHalf i s
  match a.loc with
  | .mem d _ _ =>
    storeOpen h (d / 512) s && (missRoom h (d / 512) g.cdom s || (match clineOf h (d / 512) s with | some c => c.cdom == g.cdom && (c.st == .M || c.st == .E) | none => false))
  | _ => true

/-- Stores lanes in order while they find registers: the lanes done, and what `storeOne` gives. -/
def storeRun (i : Iss) (g : Group) (relaxed : Bool) : List (Acc × List Byte) → List Nat × (State × Option Acc) → List Nat × (State × Option Acc)
  | [], r => r
  | x :: xs, r =>
    if unitHeld i g 1 x.1 r.2.1 || !storeFits i g x.1 r.2.1 then r else storeRun i g relaxed xs (r.1 ++ [x.1.lane], storeOne i g relaxed r.2 x)

/-- ST (R196, R197, R212); lanes store in ascending order, so the highest lane's byte stands (R188); while miss registers are short the rest
waits at the same instruction (09 R280). A retired store is progress (R164). -/
def execSt (i : Iss) (d : Sel) (m : MemOp) (s : State) : Res :=
  match ready (.st i d m) s with
  | none => .next s
  | some g =>
    let ls := effLanes [d, m.base, m.idx] (votingLanes g i)
    let left := ls.filter (fun l => !g.part.contains l)
    let n := widthBytes m.width
    let as := left.map (fun l => let a := memAddr g l m; Acc.mk l a (if m.glob then groupLoc g a s else .spad i.core a))
    if acqHeld g then .next s
    else
      match (if g.part.isEmpty then firstFail (groupGuar g s) 1 n (!m.glob) as checkOrder else none) with
      | some (code, lane, addr) => .next (parkAt i code lane (addr % 2 ^ 48) s)
      | none =>
        if ls.isEmpty then .next (setIssued i (advance1 g) s)
        else if m.order = 2 && relHeld i m.scope g s then .next s
        else
          let relaxed := !(g.strict || (m.order = 2 && m.scope = 3))
          let xs := as.map (fun a => (a, leBytes (rdWide g a.lane d (widthWords m.width)) n))
          let r := storeRun i g relaxed xs (g.part, (s, none))
          let hostly := as.any (fun a => match a.loc with | .host _ => true | _ => false)
          match r.2.2 with
          | some a => .next (parkAt i 0x05 a.lane (a.addr % 2 ^ 48) (setGroup i.core i.slot { g with part := [] } r.2.1))
          | none =>
            if r.1.length < ls.length then .next (if r.1 = g.part then s else setGroup i.core i.slot { g with part := r.1 } r.2.1)
            else .next (setIssued i { advance1 { g with part := [] } with stall := 0, strict := g.strict && !hostly } r.2.1)

/-! ### ATOM and ADDX -/

/-- The new value of an ATOM (T7-14) on `n` bytes. -/
def atomNew (aop n old s1 s2 : Nat) : Nat :=
  let w := 8 * n
  let sg := fun v => signed w v
  match aop with
  | 0 => (old + s1) % 2 ^ w
  | 1 => (fadd (BitVec.ofNat 32 old) (BitVec.ofNat 32 s1)).toNat
  | 2 => if sg s1 < sg old then s1 else old
  | 3 => if sg old < sg s1 then s1 else old
  | 4 => min old s1
  | 5 => max old s1
  | 6 => old &&& s1
  | 7 => old ||| s1
  | 8 => old ^^^ s1
  | 9 => s1
  | _ => if old = s2 then s1 else old

/-- An operation on the old value of its cell: the new value, sticky, saturation (R144, R200). -/
def atomApply (a : AtomReq) (old : Nat) : Nat × Bool × Bool :=
  if a.kind = 0 then (atomNew a.aop a.len old a.s1 a.s2, false, false)
  else if a.kind = 1 then addxCell old (ofPat128 a.s1, false)
  else addxCell old (contrib32 (BitVec.ofNat 32 a.s1) a.anchor)

/-- What an atomic returns to its requester as bytes: the old value, sticky, saturation, and whether memory changed (05 R144; 06 R164). -/
def atomGot (a : AtomReq) (old : Nat) (r : Nat × Bool × Bool) : List Byte := leBytes old a.len ++ [BitVec.ofNat 8 (b2n r.2.1), BitVec.ofNat 8 (b2n r.2.2), BitVec.ofNat 8 (b2n (r.1 != old))]

/-- Performs an atomic at a scratchpad's window port (T8-4): what it returns, good. -/
def atomSpad (core off cdom : Nat) (a : AtomReq) (s : State) : List Byte × Bool × State :=
  let d := spadRead core off a.len s
  let s := logSpad core off a.len cdom s
  if !d.2.1 then ([], false, s)
  else
    let old := leNat d.1
    let r := atomApply a old
    (atomGot a old r, true, spadWrite core off (leBytes r.1 a.len) s)

/-- `sub` of a remote atomic: aop [3:0], w64 [4], ret [5] (T14-3; entry 34). -/
def atomSub (aop : Nat) (w64 ret : Bool) : Nat := aop + 16 * b2n w64 + 32 * b2n ret

/-- `sub` of a remote ADDX: anchor [9:0], ret [14], ADDX.F [15] (T14-3; entry 34). -/
def addxSub (anchor : Int) (isF ret : Bool) : Nat := unsigned 10 anchor + 16384 * b2n ret + 32768 * b2n isF

/-- Starts one lane's atomic. -/
def startAtom (i : Iss) (g : Group) (ret : Bool) (req : Nat → Nat → AtomReq) (r : State × List FarItem) (x : Acc × Nat) : State × List FarItem :=
  let s := r.1
  let a := x.1
  let q := req a.lane x.2
  let mk := fun (got : Option (List Byte)) (err : Bool) => FarItem.mk a.lane a.addr a.loc q.len got err
  match a.loc with
  | .mem dpa _ _ =>
    if g.cdom ∈ s.coh.failing then (s, r.2 ++ [mk none true])
    else
      let l := dpa / 512
      if isPrimary i.core s then (holdItem i.core a.addr (leBytes q.s1 q.len) none (.atom l { q with dpa := dpa }) s, r.2 ++ [mk none false])
      else
      (pushAtom l { q with dpa := dpa } s, r.2 ++ [mk none false])
  | .spad core off =>
    let p := atomSpad core off g.cdom q s
    (p.2.2, r.2 ++ [mk (some p.1) (!p.2.1)])
  | .peer dev off =>
    let isF := q.kind == 2
    let sub := if q.kind = 0 then atomSub q.aop (q.len == 8) ret else addxSub q.anchor isF ret
    let data := if q.kind = 0 then leBytes q.s1 8 ++ leBytes q.s2 8 else if isF then leBytes q.s1 4 else leBytes q.s1 16
    (match sendReq g.cdom dev (if q.kind = 0 then kAtom else kAddx) (groupTenant g s) sub 0 off q.len data (.thread i.core i.slot (pcOf g) x.2) s with
    | some s => (s, r.2 ++ [mk none false])
    | none => (s, r.2 ++ [mk none true]))
  | _ => (s, r.2 ++ [mk none true])

/-- An ATOM or ADDX: checks, then every lane in ascending order (R188, R200, R201, R212). -/
def atomic (c : Instr) (o : AtomOp) (kind align words pst psa : Nat) (ops : List Sel) (req : Group → Nat → Nat → AtomReq) (s : State) : Res :=
  let i := issOf c
  match ready c s with
  | none => .next s
  | some g =>
    let ls := effLanes ops (votingLanes g i)
    let as := ls.map (fun l => let a := rdWide g l o.base 2; Acc.mk l a (groupLoc g a s))
    if acqHeld g then .next s
    else
      match firstFail (groupGuar g s) 2 align false as checkOrder with
      | some (code, lane, addr) => .next (parkAt i code lane (addr % 2 ^ 48) s)
      | none =>
        if ls.isEmpty then .next (setIssued i (advance1 g) s)
        else if (decide (2 ≤ o.order) && relHeld i o.scope g s) || as.any (fun a => unitHeld i g 2 a s) then .next s
        else
          let acq := o.order == 1 || o.order == 3
          let s := if acq then acqDrop i o.scope g s else s
          let r := as.zipIdx.foldl (startAtom i g o.ret (req g)) (s, [])
          let f : FarReq := { pc := pcOf g, kind := kind, dst := o.d, words := words, width := align, sx := false, ret := o.ret, pst := pst, psa := psa, acq := (if acq then (if 2 ≤ o.scope then 2 else 1) else 0), epoch := epochOf g.cdom s, items := r.2 }
          .next (setIssued i (advance1 { g with far := g.far ++ [f] }) r.1)

/-- ATOM (R200). -/
def execAtom (i : Iss) (a : AtomOp) (w64 : Bool) (aop : Nat) (s : State) : Res :=
  let n := if w64 then 8 else 4
  let w := if w64 then 2 else 1
  atomic (.atom i a w64 aop) a 1 n w 7 7 [a.d, a.base, a.s1, a.s2] (fun g l ix =>
    { by' := .thread i.core i.slot (pcOf g) ix, cdom := g.cdom, after := 0, dpa := 0, kind := 0, aop := aop, len := n, s1 := rdWide g l a.s1 w, s2 := rdWide g l a.s2 w, anchor := 0 }) s

/-- Predicates that an ADDX writes; p7 discards and names none (entry 28). -/
def predSels (pst psa : Nat) : List Sel := ([pst, psa].filter (fun n => n != 7)).map Sel.p

/-- ADDX.I (R201). -/
def execAddxI (i : Iss) (a : AtomOp) (pst psa : Nat) (s : State) : Res :=
  atomic (.addxI i a pst psa) a 2 16 4 pst psa ([a.d, a.base, a.s1] ++ predSels pst psa) (fun g l ix =>
    { by' := .thread i.core i.slot (pcOf g) ix, cdom := g.cdom, after := 0, dpa := 0, kind := 1, aop := 0, len := 16, s1 := rdWide g l a.s1 4, s2 := 0, anchor := 0 }) s

/-- ADDX.F (R201): the anchor is bits [9:0] of `s2`, signed. -/
def execAddxF (i : Iss) (a : AtomOp) (pst psa : Nat) (s : State) : Res :=
  atomic (.addxF i a pst psa) a 2 16 4 pst psa ([a.d, a.base, a.s1, a.s2] ++ predSels pst psa) (fun g l ix =>
    { by' := .thread i.core i.slot (pcOf g) ix, cdom := g.cdom, after := 0, dpa := 0, kind := 2, aop := 0, len := 16, s1 := (rdR g l a.s1).toNat, s2 := 0, anchor := signed 10 (rdR g l a.s2).toNat }) s

/-! ### ACCESS_RESPONSE -/

/-- Items of a request with the host's bytes put in, in lane order. -/
def withHost (ext : Ext) (its : List FarItem) : List FarItem :=
  (its.foldl (fun r it => match it.loc, it.got with
    | .host _, none => (r.1.drop it.len, r.2 ++ [if ext.err = 0 && decide (it.len ≤ r.1.length) then { it with got := some (r.1.take it.len) } else { it with err := true }])
    | _, _ => (r.1, r.2 ++ [it])) (ext.data, ([] : List FarItem))).2

/-- A far item has what it waited for, or failed. -/
def FarItem.came (it : FarItem) : Bool := it.got.isSome || it.err

/-- Waiting loads whose line has no miss register are asked for again while registers are free (R280). -/
def reask (half : Nat) (cdom : Nat) (acq : Bool) (f : FarReq) (s : State) : State :=
  f.items.foldl (fun s it => match it.loc with
    | .mem dpa _ st =>
      if itemWaits (dpa / 512) f it && (missOf half (dpa / 512) s).isNone && missRoom half (dpa / 512) cdom s then
        wakeLoads half (dpa / 512) (askFill half dpa cdom acq st s)
      else s
    | _ => s) s

/-- Writes what an access returned into registers and predicates. -/
def landItems (f : FarReq) (vs : List (FarItem × List Byte)) (g : Group) : Group :=
  vs.foldl (fun g x =>
    let g := if f.ret then wrWide x.1.lane f.dst (if f.kind = 0 then loadValue f.width f.sx x.2 else leNat (x.2.take f.width)) f.words g else g
    if f.kind = 2 then wrP x.1.lane (.p f.psa) (decide (x.2.getD (f.width + 1) 0 ≠ 0)) (wrP x.1.lane (.p f.pst) (decide (x.2.getD f.width 0 ≠ 0)) g) else g) g

/-- ACCESS_RESPONSE (R212, R293): the oldest outstanding access of a group whose items have all come completes; an error parks the group with
BUS_ERROR and an LD then writes no register. An atomic that changed memory is progress (R164). `ext` is what the host answered. -/
def execAccessResponse (core slot : Nat) (ext : Ext) (s : State) : Res :=
  match groupOf core slot s with
  | none => .next s
  | some g =>
    let half := halfOf s core
    let hostIn := fun (f : FarReq) => if f.items.any (fun it => match it.loc with | .host _ => !it.came | _ => false) then withHost ext f.items else f.items
    match g.far.find? (fun f => (hostIn f).all FarItem.came) with
    | none => .next (g.far.foldl (fun s f => reask half g.cdom (f.acq != 0) f s) s)
    | some f =>
      let its := hostIn f
      let g := { g with far := g.far.erase f }
      let s := if f.acq = 2 then dropAllN half g.cdom s else s
      match its.find? (fun it => it.err) with
      | some it =>
        let s := setGroup core slot g s
        .next (if g.park.isSome then s else park core slot ⟨0x05, it.lane, f.pc, it.addr % 2 ^ 48⟩ s)
      | none =>
        let vs := its.filterMap (fun it => it.got.map (fun b => (it, b)))
        let g := landItems f vs g
        .next (setGroup core slot (if f.kind != 0 && vs.any (fun x => decide (x.2.getD (f.width + 2) 0 ≠ 0)) then { g with stall := 0 } else g) s)

/-! ### Fences -/

/-- MEMFENCE (R203, R228): kind 1 waits for earlier reads and drops N lines at wide scopes, kind 2 waits for
every earlier access, kind 3 does both. -/
def execMemfence (i : Iss) (scope kind : Nat) (s : State) : Res :=
  match ready (.memfence i scope kind) s with
  | none => .next s
  | some g =>
    if (votingLanes g i).isEmpty then .next (setIssued i (advance1 g) s)
    else
      let acq := kind == 1 || kind == 3
      let rel := decide (2 ≤ kind)
      if (acq && !g.far.isEmpty) || (rel && relHeld i scope g s) then .next s
      else
        let s := if acq then acqDrop i scope g s else s
        .next (setIssued i { advance1 g with strict := g.strict || (rel && scope == 3) } s)

/-! ### Copies and counters -/

/-- The one end of a copy that is the seat's own scratchpad: 1 source, 2 destination; 0 where not exactly one is (R204). -/
def ownEnd (core : Nat) (src dst : Loc) : Nat :=
  let own := fun (l : Loc) => match l with | .spad c _ => c == core | _ => false
  if own src && !own dst then 1 else if own dst && !own src then 2 else 0

/-- The core and offset whose window an address names, whether or not it can be accessed now. -/
def windowCore (g : Group) (a : Nat) (s : State) : Option Nat :=
  match shellOf g.cdom s with
  | none => none
  | some sh =>
    if 0x100000000000 ≤ a && a < 0x100008000000 then (match (seatMapOf g.cmd s)[(a - 0x100000000000) / 2 ^ 21]? with | some x => seatCore sh x | none => none)
    else if 0x110000000000 ≤ a && a < 0x110040000000 then seatCore sh ((a - 0x110000000000) / 2 ^ 21)
    else none

/-- CP.ASYNC (R167, R204): checks at issue are alignment, then the ends and the length; a 65th copy waits (R168). -/
def execCpAsync (i : Iss) (a b c : Sel) (sectors ctr : Nat) (s : State) : Res :=
  match ready (.cpAsync i a b c sectors ctr) s with
  | none => .next s
  | some g =>
    if (votingLanes g i).isEmpty then .next (setIssued i (advance1 g) s)
    else
      let src := rdWide g 0 a 2
      let dst := rdWide g 0 b 2
      let len := if c = .zero then 64 * sectors else (rdR g 0 c).toNat
      let own := fun x => windowCore g x s == some i.core
      let k := coreOf i.core s
      if src % 64 != 0 then .next (parkAt i 0x07 0 (src % 2 ^ 48) s)
      else if dst % 64 != 0 then .next (parkAt i 0x07 0 (dst % 2 ^ 48) s)
      else if own src == own dst then .next (parkAt i 0x15 0 0 s)
      else if len % 64 != 0 || decide (len < 64) || decide (2097152 < len) then .next (parkAt i 0x15 0 0 s)
      else if acqHeld g then .next s
      else if decide (64 ≤ k.copies.length) then .next s
      else
        let cp : Copy := { slot := i.slot, cmd := g.cmd, cdom := g.cdom, seat := g.seat, src := src, dst := dst, len := len, ctr := ctr, done := [], stopped := false }
        let s := setCore i.core { k with copies := tabPut k.nextCopy cp k.copies, nextCopy := k.nextCopy + 1 } s
        .next (setIssued i { advance1 g with stall := 0 } s)

/-- Releases the groups of a core whose CTR.WAIT a counter now satisfies; an increment is progress for every waiter on it (R164, R166). -/
def wakeCtr (core ctr : Nat) (inc : Bool) (s : State) : State :=
  let k := coreOf core s
  let on := fun (e : Nat × Group) => match e.2.ctrWait with | some (c, _) => c == ctr | none => false
  wakeCtrs core (setCore core { k with groups := k.groups.map (fun (e : Nat × Group) => if inc && on e then (e.1, { e.2 with stall := 0 }) else e) } s)

/-- Adds an arrival to a counter of a core. -/
def ctrAdd (core ctr : Nat) (s : State) : State :=
  let k := coreOf core s
  wakeCtr core ctr true (setCore core { k with ctr := tabSet 0 ctr (tabGet 0 ctr k.ctr + 1) k.ctr } s)

/-- CTR.SET (R166, R205). -/
def execCtrSet (i : Iss) (a : Sel) (ctr v : Nat) (s : State) : Res :=
  match ready (.ctrSet i a ctr v) s with
  | none => .next s
  | some g =>
    let s' := setIssued i (advance1 g) s
    if (votingLanes g i).isEmpty then .next s'
    else
      let x := if a = .zero then BitVec.ofNat 32 v else rdR g 0 a
      let k := coreOf i.core s'
      .next (wakeCtr i.core ctr false (setCore i.core { k with ctr := tabSet 0 ctr x k.ctr } s'))

/-- CTR.WAIT (R166, R205): holds the whole group until the counter has reached the value. -/
def execCtrWait (i : Iss) (a : Sel) (ctr v : Nat) (s : State) : Res :=
  match ready (.ctrWait i a ctr v) s with
  | none => .next s
  | some g =>
    let x := if a = .zero then BitVec.ofNat 32 v else rdR g 0 a
    if (votingLanes g i).isEmpty || ctrReached (tabGet 0 ctr (coreOf i.core s).ctr) x then .next (setIssued i (advance1 g) s)
    else .next (setIssued i { g with ctrWait := some (ctr, x) } s)

/-- CTR.RD (R205, R239): the counter's value at issue. -/
def execCtrRd (i : Iss) (d : Sel) (ctr : Nat) (s : State) : Res :=
  alu1 (.ctrRd i d ctr) d .zero (fun _ => tabGet 0 ctr (coreOf i.core s).ctr) s

/-! ### COPY_SECTOR_DONE -/

/-- A copy stops on an error: its issuing group parks with the code where it stands, resident or put aside, and R169 applies (R168; 07 R214). A group
that has left its slot parks with no instruction. -/
def copyFault (core id code addr : Nat) (cp : Copy) (s : State) : State :=
  let k := coreOf core s
  let s := setCore core { k with copies := tabPut id { cp with stopped := true } k.copies } s
  let rec' := fun (pc : Nat) => ParkRec.mk code 0 pc (addr % 2 ^ 48)
  match groupFor cp.cmd core cp.slot s with
  | some g => if g.park.isSome then s else parkOf cp.cmd core cp.slot (rec' (pcOf g)) s
  | none => parkOf cp.cmd core cp.slot (rec' 0) s

/-- A sector has been counted; with its last sector the copy leaves the engine. -/
def sectorDone (core id sector : Nat) (s : State) : State :=
  let k := coreOf core s
  match tabFind id k.copies with
  | none => s
  | some cp =>
    let d := if cp.done.contains sector then cp.done else cp.done ++ [sector]
    setCore core { k with copies := if cp.len / 64 ≤ d.length then tabDel id k.copies else tabPut id { cp with done := d } k.copies } s

/-- The 64 bytes of a copy's source sector: none while a peer's data is awaited; good. -/
def copyRead (core : Nat) (cp : Copy) (l : Loc) (ext : Ext) (s : State) : List Byte × Bool × State :=
  match l with
  | .mem dpa _ st => let d := bulkRead (halfOf s core) cp.cdom dpa 64 st s; (d.1, d.2.1, d.2.2.2)
  | .spad c off => let d := spadRead c off 64 s; (d.1, d.2.1, logSpad c off 64 cp.cdom s)
  | .host _ => (padTo 64 ext.data, ext.err == 0 && decide (64 ≤ ext.data.length) && !s.host.lost, s)
  | .peer _ _ => (padTo 64 ext.data, ext.err == 0 && decide (64 ≤ ext.data.length), s)
  | _ => ([], false, s)

/-- Group of a copy, for its tenant and windows. -/
def copyTenant (cp : Copy) (s : State) : Nat := match cmdOf cp.cmd s with | some c => c.tenant | none => 0

/-- COPY_SECTOR_DONE (R167, R168): one sector of a copy is read and written; the counter rises once it is visible (08 R238), so a
sector does not end while its line is busy at the home (09 R258); for a peer only when the peer has acknowledged it (R416). `ext` is what a host or peer source answered. -/
def execCopySectorDone (core copyId sector : Nat) (ext : Ext) (s : State) : Res :=
  match tabFind copyId (coreOf core s).copies with
  | none => .next s
  | some cp =>
    let asked := s.rreqs.any (fun e => e.2.wait == .copy core copyId sector) ||
      (coreOf core s).held.any (fun h => match h.what with | .sector c k _ _ => c == copyId && k == sector | _ => false)
    let busy := match (if 2 ^ 48 ≤ cp.dst + 64 * sector then Loc.unmapped else locate cp.cdom (seatMapOf cp.cmd s) (cp.dst + 64 * sector) s) with
      | .mem dpa _ _ => lineBusy (dpa / 512) s
      | _ => false
    let closed := match (if 2 ^ 48 ≤ cp.src + 64 * sector then Loc.unmapped else locate cp.cdom (seatMapOf cp.cmd s) (cp.src + 64 * sector) s) with
      | .mem dpa _ st => !bulkOpen (halfOf s core) cp.cdom dpa 64 st s
      | _ => false
    if cp.stopped || (coreOf core s).fenced || asked || busy || closed || cp.done.contains sector || decide (cp.len / 64 ≤ sector) then .next s
    else
      let sm := seatMapOf cp.cmd s
      let at' := fun x => if 2 ^ 48 ≤ x then Loc.unmapped else locate cp.cdom sm x s
      let sa := cp.src + 64 * sector
      let da := cp.dst + 64 * sector
      let guar := match cmdOf cp.cmd s with | some c => c.guarNow | none => false
      let hostly := fun (l : Loc) => match l with | .host _ => true | _ => false
      if at' sa == .unmapped then .next (copyFault core copyId 0x06 sa cp s)
      else if at' da == .unmapped then .next (copyFault core copyId 0x06 da cp s)
      else if (match at' da with | .mem _ wr _ => !wr | _ => false) then .next (copyFault core copyId 0x12 da cp s)
      else if guar && hostly (at' sa) then .next (copyFault core copyId 0x13 sa cp s)
      else if guar && hostly (at' da) then .next (copyFault core copyId 0x13 da cp s)
      else if at' sa == .bad then .next (copyFault core copyId 0x05 sa cp s)
      else if at' da == .bad then .next (copyFault core copyId 0x05 da cp s)
      else
        let r := copyRead core cp (at' sa) ext s
        let s := r.2.2
        let ownDst := match at' da with | .spad c _ => c == core | _ => false
        if !r.2.1 then .next (copyFault core copyId 0x05 sa cp s)
        else if !ownDst && isPrimary core s then .next (holdItem core da r.1 none (.sector copyId sector da r.1) s)
        else
          match at' da with
          | .mem dpa _ _ =>
            if cp.cdom ∈ s.coh.failing then .next (copyFault core copyId 0x05 da cp s)
            else .next (ctrAdd core cp.ctr (sectorDone core copyId sector (homePush (halfOf s core) cp.cdom dpa r.1 s)))
          | .spad c off => .next (ctrAdd c cp.ctr (sectorDone core copyId sector (spadWrite c off r.1 s)))
          | .host h =>
            if s.host.lost then .next (copyFault core copyId 0x05 da cp s)
            else
              let pasid := match tabFind (copyTenant cp s) s.tenants with | some t => t.pasid | none => 0
              .next (sectorDone core copyId sector (emit (.hostWrite pasid h r.1 true) s))
          | .peer dev off =>
            (match sendReq cp.cdom dev (if 0x700000000 ≤ off then kSector else kWrite) (copyTenant cp s) 0 cp.ctr off 64 r.1 (.copy core copyId sector) s with
            | some s => .next s
            | none => .next (copyFault core copyId 0x05 da cp s))
          | _ => .next s

end Sys2Proof.Machine
end

