-- ==== Sys2Proof/Machine/MemRows.lean ====
section
/-! DEFINITION. Memory controllers, homes and their errors (09, 10): reads that decode, retries, scrubs, mirrors, clearing, calibration, the atomic
unit. -/
namespace Sys2Proof.Machine

/-! ### Bus errors (10 R293) -/

/-- Marks a group's outstanding accesses to a word as failed; the group parks when they respond. -/
def failItems (core slot word : Nat) (s : State) : State :=
  match groupOf core slot s with
  | none => s
  | some g =>
    let hit := fun (it : FarItem) => match it.loc with | .mem d _ _ => decide (d / 8 ≤ word) && decide (word ≤ (d + it.len - 1) / 8) && it.got.isNone | _ => false
    setGroup core slot { g with far := g.far.map (fun f => { f with items := f.items.map (fun it => if hit it then { it with err := true } else it) }) } s

/-- A requester receives a bus error (R293). -/
def busError (req : Requester) (src word : Nat) (s : State) : State :=
  match req with
  | .thread core slot =>
    if src = 5 then
      (match groupOf core slot s with
      | some g => if g.park.isSome then s else park core slot ⟨0x05, 0, pcOf g, 8 * word⟩ s
      | none => s)
    else failItems core slot word s
  | .station cmd seat => stationFault (fun q _ => q == seat) cmd s
  | .copy core id => (match tabFind id (coreOf core s).copies with | some cp => copyFault core id 0x05 (8 * word) cp s | none => s)
  | .pcie => emit .poisonedCpl s
  | .hostCore k => emit (.busErr (.hostCore k)) s
  | .falnar l tag => answerRemote 3 (linkOf l s).partner tag kError 4 [] s

/-- The domain that a requester acts for (09 R273): PCIe and Falnar requests for the shell whose memory they read. -/
def reqDom (req : Requester) (dpa : Nat) (s : State) : Nat :=
  match req with
  | .thread core slot => (match groupOf core slot s with | some g => g.cdom | none => 0)
  | .station cmd _ => (match cmdOf cmd s with | some c => c.cdom | none => 0)
  | .copy core id => (match tabFind id (coreOf core s).copies with | some c => c.cdom | none => 0)
  | .hostCore _ => 0
  | .pcie | .falnar _ _ => (chanOwner (dpaChan dpa) s).getD 0

/-! ### Reads -/

/-- The key of a word of an SRAM array other than home cache and scratchpad: `unit` is the half, core, agent or 0. -/
def sramKey (src unit word : Nat) : Nat := if src = 4 || src = 7 then agentKey unit word else tagKey src unit word

/-- An ECC injection on an array whose writes are not followed word by word acts on the next word read there (entry 42). -/
def injectRead (src unit word : Nat) (s : State) : State :=
  injectWord 1 (src * 2 ^ 24 + (if src = 7 then unit - 16 else unit)) (sramKey src unit word) s

/-- A read of an SRAM array other than home cache and scratchpad decodes the word (R290). A die-cache or L2 word is a word of the agent's line; the
other arrays hold their words' error patterns only, and what a decode finds depends on nothing else (R289; entry 42). -/
def sramRead (req : Requester) (src unit word : Nat) (s : State) : State :=
  let s := injectRead src unit word s
  let dom := reqDom req (8 * word) s
  if src = 4 || src = 7 then
    match clineOf unit (word / 64) s with
    | none => s
    | some c =>
      let good := (lineDec unit (word / 64) c (word % 64) s).good
      let s := noteLineWord unit (word / 64) dom (word % 64) s
      if good then s else busError req src word s
  else
    let d := decodeEcc 0 (tagOf (sramKey src unit word) s)
    let s := logDec src (if src = 6 then dieOf unit else 0) (if src = 6 then unit else 0) dom (8 * word) d s
    if d.good then s else busError req src word s

/-- Performs a read of a word and what it finds (R290, R293, R294, R305; 11 R346). -/
def readWord (req : Requester) (src unit word : Nat) (s : State) : State :=
  if src ≤ 3 then
    let good := (homeWord word s).good
    let s := homeNote (reqDom req (8 * word) s) (8 * word) 8 s
    if good then s else busError req src word s
  else if src = 5 then
    let d := spadRead unit (8 * word) 8 s
    let s := logSpad unit (8 * word) 8 (reqDom req 0 s) s
    if d.2.1 then s else busError req src word s
  else sramRead req src unit word s

/-- DRAM_READ_RETURN (R290): nothing reads memory before the fill (R297); a channel under calibration holds the request (R306). `word` is the word's address divided by 8 in its array. -/
def execDramReadReturn (req : Requester) (src unit word : Nat) (s : State) : Res :=
  if src = 0 || 9 < src || (decide (src ≤ 3) && !memFilled s) then .next s
  else if src ≤ 2 && (chanOf (dpaChan (8 * word)) s).calib then
    .next { s with mem := { s.mem with held := s.mem.held ++ [(dpaChan (8 * word), req, word)] } }
  else .next (readWord req src unit word s)

/-- PCIE_COMPLETION_TIMEOUT (12 R348): a host read of 50 ms is a bus error for its requester. -/
def execPcieCompletionTimeout (req : Requester) (s : State) : Res :=
  match req with
  | .thread core slot =>
    (match groupOf core slot s with
    | some g => .next (setGroup core slot { g with far := g.far.map (fun f => { f with items := f.items.map (fun it => match it.loc with | .host _ => if it.got.isNone then { it with err := true } else it | _ => it) }) } s)
    | none => .next s)
  | .station cmd seat => .next (stationFault (fun q _ => q == seat) cmd s)
  | .copy core id => (match tabFind id (coreOf core s).copies with | some cp => .next (copyFault core id 0x05 cp.src cp s) | none => .next s)
  | _ => .next s

/-! ### Writes -/

/-- Stores a word as a controller does, leaving later part-word writes where they wait. -/
def chanPutWord (w v : Nat) (p : Bool) (s : State) : State :=
  let rest := s.mem.rmw
  let s := memPutWord w v p s
  { s with mem := { s.mem with rmw := rest } }

/-- Counts a read-merge-write (R291): a 64-bit count that holds at its maximum. -/
def countRmw (ch : Nat) (s : State) : State := let k := chanOf ch s; setChan ch { k with rmw := min (k.rmw + 1) (2 ^ 64 - 1) } s

/-- READ_MERGE_WRITE (R291): the first part-word write that waits for the word, or the one given; not while the channel calibrates (R306). -/
def execReadMergeWrite (dpa : Nat) (bytes : List Cell) (s : State) : Res :=
  let w := dpa / 8
  if decide (Config.tierSTop ≤ dpa) || (chanOf (dpaChan dpa) s).calib then .next s
  else
    let cells := match s.mem.rmw.find? (fun e => e.1 == w) with | some e => e.2 | none => bytes.filter (fun c => decide (c.1 < 8))
    let s := match s.mem.rmw.find? (fun e => e.1 == w) with | some e => { s with mem := { s.mem with rmw := s.mem.rmw.erase e } } | none => s
    let d := rawWord (8 * w) s
    let ch := dpaChan (8 * w)
    let src := if ch < 64 then 1 else 2
    let s := countRmw ch s
    let s := logDec src (if ch < 64 then ch else ch - 64) 0 ((chanOwner ch s).getD 0) (8 * w) d.moved s
    .next (if d.n = 3 then chanPutWord w 0 true s else chanPutWord w (mergeWord d.data cells) d.p s)

/-- A channel raises its drift alarm (R307): its retraining comes forward in the calendar (02 R62). -/
def raiseDrift (ch : Nat) (s : State) : State := setChan ch { chanOf ch s with drift := true } s

/-- MEM_TRANSFER_RETRY (R292, R307): `fails` transfers of an access fail; an injection adds its own. An event that R298 merges makes no record of its
own. A channel under calibration transfers nothing (R306). -/
def execMemTransferRetry (req : Requester) (isRead : Bool) (dpa fails : Nat) (s : State) : Res :=
  let ch := dpaChan dpa
  if (chanOf ch s).calib then .next s else
  let i := takeInj 3 ch s
  let n := match i.1 with | some x => max fails (bits x.pat 2 0) | none => fails
  let inj := i.1.map (fun x => x.num)
  let s := i.2
  let src := if ch < 64 then 1 else 2
  let unit := if ch < 64 then ch else ch - 64
  if n = 0 then .next s
  else if n < 4 then
    let before := s.flt.next
    let s := logMem src 4 unit 0 (reqDom req dpa s) (dpa / 8 * 8) 0 0x7F 0x7F false inj s
    let k := chanOf ch s
    let rs := (k.retries.filter (fun t => decide (s.now < t + Config.ms 100))) ++ (if s.flt.next = before then [] else [s.now])
    let s := setChan ch { k with retries := rs } s
    .next (if 2 ≤ n || 8 ≤ rs.length then raiseDrift ch s else s)
  else
    let s := raiseDrift ch s
    if isRead then
      match rescue (dpa / 8) s with
      | some v =>
        let s := logMem src 8 unit 0 (reqDom req dpa s) (dpa / 8 * 8) 0 0x7F 0x7F false inj s
        .next (if (mirrorOf (dpa / 8 * 8) s).isSome then memPutWord (dpa / 8) v false s else s)
      | none => .next (busError req src (dpa / 8) (logMem src 5 unit 0 (reqDom req dpa s) (dpa / 8 * 8) 0 0x7F 0x7F false inj s))
    else .next (loseChannel ch (logMem src 5 unit 0 (reqDom req dpa s) (dpa / 8 * 8) 0 0x7F 0x7F true inj s))

/-! ### Scrubbing (R295, R296) -/

/-- SCRUB (R295): one sector of a channel is read, decoded and its corrected words written back. -/
def execScrub (dpa : Nat) (s : State) : Res :=
  if decide (Config.tierSTop ≤ dpa) || (chanOf (dpaChan dpa) s).calib then .next s
  else
    let ch := dpaChan dpa
    let src := if ch < 64 then 1 else 2
    let unit := if ch < 64 then ch else ch - 64
    .next ((List.range 8).foldl (fun s i =>
      let w := dpa / 64 * 8 + i
      let d := rawWord (8 * w) s
      let note := fun (c : Nat) (s : State) => logMem src c unit 0 0x1FF (8 * w) d.syn d.bitA d.bitB false (injMark src 0 (8 * w) s) s
      if d.n = 0 then s
      else if d.n != 3 then note 6 (chanPutWord w d.data d.p s)
      else
        let h := hlineOf (w / 64) s
        let c := decodeEcc (leNat (memRead h.data (w % 64 * 8) 8)) (tagOf (homeKey w) s)
        if bit h.valid (w % 64) && c.n != 3 then note 6 (chanPutWord w c.data c.p s) else note 7 (chanPutWord w 0 true s)) s)

/-- CACHE_SCRUB (R296): a home-cache word (`src` 3) or a die-cache word (`src` 4). -/
def execCacheScrub (src unit word : Nat) (s : State) : Res :=
  if src = 3 then
    let h := hlineOf (word / 64) s
    if !bit h.valid (word % 64) then .next s
    else
      let d := decodeEcc (leNat (memRead h.data (word % 64 * 8) 8)) (tagOf (homeKey word) s)
      let note := fun (c : Nat) (s : State) => logMem 3 c 0 (dpaChan (8 * word)) 0x1FF (8 * word) d.syn d.bitA d.bitB false (injMark 3 0 (8 * word) s) s
      if d.n = 0 then .next s
      else if d.n != 3 then
        .next (note 6 (setTag (homeKey word) ⟨d.p, 0⟩ (setHLine (word / 64) { h with data := memWrite h.data (word % 64 * 8) (leBytes d.data 8) } s)))
      else if h.dirty = 0 then .next (note 2 (setHLine (word / 64) HLine.zero (dropHomeTags (word / 64) s)))
      else .next (note 2 s)
  else if src = 4 then
    match clineOf unit (word / 64) s with
    | none => .next s
    | some _ =>
      let s := injectRead 4 unit word s
      match clineOf unit (word / 64) s with
      | none => .next s
      | some c =>
        let k := agentKey unit word
        let d := decodeEcc (leNat (memRead c.data (word % 64 * 8) 8)) (tagOf k s)
        let note := fun (x : Nat) (s : State) => logMem 4 x (unit / 2) unit 0x1FF (8 * word) d.syn d.bitA d.bitB false (injMark 4 unit (8 * word) s) s
        if d.n = 0 then .next s
        else if d.n != 3 then .next (note 6 (setTag k ⟨false, 0⟩ (setCLine unit (word / 64) { c with data := memWrite c.data (word % 64 * 8) (leBytes d.data 8) } s)))
        else if c.st = .M then
          .next (note 2 (setTag k ⟨false, 0⟩ (setCLine unit (word / 64) { c with pois := if bit c.pois (word % 64) then c.pois else c.pois + 2 ^ (word % 64) } s)))
        else .next (note 2 (delCLine unit (word / 64) s))
  else .next s

/-! ### Mirrors and clearing -/

/-- The DPA of a set line. -/
def setLineDpa (st : ChSet) (l : Nat) : Nat := let cq := interleave st.data l; dpaOf cq.1 cq.2

/-- MIRROR_LINE_COPY (R304): one line, by its number in the set, copied at its home; the last line ends the build. Not while
a channel of the line calibrates (R306). -/
def execMirrorLineCopy (cdom range line : Nat) (s : State) : Res :=
  match shellOf cdom s with
  | none => .next s
  | some sh =>
    match sh.mirrors.find? (fun b => b.range == range), tabFind range sh.ranges with
    | some b, some r =>
      let lo := r.frame0 * 4096
      if line < lo || lo + r.frames * 4096 ≤ line || b.done.contains line then .next s
      else match setOf sh r.set, setOf sh r.mset with
        | some st, some ms =>
          let back := r.mirror && r.mirrorLost && r.side
          let a := setLineDpa (if back then ms else st) line
          let m := setLineDpa (if back then st else ms) line
          if (chanOf (dpaChan a) s).calib || (chanOf (dpaChan m) s).calib then .next s else
          let s := (List.range 64).foldl (fun s i =>
            let x := homeRead (a + 8 * i) 8 s
            if x.2.1 then memPutWord (m / 8 + i) (leNat x.1) false s else memPutWord (m / 8 + i) 0 true s) (homeNote cdom a 512 s)
          let done := b.done ++ [line]
          if done.length < r.frames * 4096 then
            .next (setShell cdom { sh with mirrors := sh.mirrors.map (fun x => if x.range = range then { x with done := done } else x) } s)
          else
            let outs := if r.mirror then [] else [r.frame0, range]
            let s := if back then (List.range (r.frames * 4096)).foldl (fun s i => let l := setLineDpa ms (lo + i) / 512; homeEvict l (recallAll l s)) s else s
            let sh := { sh with mirrors := sh.mirrors.filter (fun x => x.range != range), ranges := tabPut range { r with mirror := true, mirrorLost := false, side := false } sh.ranges }
            let s := setShell cdom sh s
            .next (match b.src with | some src => respond src stOK outs s | none => s)
        | _, _ => .next s
    | _, _ => .next s

/-- Zeroes every line of a channel (11 R323); no copy of its lines stays anywhere. -/
def zeroChan (ch : Nat) (s : State) : State :=
  let lo := dpaOf ch 0
  let n := if ch < 64 then 2 ^ 32 else 2 ^ 34
  let on := fun (l : Nat) => dpaChan (l * 512) == ch
  { s with
    mem := { s.mem with
      dram := memClear s.mem.dram lo (lo + n)
      tags := s.mem.tags.filter (fun e => !(decide (dramKey lo ≤ e.1) && decide (e.1 < dramKey lo + n / 8)))
      rmw := s.mem.rmw.filter (fun e => dpaChan (8 * e.1) != ch) }
    coh := { s.coh with
      home := s.coh.home.filter (fun e => !on e.1)
      dir := s.coh.dir.filter (fun e => !on e.1)
      lines := s.coh.lines.filter (fun e => !on (e.1 % 2 ^ 40))
      wbuf := s.coh.wbuf.filter (fun e => !on (e.1 % 2 ^ 40)) } }

/-- A shell whose channels are all cleared and whose ways are clean (R323) goes live and its creation answers (R315, 13 T13-2): `cdom`, then the plan positions of its sliced
seats, four to a word. -/
def creationDone (d : Nat) (s : State) : State :=
  match shellOf d s with
  | none => s
  | some sh =>
    match sh.created with
    | none => s
    | some src =>
      if !sh.asks.isEmpty || !waysClean d s || sh.comp.sets.any (fun e => !slicesClean e.2 s) || sh.comp.sets.any (fun e => e.2.chans.any (fun c => (chanOf c s).clearing)) then s
      else
        let pos := (sh.comp.seats.zipIdx.filter (fun x => x.1.sliced)).map (fun x =>
          match (coreOf x.1.core s).planNext with
          | some (_, p) => (p.findIdx? (fun e => e.1 == d && e.2.1 == x.2)).getD 0
          | none => ((coreOf x.1.core s).plan.findIdx? (fun e => e.1 == d && e.2.1 == x.2)).getD 0)
        let words := (List.range (ceilDiv pos.length 4)).map (fun k => ((pos.drop (4 * k)).take 4).foldr (fun v a => v + 65536 * a) 0)
        respond src stOK (d :: words) (setShell d { sh with created := none } s)

/-- Creations that waited for channels or ways answer. -/
def waysReady (s : State) : State := (s.shells.map (fun e => e.1)).foldl (fun s d => creationDone d s) s

/-- CHANNEL_CLEAR_DONE (11 R323). -/
def execChannelClearDone (ch : Nat) (s : State) : Res :=
  if !(chanOf ch s).clearing then .next s
  else
    let s := zeroChan ch s
    let s := setChan ch { chanOf ch s with clearing := false } s
    .next (waysReady s)

/-- WAY_CLEAN (R281): every line that stands in the way leaves the cache, dirty ones with their writeback. A line whose request is under way, or that is
pinned, leaves when that has ended. -/
def execWayClean (slice : Bool) (unit way : Nat) (s : State) : Res :=
  if slice then
    let hit := s.coh.home.filter (fun e => dpaChan (e.1 * 512) == unit && e.2.way == way && !pinned e.1 s)
    .next (waysReady (hit.foldl (fun s e => homeEvict e.1 s) s))
  else
    let hit := s.coh.lines.filter (fun e => e.1 / 2 ^ 40 == unit && e.2.way == way && evictable unit s e)
    .next (waysReady (hit.foldl (fun s e => evictLine unit (e.1 % 2 ^ 40) s) s))

/-! ### Calibration (R306..R308) -/

/-- Requests that a channel held are performed in arrival order, and those that wait at its homes go on (R306). -/
def releaseHeld (ch : Nat) (s : State) : State :=
  let mine := s.mem.held.filter (fun e => e.1 == ch)
  let s := { s with mem := { s.mem with held := s.mem.held.filter (fun e => e.1 != ch) } }
  drainAll (mine.foldl (fun s e => readWord e.2.1 (if ch < 64 then 1 else 2) 0 e.2.2 s) s)

/-- CALIBRATION_END (R306, R307; 14 R406). -/
def execCalibrationEnd (res : CalRes) (s : State) : Res :=
  if !s.dev.cals.contains res then .next s
  else
    let s := { s with dev := { s.dev with cals := s.dev.cals.erase res } }
    let s := match res with
      | .trainF c => setChan c { chanOf c s with drift := false, trainedT := (chanOf c s).temp } s
      | .trainS c => setChan (64 + c) { chanOf (64 + c) s with drift := false, trainedT := (chanOf (64 + c) s).temp } s
      | .falnar l => setLink l { linkOf l s with eq' := none, eqSoon := false, sent := 0, naks := 0, rateAt := s.now } s
      | _ => s
    .next ((calChans res).foldl (fun s c =>
      if s.dev.cals.any (fun r => (calChans r).contains c) then s else releaseHeld c (setChan c { chanOf c s with calib := false } s)) s)

/-- COHERENCE_ERROR (09 R276, R277): the agent frees its miss register; its waiting loads get bus errors, and the groups whose stores waited park with
BUS_ERROR. -/
def execCoherenceError (agent line : Nat) (s : State) : Res :=
  match receive (fun m => match m with | .error a l => a == agent && l == line | _ => false) s with
  | none => .next s
  | some (_, s) =>
    let stores := match missOf agent line s with | some m => m.by' | none => []
    let s := setMiss agent line none s
    let s := { s with coh := { s.coh with wbuf := tabDel (lineKey agent line) s.coh.wbuf } }
    let s := mapGroups agent (fun g => { g with far := g.far.map (fun f => { f with items := f.items.map (fun it => if itemWaits line f it then { it with err := true } else it) }) }) s
    .next (stores.foldl (fun s x => match groupOf x.1 x.2.1 s with
      | some g => if g.park.isSome then s else park x.1 x.2.1 ⟨0x05, x.2.2.2.1, x.2.2.1, x.2.2.2.2 % 2 ^ 48⟩ s
      | none => s) s)

/-- An operation of a line's atomic unit may be performed: no transaction is open, no message waits before it, the line is pinned or takes its pin and a
credit now (R264, R265, R267), and its sectors can be read (10 R297, R306). -/
def atomOpen (line : Nat) (a : AtomReq) (s : State) : Bool :=
  (tabFind line s.coh.open').isNone && a.after == 0 && sectorsOpen line (sectorsOf (a.dpa % 512) a.len) s &&
  takesPin line a s

/-- The result of an atomic at the home: word by word into the home cache, and to the line's other copies (R264; 10 R303). -/
def atomPut (dpa len v : Nat) (s : State) : State :=
  let cells := cellsOf (dpa % 512) (leBytes v len)
  (List.range ((dpa + len + 7) / 8 - dpa / 8)).foldl (fun s i =>
    let w := dpa / 8 + i
    let c := cellsOfWord (w % 64) cells
    homeForward w c (homePutWord false w (mergeWord (homeWord w s).data c) false s)) s

/-- ATOMIC_UNIT_OP (09 R264..R266): the oldest operation of a line is performed on the home-cache copy, which is pinned, with every other copy recalled.
A queue that drained gives the pin and its credit back. -/
def execAtomicUnitOp (line : Nat) (s : State) : Res :=
  match tabGet [] line s.coh.atoms with
  | [] => .next s
  | a :: rest =>
    let take := fun (s : State) => unpin line { s with coh := { s.coh with atoms := tabSet [] line rest s.coh.atoms } }
    if (tabFind line s.coh.open').isSome || decide (0 < a.after) then .next s
    else if a.cdom ∈ s.coh.failing then .next (drainSet line (atomAnswer a none (take s)))
    else if !atomOpen line a s then .next s
    else
      let s := pin line (recallAll line (tick s))
      let old := homeAt a.dpa a.len s
      let s := homeNote a.cdom a.dpa a.len s
      if !old.2.1 then .next (drainSet line (atomAnswer a none (take s)))
      else
        let r := atomApply a (leNat old.1)
        .next (drainSet line (atomAnswer a (some (atomGot a (leNat old.1) r)) (take (atomPut a.dpa a.len r.1 s))))

end Sys2Proof.Machine
end

