-- ==== Sys2Proof/Machine/Registers.lean ====
section
/-! DEFINITION. What the registers of BAR0 read as (12 Tables 12-4 to 12-21). -/
namespace Sys2Proof.Machine

/-- The BARs are open (R349). -/
def barsOpen (s : State) : Bool := s.dev.state == 2 || s.dev.state == 3

/-- Enabled cores that are not retired (R17, R19). -/
def coresLeft (s : State) : Nat := ((List.range Config.cores).filter (fun c => !coreGone c s)).length

/-- DEV_ID (T12-4). -/
def devIdWord (s : State) : Nat :=
  s.fuse.part * 2 ^ 48 + s.fuse.stepping * 2 ^ 40 + 1 * 2 ^ 32 + (if s.dev.state = 1 then 0 else s.dev.fwVer) * 2 ^ 16 + coresLeft s

/-- DEV_STATUS (T12-5). -/
def devStatusWord (s : State) : Nat := s.dev.state * 2 ^ 60 + s.dev.op * 2 ^ 56 + b2n s.dev.unaligned * 2 ^ 55 + s.stroke.count

/-- HOST_CTRL (T12-6). -/
def hostCtrlWord (s : State) : Nat := b2n s.host.ridCheck * 2 ^ 61 + s.host.hostRid * 2 ^ 32

/-- Completion entries are held for delivery (T12-7). -/
def complsHeld (s : State) : Bool := s.host.lost && s.qps.any (fun e => !e.2.local' && !e.2.owed.isEmpty)

/-- HOST_STATUS (T12-7). -/
def hostStatusWord (s : State) : Nat :=
  b2n s.host.lost * 2 ^ 63 + b2n (complsHeld s) * 2 ^ 62 + s.host.cause * 2 ^ 48 + b2n s.host.strayDb * 2 ^ 47 + b2n s.host.bar4Ref * 2 ^ 46 +
  b2n s.host.barBad * 2 ^ 45 + s.host.lossCount

/-- MBX_CTRL (T12-9). -/
def mbxCtrlWord (b : Mbx) : Nat := b2n b.irqEn * 2 ^ 63 + b.vec

/-- MBX_STATUS (T12-10). -/
def mbxStatusWord (b : Mbx) : Nat :=
  b2n b.busy * 2 ^ 63 + b2n b.done * 2 ^ 62 + b2n b.overrun * 2 ^ 61 + b2n b.session * 2 ^ 60 + b.tenant * 2 ^ 32 + b.seq

/-- QUE_STATUS (T12-18). -/
def queStatusWord (q : Nat) (s : State) : Nat :=
  match tabFind q s.qps with
  | none => 0
  | some p =>
    2 ^ 63 + b2n p.torn * 2 ^ 62 + b2n p.lost * 2 ^ 61 + b2n p.local' * 2 ^ 60 + p.cause * 2 ^ 56 + (p.depth - 1) * 2 ^ 40 + b2n p.slot256 * 2 ^ 39 +
    p.vec * 2 ^ 28 + p.tenant * 2 ^ 16 + p.n % 65536

/-- An aperture slot. -/
def aptOf (k : Nat) (s : State) : Apt := tabGet Apt.zero k s.host.apts

/-- Sets an aperture slot. -/
def setApt (k : Nat) (a : Apt) (s : State) : State := { s with host := { s.host with apts := tabSet Apt.zero k a s.host.apts } }

/-- APT_SLOT (T12-21). -/
def aptWords (a : Apt) : Nat × Nat := (b2n a.valid * 2 ^ 63 + b2n a.wr * 2 ^ 62 + a.cdom * 2 ^ 53 + a.base, a.refused)

/-- An MSI-X table entry's 16 bytes (PCIe). -/
def vecWords (v : Vec) : Nat × Nat := (v.addr, b2n v.mask * 2 ^ 32 + v.data)

/-- The pending bit array's word k. -/
def pbaWord (loc : Bool) (k : Nat) (s : State) : Nat := maskOf ((List.range 64).filter (fun i => (vecOf loc (64 * k + i) s).pend))

/-- A mailbox block's word (T12-8). -/
def mbxWord (b : Mbx) (off : Nat) : Nat :=
  if off = 0 then mbxCtrlWord b
  else if off = 8 then mbxStatusWord b
  else if 0x1000 ≤ off && off < 0x2000 then leNat (memRead b.req (off - 0x1000) 8)
  else if 0x2000 ≤ off && off < 0x3000 then leNat (memRead b.resp (off - 0x2000) 8)
  else 0

/-- An aligned 8-byte read of BAR0 (R350) or of its local copy (R379), with the limits of R349. -/
def bar0Word (loc : Bool) (off : Nat) (s : State) : Nat :=
  if off = 0 then devIdWord s
  else if off = 8 then devStatusWord s
  else if 0x300000 ≤ off && off < 0x308000 then (let w := vecWords (vecOf loc ((off - 0x300000) / 16) s); if off % 16 = 0 then w.1 else w.2)
  else if 0x308000 ≤ off && off < 0x308100 then pbaWord loc ((off - 0x308000) / 8) s
  else if 0x100000 ≤ off && off < 0x200000 then
    (let m := (off - 0x100000) / 0x4000
    if m = 0 || barsOpen s then mbxWord (mbxOf (m + (if loc then 64 else 0)) s) (off % 0x4000) else 0)
  else if !barsOpen s then 0
  else if off = 0x10 then (if loc then 0 else hostCtrlWord s)
  else if off = 0x18 then (if loc then 0 else hostStatusWord s)
  else if 0x200000 ≤ off && off < 0x208000 then queStatusWord ((off - 0x200000) / 8) s
  else if 0x210000 ≤ off && off < 0x214000 then (let w := aptWords (aptOf ((off - 0x210000) / 16) s); if off % 16 = 0 then w.1 else w.2)
  else 0

end Sys2Proof.Machine
end

