-- ==== Sys2Proof/Machine/Host.lean ====
section
/-! DEFINITION. The PCIe endpoint, mailbox doorbells, queue pairs, MSI-X, the BAR4 aperture and host loss (12). -/
namespace Sys2Proof.Machine

/-- A request of the host arrives: an armed PCIE_LINK injection makes the link layer replay it (R376; 15 T15-3). -/
def tlp (s : State) : State :=
  match takeInj 0x06 0 s with
  | (some i, s) => logRec { newRec 0x06 1 2 0 with inj := some i.num } s
  | (none, s) => s

/-! ### Register writes (R9, R349..R352) -/

/-- MBX_GO (R352, R383): a `go` while `busy` sets `overrun`; before the device is ready the copied request waits. -/
def execMbxGo (m : Nat) (s : State) : Res :=
  let s := if m < 64 then tlp s else s
  if !barsOpen s && m % 64 != 0 then .next s
  else
    let b := mbxOf m s
    if b.busy then .next (setMbx m { b with overrun := true } s)
    else
      let req := memRead b.req 0 4096
      let s := setMbx m { b with busy := true, went := some req } s
      if s.dev.state = 1 || s.dev.state = 2 || s.dev.state = 3 then .next (process m req s) else .next s

/-- A pending message goes out once nothing masks it (R372). -/
def sendPending (loc : Bool) (v : Nat) (s : State) : State :=
  let e := vecOf loc v s
  if e.pend && !e.mask && (loc || !s.host.funcMask) then signal loc v (setVec loc v { e with pend := false } s) else s

/-- MSIX_UNMASK (R372). -/
def execMsixUnmask (loc : Bool) (vec : Nat) (s : State) : Res :=
  .next (sendPending loc vec (setVec loc vec { vecOf loc vec s with mask := false } s))

/-- The bits of a write that land in the aligned 8-byte register at `off`: mask and value. -/
def writeLanes (offset size value : Nat) : Nat × Nat :=
  if size = 8 then (bmAll, value) else if offset % 8 = 0 then (bm 31 0, value % 2 ^ 32) else (bm 63 32, value % 2 ^ 32 * 2 ^ 32)

/-- A field as RW leaves it. -/
def rwField (hi lo old : Nat) (w : Nat × Nat) : Nat := if bits w.1 hi lo = bits bmAll hi lo then bits w.2 hi lo else old

/-- A bit that a W1C write clears. -/
def w1c (i : Nat) (w : Nat × Nat) : Bool := bit w.1 i && bit w.2 i

/-- A write into a mailbox block (T12-8). -/
def mbxRegWrite (m off size value : Nat) (s : State) : State :=
  let b := mbxOf m s
  let w := writeLanes off size value
  if off / 8 = 0 then
    setMbx m { b with irqEn := (if bit w.1 63 then bit w.2 63 else b.irqEn), vec := rwField 10 0 b.vec w } s
  else if off / 8 = 1 then setMbx m { b with done := b.done && !w1c 62 w, overrun := b.overrun && !w1c 61 w } s
  else if 0x1000 ≤ off && off < 0x2000 then setMbx m { b with req := memWrite b.req (off - 0x1000) (leBytes value size) } s
  else s

/-- A write into the MSI-X table (PCIe). -/
def vecRegWrite (loc : Bool) (off size value : Nat) (s : State) : State :=
  let v := off / 16
  let e := vecOf loc v s
  let w := writeLanes off size value
  if off % 16 < 8 then
    setVec loc v { e with addr := (e.addr &&& (bmAll - w.1)) ||| (w.2 &&& w.1) } s
  else
    let s := setVec loc v { e with data := rwField 31 0 e.data w, mask := (if bit w.1 32 then bit w.2 32 else e.mask) } s
    sendPending loc v s

/-- MSI-X Message Control in configuration space: enable in bit 15, function mask in bit 14; offset 2^26 stands for it (entry 40). -/
def msixControl (value : Nat) (s : State) : State :=
  let s := { s with host := { s.host with msixOn := bit value 15, funcMask := bit value 14 } }
  if s.host.msixOn && !s.host.funcMask then s.host.vecs.foldl (fun s e => sendPending false e.1 s) s else s

/-- REGISTER_WRITE (R9): by the access codes of the fields; writes to registers with rows of their own change nothing here. -/
def execRegisterWrite (loc : Bool) (offset size : Nat) (value : Word) (s : State) : Res :=
  let s := if loc then s else tlp s
  let v := value.toNat
  let w := writeLanes offset size v
  if !(size = 4 || size = 8) || offset % size != 0 then .next { s with host := { s.host with barBad := true } }
  else if offset = 2 ^ 26 then .next (if loc then s else msixControl v s)
  else if 0x300000 ≤ offset && offset < 0x308000 then .next (vecRegWrite loc (offset - 0x300000) size v s)
  else if 0x100000 ≤ offset && offset < 0x200000 then
    let m := (offset - 0x100000) / 0x4000
    if m = 0 || barsOpen s then .next (mbxRegWrite (m + (if loc then 64 else 0)) (offset % 0x4000) size v s) else .next s
  else if offset / 8 = 3 && barsOpen s && !loc then
    .next { s with host := { s.host with strayDb := s.host.strayDb && !w1c 47 w, bar4Ref := s.host.bar4Ref && !w1c 46 w, barBad := s.host.barBad && !w1c 45 w } }
  else .next s

/-- RID_CHECK_SET (R375). -/
def execRidCheckSet (check : Bool) (rid : BitVec 16) (s : State) : Res :=
  if barsOpen s then .next { s with host := { s.host with ridCheck := check, hostRid := rid.toNat } } else .next s

/-- BAR_BAD_ACCESS (R349). -/
def execBarBadAccess (bar : Nat) (isRead : Bool) (s : State) : Res :=
  let s := { s with host := { s.host with barBad := true } }
  .next (if isRead then emit (.unsupported bar) s else s)

/-! ### Queue pairs (R359..R372) -/

/-- Free CQ slots, counting from the last `head` (R365). -/
def QPair.room (p : QPair) : Nat := p.depth - (p.w - p.h)

/-- Sets a queue pair. -/
def setQp (q : Nat) (p : QPair) (s : State) : State := { s with qps := tabPut q p s.qps }

/-- A queue is torn (R367): one queue event. -/
def tear (q cause : Nat) (p : QPair) (s : State) : State :=
  setQp q { p with torn := true, cause := cause, rereads := 0, rereadAt := none, owed := p.owed ++ [⟨0xFFFF, stTorn, 0, false, false, true, s.stroke.count, 0, 0, false⟩] } s

/-- A doorbell that no open queue pair takes (R364); before the device is ready it is discarded (R349). -/
def strayDoorbell (s : State) : State := if barsOpen s then { s with host := { s.host with strayDb := true } } else s

/-- SQ_DOORBELL (R364, R367). -/
def execSqDoorbell (q : Nat) (tail : BitVec 16) (s : State) : Res :=
  let s := tlp s
  if !barsOpen s then .next s
  else match tabFind q s.qps with
    | none => .next (strayDoorbell s)
    | some p =>
      let t := tail.toNat
      if t = p.tail then .next s
      else
        let p' := { p with tail := t }
        if p.torn then .next (setQp q p' s)
        else if p.depth < (t + 2 ^ 16 - p.n % 2 ^ 16) % 2 ^ 16 then .next (tear q 3 p' s)
        else .next (setQp q p' s)

/-- CQ_DOORBELL (R364): a valid `head` neither moves backward nor passes the last entry written. -/
def execCqDoorbell (q : Nat) (head : BitVec 16) (s : State) : Res :=
  let s := tlp s
  if !barsOpen s then .next s
  else match tabFind q s.qps with
    | none => .next (strayDoorbell s)
    | some p =>
      let d := (head.toNat + 2 ^ 16 - p.h % 2 ^ 16) % 2 ^ 16
      if d ≤ (p.w - p.h) % 2 ^ 16 then .next (setQp q { p with h := p.h + d } s)
      else if p.torn then .next s
      else .next (tear q 4 p s)

/-- Bytes of a queue's slot. -/
def QPair.slotLen (p : QPair) : Nat := if p.slot256 then 256 else 64

/-- Whether what was read of a slot is entry n (R366): none valid, else the tear cause. -/
def slotFault (p : QPair) (ext : Ext) : Option Nat :=
  let bs := ext.data.take p.slotLen
  if ext.err != 0 || bs.length != p.slotLen then some 2
  else if leNat ((bs.drop 6).take 2) != p.n % 2 ^ 16 then some 1
  else if leNat ((bs.drop 8).take 8) != p.token.toNat then some 2
  else if (bs.drop 16).take 8 != (hmac p.key (leBytes p.n 4 ++ bs.take 16 ++ List.replicate 8 0 ++ bs.drop 24)).take 8 then some 2
  else none

/-- The entry that a slot's bytes spell (T12-14). -/
def parseEntry (p : QPair) (bs : List Byte) : Entry :=
  let w0 := leNat (bs.take 8)
  let n := bits w0 15 8
  { code := bits w0 47 32, cid := bits w0 31 16, be := bit w0 7, defer := bit w0 6, late := bit w0 5, irq := bit w0 4, rsv := bits w0 3 0 != 0,
    inlLen := n, inl := if p.slot256 then (bs.drop 64).take n else [], body := (List.range 5).map (fun i => leNat ((bs.drop (24 + 8 * i)).take 8)) }

/-- Entry n is valid: it counts as fetched, and the queue examines what stands at its head. -/
def acceptEntry (q : Nat) (p : QPair) (ext : Ext) (s : State) : State :=
  let e := parseEntry p ext.data
  let p := { p with n := (p.n + 1) % 2 ^ 32, awaiting := p.awaiting + 1, rereads := 0, rereadAt := none, entries := p.entries ++ [e] }
  examine q p.entries.length (setQp q p s)

/-- The queue may fetch its next entry (R365, R367, R377); the BARs are open in states ready and out of service (T12-1), where R383 then decides. -/
def mayFetch (p : QPair) (s : State) : Bool :=
  !p.torn && !p.lost && p.closing.isNone && p.tail != p.n % 2 ^ 16 && decide (2 ≤ p.room) &&
  decide (s.qps.foldl (fun a e => a + e.2.awaiting) 0 < 8192) && (s.dev.state == 2 || s.dev.state == 3) && !s.retiring.contains (tenantShell p.tenant s)

/-- SQ_ENTRY_FETCH (R365, R366, R362): what the slot read returned. -/
def execSqEntryFetch (q : Nat) (ext : Ext) (s : State) : Res :=
  match tabFind q s.qps with
  | none => .next s
  | some p =>
    if !mayFetch p s || p.rereadAt.isSome then .next s
    else match slotFault p ext with
      | none => .next (acceptEntry q p ext s)
      | some _ => .next (setQp q { p with rereads := 0, rereadAt := some (s.now + Config.us 1) } s)

/-- SQ_ENTRY_REREAD (R366): 1 µs after the previous read; the 8th failure tears the queue. -/
def execSqEntryReread (q : Nat) (ext : Ext) (s : State) : Res :=
  match tabFind q s.qps with
  | none => .next s
  | some p =>
    match p.rereadAt with
    | none => .next s
    | some t =>
      if p.lost then .next s
      else
        let s := untilTime t s
        match slotFault p ext with
        | none => .next (acceptEntry q p ext s)
        | some c =>
          if 8 ≤ p.rereads + 1 then .next (tear q c p s)
          else .next (setQp q { p with rereads := p.rereads + 1, rereadAt := some (s.now + Config.us 1) } s)

/-- A CQ entry's bytes (T12-19). -/
def complBytes (p : QPair) (c : Compl) : List Byte :=
  leBytes (b2n (p.w / p.depth % 2 == 0) * 2 ^ 63 + b2n c.void * 2 ^ 62 + c.cause * 2 ^ 48 + c.status * 2 ^ 32 + c.cid * 2 ^ 16 + p.n % 2 ^ 16) 8 ++
  leBytes c.stroke 8 ++ leBytes c.out0 8 ++ leBytes c.out1 8

/-- The queue's vector is due (R372): now, or once at the end of the hold time. -/
def queueSignal (q : Nat) (s : State) : State :=
  match tabFind q s.qps with
  | none => s
  | some p =>
    match (vecOf p.local' p.vec s).sigAt with
    | some t => if s.now < t + Config.us p.hold then setQp q { p with sigDue := true } s else signal p.local' p.vec s
    | none => signal p.local' p.vec s

/-- Writes one CQ entry (R369, R370). -/
def putCompl (q : Nat) (p : QPair) (c : Compl) (quiet : Bool) (s : State) : State :=
  let s := emit (.cqe q (p.w % p.depth) (complBytes p c)) (setQp q { p with w := p.w + 1 } s)
  if (c.irq || c.event) && !quiet then queueSignal q s else s

/-- A window of a shell's strokes: strokes since its offset by its multiple (R39). -/
def windowOf (sh : Shell) (stroke : Nat) : Nat := (stroke + sh.comp.k - sh.comp.o) / sh.comp.k

/-- A Sampled shell's completions of a window wait for that window's checks (15 R440). -/
def checksOpen (p : QPair) (c : Compl) (s : State) : Bool :=
  let d := tenantShell p.tenant s
  match shellOf d s with
  | none => false
  | some sh => sh.comp.redund == 1 && s.flt.sampled.any (fun x => x.cdom == d && windowOf sh x.stroke == windowOf sh c.stroke)

/-- Completions of guaranteed commands are written from the finish phase of their stroke on (02 R37). -/
def beforeFinish (c : Compl) (s : State) : Bool :=
  c.guar && c.stroke == s.stroke.count && (s.stroke.phase == .catch' || s.stroke.phase == .drive)

/-- A window of a Sampled shell with a mismatch reports no OK (15 R440). -/
def checked (p : QPair) (c : Compl) (s : State) : Compl :=
  let d := tenantShell p.tenant s
  let bad := match shellOf d s with | some sh => s.flt.badWins.contains (d, windowOf sh c.stroke) | none => false
  if bad && !c.event && (c.status == stOK || c.status == stOKFallback || c.status == stLate) then { c with status := stFaultData } else c

/-- The next recorded completion of a queue that may be written now; a place is kept back for a queue event (R365). During a reset none is
written (15 R449). -/
def nextCompl (p : QPair) (s : State) : Option Compl :=
  if (s.host.lost && !p.local') || !barsOpen s then none
  else match p.owed with
    | [] => none
    | c :: _ => if p.room < (if c.event then 1 else 2) || checksOpen p c s || beforeFinish c s then none else some (checked p c s)

/-- A QUEUE.DELETE that waited ends when nothing more is to be written. -/
def closeIfDone (q : Nat) (s : State) : State :=
  match tabFind q s.qps with
  | some p =>
    (match p.closing with
    | some m => if p.owed.isEmpty && p.awaiting = 0 then respond (.mbx m) stOK [] { s with qps := tabDel q s.qps } else s
    | none => s)
  | none => s

/-- COMPLETION_WRITE (R369, R370). -/
def execCompletionWrite (q : Nat) (s : State) : Res :=
  match tabFind q s.qps with
  | none => .next s
  | some p =>
    match nextCompl p s with
    | none => .next s
    | some c => .next (closeIfDone q (putCompl q { p with owed := p.owed.tail } c false s))

/-- PARK_REPORT_WRITE (13 R389). -/
def execParkReportWrite (q : Nat) (cid : BitVec 16) (s : State) : Res :=
  match tabFind q s.qps, s.cmds.find? (fun e => e.2.q == q && e.2.cid == cid.toNat && e.2.parkOwed) with
  | some p, some (n, c) =>
    if (s.host.lost && !p.local') || p.room < 2 then .next s
    else match c.park with
      | none => .next s
      | some (core, slot, r) =>
        let seat := parkSeat n core slot s
        let s := setCmd n { c with parkOwed := false } s
        .next (putCompl q p ⟨c.cid, stParked, 0, false, c.irq, false, s.stroke.count, parkWord0 r slot seat, r.detail, false⟩ false s)
  | _, _ => .next s

/-- MSIX_HOLD_EXPIRY (R372). -/
def execMsixHoldExpiry (q : Nat) (s : State) : Res :=
  match tabFind q s.qps with
  | none => .next s
  | some p =>
    if !p.sigDue then .next s
    else
      let t := match (vecOf p.local' p.vec s).sigAt with | some t => t + Config.us p.hold | none => s.now
      .next (signal p.local' p.vec (untilTime t (setQp q { p with sigDue := false } s)))

/-! ### The aperture (R373..R375) -/

/-- A refused BAR4 request (R373). -/
def refuseBar4 (k : Nat) (isRead : Bool) (s : State) : State :=
  let a := aptOf k s
  let s := setApt k { a with refused := min (a.refused + 1) (2 ^ 32 - 1) } s
  let s := { s with host := { s.host with bar4Ref := true } }
  if isRead then emit (.unsupported 4) s else s

/-- A BAR4 request's shell, DPA and range: none where it is refused (R373, R375). -/
def bar4Target (x rid : Nat) (write : Bool) (s : State) : Option (Nat × Nat × Range) :=
  let a := aptOf (x / 2 ^ 26) s
  if !a.valid || (s.host.ridCheck && rid != s.host.hostRid) || (write && !a.wr) then none
  else match shellOf a.cdom s with
    | none => none
    | some sh =>
      match translate s sh (a.base + x % 2 ^ 26) with
      | some (d, r) => if write && (!r.wr || r.sealed) then none else some (a.cdom, d, r)
      | none => none

/-- BAR4_READ (R242, R373): a direct read at the home, line by line, once every earlier BAR4 write is visible. -/
def execBar4Read (x len rid : Nat) (atomicOp : Bool) (s : State) : Res :=
  let s := tlp s
  if !barsOpen s then .next (emit (.unsupported 4) s)
  else if atomicOp then .next (refuseBar4 (x / 2 ^ 26) true s)
  else match bar4Target x rid false s with
    | none => .next (refuseBar4 (x / 2 ^ 26) true s)
    | some (d, _, _) =>
      if d ∈ s.coh.failing then .next (emit .poisonedCpl s)
      else .next ((List.range ((x + len + 511) / 512 - x / 512)).foldl (fun s i =>
        let lo := max x ((x / 512 + i) * 512)
        let hi := min (x + len) ((x / 512 + i + 1) * 512)
        match bar4Target lo rid false s with
        | some (d, dpa, _) =>
          bar4Push (dpa / 512) (.dread .pcie (dpa % 512) (hi - lo) d lo) s
        | none => emit .poisonedCpl s) s)

/-- BAR4_WRITE (R373, R241): a direct write at the home; one that meets a failed domain is lost. -/
def execBar4Write (x rid : Nat) (bytes : List Byte) (s : State) : Res :=
  let s := tlp s
  if !barsOpen s then .next s
  else match bar4Target x rid true s with
    | none => .next (refuseBar4 (x / 2 ^ 26) false s)
    | some (d, _, _) =>
      if d ∈ s.coh.failing then .next s
      else
        let len := bytes.length
        .next ((List.range ((x + len + 511) / 512 - x / 512)).foldl (fun s i =>
          let lo := max x ((x / 512 + i) * 512)
          let hi := min (x + len) ((x / 512 + i + 1) * 512)
          match bar4Target lo rid true s with
          | some (d, dpa, _) => bar4Push (dpa / 512) (.dwrite .pcie d (cellsOf (dpa % 512) ((bytes.drop (lo - x)).take (hi - lo)))) s
          | none => s) s)

/-! ### Host loss (R376..R378) -/

/-- Far accesses of a group to the Host region end as bus errors. -/
def hostLostGroup (g : Group) : Group :=
  { g with far := g.far.map (fun f => { f with items := f.items.map (fun it =>
      match it.loc with | .host _ => if it.got.isNone then { it with err := true } else it | _ => it) }) }

/-- HOST_LOSS (R377): cause 1 link down, 2 hot reset, 3 PERST_N, 4 Function Level Reset. -/
def execHostLoss (cause : Nat) (s : State) : Res :=
  let was := s.host.lost
  let h := { s.host with lost := true, cause := cause, lossCount := min (s.host.lossCount + 1) (2 ^ 32 - 1), linkUp := false }
  let h := if cause = 2 || cause = 3 || cause = 4 then { h with vecs := [], msixOn := false, funcMask := false, cfgAt := (if cause = 3 then none else h.cfgAt) } else h
  let s := { s with host := h, dev := { s.dev with perst := s.dev.perst || cause == 3 } }
  if was then .next s
  else .next { s with
    qps := s.qps.map (fun e => (e.1, if e.2.local' then e.2 else { e.2 with lost := true, rereadAt := none, rereads := 0 }))
    cores := s.cores.map (fun e => (e.1, { e.2 with groups := e.2.groups.map (fun g => (g.1, hostLostGroup g.2)) })) }

/-- PCIE_LINK_RETRAIN (R376): transparent. -/
def execPcieLinkRetrain (s : State) : Res := .next s

/-- PERST_N_DEASSERT (R349; 18 R531): configuration requests are answered 100 ms after the later of this and power good. -/
def execPerstNDeassert (s : State) : Res :=
  let on := s.dev.stage != .held
  .next { s with dev := { s.dev with perst := false }, host := { s.host with linkUp := on, cfgAt := if on then some (s.now + Config.ms 100) else none } }

/-- Writes every completion that a queue holds and has room for, without signals. -/
def deliver (q : Nat) : Nat → State → State
  | 0, s => s
  | n + 1, s =>
    match tabFind q s.qps with
    | none => s
    | some p => match nextCompl p s with | none => s | some c => deliver q n (putCompl q { p with owed := p.owed.tail } c true s)

/-- The end of a host loss signals what was held, and vector 0 (R378, R396). -/
def lossEnds (vecs : List Nat) (s : State) : State :=
  let vs := (s.host.heldVecs ++ vecs ++ [0]).eraseDups
  vs.foldl (fun s v => signal false v s) { s with host := { s.host with lost := false, heldVecs := [] } }

/-- HOST_RESUME (R378). -/
def execHostResume (s : State) : Res :=
  if !s.host.lost || !barsOpen s then .next s
  else
    let qs := s.qps.filter (fun e => e.2.lost)
    let s1 := { s with host := { s.host with lost := false, linkUp := true } }
    let s1 := qs.foldl (fun s e =>
      match tabFind e.1 s.qps with
      | none => s
      | some p =>
        let p := { p with lost := false, owed := p.owed ++ [⟨0xFFFF, stHostLost, 0, false, false, true, s.stroke.count, 0, 0, false⟩] }
        deliver e.1 p.owed.length (setQp e.1 p s)) s1
    .next (lossEnds (qs.map (fun e => e.2.vec)) s1)

/-- A queue pair closes at once; its fetched entries and owed completions go with it (R359, 11 R325). Commands that run on keep the number 4096, which no queue
pair has, so that their completions are written nowhere. -/
def closeQueue (q : Nat) (s : State) : State :=
  let s := match tabFind q s.qps with
    | some p => (match p.closing with | some m => respond (.mbx m) stOK [] s | none => s)
    | none => s
  { s with qps := tabDel q s.qps, cmds := (s.cmds.filter (fun e => !(e.2.q == q && e.2.st == .queued))).map (fun (e : Nat × Cmd) => (e.1, if e.2.q = q then { e.2 with q := 4096 } else e.2)) }

/-- HOST_ABANDON (R378, R356, R359). -/
def execHostAbandon (s : State) : Res :=
  if !s.host.lost || !barsOpen s then .next s
  else
    let qs := s.qps.filter (fun e => !e.2.local')
    let n := qs.foldl (fun a e => a + (e.2.owed.filter (fun c => !c.event)).length) 0
    let s := qs.foldl (fun s e => closeQueue e.1 s) s
    let s := (List.range 64).foldl (fun s m => if (mbxOf m s).session then endSession m s else s) s
    let s := logRec { newRec 0x6B 2 0 0 with detail := [n] } s
    .next (lossEnds [] { s with host := { s.host with linkUp := true } })

end Sys2Proof.Machine
end

