-- ==== Sys2Proof/Machine/Sessions.lean ====
section
/-! DEFINITION. Sessions (12 R354..R358), the owner's commands (13 Table 13-1; 15 R451, R452; 17 R503..R505), queue pairs' creation, deletion
and reset (12 R359, R367). -/
namespace Sys2Proof.Machine

/-! ### Sessions -/

/-- The key that proves a tenant, or the owner secret; empty where there is none (R354, R358). -/
def proofKey (t : Nat) (s : State) : List Byte :=
  if t = ownerId then s.dev.devsec.secret else match tenantOf t s with | some r => if r.keySet then r.key else [] | none => []

/-- A tenant is locked out (R357). -/
def lockedOut (t : Nat) (s : State) : Bool :=
  match tenantOf t s with | some r => (match r.lockAt with | some a => decide (s.now < a + Config.sec 60) | none => false) | none => false

/-- SESSION.OPEN (R354). -/
def execSessionOpen (m : Nat) (rnd : List Byte) (s : State) : Res :=
  onReq 0x0201 (.mbx m) s (fun r =>
    let t := r.field 0 15 0
    let b := mbxOf m s
    if b.session then respond r.src stSessionBusy [] s
    else if (m % 64 = 0) != (t = ownerId) then respond r.src stBadParam [] s
    else if (proofKey t s).isEmpty then respond r.src stNoKey [] s
    else if lockedOut t s then respond r.src stLockedOut [] s
    else
      let n := padTo 32 rnd
      respondBytes r.src stOK 0 0 n (setMbx m { b with nonce := some (n, t, s.now) } s))

/-- A failed proof for a tenant (R357): the fourth within 60 s locks it out and is logged. -/
def proofFails (t : Nat) (s : State) : State :=
  match tenantOf t s with
  | none => s
  | some r =>
    let l := (r.fails.filter (fun a => decide (s.now < a + Config.sec 60))) ++ [s.now]
    if 4 ≤ l.length then
      logRec { (newRec 0x6A 2 0 0).at r.shell 0 0 with tenant := some t } (setTenant t { r with fails := [], lockAt := some s.now } s)
    else setTenant t { r with fails := l } s

/-- SESSION.PROVE (R354, R355): the proof is checked against the nonce, which is then spent. A drawn token of 0 is drawn again. -/
def execSessionProve (m : Nat) (rnd : Word) (s : State) : Res :=
  if rnd = 0 then .next s
  else onReq 0x0202 (.mbx m) s (fun r =>
    let t := r.field 0 15 0
    let b := mbxOf m s
    if b.session then respond r.src stSessionBusy [] s
    else
      let proof := (r.params.drop 8).take 32
      let key := proofKey t s
      let ok := match b.nonce with
        | some (n, t', a) => t' == t && decide (s.now ≤ a + Config.sec 1) && !key.isEmpty && proof == hmac key (n ++ leBytes (m % 64) 2 ++ leBytes t 2)
        | none => false
      let n := match b.nonce with | some (n, _, _) => n | none => []
      if !ok then respond r.src stProofRefused [] (proofFails t (setMbx m { b with nonce := none } s))
      else
        let k := hmac key (n ++ leBytes rnd.toNat 8)
        let cur := b.cur.map (fun q => { q with key := k, tenant := t })
        respond r.src stOK [rnd.toNat] (setMbx m { b with nonce := none, session := true, tenant := t, seq := 0, token := rnd, key := k, badMacs := 0, cur := cur } s))

/-- SESSION.CLOSE (R356). -/
def execSessionClose (m : Nat) (s : State) : Res :=
  onReq 0x0203 (.mbx m) s (fun r => endSession m (respond r.src stOK [] s))

/-! ### Tenants -/

/-- A shell is live: it exists and its creation has completed (11 R324). -/
def shellLive (cdom : Nat) (s : State) : Bool := match shellOf cdom s with | some sh => sh.created.isNone | none => false

/-- OWNER.TENANT_ADD (11 R324). -/
def execOwnerTenantAdd (m : Nat) (s : State) : Res :=
  onReq 0x0102 (.mbx m) s (fun r =>
    let t := r.field 0 11 0
    let d := r.field 0 24 16
    let pasid := r.field 1 19 0
    if (tenantOf t s).isSome || s.tenants.any (fun e => e.2.pasid == pasid) || !shellLive d s then respond r.src stBadParam [] s
    else
      let w := r.word 0
      respond r.src stOK [] (setTenant t ⟨d, bit w 32, bit w 33, bit w 34, bit w 35, pasid, false, 0, [], [], none⟩ s))

/-- The sessions and queue pairs of a tenant end (R356, R359). -/
def endTenantWays (t : Nat) (s : State) : State :=
  let s := (s.mbx.filter (fun e => e.2.session && e.2.tenant == t)).foldl (fun s e => endSession e.1 s) s
  (s.qps.filter (fun e => e.2.tenant == t)).foldl (fun s e => closeQueue e.1 s) s

/-- Removes a tenant (11 R325). -/
def removeTenant (t : Nat) (s : State) : State :=
  let s := endTenantWays t s
  { s with tenants := tabDel t s.tenants }

/-- OWNER.TENANT_REMOVE (11 R325). -/
def execOwnerTenantRemove (m : Nat) (s : State) : Res :=
  onReq 0x0103 (.mbx m) s (fun r =>
    let t := r.field 0 11 0
    if (tenantOf t s).isNone then respond r.src stBadParam [] s else respond r.src stOK [] (removeTenant t s))

/-- The session key under which a mailbox's request came. -/
def curKey (m : Nat) (s : State) : List Byte := match (mbxOf m s).cur with | some q => q.key | none => []

/-- OWNER.TENANT_KEY (17 R505; 12 R356, R359). -/
def execOwnerTenantKey (m : Nat) (s : State) : Res :=
  onReq 0x0104 (.mbx m) s (fun r =>
    let t := r.field 0 11 0
    match tenantOf t s, keyUnwrap (curKey m s) ((r.params.drop 8).take 40) with
    | some e, some k =>
      let g := (e.keyGen + 1) % 2 ^ 32
      respond r.src stOK [g] (setTenant t { e with keySet := true, key := k, keyGen := g } (endTenantWays t s))
    | _, _ => respond r.src stBadParam [] s)

/-! ### The owner -/

/-- The sealed owner record (T17-6): nonce, ciphertext and tag, 4 bytes of zero. -/
def sealOwner (rnd secret : List Byte) : List Byte := padTo 64 (padTo 12 rnd ++ (Config.sealSecret (padTo 12 rnd) secret).take 48)

/-- OWNER.CLAIM (17 R503). A nonzero byte among the last 24, for which R503 names no status, gets BAD_PARAM (DESIGN CHOICE, entry 95). -/
def execOwnerClaim (m : Nat) (rnd : List Byte) (s : State) : Res :=
  onReq 0x0101 (.mbx m) s (fun r =>
    if m % 64 != 0 then respond r.src stNotPermitted [] s
    else if s.dev.devsec.claimed then respond r.src stClaimed [] s
    else
      let e := r.params.take 32
      let d := Config.agreementKey
      let base := leBytes 9 32
      let kek := hmac (x25519 d e) (e ++ x25519 d base ++ leBytes s.fuse.serial 8)
      let zeros := (r.params.drop 72).all (fun b => b == 0)
      match keyUnwrap kek ((r.params.drop 32).take 40) with
      | none => respond r.src stBadParam [] s
      | some sec =>
        if sec.all (fun b => b == 0) || !zeros then respond r.src stBadParam [] s
        else if 32 ≤ s.fuse.claims then respond r.src stNoResource [] s
        else
          let s := { s with fuse := { s.fuse with claims := s.fuse.claims + 1 } }
          let s := writeDevSec { s.dev.devsec with claimed := true, claimNo := s.fuse.claims - 1, sealBlob := sealOwner rnd sec, secret := sec } s
          respond r.src stOK [] s)

/-- OWNER.SECRET (17 R504): replaces the owner secret; Stolmon goes back to level 0 (17 R508). -/
def execOwnerSecret (m : Nat) (rnd : List Byte) (s : State) : Res :=
  onReq 0x0105 (.mbx m) s (fun r =>
    match keyUnwrap (curKey m s) (r.params.take 40) with
    | none => respond r.src stBadParam [] s
    | some sec =>
      let s := writeDevSec { s.dev.devsec with sealBlob := sealOwner rnd sec, secret := sec } s
      respond r.src stOK [] { s with man := { s.man with level := 0 } })

/-- OWNER.FLOOR (15 R451). -/
def execOwnerFloor (m : Nat) (s : State) : Res :=
  onReq 0x0106 (.mbx m) s (fun r =>
    let f := r.field 0 8 0
    if Config.cores < f then respond r.src stBadParam [] s
    else respond r.src stOK [] (checkFloor (writeDevSec { s.dev.devsec with floor := f } s)))

/-- OWNER.REINSTATE (15 R452): only after a cold reset since the device went out of service. -/
def execOwnerReinstate (m : Nat) (s : State) : Res :=
  onReq 0x0107 (.mbx m) s (fun r =>
    if !s.dev.devsec.oos || !s.dev.coldOos then respond r.src stWrongState [] s
    else
      let d := s.dev.devsec
      let d := if bit (r.word 0) 0 then { d with coresRet := [], diesRet := 0, pages := [], banks := [] } else d
      let s := if bit (r.word 0) 0 then { s with cores := (s.cores.map (fun (e : Nat × Core) => (e.1, { e.2 with retired := false, fenced := false }))).filter (fun e => decide (e.2 ≠ Core.zero)) } else s
      let s := writeDevSec d s
      if liveCores s < d.floor then respond r.src stOK [0] s
      else respond r.src stOK [1] (setDevState 2 (writeDevSec { d with oos := false } s)))

/-! ### Queue pairs -/

/-- QUEUE.CREATE (R359): the free queue pair that is chosen, the token and nonce that are drawn. -/
def execQueueCreate (m : Nat) (pick : Nat) (token : Word) (rnd : List Byte) (s : State) : Res :=
  if token = 0 then .next s
  else onReq 0x0701 (.mbx m) s (fun r =>
    let lg := r.field 2 3 0
    let vec := r.field 2 26 16
    if lg < 4 || 12 < lg || vec = 0 || r.word 0 % 4096 != 0 || r.word 1 % 4096 != 0 then respond r.src stBadParam [] s
    else
      let free := fun q => (tabFind q s.qps).isNone
      let q? := if pick < 4096 && free pick then some pick else (List.range 4096).find? free
      match q? with
      | none => respond r.src stNoResource [] s
      | some q =>
        let nonce := padTo 32 rnd
        let kt := proofKey r.tenant s
        let p : QPair :=
          { local' := decide (64 ≤ m), tenant := r.tenant, lost := false, torn := false, cause := 0, depth := 2 ^ lg, slot256 := bit (r.word 2) 4,
            vec := vec, hold := r.field 2 39 32, sqBase := r.word 0, cqBase := r.word 1, token := token, nonce := nonce,
            key := hmac kt (nonce ++ leBytes token.toNat 8 ++ leBytes q 2), n := 0, tail := 0, w := 0, h := 0, rereads := 0, rereadAt := none,
            entries := [], ctlBusy := false, awaiting := 0, owed := [], sigDue := false, deferred := false, closing := none }
        respond r.src stOK (q :: token.toNat :: wordsOf nonce 4) (setQp q p s))

/-- A queue pair of the request's tenant's shell and tenant (R382). -/
def ownQueue (r : Req) (s : State) : Option (Nat × QPair) :=
  let q := r.field 0 11 0
  match tabFind q s.qps with
  | some p => if p.tenant = r.tenant then some (q, p) else none
  | none => none

/-- QUEUE.DELETE (R359): waits until the completions of all fetched entries are written. -/
def execQueueDelete (m : Nat) (s : State) : Res :=
  onReq 0x0702 (.mbx m) s (fun r =>
    match ownQueue r s with
    | none => respond r.src (if (tabFind (r.field 0 11 0) s.qps).isSome then stNotPermitted else stBadParam) [] s
    | some (q, p) =>
      if p.closing.isSome then respond r.src stBusy [] s
      else closeIfDone q (setBegun r.src (setQp q { p with closing := some m } s)))

/-- QUEUE.RESET (R367). -/
def execQueueReset (m : Nat) (s : State) : Res :=
  onReq 0x0703 (.mbx m) s (fun r =>
    match ownQueue r s with
    | none => respond r.src (if (tabFind (r.field 0 11 0) s.qps).isSome then stNotPermitted else stBadParam) [] s
    | some (q, p) =>
      if !p.torn then respond r.src stOK [] s
      else if p.depth < (p.tail + 2 ^ 16 - p.n % 2 ^ 16) % 2 ^ 16 then respond r.src stBadParam [] s
      else respond r.src stOK [] (setQp q { p with torn := false, cause := 0 } s))

end Sys2Proof.Machine
end

