-- ==== Sys2Proof/Machine/Shells.lean ====
section
/-! DEFINITION. The SHELL commands and the steps of re-bindings and hand-overs (11 R315, R329..R343; 13 T13-2, R393, R394). -/
namespace Sys2Proof.Machine

/-! ### Link shares (14 R413) -/

/-- What the shells of this device hold of a link. -/
def shareTotal (l : Nat) (s : State) : Nat := linkUsed 0 l s - (tabGet Link.zero l s.links).reserved

/-- Tells the partners of links what their VC2 has to hold. -/
def tellShares (ls : List Nat) (s : State) : State := ls.foldl (fun s l => emit (.cox l (.shareRequest l (shareTotal l s))) s) s

/-! ### Creation (R315, R323) -/

/-- Clearing of channels begins (R323). -/
def clearChans (cs : List Nat) (s : State) : State := cs.foldl (fun s c => setChan c { chanOf c s with clearing := true } s) s

/-- A shell is gone: its cores, channels and links go back to the pool. -/
def dropShell (d : Nat) (s : State) : State :=
  match shellOf d s with
  | none => s
  | some sh =>
    let cores := (sh.comp.cores ++ (match sh.rebind with | some r => r.comp.cores ++ r.moves.map (fun m => m.2.1) | none => [])).eraseDups
    let s := cores.foldl (fun s c => seatOut d c s) s
    let chans := sh.comp.sets.flatMap (fun e => e.2.chans)
    let s := { s with shells := tabDel d s.shells, retiring := s.retiring.filter (fun x => x != d), graphs := s.graphs.filter (fun e => e.1 / 65536 != d) }
    let s := chans.foldl (fun s c => let k := chanOf c s; setChan c { k with usable := k.usable && !k.leaving, leaving := false, clearing := false } s) s
    tellShares (sh.comp.links.map (fun g => g.link)) (fixWays d s)

/-- A creation that a partner's share cannot back is refused, and a re-binding likewise (R413). -/
def refuseShare (d l : Nat) (s : State) : State :=
  match shellOf d s with
  | none => s
  | some sh =>
    let off := fun (c : Comp) => 24 + 8 * c.halves.length + 8 * c.seats.length + 16 * c.sets.length + 8 * (c.links.findIdx (fun g => g.link == l))
    match sh.created, sh.rebind with
    | some src, _ => refuse src stShellRefused 0x0107 (off sh.comp) (dropShell d s)
    | none, some r =>
      let s := refuse r.src stShellRefused 0x0107 (off r.comp) (fixWays d (setShell d { sh with rebind := none, asks := [] } s))
      rederive d (tellShares (r.comp.links.map (fun g => g.link)) s)
    | none, none => s

/-- Status of a refused check: a reserved field has its own (R11, R310). -/
def badStatus (b : Bad) : Nat := if b.1 = 0x0102 then stReserved else stShellRefused

/-- SHELL.CREATE (R309, R315): `desc` is what the host answered where the descriptor lies there, `pick` the cdom the Cox assigns. -/
def execShellCreate (m : Nat) (desc : Ext) (pick : Nat) (s : State) : Res :=
  onReq 0x0301 (.mbx m) s (fun r =>
    let x := readDesc (r.word 0) (r.field 1 19 0) (r.field 1 40 32) desc s
    let s := x.2
    match x.1 with
    | .inl b => refuse r.src stShellRefused b.1 b.2 s
    | .inr de =>
      let d := freeDom pick s
      match checkNew d de s, d with
      | some b, _ => refuse r.src (badStatus b) b.1 b.2 s
      | none, none => s
      | none, some d =>
        let c := de.comp
        let sh := { newShell c with created := some r.src, asks := c.links, owns := c.sets.foldl (fun t e => tabPut e.1 ⟨d, 0, 0, 0, 0⟩ t) [] }
        let s := setBegun r.src (fixWays d (setShell d sh s))
        let s := (c.seats.zipIdx).foldl (fun s e => seatIn d sh ((s.stroke.count + 2) % 2 ^ 48) (e.2, e.1) s) s
        let s := clearChans (c.sets.flatMap (fun e => e.2.chans)) s
        creationDone d (tellShares (c.links.map (fun g => g.link)) s))

/-! ### Re-binding (R329..R338) -/

/-- Units that are fenced now: domain 2 a core, 8 a channel. -/
def fencedUnits (s : State) : List (Nat × Nat) :=
  (s.cores.filter (fun e => e.2.fenced || coreGone e.1 s)).map (fun e => (2, e.1)) ++ (s.mem.chans.filter (fun e => e.2.fenced)).map (fun e => (8, e.1))

/-- SHELL.REBIND (R329..R331): acceptance. One that follows another re-binding of the shell waits for it (R330). -/
def execShellRebind (m : Nat) (desc : Ext) (s : State) : Res :=
  match reqOf 0x0302 (.mbx m) s with
  | none => .next s
  | some r =>
    let d := r.field 2 8 0
    let k := r.field 3 23 16
    match shellOf d s with
    | none => .next (respond r.src stBadParam [] s)
    | some sh =>
      if !shellLive d s || s.retiring.contains d then .next (respond r.src stBadParam [] s)
      else if sh.rebind.isSome then .next s
      else if k = 0 || 64 < k then .next (respond r.src stBadParam [] s)
      else
        let x := readDesc (r.word 0) (r.field 1 19 0) (r.field 1 40 32) desc s
        let s := x.2
        match x.1 with
        | .inl b => .next (refuse r.src stShellRefused b.1 b.2 s)
        | .inr de =>
          match checkRebind d sh de s with
          | some b => .next (refuse r.src (badStatus b) b.1 b.2 s)
          | none =>
            if (List.range de.nC).any (fun i => inHandover sh i) ||
              (de.comp.sets.flatMap (fun e => e.2.chans)).any (fun c => s.released.any (fun x => x.from' == d && x.body.chans.contains c)) then .next (respond r.src stBusy [] s)
            else match rebindComp sh de.comp s, firstFlip sh.comp de.comp s with
              | some (c, sub), some f =>
                let rate := match sub with | some (_, o, _) => chanRate s o / 100 | none => 65535
                if (sub.isSome && r.field 3 15 0 = 0) || rate < r.field 3 15 0 then .next (respond r.src stBadParam [] s)
                else
                  let old := sh.comp.sets.flatMap (fun e => e.2.chans)
                  let fresh := (c.sets.flatMap (fun e => e.2.chans)).filter (fun x => !old.contains x)
                  let more := c.links.filter (fun g => !sh.comp.links.any (fun h => h.link == g.link && decide (g.share ≤ h.share)))
                  let rb : Rebind :=
                    { src := r.src, comp := c, flip := f, step := 0, rcopy := r.field 3 15 0, copyK := k, subst := sub, copied := false, moves := []
                      trb := rebindTime sh c s, began := s.now, forced := false, known := fencedUnits s, old := none }
                  let s := setBegun r.src (fixWays d (setShell d { sh with rebind := some rb, asks := more } s))
                  .next (rederive d (tellShares (more.map (fun g => g.link)) (clearChans fresh s)))
              | _, _ => .next s

/-- Lines of a channel that a set uses, as words that hold something or are flawed; every word where the channel is fenced (R336). -/
def usedWords (ch lines : Nat) (s : State) : List Nat :=
  let lo := dpaOf ch 0 / 8
  if (chanOf ch s).fenced then (List.range (lines * 64)).map (fun i => lo + i)
  else
    ((heldWords s).filter (fun w => decide (lo ≤ w) && decide (w < lo + lines * 64))).eraseDups

/-- Copies a word of the old channel to the same place of the new one (R336): what cannot be read becomes poison. -/
def copyWord (cdom new w : Nat) (s : State) : State :=
  let d := homeWord w s
  let s := homeNote cdom (8 * w) 8 s
  let m := onChannel new (8 * w) / 8
  if d.good then memPutWord m d.data false s else memPutWord m 0 true s

/-- SUBSTITUTION_COPY_DONE (R336): the copy, in a stroke in which it may run. -/
def execSubstitutionCopyDone (cdom : Nat) (s : State) : Res :=
  match shellOf cdom s with
  | none => .next s
  | some sh =>
    match sh.rebind with
    | none => .next s
    | some r =>
      match r.subst with
      | none => .next s
      | some (i, o, n) =>
        if r.step != 0 || r.copied || (chanOf n s).clearing || s.stroke.count % max 1 r.copyK != 0 then .next s
        else
          let lines := match setOf sh i with | some st => setLines s st | none => 0
          let s := (usedWords o lines s).foldl (fun s w => copyWord cdom n w s) s
          .next (match shellOf cdom s with | some sh => setShell cdom { sh with rebind := some { r with copied := true } } s | none => s)

/-- Groups of a shell on a core have requests of an epoch that is over (R335). -/
def oldRequests (cdom core : Nat) (s : State) : Bool :=
  let k := coreOf core s
  let old := fun (g : Nat × Group) => g.2.cdom == cdom && g.2.far.any (fun f => f.epoch != epochOf cdom s)
  k.groups.any old || k.saved.any old || k.ctxs.any (fun e => decide (e.1 / 1024 = cdom) && e.2.groups.any old)

/-- The old epoch of a shell is drained: what waited for that completes (R330, 13 T13-3). -/
def endDrain (cdom : Nat) (s : State) : State :=
  match shellOf cdom s with
  | none => s
  | some sh => sh.owed.foldl (fun s src => respond src stOK [] s) (setShell cdom { sh with oldEpoch := false, olds := [], owed := [] } s)

/-- The old epoch of a shell has drained (R335): no far request of it and none of what was outstanding at the flip is left. -/
def drained (cdom : Nat) (s : State) : Bool :=
  !(s.cores.map (fun e => e.1)).any (fun c => oldRequests cdom c s) &&
  (match shellOf cdom s with | some sh => let now := requestsOf cdom s; !sh.olds.any (fun x => now.contains x) | none => true)

/-- REBIND_DRAIN_DONE (R335): no request of the old epoch is outstanding any more. -/
def execRebindDrainDone (cdom : Nat) (s : State) : Res :=
  match shellOf cdom s with
  | none => .next s
  | some sh =>
    if !sh.oldEpoch || !drained cdom s then .next s else .next (endDrain cdom s)

/-- SEAT_MOVE_DONE (R331, R332). -/
def execSeatMoveDone (cdom seat : Nat) (s : State) : Res :=
  match shellOf cdom s with
  | none => .next s
  | some sh =>
    match sh.rebind with
    | none => .next s
    | some r =>
      match r.moves.find? (fun m => m.1 == seat) with
      | none => .next s
      | some m =>
        if r.step = 0 || sh.oldEpoch then .next s
        else
          let s := moveSeat cdom m s
          let sliced := match sh.comp.seats[seat]? with | some x => x.sliced | none => false
          let sh' := { sh with rebind := some { r with moves := r.moves.filter (fun x => x.1 != seat) }, arriving := if sliced then sh.arriving else sh.arriving ++ [(seat, m.2.2)] }
          let s := setShell cdom sh' s
          match sh.comp.seats[seat]? with
          | some x => .next (if x.sliced then planSeat cdom sh' ((s.stroke.count + 2) % 2 ^ 48) (seat, x) s else s)
          | none => .next s

/-- REBIND_COMPLETE (R331, R338): old resources go back to the pool or leave service (10 R301). -/
def execRebindComplete (cdom : Nat) (s : State) : Res :=
  match shellOf cdom s with
  | none => .next s
  | some sh =>
    match sh.rebind with
    | none => .next s
    | some r =>
      if r.step = 0 || sh.oldEpoch || !r.moves.isEmpty then .next s
      else
        let s := fixWays cdom (setShell cdom { sh with rebind := none } s)
        let out := (s.mem.chans.filter (fun e => e.2.leaving && (chanOwner e.1 s).isNone)).map (fun e => e.1)
        let s := out.foldl (fun s c => setChan c { chanOf c s with usable := false, leaving := false } s) s
        let s := tellShares (List.range 18) s
        .next (respond r.src (if r.forced then stForcedDrain else stOK) [r.flip] (rederive cdom s))

/-- A core counts requests that were outstanding at the flip: copies, stores that wait in miss registers, operations at atomic units. -/
def oldWork (olds : List (Nat × Nat)) (core : Nat) (s : State) : Bool :=
  (coreOf core s).copies.any (fun c => olds.contains (6, core * 2 ^ 32 + c.1)) || s.coh.miss.any (fun e => olds.contains (1, e.1) && e.2.by'.any (fun b => b.1 == core)) ||
  s.coh.atoms.any (fun e => olds.contains (4, e.1) && e.2.any (fun a => match a.by' with | .thread k _ _ _ => k == core | _ => false))

/-- A message whose bytes are never written. -/
def HMsg.blank : HMsg → HMsg
  | .push a d _ => .push a d []
  | .spush a d _ => .spush a d []
  | .dwrite w d _ => .dwrite w d []
  | .rwrite v t q d _ => .rwrite v t q d []
  | m => m

/-- Requests that were outstanding at the flip end in errors and are never performed (R338): stores in miss registers, writes that wait at homes, operations of
atomic units. -/
def cutOlds (d : Nat) (olds : List (Nat × Nat)) (s : State) : State :=
  let blank := fun (l : Nat) (m : HMsg) => if m.cdom = some d && olds.contains (2, l) then m.blank else m
  failAtomsIf (fun l a => a.cdom == d && olds.contains (4, l)) { s with coh := { s.coh with
    miss := s.coh.miss.map (fun (e : Nat × Miss) => (e.1, if e.2.cdom = d && olds.contains (1, e.1) then { e.2 with cells := [], by' := [] } else e.2))
    open' := s.coh.open'.map (fun (e : Nat × Txn) => (e.1, { e.2 with msg := blank e.1 e.2.msg }))
    queue := s.coh.queue.map (fun (e : Nat × List HMsg) => (e.1, e.2.map (blank e.1))) } }

/-- FORCED_DRAIN (R338): cores that still count requests of the old epoch are fenced and reset, and those requests end in errors. -/
def execForcedDrain (cdom : Nat) (s : State) : Res :=
  match shellOf cdom s with
  | none => .next s
  | some sh =>
    match sh.rebind with
    | none => .next s
    | some r =>
      if r.step = 0 || !sh.oldEpoch then .next s
      else
        let s := untilTime (r.began + r.trb) s
        let cores := (s.cores.map (fun e => e.1)).filter (fun c => oldRequests cdom c s || oldWork sh.olds c s)
        let s := logRec ((newRec 0x69 3 6 2).at cdom 0 0) s
        let cut := fun (g : Nat × Group) => (g.1, if g.2.cdom = cdom then { g.2 with far := g.2.far.map (fun f => if f.epoch = sh.epoch then f else { f with epoch := sh.epoch, items := f.items.map (fun it => { it with err := it.err || it.got.isNone }) }) } else g.2)
        let s := cores.foldl (fun s c =>
          let k := coreOf c s
          needReset c (setCore c { k with groups := k.groups.map cut, saved := k.saved.map cut, ctxs := k.ctxs.map (fun (e : Nat × Ctx) => (e.1, { e.2 with groups := e.2.groups.map cut })) } s)) s
        let s := cutOlds cdom sh.olds s
        let s := match shellOf cdom s with | some sh => setShell cdom { sh with rebind := sh.rebind.map (fun r => { r with forced := true }) } s | none => s
        .next (endDrain cdom s)

/-! ### Destruction (13 R393) -/

/-- Everything of a shell that waits for something ends with a status. -/
def endWaits (d status : Nat) (s : State) : State :=
  match shellOf d s with
  | none => s
  | some sh =>
    let fsrc := sh.flips.filterMap (fun f => match f.2 with | .map src _ _ | .unmap src _ | .release src _ _ | .acquire src _ _ _ => some src | .restore _ => none)
    let srcs := fsrc ++ sh.owed ++ sh.seals.map (fun x => x.src) ++ sh.mirrors.filterMap (fun x => x.src)
    let back := sh.flips.filterMap (fun f => match f.2 with | .acquire _ r _ _ => some r | _ => none)
    let s := { setShell d { sh with flips := [], owed := [], seals := [], mirrors := [] } s with released := s.released ++ back }
    srcs.foldl (fun s src => respond src status [] s) s

/-- SHELL.DESTROY (13 R393): its end is the domain reset (15 R448). -/
def execShellDestroy (m : Nat) (s : State) : Res :=
  onReq 0x0303 (.mbx m) s (fun r =>
    let d := r.field 0 8 0
    if !shellLive d s then respond r.src stBadParam [] s
    else if s.retiring.contains d then respond r.src stBusy [] s
    else
      let s := setBegun r.src { s with retiring := s.retiring ++ [d] }
      let s := abandonRebind d stShellGone 0 s
      let s := endWaits d stShellGone s
      let mine := fun (t : Nat) => tenantShell t s == d && (tenantOf t s).isSome
      let qs := (s.qps.filter (fun e => mine e.2.tenant)).map (fun e => e.1)
      let s := endCmds (fun c => c.cdom == d && !(c.started && c.st == .running)) stShellGone 0 s
      let s := qs.foldl (fun s q => endEntries q stShellGone 0 s) s
      let s := (s.cmds.filter (fun e => e.2.cdom == d)).foldl (fun s e => tellStop e.1 1 s) s
      (s.mbx.filter (fun e => e.2.session && mine e.2.tenant)).foldl (fun s e => endSession e.1 s) s)

/-! ### Hand-over (R339..R342) -/

/-- SHELL.RELEASE (R340). -/
def execShellRelease (src : Src) (s : State) : Res :=
  onReq 0x0304 src s (fun r =>
    let d := r.cdom s
    let i := r.field 0 2 0
    let to' := r.field 0 24 16
    match shellOf d s with
    | none => respond src stBadParam [] s
    | some sh =>
      if inHandover sh i then respond src stBusy [] s
      else if (setOf sh i).isNone || !shellLive to' s || to' = d then respond src stBadParam [] s
      else if i = 0 && sh.comp.seats.any (fun x => x.sliced) then refuse src stShellRefused 0x0108 0 s
      else if sh.seals.any (fun x => match tabFind x.range sh.ranges with | some y => y.set == i | none => false) ||
        sh.mirrors.any (fun x => match tabFind x.range sh.ranges with | some y => y.set == i || y.mset == i | none => false) then respond src stBusy [] s
      else setBegun src (setShell d { sh with flips := sh.flips ++ [((s.stroke.count + 2) % 2 ^ 48, .release src i to')] } s))

/-- The lowest set index that a shell does not use (T11-1: 0..7). -/
def freeSet (sh : Shell) : Option Nat :=
  (List.range 8).find? (fun i => (setOf sh i).isNone && !inHandover sh i && (match sh.rebind with | some r => !r.comp.sets.any (fun e => e.1 == i) | none => true))

/-- Frames of the shell's address space that ranges, and ranges on their way, take. -/
def takenFrames (sh : Shell) : List (Nat × Nat) :=
  sh.ranges.map (fun e => (e.2.base, e.2.frames)) ++
  sh.flips.flatMap (fun f => match f.2 with
    | .map _ r _ => [(r.base, r.frames)]
    | .acquire _ rel _ bases => (rel.ranges.zip bases).map (fun x => (x.2 / 2 ^ 21, x.1.frames))
    | .restore rs => rs.map (fun r => (r.base, r.frames))
    | _ => [])

/-- Frame runs do not meet. -/
def apart (a b : Nat × Nat) : Bool := decide (a.1 + a.2 ≤ b.1) || decide (b.1 + b.2 ≤ a.1)

/-- SHELL.ACQUIRE (R341). -/
def execShellAcquire (m : Nat) (s : State) : Res :=
  onReq 0x0305 (.mbx m) s (fun r =>
    let d := r.cdom s
    let from' := r.field 0 8 0
    let set := r.field 0 18 16
    let n := r.field 0 40 32
    match shellOf d s with
    | none => respond r.src stBadParam [] s
    | some sh =>
      if r.params.length < 8 * (2 + n) then respond r.src stBadParam [] s
      else match s.released.find? (fun x => x.from' == from' && x.set == set) with
        | none => respond r.src stHandoverRefused [] s
        | some rel =>
          if rel.to' != d || rel.seq != r.field 1 31 0 || rel.at' + Config.ms 1 ≤ s.now then respond r.src stHandoverRefused [] s
          else
            let bases := (List.range n).map (fun i => r.word (2 + i))
            let runs := (rel.ranges.zip bases).map (fun x => (x.2 / 2 ^ 21, x.1.frames))
            if n != rel.ranges.length || bases.any (fun b => b % 2 ^ 21 != 0) || runs.any (fun x => decide (2 ^ 23 < x.1 + x.2)) ||
              runs.zipIdx.any (fun x => (runs.drop (x.2 + 1)).any (fun y => !apart x.1 y) || (takenFrames sh).any (fun y => !apart x.1 y)) then respond r.src stBadParam [] s
            else match freeSet sh with
              | none => respond r.src stNoResource [] s
              | some i =>
                if 256 < sh.ranges.length + rel.ranges.length then respond r.src stNoResource [] s
                else
                  let s := { s with released := s.released.filter (fun x => !(x.from' == from' && x.set == set)) }
                  setBegun r.src (setShell d { sh with flips := sh.flips ++ [((s.stroke.count + 2) % 2 ^ 48, .acquire r.src rel i bases)] } s))

/-- HANDOVER_TIMEOUT (R342): a set that nobody acquired goes back to its releaser. -/
def execHandoverTimeout (cdom set : Nat) (s : State) : Res :=
  match s.released.find? (fun x => x.from' == cdom && x.set == set) with
  | none => .next s
  | some rel =>
    let s := untilTime (rel.at' + Config.ms 1) s
    let s := { s with released := s.released.filter (fun x => !(x.from' == cdom && x.set == set)) }
    let s := signal false 0 (logRec ((newRec 0x66 2 0 0).at cdom 0 0) s)
    match (if s.retiring.contains cdom then none else shellOf cdom s) with
    | some sh =>
      let o := ownRec cdom set sh
      .next (rederive cdom (setShell cdom { sh with
        comp := { sh.comp with sets := tabPut set rel.body sh.comp.sets }
        rebind := sh.rebind.map (fun r => { r with comp := { r.comp with sets := tabPut set rel.body r.comp.sets } })
        owns := tabPut set { o with owner := cdom, to' := 0, hstate := 0, seq := (o.seq + 1) % 2 ^ 32 } sh.owns
        flips := sh.flips ++ [((s.stroke.count + 1) % 2 ^ 48, .restore rel.ranges)] } s))
    | none =>
      .next (rel.body.chans.foldl (fun s c =>
        let s := zeroChan c s
        let k := chanOf c s
        setChan c { k with usable := k.usable && !k.leaving, leaving := false } s) s)

/-! ### Queries (T13-2) -/

/-- Word 0 and 1 of a tenant record (T11-10). -/
def tenantWords (r : Tenant) : List Nat :=
  [2 ^ 63 + r.shell * 2 ^ 54 + b2n r.rGuar * 2 ^ 53 + b2n r.rMap * 2 ^ 52 + b2n r.rHand * 2 ^ 51 + b2n r.rDebug * 2 ^ 50 + r.pasid,
   b2n r.keySet * 2 ^ 63 + r.keyGen]

/-- The next stroke that opens a window of a shell. -/
def nextWindow (sh : Shell) (s : State) : Nat :=
  let c := s.stroke.count
  match (List.range 65).find? (fun i => (c + 1 + i) % 2 ^ 48 % sh.comp.k == sh.comp.o) with | some i => (c + 1 + i) % 2 ^ 48 | none => 0

/-- SHELL.QUERY (T13-2). -/
def execShellQuery (src : Src) (s : State) : Res :=
  onReq 0x0306 src s (fun r =>
    let d := r.cdom s
    if bit (r.word 0) 0 then
      match tenantOf (r.field 0 27 16) s with
      | some t => if t.shell = d then respond src stOK (tenantWords t) s else respond src stNotPermitted [] s
      | none => respond src stOK [0, 0] s
    else match shellOf d s with
      | none => respond src stBadParam [] s
      | some sh =>
        let cs := sh.comp.sets.flatMap (fun e => e.2.chans)
        let f := (cs.filter (fun c => decide (c < 64))).length
        let g := (handlesWith d (fun _ => true) s).length
        respond src stOK [d + sh.comp.seats.length * 2 ^ 16 + f * 2 ^ 25 + (cs.length - f) * 2 ^ 32 + sh.epoch * 2 ^ 37 + g * 2 ^ 40,
          nextWindow sh s + b2n (sh.ranges.any (fun e => e.2.mirrorLost)) * 2 ^ 48] s)

end Sys2Proof.Machine
end

