-- ==== Sys2Proof/Machine/MemCmds.lean ====
section
/-! DEFINITION. The MEMORY commands (10 R299..R301; 11 R320, R344..R346; 09 R271, R272; 12 R371, R374; 13 T13-3, R385, R395). -/
namespace Sys2Proof.Machine

/-! ### Mapping (11 R320) -/

/-- Runs of frames of a set that ranges, ranges on their way and the context area take (R321, R322). -/
def takenInSet (s : State) (sh : Shell) (i : Nat) : List (Nat × Nat) :=
  let of := fun (r : Range) => if r.set = i || (r.mirror && r.mset = i) then [(r.frame0, r.frames)] else []
  let ctx := max (contextFrames sh.comp) (match sh.rebind with | some r => contextFrames r.comp | none => 0)
  sh.ranges.flatMap (fun e => of e.2) ++ (sh.flips.flatMap (fun f => match f.2 with | .map _ r _ => of r | .restore rs => rs.flatMap of | _ => [])) ++
  sh.mirrors.flatMap (fun b => match tabFind b.range sh.ranges with | some r => if r.mset = i then [(r.frame0, r.frames)] else [] | none => []) ++
  (if i = 0 && 0 < ctx then (match setOf sh 0 with | some st => [(setFrames s st - ctx, ctx)] | none => []) else [])

/-- The set as the accepted re-binding of the shell will leave it; none where it changes what its frames are (R329). -/
def setAfter (sh : Shell) (i : Nat) : Option ChSet :=
  match setOf sh i, sh.rebind with
  | some a, some r =>
    if r.step != 0 then some a
    else (match r.comp.sets.find? (fun e => e.1 == i) with
      | some (_, b) => if a.coded == b.coded && a.qLim == b.qLim && a.data.length == b.data.length then some b else none
      | none => none)
  | x, none => x
  | none, _ => none

/-- A run of frames of a set is free and holds no retired line (10 R300). -/
def runFree (s : State) (sh : Shell) (i : Nat) (st : ChSet) (run : Nat × Nat) : Bool :=
  decide (run.1 + run.2 ≤ setFrames s st) && (takenInSet s sh i).all (apart run) &&
  !(badFrames s st ++ (match setAfter sh i with | some b => badFrames s b | none => [])).any (fun f => decide (run.1 ≤ f) && decide (f < run.1 + run.2))

/-- A mirror set fits its primary (10 R302; R344). -/
def mirrorFits (s : State) (a b : ChSet) : Bool :=
  let f := fun (st : ChSet) => decide (st.chans.headD 0 < 64)
  decide (a.data.length * setLines s a = b.data.length * setLines s b) && ((f a && !f b) || (f a == f b && !a.chans.any (fun c => b.chans.contains c)))

/-- Indices of ranges on their way. -/
def comingIx (sh : Shell) : List Nat := sh.flips.filterMap (fun f => match f.2 with | .map _ _ i => some i | _ => none)

/-- MEMORY.MAP (R320, R321): the range enters at the flip (R330). `pick` is the range index the Cox takes. -/
def execMemoryMap (src : Src) (pick : Nat) (s : State) : Res :=
  onReq 0x0401 src s (fun r =>
    let d := r.cdom s
    let base := r.word 0
    let frames := r.field 1 23 0
    let w := r.word 2
    let set := bits w 2 0
    let mset := bits w 5 3
    match shellOf d s with
    | none => respond src stBadParam [] s
    | some sh =>
      if base % 2 ^ 21 != 0 || frames = 0 || 2 ^ 23 < base / 2 ^ 21 + frames || !(takenFrames sh).all (apart (base / 2 ^ 21, frames)) then respond src stBadParam [] s
      else if inHandover sh set || (bit w 6 && inHandover sh mset) then respond src stBusy [] s
      else if s.released.any (fun x => x.from' == d && x.ranges.any (fun y => !apart (base / 2 ^ 21, frames) (y.base, y.frames))) then respond src stBusy [] s
      else match setOf sh set with
        | none => respond src stBadParam [] s
        | some st =>
          if (setAfter sh set).isNone || (bit w 6 && (setOf sh mset).isSome && (setAfter sh mset).isNone) then respond src stBusy [] s else
          let ms := if bit w 6 then setOf sh mset else some st
          match ms with
          | none => respond src stBadParam [] s
          | some ms =>
            if bit w 6 && (set = mset || !mirrorFits s st ms) then respond src stBadParam [] s
            else
              let ok := fun (f : Nat) => runFree s sh set st (f, frames) && (!bit w 6 || runFree s sh mset ms (f, frames))
              let all := r.word 3 == bmAll
              let f0 := if all then (List.range (setFrames s st)).find? ok else if ok (r.word 3) then some (r.word 3) else none
              let free := fun (i : Nat) => (tabFind i sh.ranges).isNone && !(comingIx sh).contains i
              let ix := if pick < 256 && free pick then some pick else (List.range 256).find? free
              if !all && setFrames s st < r.word 3 + frames then respond src stBadParam [] s
              else match f0, ix with
                | some f, some i =>
                  let rg : Range := ⟨base / 2 ^ 21, frames, set, if bit w 6 then mset else 0, bit w 6, false, false, false, bit w 7, bit w 8, f⟩
                  setBegun src (setShell d { sh with flips := sh.flips ++ [((s.stroke.count + 2) % 2 ^ 48, .map src rg i)] } s)
                | _, _ => respond src stNoResource [] s)

/-- A range of the request's shell by its base. -/
def rangeByBase (sh : Shell) (base : Nat) : Option (Nat × Range) := sh.ranges.find? (fun e => e.2.base * 2 ^ 21 == base)

/-- Something is being done with a range: a seal, a mirror, a flip. -/
def rangeBusy (sh : Shell) (i : Nat) : Bool :=
  sh.seals.any (fun x => x.range == i) || sh.mirrors.any (fun x => x.range == i) || sh.flips.any (fun f => match f.2 with | .unmap _ k => k == i | _ => false) ||
  (match tabFind i sh.ranges with | some r => inHandover sh r.set || (r.mirror && inHandover sh r.mset) | none => false)

/-- Runs a command on a range that in0 names by its base. -/
def onRange (code : Nat) (src : Src) (s : State) (f : Nat → Shell → Nat → Range → State) : Res :=
  onReq code src s (fun r =>
    let d := r.cdom s
    match shellOf d s with
    | none => respond src stBadParam [] s
    | some sh =>
      match rangeByBase sh (r.word 0) with
      | none => respond src stBadParam [] s
      | some (i, g) => f d sh i g)

/-- MEMORY.UNMAP (R320): the range leaves at the flip, and the command completes when the old epoch has drained. -/
def execMemoryUnmap (src : Src) (s : State) : Res :=
  onRange 0x0402 src s (fun d sh i _ =>
    if rangeBusy sh i then respond src stBusy [] s
    else setBegun src (setShell d { sh with flips := sh.flips ++ [((s.stroke.count + 2) % 2 ^ 48, .unmap src i)] } s))

/-! ### Lines of an address range -/

/-- Lines that hold something anywhere: caches, buffers, home cache, directory, waiting writes. -/
def heldLines (s : State) : List Nat :=
  (s.coh.lines.map (fun (e : Nat × CLine) => e.1 % 2 ^ 40) ++ s.coh.wbuf.map (fun (e : Nat × WBuf) => e.1 % 2 ^ 40) ++ s.coh.home.map (fun (e : Nat × HLine) => e.1) ++
    s.coh.dir.map (fun (e : Nat × DirEntry) => e.1) ++ s.mem.rmw.map (fun (e : Nat × List Cell) => e.1 / 64)).eraseDups

/-- Whether a line lies in a run of a shell's addresses. -/
def lineWithin (d a n line : Nat) (s : State) : Bool :=
  match setLineOf (line * 512) s with
  | none => false
  | some x =>
    x.cdom == d && x.sh.ranges.any (fun e =>
      let r := e.2
      let at' := (r.base + x.l / 4096 - r.frame0) * 2 ^ 21 + x.l % 4096 * 512
      serveSet r == x.ix && decide (r.frame0 ≤ x.l / 4096) && decide (x.l / 4096 < r.frame0 + r.frames) && decide (a ≤ at') && decide (at' < a + n))

/-- Every copy of a line is dropped (09 R271); an answer to an RdN that is on its way brings none. -/
def dropLine (line : Nat) (s : State) : State :=
  let h := hlineOf line s
  let s := (bitList h.valid 64).foldl (fun s i => setTag (homeKey (line * 64 + i)) ⟨false, 0⟩ s) s
  let s := setHLine line HLine.zero s
  let s := { s with
    coh := { s.coh with
      lines := s.coh.lines.filter (fun e => e.1 % 2 ^ 40 != line), wbuf := s.coh.wbuf.filter (fun e => e.1 % 2 ^ 40 != line)
      miss := s.coh.miss.map (fun (e : Nat × Miss) => (e.1, if e.1 % 2 ^ 40 = line && e.2.nfill then { e.2 with stale := true } else e.2)) }
    mem := { s.mem with rmw := s.mem.rmw.filter (fun e => e.1 / 64 != line) } }
  if (dirOf line s).dstate = .inv then s else setDir line (dirOf line s).toInv s

/-- Writes the poison code word into a line, and into its other copies (09 R272). -/
def poisonLine (a : Nat) (sh : Shell) (s : State) : State :=
  match translate s sh a with
  | none => s
  | some (dpa, _) => (List.range 64).foldl (fun s i =>
      (forwardsOf (dpa + 8 * i) s).foldl (fun s m => memPutWord (m / 8) 0 true s) (memPutWord (dpa / 8 + i) 0 true s)) s

/-- MEMORY.DISCARD (09 R271, R272): takes place when no line of the range is busy at its home. -/
def execMemoryDiscard (src : Src) (s : State) : Res :=
  match reqOf 0x0403 src s with
  | none => .next s
  | some r =>
    let d := r.cdom s
    let a := r.word 0
    let n := r.field 1 39 0
    match shellOf d s with
    | none => .next (respond src stBadParam [] s)
    | some sh =>
      if a % 512 != 0 || n % 512 != 0 then .next (respond src stBadParam [] s)
      else if n = 0 then .next (respond src stOK [] s)
      else if !(List.range ((a + n + 2 ^ 21 - 1) / 2 ^ 21 - a / 2 ^ 21)).all (fun i => (rangeAt sh (a / 2 ^ 21 + i)).isSome) then .next (respond src stTranslation [] s)
      else if (s.coh.open'.map (fun e => e.1) ++ s.coh.queue.map (fun e => e.1) ++ s.coh.atoms.map (fun e => e.1)).any (fun l => lineWithin d a n l s && lineBusy l s) then .next s
      else
        let s := ((heldLines s).filter (fun l => lineWithin d a n l s)).foldl (fun s l => dropLine l s) s
        let s := if sh.discardPoison then (List.range (n / 512)).foldl (fun s i => poisonLine (a + 512 * i) sh s) s else s
        .next (respond src stOK [] s)

/-! ### Retirement (10 R299..R301) -/

/-- Mapped frames that hold a retired line. -/
def pendingFrames (s : State) : Nat :=
  s.shells.foldl (fun n e => e.2.ranges.foldl (fun n x =>
    let r := x.2
    let bad := fun (i : Nat) => match setOf e.2 i with | some st => badFrames s st | none => []
    let all := (bad r.set ++ (if r.mirror then bad r.mset else [])).eraseDups
    n + (all.filter (fun f => decide (r.frame0 ≤ f) && decide (f < r.frame0 + r.frames))).length) n) 0

/-- out0 of MEMORY.RETIRE. -/
def retireWord (s : State) : Nat :=
  s.dev.devsec.pages.length + s.dev.devsec.banks.length * 2 ^ 16 + pendingFrames s % 2 ^ 24 * 2 ^ 24 + (s.mem.chans.filter (fun e => e.2.leaving)).length * 2 ^ 48

/-- A DPA of a usable line (R286). -/
def dpaUsable (s : State) (a : Nat) : Bool := decide (a < Config.tierSTop) && decide (dpaLine a < chanLines s (dpaChan a))

/-- Same bank, and for a page the same row, of one channel (R288). -/
def sameUnit (s : State) (page : Bool) (a b : Nat) : Bool :=
  let p := dpaPlace s a
  let q := dpaPlace s b
  dpaChan a == dpaChan b && p.1 == q.1 && (!page || p.2.1 == q.2.1)

/-- MEMORY.RETIRE (R299..R301). -/
def execMemoryRetire (m : Nat) (s : State) : Res :=
  onReq 0x0404 (.mbx m) s (fun r =>
    let k := r.field 0 1 0
    let a := r.field 1 39 0
    let v := s.dev.devsec
    if k = 2 then respond r.src stOK [retireWord s] s
    else if k = 3 || !dpaUsable s a then respond r.src stBadParam [] s
    else if k = 0 then
      if v.pages.any (fun b => sameUnit s true a b) then respond r.src stOK [retireWord s] s
      else if 4096 ≤ v.pages.length then respond r.src stListFull [] s
      else let s := writeDevSec { v with pages := v.pages ++ [a] } s; respond r.src stOK [retireWord s] s
    else if v.banks.any (fun b => sameUnit s false a b) then respond r.src stOK [retireWord s] s
    else if 64 ≤ v.banks.length then respond r.src stListFull [] s
    else
      let s := writeDevSec { v with banks := v.banks ++ [a] } s
      let ch := dpaChan a
      let c := chanOf ch s
      let held := (chanOwner ch s).isSome || s.released.any (fun x => x.body.chans.contains ch)
      let s := setChan ch (if held then { c with leaving := true } else { c with usable := false }) s
      respond r.src stOK [retireWord s] s)

/-! ### Seals (11 R345; 13 R395) -/

/-- The lines of a coded set that a range touches: its first line q and the one after its last. -/
def sealRun (st : ChSet) (r : Range) : Nat × Nat :=
  let c := max 1 st.data.length
  (r.frame0 * 4096 / c, ceilDiv ((r.frame0 + r.frames) * 4096) c)

/-- A line's place on a channel of a run of lines q. -/
def inRun (st : ChSet) (run : Nat × Nat) (line : Nat) : Bool :=
  st.data.contains (dpaChan (line * 512)) && decide (run.1 ≤ dpaLine (line * 512)) && decide (dpaLine (line * 512) < run.2)

/-- MEMORY.SEAL: from here on the range takes no write (R395); its parity follows. -/
def execMemorySeal (src : Src) (s : State) : Res :=
  onRange 0x0405 src s (fun d sh i g =>
    match setOf sh g.set with
    | none => respond src stBadParam [] s
    | some st =>
      if st.coded = 0 then respond src stBadParam [] s
      else if rangeBusy sh i then respond src stBusy [] s
      else if g.sealed then respond src stOK [] s
      else
        let lines := (s.coh.dir.filter (fun e => decide (e.2.dstate ≠ .inv) && inRun st (sealRun st g) e.1)).map (fun e => e.1)
        let s := lines.foldl (fun s l => recallAll l s) s
        setBegun src (setShell d { sh with ranges := tabPut i { g with sealed := true } sh.ranges, seals := sh.seals ++ [⟨i, src⟩] } s))

/-- MEMORY.UNSEAL; it also stops a seal in progress (R395). -/
def execMemoryUnseal (src : Src) (s : State) : Res :=
  onRange 0x0406 src s (fun d sh i g =>
    match setOf sh g.set with
    | none => respond src stBadParam [] s
    | some st =>
      if st.coded = 0 then respond src stBadParam [] s
      else
        let s' := setShell d { sh with ranges := tabPut i { g with sealed := false } sh.ranges, seals := sh.seals.filter (fun x => x.range != i) } s
        let s' := (sh.seals.filter (fun x => x.range == i)).foldl (fun s x => respond x.src stAbandoned [] s) s'
        respond src stOK [] s')

/-- The parity word of one place of a coded set (R345): poison where a data word is lost. -/
def parityWord (cdom : Nat) (st : ChSet) (k : Nat) (s : State) : State :=
  let ws := st.data.map (fun c => dpaOf c 0 / 8 + k)
  let s := ws.foldl (fun s w => homeNote cdom (8 * w) 8 s) s
  let p := dpaOf (st.chans.getLastD 0) 0 / 8 + k
  if ws.all (fun w => (homeWord w s).good) then memPutWord p (ws.foldl (fun x w => x ^^^ (homeWord w s).data) 0) false s else memPutWord p 0 true s

/-- SEAL_COMPLETE (R345, R395): the parity of the range's lines is current. -/
def execSealComplete (cdom range : Nat) (s : State) : Res :=
  match shellOf cdom s with
  | none => .next s
  | some sh =>
    match sh.seals.find? (fun x => x.range == range), tabFind range sh.ranges with
    | some x, some g =>
      match setOf sh g.set with
      | none => .next s
      | some st =>
        let run := sealRun st g
        if s.mem.rmw.any (fun e => inRun st run (e.1 / 64)) || s.coh.open'.any (fun e => inRun st run e.1) then .next s
        else
          let s := ((s.coh.home.filter (fun e => inRun st run e.1)).map (fun e => e.1)).foldl (fun s l => homeEvict l s) s
          let ks := (st.chans.flatMap (fun c => (usedWords c run.2 s).map (fun w => w - dpaOf c 0 / 8))).eraseDups.filter (fun k => decide (run.1 * 64 ≤ k))
          let s := ks.foldl (fun s k => parityWord cdom st k s) s
          let s := match shellOf cdom s with | some sh => setShell cdom { sh with seals := sh.seals.filter (fun y => y.range != range) } s | none => s
          .next (respond x.src stOK [] s)
    | _, _ => .next s

/-- MEMORY.REBUILD (10 R304, R305; R344): a mirrored range whose sets are whole again is built anew. -/
def execMemoryRebuild (src : Src) (s : State) : Res :=
  onRange 0x0407 src s (fun d sh i g =>
    let whole := fun (k : Nat) => match setOf sh k with | some st => !st.chans.any (fun c => (chanOf c s).fenced) | none => false
    if !g.mirror || !whole g.set || !whole g.mset then respond src stBadParam [] s
    else if rangeBusy sh i then respond src stBusy [] s
    else if !g.mirrorLost then respond src stOK [] s
    else setBegun src (setShell d { sh with mirrors := sh.mirrors ++ [⟨i, [], some src⟩] } s))

/-! ### Aperture, copies, fences -/

/-- MEMORY.APERTURE (12 R373, R374; 13 R393). -/
def execMemoryAperture (src : Src) (s : State) : Res :=
  onReq 0x0408 src s (fun r =>
    let d := r.cdom s
    let k := r.field 0 9 0
    let w := r.word 0
    let a := aptOf k s
    if a.valid && a.cdom != d then respond src stBusy [] s
    else if !bit w 16 then respond src stOK [] (setApt k { a with valid := false, wr := false, cdom := 0, base := 0 } s)
    else if r.word 1 % 2 ^ 26 != 0 then respond src stBadParam [] s
    else respond src stOK [] (setApt k { a with valid := true, wr := bit w 17, cdom := d, base := r.word 1 } s))

/-- A copy on its way: what is left of the host's or peer's data, status so far. -/
structure CopyAcc where
  ext    : Ext
  status : Nat
  st     : State

/-- One sector of MEMORY.COPY, by a direct agent (09 T9-2; 11 R317, R326): read, then write. -/
def copyStep (q d tenant src dst : Nat) (x : CopyAcc) (k : Nat) : CopyAcc :=
  if x.status != 0 then x
  else
    let s := x.st
    let sa := src + 64 * k
    let da := dst + 64 * k
    let at' := fun (a : Nat) => if 2 ^ 48 ≤ a then Loc.unmapped else locate d [] a s
    let fail := fun (n : Nat) (s : State) => { x with status := n, st := s }
    let gone := x.ext.err != 0 || decide (x.ext.data.length < 64)
    let rd : List Byte × Nat × State × Bool := match at' sa with
      | .mem dpa _ _ =>
        if d ∈ s.coh.failing then ([], stFaultData, s, false)
        else let h := homeRead dpa 64 s; (h.1, if h.2.1 then 0 else stFaultData, homeNote d dpa 64 s, false)
      | .spad c off => let h := spadRead c off 64 s; (h.1, if h.2.1 then 0 else stFaultData, logSpad c off 64 d s, false)
      | .host h =>
        let s := emit (.hostRead (pasidOf tenant s) h 64) s
        (x.ext.data.take 64, if s.host.lost then stHostLost else if gone then stFaultData else 0, s, true)
      | .peer _ _ => (x.ext.data.take 64, if gone then stFaultData else 0, s, true)
      | .bad => ([], stFaultData, s, false)
      | .unmapped => ([], stTranslation, s, false)
    let s := rd.2.2.1
    let x := if rd.2.2.2 then { x with ext := { x.ext with data := x.ext.data.drop 64 } } else x
    if rd.2.1 != 0 then { x with status := rd.2.1, st := s }
    else match at' da with
      | .mem dpa wr _ => if !wr then fail stTranslation s else if d ∈ s.coh.failing then fail stFaultData s else { x with st := homeWrite .cox d dpa rd.1 s }
      | .spad c off => { x with st := spadWrite c off rd.1 s }
      | .host h => if s.host.lost then fail stHostLost s else { x with st := emit (.hostWrite (pasidOf tenant s) h rd.1 true) s }
      | .peer dev off => (match sendReq d dev kWrite tenant 0 0 off 64 rd.1 (.queue q) s with | some s => { x with st := s } | none => fail stFaultData s)
      | .bad => fail stFaultData s
      | .unmapped => fail stTranslation s

/-- A sector of a MEMORY.COPY waits for its homes: the destination's line is busy (09 R258), or the source's sector cannot be read yet (10 R297, R306). -/
def copyWaits (d src dst : Nat) (s : State) : Bool :=
  (match locate d [] src s with | .mem dpa _ _ => !sectorsOpen (dpa / 512) (sectorsOf (dpa % 512) 64) s | _ => false) ||
  (match locate d [] dst s with | .mem dpa _ _ => lineBusy (dpa / 512) s | _ => false)

/-- MEMORY.COPY (13 R385): best-effort work of the entry at the head of a queue; `ext` is what host or peer sources answered, in order. Writes to a
peer are complete once it has acknowledged them (14 R416). -/
def execMemoryCopy (q : Nat) (ext : Ext) (s : State) : Res :=
  match tabFind q s.qps, reqOf 0x0409 (.queue q) s with
  | some p, some r =>
    match p.entries with
    | [] => .next s
    | e :: _ =>
      let n := r.field 2 31 0
      if !e.be then .next (respond r.src stNotGuaranteed [] s)
      else if n % 64 != 0 || n = 0 || 2 ^ 31 < n || r.word 0 % 64 != 0 || r.word 1 % 64 != 0 then .next (respond r.src stBadParam [] s)
      else if (List.range (n / 64)).any (fun k => copyWaits (r.cdom s) (r.word 0 + 64 * k) (r.word 1 + 64 * k) s) then .next s
      else
        let x := (List.range (n / 64)).foldl (copyStep q (r.cdom s) r.tenant (r.word 0) (r.word 1)) ⟨ext, 0, s⟩
        if x.status = 0 && x.st.rreqs.any (fun e => e.2.wait == .queue q) then .next (setBegun r.src x.st)
        else .next (respond r.src x.status [] { x.st with rreqs := x.st.rreqs.map (fun (e : Nat × RReq) => (e.1, if e.2.wait = .queue q then { e.2 with wait := .queue 4096 } else e.2)) })
  | _, _ => .next s

/-- MEMORY.FENCE (08 R243; 12 R371): after every BAR4 write that came before; then the flag write, once its line is free at its home. -/
def execMemoryFence (q : Nat) (s : State) : Res :=
  match reqOf 0x0410 (.queue q) s with
  | none => .next s
  | some r =>
    let waits := bar4Waits s || s.coh.bar4.any (fun e => match e.2 with | .dwrite _ _ _ => true | _ => false)
    let d := r.cdom s
    let a := r.field 0 47 0
    if waits then .next s
    else if !bit (r.word 0) 63 then .next (respond r.src stOK [] s)
    else if a % 8 != 0 then .next (respond r.src stBadParam [] s)
    else match shellOf d s with
      | none => .next (respond r.src stTranslation [] s)
      | some sh =>
        match (if a < 2 ^ 44 then translate s sh a else none) with
        | some (dpa, g) =>
          if !g.wr || g.sealed then .next (respond r.src stTranslation [] s)
          else if d ∈ s.coh.failing then .next (respond r.src stFaultData [] s)
          else if lineBusy (dpa / 512) s then .next s
          else .next (respond r.src stOK [] (homeWrite .cox d dpa (leBytes (r.word 1) 8) s))
        | none => .next (respond r.src stTranslation [] s)

end Sys2Proof.Machine
end

