-- ==== Sys2Proof/Machine/LinkOps.lean ====
section
/-! DEFINITION. What the events of a Falnar link do (14 R403..R418): replays, retrains, links that go down, answers that reach their requesters, requests
that other devices send to a shell here. -/
namespace Sys2Proof.Machine

/-! ### Requesters -/

/-- Shell address of a place in a peer's window (T8-1). -/
def peerAddr (dev off : Nat) : Nat := 0x800000000000 + dev * 2 ^ 35 + off

/-- Puts an answer into the item of a thread's access that waits for it. -/
def fillItem (r : RReq) (core slot pc item : Nat) (got : Option (List Byte)) (s : State) : State :=
  match groupOf core slot s with
  | none => s
  | some g =>
    let waits := fun (it : FarItem) => it.got.isNone && !it.err && it.loc == .peer r.dev r.off
    match g.far.find? (fun f => f.pc == pc && (match f.items[item]? with | some it => waits it | none => false)) with
    | none => s
    | some f =>
      let its := f.items.zipIdx.map (fun (x : FarItem × Nat) => if x.2 = item then (match got with | some b => { x.1 with got := some b } | none => { x.1 with err := true }) else x.1)
      setGroup core slot { g with far := g.far.map (fun h => if h = f then { f with items := its } else h) } s

/-- A response without error reaches its requester (R401, R416; 06 R167). -/
def remoteOk (r : RReq) (data : List Byte) (s : State) : State :=
  match r.wait with
  | .thread core slot pc item => fillItem r core slot pc item (some data) s
  | .copy core id sector =>
    (match tabFind id (coreOf core s).copies with
    | none => s
    | some cp => let s := sectorDone core id sector s; if r.op = kSector then s else ctrAdd core cp.ctr s)
  | .store _ _ _ _ | .station _ _ => s
  | .queue q => if s.rreqs.any (fun e => e.2.wait == .queue q) then s else respond (.queue q) stOK [] s

/-- An error response reaches its requester (R408; 03 R96; 06 R168, R171). -/
def remoteFail (r : RReq) (s : State) : State :=
  match r.wait with
  | .thread core slot pc item => fillItem r core slot pc item none s
  | .copy core id sector =>
    (match tabFind id (coreOf core s).copies with | some cp => copyFault core id 0x05 (cp.dst + 64 * sector) cp s | none => s)
  | .store core slot pc lane =>
    (match groupOf core slot s with
    | some g => if g.park.isSome then s else park core slot ⟨0x05, lane, pc, peerAddr r.dev r.off % 2 ^ 48⟩ s
    | none => s)
  | .station cmd core => stationFault (fun _ k => k == core) cmd s
  | .queue q =>
    respond (.queue q) stFaultData [] { s with rreqs := s.rreqs.map (fun (e : Nat × RReq) => (e.1, if e.2.wait = .queue q then { e.2 with wait := .queue 4096 } else e.2)) }

/-- An outstanding request ends with an error response (R417, R418). -/
def failReq (t : Nat) (s : State) : State := match tabFind t s.rreqs with | some r => remoteFail r (dropTag t s) | none => s

/-! ### Messages that pass through (R409, R412) -/

/-- The virtual channel after a dateline. -/
def phaseVc (dl : Bool) (vc : Nat) : Nat := if dl && (vc == 3 || vc == 5) then vc + 1 else vc

/-- A request of one device to another, as told from a response. -/
def isRequest (kind : Nat) : Bool := kind == kRead || kind == kWrite || kind == kSector || kind == kAtom || kind == kAddx

/-- Forgets a request that was sent on. -/
def dropFwd (src tag : Nat) (s : State) : State :=
  { s with links := s.links.map (fun (e : Nat × Link) => (e.1, { e.2 with fwds := e.2.fwds.filter (fun f => !(f.1 == src && f.2.1 == tag)) })) }

/-- Sends a message of another device on towards its destination, or answers a request with status 0x06 (R409). -/
def forwardMsg (kind : Nat) (m : RemoteMsg) (s : State) : State :=
  match routeLink m.dst s with
  | some (l, dl) =>
    let s := sendMsg l kind { m with vc := phaseVc dl m.vc } s
    if isRequest kind then setLink l { linkOf l s with fwds := (linkOf l s).fwds ++ [(m.src, m.tag, m.vc)] } s else dropFwd m.dst m.tag s
  | none => if isRequest kind then answerRemote m.vc m.src m.tag kError 6 [] s else dropFwd m.dst m.tag s

/-! ### A link that goes down (R417) -/

/-- Shells' grants on a link are released here; the WCETs of their shells are derived again. -/
def releaseShares (l : Nat) (s : State) : State :=
  let on := fun (g : LinkGrant) => g.link == l
  let hit := (s.shells.filter (fun e => e.2.comp.links.any on || (match e.2.rebind with | some r => r.comp.links.any on | none => false))).map (fun e => e.1)
  let strip := fun (c : Comp) => { c with links := c.links.filter (fun g => !on g) }
  let s := (s.shells.filter (fun e => e.2.asks.any on)).foldl (fun s e => refuseShare e.1 l s) s
  hit.foldl (fun s d =>
    match shellOf d s with
    | some sh => rederive d (setShell d { sh with comp := strip sh.comp, rebind := sh.rebind.map (fun r => { r with comp := strip r.comp }) } s)
    | none => s) s

/-- A link goes down: requests sent on it fail, shares end. `st` is what it becomes. -/
def dropLink (l : Nat) (st : LinkSt) (s : State) : State :=
  let k := linkOf l s
  let s := setLink l { k with st := st, replay := [], reserved := 0, retrainAt := none, eq' := none, fwds := [], nak := false, gap := false, rxLeft := 0 } s
  let tags := (s.rreqs.filter (fun e => e.2.link == l)).map (fun e => e.1)
  let s := tags.foldl (fun s t => failReq t s) s
  let s := k.fwds.foldl (fun s f => answerRemote f.2.2 f.1 f.2.1 kError 6 [] s) s
  releaseShares l s

/-- A link goes down on an error, with its record (15 T15-12). -/
def linkDown (l : Nat) (st : LinkSt) (det : Nat) (inj : Option Nat) (s : State) : State :=
  dropLink l st (logRec { (newRec det 3 5 0).at 0x1FF 5 l with inj := inj } s)

/-! ### Retrains (R404, R405) -/

/-- A retrain begins at a width; flits stay in the replay buffer. -/
def beginRetrain (l width : Nat) (s : State) : State :=
  emit (.linkRetrain l width) (setLink l { linkOf l s with st := .retraining, retrainAt := some s.now, replays := 0 } s)

/-- The width without the faulty lanes: 4, a sound pair, one sound lane, none. -/
def soundWidth (bad : List Nat) : Nat :=
  if bad.isEmpty then 4
  else if (!bad.contains 0 && !bad.contains 1) || (!bad.contains 2 && !bad.contains 3) then 2
  else if (List.range 4).any (fun i => !bad.contains i) then 1
  else 0

/-- A lane is lost: the link retrains without it, or goes down where no lane is left (R405). -/
def loseLane (l lane : Nat) (inj : Option Nat) (s : State) : State :=
  let k := linkOf l s
  let bad := if k.badLanes.contains lane then k.badLanes else k.badLanes ++ [lane]
  let s := setLink l { k with badLanes := bad } s
  if soundWidth bad = 0 then linkDown l .down 0x05 inj s
  else beginRetrain l (min k.width (soundWidth bad)) (logRec { (newRec 0x05 2 2 0).at 0x1FF 5 l with inj := inj } s)

/-- Shares of a link scaled from one width to another (R405). -/
def scaleShares (l old new : Nat) (s : State) : State :=
  let f := fun (c : Comp) => { c with links := c.links.map (fun (g : LinkGrant) => if g.link = l then { g with share := g.share * new / old } else g) }
  let hit := (s.shells.filter (fun e => e.2.comp.links.any (fun g => g.link == l))).map (fun e => e.1)
  let s := setLink l { linkOf l s with reserved := (linkOf l s).reserved * new / old } s
  hit.foldl (fun s d =>
    match shellOf d s with
    | some sh => rederive d (setShell d { sh with comp := f sh.comp, rebind := sh.rebind.map (fun r => { r with comp := f r.comp }) } s)
    | none => s) s

/-- Sends every flit of the replay buffer again. -/
def resendFlits (l : Nat) (s : State) : State :=
  let k := linkOf l s
  k.replay.foldl (fun s f => emit (.flit l false f.1 true false k.aseq) s) s

/-! ### Flits (R400, R403, R412) -/

/-- Units of credit that a data flit's units bring back, and where the message now stands. -/
def takeUnits (k : Link) (units : List (List Byte)) : Link :=
  units.foldl (fun (k : Link) u =>
    let give := fun (k : Link) (vc : Nat) => { k with crRet := k.crRet.set vc (k.crRet.getD vc 0 + 1) }
    if k.rxLeft != 0 then give { k with rxLeft := k.rxLeft - 1 } k.rxVc
    else
      let w := leNat (u.take 8)
      if bits w 60 56 = 0 then k
      else give { k with rxVc := bits w 63 61, rxLeft := if bits w 60 56 = kRead then 0 else bits w 19 14 } (bits w 63 61)) k

/-- The flits of the replay buffer that `aseq` covers leave it. -/
def acked (k : Link) (aseq : Nat) : Link :=
  let left := k.replay.filter (fun f => decide (2048 ≤ (aseq + 4096 - f.1) % 4096))
  if left.length = k.replay.length then k else { k with replay := left, replays := 0 }

/-- Counts of replays and flits start anew each second; more than one replay in 10^6 flits of the second that ends brings the equalisation forward
(R404). -/
def rateWindow (now : Nat) (k : Link) : Link :=
  if now < k.rateAt + Config.sec 1 then k
  else { k with rateAt := now, naks := 0, sent := 0, eqSoon := k.eqSoon || decide (k.sent < k.naks * Config.million) }

/-! ### Requests from other devices (R407, R415) -/

/-- Where a request is served: the shell and its place, or the error status. -/
def servePlace (m : RemoteMsg) (s : State) : Nat ⊕ (Nat × Loc) :=
  match tenantOf m.tenant s with
  | none => .inl 1
  | some t =>
    match shellOf t.shell s with
    | none => .inl 1
    | some sh =>
      if m.offset < 0x700000000 then (match translate s sh m.offset with | some (d, r) => .inr (t.shell, .mem d (r.wr && !r.sealed) r.stream) | none => .inl 2)
      else if m.offset < 0x740000000 then
        (match locate t.shell [] (0x110000000000 + (m.offset - 0x700000000)) s with
        | .spad c o => .inr (t.shell, .spad c o)
        | .bad => .inl 5
        | _ => .inl 2)
      else .inl 2

/-- Answers a request with an error. -/
def serveErr (m : RemoteMsg) (st : Nat) (s : State) : State := answerRemote m.vc m.src m.tag kError st [] s

/-- Bytes of a write with their offset: all of them, or those that a narrow write's mask names. -/
def writeParts (m : RemoteMsg) : List (Nat × List Byte) :=
  if m.sub = 0 then [(m.offset, m.data)]
  else (bitList m.sub.toNat 16).map (fun i => (m.offset - m.offset % 16 + i, [m.data.getD (if m.data.length = 16 then i else i - m.offset % 16) 0]))

/-- Performs a write at its place: at its line's home, which acknowledges it (R401: within one line); the counter of a counted sector follows (R416). -/
def serveWrite (m : RemoteMsg) (counted : Bool) (s : State) : State :=
  match servePlace m s with
  | .inl st => serveErr m st s
  | .inr (d, l) =>
    match l with
    | .mem dpa wr _ =>
      if !wr then serveErr m 3 s
      else if d ∈ s.coh.failing then serveErr m 4 s
      else
        let cells := ((writeParts m).flatMap (fun p => cellsOf (dpa % 512 + p.1 - m.offset) p.2)).filter (fun c => decide (c.1 < 512))
        arrive (dpa / 512) (.rwrite m.vc m.tag m.src d cells) s
    | .spad c o =>
      let s := (writeParts m).foldl (fun s p => spadWrite c (o + p.1 - m.offset) p.2 s) s
      answerRemote m.vc m.src m.tag kAck 0 [] (if counted then ctrAdd c m.ctr s else s)
    | _ => serveErr m 2 s

/-- Starts a peer's atomic at its place; `ret` says that the old value returns. -/
def serveAtomic (m : RemoteMsg) (ret : Bool) (a : AtomReq) (s : State) : State :=
  match servePlace m s with
  | .inl st => serveErr m st s
  | .inr (d, l) =>
    match l with
    | .mem dpa wr _ =>
      if !wr then serveErr m 3 s
      else if d ∈ s.coh.failing then serveErr m 4 s
      else pushAtom (dpa / 512) { a with cdom := d, dpa := dpa } s
    | .spad c o =>
      let p := atomSpad c o d a s
      if p.2.1 then answerRemote m.vc m.src m.tag (if ret then kData else kAck) (atomFlags a.kind a.len p.1) (if ret then padTo 16 (p.1.take a.len) else []) p.2.2 else serveErr m 4 p.2.2
    | _ => serveErr m 2 s

end Sys2Proof.Machine
end

