-- ==== Sys2Proof/Machine/Links.lean ====
section
/-! DEFINITION. The rows of Falnar links (14 R399..R418): flits, retrains, requests and responses of other devices. -/
namespace Sys2Proof.Machine

/-! ### Flits -/

/-- FLIT_RECEIVE (R400, R403, R412): a flit is checked by CRC and sequence; `aseq` and `nak` drive the replay buffer, credits come back. An armed
FALNAR_LINK injection corrupts the flit or takes a lane (15 T15-3). -/
def execFlitReceive (link : Nat) (flit : List Byte) (s : State) : Res :=
  let k := linkOf link s
  if k.st != .up then .next s
  else
    let t := takeInj 0x05 link s
    let hit := match t.1 with | some i => if bit i.pat 8 then none else some i.num | none => none
    let s := match t.1 with
      | some i =>
        let left := bits i.pat 4 0 - 1
        if bit i.pat 8 then loseLane link (bits i.pat 10 9) (some i.num) t.2
        else if left = 0 then t.2
        else { t.2 with flt := { t.2.flt with injs := t.2.flt.injs ++ [{ i with pat := left }] } }
      | none => t.2
    if (linkOf link s).st != .up then .next s
    else
      let k := linkOf link s
      let w0 := leNat (flit.take 8)
      let good := flit.length == 256 && leNat ((flit.drop 8).take 8) == crc64 (flit.take 8 ++ flit.drop 16) && hit.isNone
      let record := fun (s : State) => if k.gap then s else logRec { (newRec 0x05 1 2 0).at 0x1FF 5 link with inj := hit } s
      if !good then .next (record (setLink link { k with nak := true, gap := true } s))
      else
        let k := acked { rateWindow s.now k with lastGood := s.now, credits := k.credits.set (bits w0 31 29) (k.credits.getD (bits w0 31 29) 0 - bits w0 28 16) } (bits w0 49 38)
        let s1 := if bit w0 37 then resendFlits link (setLink link { k with replays := k.replays + 1, naks := k.naks + 1 } s) else setLink link k s
        let k := linkOf link s1
        if bits w0 63 62 != 0 then .next s1
        else if bits w0 61 50 = (k.aseq + 1) % 4096 then
          .next (setLink link (takeUnits { k with aseq := (k.aseq + 1) % 4096, gap := false } (chop 15 16 (flit.drop 16))) s1)
        else .next (record (setLink link { k with nak := true, gap := true } s1))

/-- IDLE_FLIT_SEND (R404): a link with nothing to send shows that it works. An armed LINK_HEARTBEAT injection silences it for 12 µs. -/
def execIdleFlitSend (link : Nat) (s : State) : Res :=
  let k := linkOf link s
  if k.st != .up then .next s
  else
    match takeInj 0x33 link s with
    | (some i, s) => .next (setLink link { k with quiet := some (s.now + Config.us 12, i.num) } s)
    | (none, s) =>
      if (match k.quiet with | some (t, _) => decide (s.now < t) | none => false) then .next s
      else
        let cr := crNext k
        let k' := { k with nak := false, crRet := k.crRet.set cr.1 (k.crRet.getD cr.1 0 - cr.2) }
        .next (emit (.flit link true k.fseq true k.nak k.aseq) (setLink link k' s))

/-- REPLAY_LIMIT (R404): a flit replayed 8 times without acknowledgement. -/
def execReplayLimit (link : Nat) (s : State) : Res :=
  let k := linkOf link s
  if k.st != .up || k.replays < 8 then .next s else .next (beginRetrain link k.width s)

/-- LANE_DEGRADE (R404, R405). -/
def execLaneDegrade (link lane : Nat) (s : State) : Res :=
  if (linkOf link s).st != .up || 4 ≤ lane then .next s else .next (loseLane link lane none s)

/-- LINK_RETRAIN_DONE (R404, R405): the link goes on at the width its lanes allow, or leaves service where another device answers. -/
def execLinkRetrainDone (link width partner : Nat) (s : State) : Res :=
  let k := linkOf link s
  if !(k.st == .retraining || k.st == .up) then .next s
  else if k.startId.isSome && k.startId != some partner then .next (linkDown link .out 0x05 none s)
  else if width = 0 then .next (linkDown link .down 0x05 none s)
  else
    let w := min width (min 4 (soundWidth k.badLanes))
    let s := setLink link { k with st := .up, width := w, retrainAt := none, replays := 0, lastGood := s.now } s
    let s := if w = k.width then s else scaleShares link k.width w s
    .next (resendFlits link s)

/-- RETRAIN_TIMEOUT (R404): 50 µs have passed. -/
def execRetrainTimeout (link : Nat) (s : State) : Res :=
  let k := linkOf link s
  match k.st, k.retrainAt with
  | .retraining, some t => .next (linkDown link .down 0x05 none (untilTime (t + Config.us 50) s))
  | _, _ => .next s

/-- LINK_HEARTBEAT (R404, R417): no flit with a good CRC for 10 µs. -/
def execLinkHeartbeat (link : Nat) (s : State) : Res :=
  let k := linkOf link s
  if k.st != .up then .next s
  else .next (linkDown link .down 0x33 (k.quiet.map (fun q => q.2)) (untilTime (k.lastGood + Config.us 10) s))

/-- Links train once the Cox has booted (R399). -/
def linksTrain (s : State) : Bool := [Stage.cox, .memory, .filled, .tested, .released].contains s.dev.stage

/-- LINK_TRAINING_DONE (R399, R404): width 0 leaves the link out of service; at a restart another partner takes it out until a cold reset. -/
def execLinkTrainingDone (link width partner regatta : Nat) (s : State) : Res :=
  let k := linkOf link s
  if 18 ≤ link || k.st != .untrained || !linksTrain s then .next s
  else if width = 0 then .next s
  else if k.startId.isSome && k.startId != some partner then .next (linkDown link .out 0x05 none s)
  else .next (setLink link { Link.zero with st := .up, width := min 4 width, partner := partner, regatta := regatta, startId := some partner, lastGood := s.now, rateAt := s.now } s)

/-! ### Requests that arrive (R407, R409, R416) -/

/-- Handles an arriving message: on to its destination, or here. -/
def onMessage (kind link : Nat) (m : RemoteMsg) (s : State) (f : State → State) : Res :=
  if !linkRuns link s then .next s else if m.dst != s.dev.board.devId then .next (forwardMsg kind m s) else .next (f s)

/-- REMOTE_READ (R407, R415): served at the peer shell's homes or at a seat's window. -/
def execRemoteRead (link : Nat) (msg : RemoteMsg) (s : State) : Res :=
  onMessage kRead link msg s (fun s =>
    match servePlace msg s with
    | .inl st => serveErr msg st s
    | .inr (d, l) =>
      match l with
      | .mem dpa _ _ =>
        if d ∈ s.coh.failing then serveErr msg 4 s
        else arrive (dpa / 512) (.rread msg.vc msg.tag msg.src (dpa % 512) (min msg.len (512 - dpa % 512)) d) s
      | .spad c o =>
        let r := spadRead c o msg.len s
        let s := logSpad c o msg.len d s
        if r.2.1 then answerRemote msg.vc msg.src msg.tag kData 0 r.1 s else serveErr msg 4 s
      | _ => serveErr msg 2 s)

/-- REMOTE_WRITE (R407, R416). -/
def execRemoteWrite (link : Nat) (msg : RemoteMsg) (s : State) : Res := onMessage kWrite link msg s (serveWrite msg false)

/-- COUNTED_COPY_SECTOR (R416). -/
def execCountedCopySector (link : Nat) (msg : RemoteMsg) (s : State) : Res := onMessage kSector link msg s (serveWrite msg true)

/-- REMOTE_ATOM (08 R218, 09 R264): it joins its line's queue at the home. -/
def execRemoteAtom (link : Nat) (msg : RemoteMsg) (s : State) : Res :=
  let w := msg.sub.toNat
  let n := if bit w 4 then 8 else 4
  onMessage kAtom link msg s (serveAtomic msg (bit w 5)
    { by' := .link msg.vc msg.tag msg.src (bit w 5), cdom := 0, after := 0, dpa := 0, kind := 0, aop := bits w 3 0, len := n, s1 := leNat (msg.data.take n)
      s2 := leNat ((msg.data.drop 8).take n), anchor := 0 })

/-- REMOTE_ADDX (08 R218; 05 R144). -/
def execRemoteAddx (link : Nat) (msg : RemoteMsg) (s : State) : Res :=
  let w := msg.sub.toNat
  let isF := bit w 15
  onMessage kAddx link msg s (serveAtomic msg (bit w 14)
    { by' := .link msg.vc msg.tag msg.src (bit w 14), cdom := 0, after := 0, dpa := 0, kind := if isF then 2 else 1, aop := 0, len := 16
      s1 := leNat (msg.data.take (if isF then 4 else 16)), s2 := 0, anchor := signed 10 (bits w 9 0) })

/-! ### Responses that arrive (R401, R418) -/

/-- Handles an arriving response: on to its requester, or to the request it answers. One for a freed tag is discarded; an armed REMOTE_TIMEOUT
injection drops it. -/
def onResponse (kind : Nat) (m : RemoteMsg) (s : State) (f : RReq → State → State) : Res :=
  if m.dst != s.dev.board.devId then .next (forwardMsg kind m s)
  else
    match tabFind m.tag s.rreqs with
    | none => .next s
    | some r =>
      if r.dev != m.src || r.inj.isSome then .next s
      else match takeInj 0x36 r.link s with
        | (some i, s) => .next { s with rreqs := tabPut m.tag { r with inj := some i.num } s.rreqs }
        | (none, s) => .next (f r (dropTag m.tag s))

/-- REMOTE_DATA (R401). -/
def execRemoteData (msg : RemoteMsg) (s : State) : Res := onResponse kData msg s (fun r s => remoteOk r msg.data s)

/-- REMOTE_ACK (R416). -/
def execRemoteAck (msg : RemoteMsg) (s : State) : Res := onResponse kAck msg s (fun r s => remoteOk r [] s)

/-- REMOTE_ERROR (R408). -/
def execRemoteError (msg : RemoteMsg) (s : State) : Res := onResponse kError msg s remoteFail

/-- REMOTE_TIMEOUT (R418): 200 µs have passed without a response. -/
def execRemoteTimeout (tag : Nat) (s : State) : Res :=
  match tabFind tag s.rreqs with
  | none => .next s
  | some r =>
    let s := untilTime (r.at' + Config.us 200) s
    .next (failReq tag (logRec { (newRec 0x36 2 3 0).at 0x1FF 5 r.link with inj := r.inj } s))

end Sys2Proof.Machine
end

