-- ==== Sys2Proof/Machine/PowerOps.lean ====
section
/-! DEFINITION. Operating points, caps, hints and thermal levels (16) as the other commands use them. -/
namespace Sys2Proof.Machine

/-! ### The operating point (R462..R464) -/

/-- A PLDM event (R482), dropped unless the device runs: its kind is the code of the fault record that it goes with. -/
def powerEvent (kind : Nat) (words : List Nat) (s : State) : State := if s.dev.stage = .released then emit (.event kind words) s else s

/-- The floor point (R463): the highest GOP of a shell with an admitted guaranteed command in an open window. -/
def floorPoint (s : State) : Nat :=
  s.shells.foldl (fun p e => if s.cmds.any (fun c => c.2.cdom == e.1 && c.2.guarNow) then min p e.2.comp.gop else p) 3

/-- A hint is active from the start of its first stroke through the end of its last (R468). -/
def hintActive (count : Nat) (h : Hint) : Bool := decide (strokesTo h.first count < h.strokes)

/-- A hint is over. -/
def hintOver (count : Nat) (h : Hint) : Bool := !hintActive count h && decide (strokesTo h.first count < 2 ^ 47)

/-- The hinted point (R464): when every shell with a running command has an active hint, the highest preferred point among those hints. -/
def hintPoint (s : State) : Nat :=
  let runs := s.shells.filter (fun e => s.cmds.any (fun c => c.2.cdom == e.1 && c.2.st == .running))
  let hints := runs.filterMap (fun e => match e.2.hint with | some h => if hintActive s.stroke.count h then some h.point else none | none => none)
  if runs.isEmpty || hints.length < runs.length then 0 else hints.foldl min 3

/-- The ceiling point (R464; T16-5: at the limit level windows run at the floor point). -/
def ceilingPoint (s : State) : Nat := if s.pwr.limit then 3 else max (max s.pwr.ceilW s.pwr.ceilT) (hintPoint s)

/-- The point at which the device should run (R464). -/
def wantedPoint (s : State) : Nat := if s.pwr.alertOn || s.pwr.holdOn then 4 else min (ceilingPoint s) (floorPoint s)

/-- Heads for the wanted point: the clock switch itself is OP_CLOCK_SWITCH (R462). OPE is left from 0.56 V. -/
def retarget (s : State) : State :=
  let p := wantedPoint s
  if p = 4 then s
  else if p = s.dev.op then { s with pwr := { s.pwr with target := none } }
  else if (s.pwr.target.map (fun t => t.1)) = some p then s
  else { s with pwr := { s.pwr with target := some (p, s.now), volt := if s.dev.op = 4 then Config.coreVolt 4 else s.pwr.volt } }

/-- The clock goes to OPE at once (R475, R476). -/
def enterOpe (s : State) : State := { s with dev := { s.dev with op := 4 }, pwr := { s.pwr with target := none } }

/-! ### Voids and causes (02 T2-5, R475, R477) -/

/-- Every guaranteed command whose window contains the current stroke completes as void (T2-5), the ones that completed too. VR_ALERT takes precedence
over SUPPLY_DIP as a miss cause (R477). -/
def voidWindows (cause : Nat) (s : State) : State :=
  let s := { s with cmds := s.cmds.map (fun (e : Nat × Cmd) => (e.1, if e.2.guarNow then { e.2 with void := true, cause := if e.2.cause = 0 || e.2.cause = 2 then cause else e.2.cause } else e.2)) }
  { s with qps := s.qps.map (fun (e : Nat × QPair) => (e.1,
      match shellOf (tenantShell e.2.tenant s) s with
      | none => e.2
      | some sh => { e.2 with owed := e.2.owed.map (fun c => if c.guar && strokesTo c.stroke sh.windowEnd < sh.comp.k then { c with void := true } else c) })) }

/-- A supply dip is the miss cause of the windows that are open (T2-5). -/
def blameOpen (cause : Nat) (s : State) : State :=
  { s with cmds := s.cmds.map (fun (e : Nat × Cmd) => (e.1, if e.2.guarNow then e.2.blame cause else e.2)) }

/-! ### Stroke boundaries -/

/-- At a stroke boundary (R475, R478, R468): the point forced by VR_ALERT_N and the thermal limit end, hints run out. -/
def powerCatch (s : State) : State :=
  let past := (s.shells.filter (fun e => match e.2.hint with | some h => hintOver s.stroke.count h | none => false)).map (fun e => e.1)
  let s := { s with
    shells := s.shells.map (fun (e : Nat × Shell) => (e.1, if past.contains e.1 then { e.2 with hint := none } else e.2))
    pwr := { s.pwr with raised := s.pwr.raised.filter (fun d => !past.contains d), alertOn := s.pwr.alertOn && !s.pwr.alertEnds, alertEnds := false } }
  if s.pwr.limit && s.pwr.limitOff then powerEvent 0x43 [2, 0] { s with pwr := { s.pwr with limit := false, limitOff := false } } else s

/-- After admission (R475): a stroke that begins in a forced OPE voids its windows; the point follows its floor. -/
def powerAdmitted (s : State) : State := retarget (if s.pwr.alertOn then voidWindows 1 s else s)

/-! ### Power floor and caps (R466, R470, R471) -/

/-- The operations of a step's nodes on a graph seat. -/
def stepOps (g : Graph) (k seat : Nat) : List Nat := ((stepNodes g k).filter (fun x => x.2.seat == seat)).map (fun x => x.2.op)

/-- The guard contribution of a shell's seat (R466). -/
def seatGuard (d : Nat) (sh : Shell) (seat : Nat) (s : State) : Nat :=
  let gs := (s.graphs.filter (fun e => e.1 / 65536 == d && e.2.guar && !e.2.gone)).map (fun e => e.2)
  gs.foldl (fun m g =>
    (g.seatMap.zipIdx.filter (fun x => x.1 == seat)).foldl (fun m x =>
      (List.range g.graph.steps.length).foldl (fun m k => max m (Config.activity sh.comp.gop (stepOps g.graph k x.2))) m) m) 0

/-- The guard level of a die (R466), at most full scale. -/
def dieGuard (die : Nat) (s : State) : Nat :=
  min 65536 (s.shells.foldl (fun a e => e.2.comp.seats.zipIdx.foldl (fun a x => if dieOf x.1.core = die then a + seatGuard e.1 e.2 x.2 s else a) a) 0)

/-- The power floor (R471). -/
def powerFloor (s : State) : Nat :=
  let gop := s.shells.foldl (fun p e => if s.graphs.any (fun g => g.1 / 65536 == e.1 && g.2.guar && !g.2.gone) then min p e.2.comp.gop else p) 3
  Config.powerFloor ((List.range 8).map (fun d => dieGuard d s)) gop (s.shells.flatMap (fun e => e.2.comp.sets.flatMap (fun x => x.2.chans)))
    (s.shells.flatMap (fun e => e.2.comp.links.map (fun g => (g.link, g.share))))

/-- A cap as it counts: 0 or not set is 2,400 W (R470). -/
def capOf (c : Nat) : Nat := if c = 0 then 2400 else min c 2400

/-- The lower of the two caps. -/
def lowerCap (s : State) : Nat := min (capOf s.pwr.boardCap) (capOf s.pwr.hostCap)

/-- The effective cap (R470). -/
def effectiveCap (s : State) : Nat := max (lowerCap s) (powerFloor s)

/-- The effective cap is raised to the floor, or no longer (R471). -/
def noteFloor (s : State) : State :=
  if powerFloor s ≤ lowerCap s then { s with pwr := { s.pwr with floored := false } }
  else if s.pwr.floored then s
  else powerEvent 0x71 [effectiveCap s] (logRec (newRec 0x71 2 0 0) { s with pwr := { s.pwr with floored := true } })

/-- The filler floor that hints ask of a die, in 1/736 of full scale (R469). -/
def fillerFloor (die : Nat) (s : State) : Nat :=
  s.shells.foldl (fun a e =>
    match e.2.hint with
    | some h => if s.pwr.raised.contains e.1 then a + h.act * (e.2.comp.seats.filter (fun x => dieOf x.core == die)).length else a
    | none => a) 0

/-- What a die's activity is held to (R466, R469): the larger of the guard level and the hinted floor, in 1/65536 of full scale. -/
def dieFloor (die : Nat) (s : State) : Nat := max (dieGuard die s) (min 65536 (fillerFloor die s * 65536 / 736))

end Sys2Proof.Machine
end

