-- ==== Sys2Proof/Machine/Strokes.lean ====
section
/-! DEFINITION. The phases of a stroke (02), stops and steps of commands (03 R89, R95), launches of segments (06 R155). -/
namespace Sys2Proof.Machine

/-! ### The catch (02 R33, R35, R39, R52) -/

/-- A core's slice plan moves on by a stroke; a change takes effect at its stroke (R56). -/
def planStep (now : Nat) (k : Core) : Core :=
  match k.planNext with
  | some (t, p) => if t = now then { k with plan := p, planNext := none, planPos := 0 } else { k with planPos := if k.plan.isEmpty then 0 else (k.planPos + 1) % max 1 (planLen k.plan) }
  | none => { k with planPos := if k.plan.isEmpty then 0 else (k.planPos + 1) % max 1 (planLen k.plan) }

/-- A core returns to service at its stroke (15 R444, R448). -/
def returnCores (s : State) : State :=
  s.cores.foldl (fun s e =>
    match (coreOf e.1 s).returnAt with
    | some t => if strokesTo t s.stroke.count < 2 ^ 47 then unfence 2 e.1 (setCore e.1 { coreOf e.1 s with fenced := false, returnAt := none } s) else s
    | none => s) s

/-- Digest of a stroke configuration (14 R422). -/
def cfgDigest (c : StrokeCfg) : Nat := crc32c (leBytes c.period 4 ++ leBytes c.catchLen 4 ++ leBytes c.finish 4 ++ leBytes c.recovery 4)

/-- Links in operation to members of this device's regatta. -/
def regattaLinks (s : State) : List Nat :=
  (s.links.filter (fun e => (e.2.st == .up || e.2.st == .retraining) && s.dev.board.regatta != 0 && e.2.regatta == s.dev.board.regatta)).map (fun e => e.1)

/-- What a regatta adds to a stroke's start: the master's beacons, the timing master's STROKE_SYNC, strokes without a beacon or an edge counted
(14 R419..R422; 18 R525). -/
def regattaTick (s : State) : State :=
  let b := s.dev.board
  if b.regatta = 0 then s
  else
    let s := if b.master then (regattaLinks s).foldl (fun s l => emit (.beacon l ⟨s.stroke.count, 0, b.regatta, BitVec.ofNat 32 (cfgDigest s.stroke.cfg), 0⟩) s) s
      else { s with reg := { s.reg with miss := if s.reg.hops.isSome then 0 else s.reg.miss + 1, hops := none } }
    if b.pos = 0 then emit (.pin "STROKE_SYNC" true) s
    else { s with reg := { s.reg with syncMiss := if s.reg.syncIn then 0 else s.reg.syncMiss + 1, syncIn := false } }

/-- The slew of a member moves its next stroke start (14 R422). -/
def slewStart (s : State) : State :=
  { s with stroke := { s.stroke with start := ((s.stroke.start : Int) - s.reg.slew).toNat }, reg := { s.reg with slew := 0 } }

/-- CATCH_BEGIN (R33, R35, R52): the count steps, a pending configuration applies at its target, windows open and the Cox admits. -/
def execCatchBegin (s : State) : Res :=
  if !s.stroke.running || s.stroke.phase != .recovery then .next s
  else
    let n := (s.stroke.count + 1) % 2 ^ 48
    let s := slewStart s
    let t := strokeStart n s
    let s := untilTime t s
    let cfg := cfgOf n s
    let pend := match s.stroke.pend with | some (p, c) => if p = n then none else some (p, c) | none => none
    let s := { s with stroke := { s.stroke with count := n, start := t, cfg := cfg, pend := pend, phase := .catch' } }
    let s := { s with cores := (s.cores.map (fun (e : Nat × Core) => (e.1, planStep n e.2))).filter (fun e => decide (e.2 ≠ Core.zero)) }
    let s := returnCores s
    let s := fixStroke ((n + 64) % 2 ^ 48) (trimCalendar s)
    .next (powerAdmitted (admitAll (powerCatch (seatArrivals (regattaTick s)))))

/-- DRIVE_BEGIN (R39, R42): best-effort work gives way, admitted commands start. -/
def execDriveBegin (s : State) : Res :=
  if !s.stroke.running || s.stroke.phase != .catch' then .next s
  else
    let s := untilTime (s.stroke.start + s.stroke.cfg.catchLen) s
    .next (schedule (preempt { s with stroke := { s.stroke with phase := .drive } }))

/-! ### The finish instant (R68, R69) -/

/-- Miss causes of T2-5 as T12-19 codes them: FAULT_INJECT and DEVICE. -/
def causeInject : Nat := 4
def causeDevice : Nat := 5

/-- Records a missed deadline (15 T15-12): a miss with no cause of T2-5 is the device's. -/
def logMiss (c : Cmd) (cause : Nat) (inj : Option Nat) (s : State) : State :=
  let base := fun (r : NewRec) => { r.at c.cdom 0 0 with tenant := some c.tenant, inj := inj }
  let s := logRec (base (newRec 0x32 2 (if c.subst || c.substPending then 9 else 0) 0)) s
  if cause = causeDevice then logRec (base (newRec 0x6E 3 0 0)) s else s

/-- A guaranteed command that has not completed at its finish instant follows its policy (R67, R68); a LATE one whose seat is lost has nothing to go on with
and completes DEADLINE_LATE there (entry 41). -/
def missCmd (n : Nat) (c : Cmd) (inj : Option Nat) (s : State) : State :=
  let cause := if inj.isSome then causeInject else if c.cause != 0 then c.cause else causeDevice
  let s := logMiss c cause inj s
  let c := { c with cause := cause }
  if c.late then (if c.seatLost then tellStop n 4 (setCmd n { c with guarNow := false } s) else setCmd n { c with guarNow := false } s)
  else if !c.started then finishCmd n stMissed (loseOutputs n true (setCmd n c s))
  else tellStop n 3 (setCmd n c s)

/-- An injected CMD_DEADLINE turns a command that completed in this window into a miss (R431). -/
def missDone (s : State) : State :=
  s.qps.foldl (fun s e =>
    e.2.owed.foldl (fun s c =>
      if !c.guar || c.stroke != s.stroke.count then s
      else match takeInj 0x32 (e.1 + c.cid * 2 ^ 16) s with
        | (none, _) => s
        | (some i, s) =>
          let s := logRec { (newRec 0x32 2 0 0).at (tenantShell e.2.tenant s) 0 0 with tenant := some e.2.tenant, inj := some i.num } s
          match tabFind e.1 s.qps with
          | some p => { s with qps := tabPut e.1 { p with owed := p.owed.map (fun x => if x = c then { x with status := stMissed, cause := causeInject } else x) } s.qps }
          | none => s) s) s

/-- Sampled checks still open at the finish instant of their window are dropped (15 R439). -/
def dropSamples (s : State) : State :=
  let ends := fun (d : Nat) => match shellOf d s with | some sh => (s.stroke.count + 1) % 2 ^ 48 % sh.comp.k == sh.comp.o || sh.comp.k == 1 | none => true
  let out := s.flt.sampled.filter (fun x => ends x.cdom)
  let s := { s with flt := { s.flt with sampled := s.flt.sampled.filter (fun x => !ends x.cdom) } }
  out.foldl (fun s x => logRec { (newRec 0x6C 2 0 0).at x.cdom 1 x.core with tenant := some x.tenant } s) s

/-- FINISH_INSTANT (R68). -/
def execFinishInstant (s : State) : Res :=
  if !s.stroke.running || s.stroke.phase != .drive then .next s
  else
    let s := untilTime (finishTime s.stroke.count s) s
    let s := { s with stroke := { s.stroke with phase := .finish } }
    let s := missDone s
    let due := (s.cmds.filter (fun e => e.2.guarNow && e.2.winEnd == s.stroke.count)).map (fun e => e.1)
    let s := due.foldl (fun s n =>
      match cmdOf n s with
      | none => s
      | some c => let i := takeInj 0x32 (c.q + c.cid * 2 ^ 16) s; missCmd n c (i.1.map (fun x => x.num)) i.2) s
    .next (schedule (dropSamples s))

/-! ### The recovery phase (R59, R61; 11 R331) -/

/-- Contexts of outgoing seats are saved once their repetitions have ended (R58); the incoming seats wait for their restore. -/
def switchOut (s : State) : State :=
  (switchesAt s.stroke.count s).foldl (fun s x =>
    let s := vacate x.core s
    setCore x.core { coreOf x.core s with incoming := x.in' } s) s

/-- Calibrations of the stroke start: requests to their channels are held (10 R306). A link within the regatta adapts only in an agreed slot. -/
def startCals (s : State) : State :=
  (slotsAt s.stroke.count s).foldl (fun s x =>
    let go := match x.res with
      | .falnar l =>
        let k := tabGet Link.zero l s.links
        if s.dev.board.regatta != 0 && k.regatta = s.dev.board.regatta then (match k.eq' with | some e => e.agreed && e.stroke == s.stroke.count | none => false) else true
      | _ => true
    if go then
      let s := { s with dev := { s.dev with cals := s.dev.cals ++ [x.res] } }
      (calChans x.res).foldl (fun s c => setChan c { chanOf c s with calib := true } s) s
    else s) s

/-- Each core keeps who holds it in the stroke that ends, for the budgets of the windows that open next (R49). -/
def keepBefore (s : State) : State := { s with cores := (s.cores.map (fun (e : Nat × Core) => (e.1, { e.2 with before := holderAt e.1 s.stroke.count s }))).filter (fun e => decide (e.2 ≠ Core.zero)) }

/-- RECOVERY_BEGIN (R56, R59, R61; 11 R331). -/
def execRecoveryBegin (s : State) : Res :=
  if !s.stroke.running || s.stroke.phase != .finish then .next s
  else
    let s := untilTime (finishTime s.stroke.count s + s.stroke.cfg.finish) s
    let s := { s with stroke := { s.stroke with phase := .recovery } }
    let s := switchOut (keepBefore s)
    let s := startCals s
    .next ((s.shells.map (fun e => e.1)).foldl (fun s d => flipShell d s) s)

/-- CONTEXT_RESTORE (R59), after the save that frees the core (R58). -/
def execContextRestore (core : Nat) (s : State) : Res :=
  match (coreOf core s).incoming with
  | none => .next s
  | some (d, seat) => if (coreOf core s).saving then .next s else .next (schedule (restoreContext core d seat s))

/-! ### Stops (03 R95; 02 R66) -/

/-- FALLBACK_START (R66): the fallback of a command that has stopped begins from the command's inputs; its groups go. -/
def execFallbackStart (cmd : Nat) (s : State) : Res :=
  match cmdOf cmd s with
  | none => .next s
  | some c =>
    if !c.substPending || !allHeld c s then .next s
    else
      let s := clearCores cmd (stopStatus cmd s)
      let c := (cmdOf cmd s).getD c
      .next (schedule (setCmd cmd { c with substPending := false, subst := true, started := false, st := .admitted, seats := [], inSeg := false, segDone := false } s))

/-- SEAT_STOP (03 R95; 06 R156): seats that were told to stop on a core, and whose repetitions have ended, hold what a resume needs; a context save that waited
for them follows (02 R58). -/
def execSeatStop (core : Nat) (s : State) : Res :=
  let hit := s.cmds.filter (fun e => (placesOf e.2 s).any (fun p => p.2.2 == core &&
    (match tabFind p.1 e.2.seats with | some q => q.stopped && !q.held && repsEnd e.1 e.2 p.1 core q s | none => false)))
  let s := hit.foldl (fun s e =>
    let s := (placesOf e.2 s).foldl (fun s p => if p.2.2 = core then holdSeat e.1 p s else s) s
    match cmdOf e.1 s with | some c => endStopped e.1 c s | none => s) s
  .next (schedule (if (coreOf core s).saving && coreQuiet core s then saveContext core s else s))

/-! ### Steps (03 R89; 06 R155) -/

/-- The nodes of a command's step have finished on every seat: every repetition is done, every write acknowledged, none waits
at a home (08 R229, R230), nothing is held back. -/
def stepDone (n : Nat) (c : Cmd) (rg : RegGraph) (s : State) : Bool :=
  let cores := (placesOf c s).map (fun p => p.2.2)
  (c.skips.contains c.step || (stepNodes rg.graph c.step).all (fun x => decide (x.2.count ≤ repsDone (runOf c x.2.seat) x.1))) &&
  c.seats.all (fun e => e.2.ponds.all (fun p => p.2.landed)) &&
  !writesQueued c.cdom s &&
  cores.all (fun k => !(coreOf k s).held.any (fun h => match h.what with | .write m _ _ => m == n | _ => false)) &&
  s.rreqs.all (fun r => match r.2.wait with | .station m _ => m != n | .store k _ _ _ => !cores.contains k | _ => true)

/-- Nothing that the groups of a command wrote is still on its way (R36, R89): no copy, no held item, no store or atomic that waits. -/
def writesDone (n : Nat) (c : Cmd) (s : State) : Bool :=
  let cores := (placesOf c s).map (fun p => p.2.2)
  cores.all (fun k => (coreOf k s).held.isEmpty && !(coreOf k s).copies.any (fun x => x.2.cmd == n) && !storesWait (halfOf s k) c.cdom s) &&
  !writesQueued c.cdom s &&
  s.rreqs.all (fun r => match r.2.wait with | .store k _ _ _ | .copy k _ _ | .thread k _ _ _ => !cores.contains k | _ => true) &&
  s.coh.atoms.all (fun e => e.2.all (fun a => match a.by' with | .thread k _ _ _ => !cores.contains k | _ => true))

/-- A command has run its last step (R36, R66, R68). -/
def completeCmd (n : Nat) (c : Cmd) (s : State) : State :=
  let s := boundary c s
  schedule (finishCmd n (if c.guarNow then (if c.subst then stOKFallback else stOK) else if c.be then stOK else stLate) s)

/-- The command goes to its next step, or completes after its last. -/
def nextStep (n : Nat) (rg : RegGraph) (s : State) : State :=
  match cmdOf n s with
  | none => s
  | some c =>
    let c := { c with step := c.step + 1, inSeg := false, segDone := false, miles := 0
                      seats := c.seats.map (fun (e : Nat × SeatRun) => (e.1, { e.2 with ponds := [], prodIx := [], consIx := [], acc := [], logic := [], survey := e.2.survey })) }
    if rg.graph.steps.length ≤ c.step then completeCmd n c (setCmd n c s) else boundary c (setCmd n c s)

/-- STEP_BARRIER (R89, R94; 02 R36). -/
def execStepBarrier (cmd : Nat) (s : State) : Res :=
  match cmdOf cmd s with
  | none => .next s
  | some c =>
    match cmdGraph c s with
    | none => .next s
    | some rg =>
      if c.st != .running || !c.started then .next s
      else
        let skip := c.skips.contains c.step
        let seg := match rg.graph.steps[c.step]? with | some st => if skip then none else st.seg | none => none
        if c.inSeg then
          if !c.segDone || !writesDone cmd c s then .next s
          else if c.isBE && !stationsFree cmd c s && decide (c.step + 1 < rg.graph.steps.length) then .next s
          else .next (nextStep cmd rg (milestone cmd 0 s))
        else if !stepDone cmd c rg s then .next s
        else
          match seg with
          | some _ => .next (schedule (setCmd cmd { c with inSeg := true } s))
          | none =>
            if c.isBE && !stationsFree cmd c s && decide (c.step + 1 < rg.graph.steps.length) then .next s
            else .next (nextStep cmd rg (milestone cmd 0 s))

/-- The code words of a segment as memory holds them now (07 R182). -/
def loadCode (cdom : Nat) (sg : Segment) (s : State) : Option (List Word) :=
  match shellOf cdom s with
  | none => none
  | some sh =>
    (List.range sg.codeLen).foldr (fun k acc =>
      match acc, translate s sh (sg.codeAddr + 8 * k) with
      | some l, some (d, _) => let r := homeRead d 8 s; if r.2.1 then some (BitVec.ofNat 64 (leNat r.1) :: l) else none
      | _, _ => none) (some [])

/-- A group at its launch (07 T7-1; 06 R155). -/
def newGroup (n : Nat) (c : Cmd) (seat idx : Nat) (sg : Segment) (code : List Word) (s : State) : Group :=
  let args := match c.runArgs with
    | some (a, b) => sg.arg.take 2 ++ [a, b]
    | none => sg.arg
  let us := [seat, idx, s.stroke.count % 2 ^ 32, s.stroke.count / 2 ^ 32, 0, 0, 0, 0] ++ args.flatMap (fun w => [w % 2 ^ 32, w / 2 ^ 32 % 2 ^ 32])
  { cdom := c.cdom, cmd := n, seat := seat, idx := idx, n := sg.n, d := sg.d, strict := false, code := code, loopTab := sg.loopTab, loops := []
    paths := [{ mask := BitVec.allOnes 32, pc := 0, reconv := [], stack := [], wait := .run }], g := [], p := []
    u := us.zipIdx.foldl (fun t x => tabSet 0 x.2 (BitVec.ofNat 32 x.1) t) [], issued := 0, stall := 0, part := [], idle := false, ctrWait := none
    copyWait := false, far := [], park := none, stopped := false }

/-- Free group slots of a core. -/
def freeSlots (core : Nat) (s : State) : List Nat := (List.range 32).filter (fun k => (tabFind k (coreOf core s).groups).isNone)

/-- SEGMENT_LAUNCH (R151, R155): all groups of the segment on every seat of its mask at once, or none. -/
def execSegmentLaunch (cmd : Nat) (s : State) : Res :=
  match cmdOf cmd s with
  | none => .next s
  | some c =>
    match cmdGraph c s with
    | none => .next s
    | some rg =>
      let sg? := match rg.graph.steps[c.step]? with | some st => (match st.seg with | some k => rg.graph.segs[k]? | none => none) | none => none
      match sg? with
      | none => .next s
      | some sg =>
        let ps := (placesOf c s).filter (fun p => bit sg.mask p.1)
        let open' := fun (p : Nat × Nat × Nat) => liveRun c p.1 && seatHeld c.cdom p.2.1 p.2.2 s && !(runOf c p.1).stopped && decide (sg.n ≤ (freeSlots p.2.2 s).length)
        let mine := ps.any (fun p => (coreOf p.2.2 s).groups.any (fun g => g.2.cmd == cmd) || (coreOf p.2.2 s).saved.any (fun g => g.2.cmd == cmd))
        if !c.inSeg || c.segDone || c.st != .running || mine || ps.isEmpty || !ps.all open' then .next s
        else match loadCode c.cdom sg s with
          | none => .next (faultStop cmd stFaultData s)
          | some code =>
            .next (ps.foldl (fun s p =>
              let k := coreOf p.2.2 s
              let gs := (((freeSlots p.2.2 s).take sg.n).zipIdx).foldl (fun t x => tabPut x.1 (newGroup cmd c p.1 x.2 sg code s) t) k.groups
              setCore p.2.2 { k with groups := gs } s) s)

end Sys2Proof.Machine
end

