-- ==== Sys2Proof/Machine/Regatta.lean ====
section
/-! DEFINITION. Stroke configuration (02 R34, R35, R53, R540; 13 T13-4), regattas (14 R406, R413, R419..R425), rollbacks (15 R442). -/
namespace Sys2Proof.Machine

/-! ### STROKE commands -/

/-- The ranges of T2-1a, and a drive length of at least half the period (R34). -/
def cfgLegal (c : StrokeCfg) : Bool :=
  decide (Config.us 100 ≤ c.period) && decide (c.period ≤ Config.ms 100) && decide (Config.us 5 ≤ c.catchLen) && decide (5 * c.catchLen ≤ c.period) &&
  decide (Config.us 5 ≤ c.finish) && decide (c.finish ≤ Config.ms 1) && decide (Config.us 10 ≤ c.recovery) && decide (4 * c.recovery ≤ c.period) &&
  decide (2 * (c.catchLen + c.finish + c.recovery) ≤ c.period)

/-- What the live shells forbid of a configuration: slots that its catch cannot examine (R53), Sampled windows longer than 10 ms (15 R439). -/
def cfgRefusal (c : StrokeCfg) (s : State) : Option Nat :=
  let rows := s.shells.map (fun e => [e.2.comp.slotRow])
  if !cfgLegal c then some 0x0303
  else if !(List.range (lcmOf (rows.flatMap (fun l => l.map (fun r => r.1))))).all (fun n => decide (slotsOpen rows n ≤ catchCapacity c)) then some 0x0304
  else if s.shells.any (fun e => e.2.comp.redund == 1 && decide (Config.ms 10 < e.2.comp.k * c.period)) then some 0x0305
  else none

/-- A re-binding that has not flipped, or a configuration that waits, makes another one wait (13 R393). -/
def cfgBusy (s : State) : Bool :=
  s.stroke.pend.isSome || s.reg.wait.isSome || s.shells.any (fun e => match e.2.rebind with | some r => r.step == 0 | none => false)

/-- Accepts a configuration for its target stroke (R35, R44, R540). -/
def acceptCfg (target : Nat) (c : StrokeCfg) (s : State) : State :=
  let s := refitCalendar target { s with stroke := { s.stroke with pend := some (target, c) } }
  (s.shells.map (fun e => e.1)).foldl (fun s d => rederive d s) s

/-- Sends a Cox message on every link to a regatta member but one. -/
def coxAll (but : Option Nat) (m : CoxMsg) (s : State) : State :=
  ((regattaLinks s).filter (fun l => but != some l)).foldl (fun s l => emit (.cox l m) s) s

/-- STROKE.CONFIGURE (R35, R53; 13 R393; 14 R423): a regatta's master asks its members first. -/
def execStrokeConfigure (m : Nat) (s : State) : Res :=
  onReq 0x0601 (.mbx m) s (fun r =>
    let b := s.dev.board
    let t := r.word 0
    let c : StrokeCfg := ⟨r.word 1, r.word 2, r.word 3, r.word 4⟩
    let ahead := strokesTo s.stroke.count t
    let least := 2 + (if b.regatta = 0 then 0 else ceilDiv (Config.ms 4) (max 1 s.stroke.cfg.period))
    if isMember s then respond r.src stNotPermitted [] s
    else if ahead < least || 2 ^ 47 ≤ ahead then respond r.src stBadParam [] s
    else if cfgBusy s then respond r.src stBusy [] s
    else match cfgRefusal c s with
      | some d => refuse r.src stConfigRefused d 0 s
      | none =>
        if b.regatta = 0 || b.members = 0 then respond r.src stOK [] (acceptCfg t c s)
        else coxAll none (.configure t c) (setBegun r.src { s with reg := { s.reg with wait := some ⟨t, c, r.src, s.now, []⟩ } }))

/-- STROKE_CONFIGURE_NO_ANSWER (14 R423): 2 ms have passed. -/
def execStrokeConfigureNoAnswer (s : State) : Res :=
  match s.reg.wait with
  | none => .next s
  | some w =>
    let s := untilTime (w.at' + Config.ms 2) s
    .next (refuse w.src stBusy 0x0302 0 (coxAll none .cancel { s with reg := { s.reg with wait := none } }))

/-- STROKE.STATUS (13 T13-4). -/
def execStrokeStatus (src : Src) (s : State) : Res :=
  onReq 0x0602 src s (fun _ =>
    let c := s.stroke.cfg
    respond src stOK [s.stroke.count, c.period % 2 ^ 24 + (c.period - c.catchLen - c.finish - c.recovery) % 2 ^ 24 * 2 ^ 24] s)

/-- A calibration takes a resource that a shell holds. -/
def calTouches (sh : Shell) (r : CalRes) : Bool :=
  let chans := sh.comp.sets.flatMap (fun e => e.2.chans)
  (calChans r).any (fun c => chans.contains c) || (match r with | .falnar l => sh.comp.links.any (fun g => g.link == l) | _ => false)

/-- STROKE.CALENDAR (13 T13-4). -/
def execStrokeCalendar (src : Src) (s : State) : Res :=
  onReq 0x0603 src s (fun r =>
    let at' := fun (i : Nat) => (r.word 0 + i) % 2 ^ 48
    let bits64 := fun (f : Nat → Bool) => (List.range 64).foldl (fun n i => if f i then n + 2 ^ i else n) 0
    let long := bits64 (fun i => extOf (at' i) s != 0)
    let cal := match shellOf (r.cdom s) s with | some sh => bits64 (fun i => (slotsAt (at' i) s).any (fun x => calTouches sh x.res)) | none => 0
    respond src stOK [long, cal] s)

/-! ### Alignment (R420..R422) -/

/-- Asks the master for its configuration. -/
def askConfig (link : Nat) (s : State) : State :=
  if s.reg.asked then s else emit (.cox link (.configRequest s.dev.board.devId)) { s with reg := { s.reg with asked := true } }

/-- A member that is aligned again and holds the regatta's configuration is no longer `unaligned` (R421; 18 R525). -/
def settleAligned (s : State) : State :=
  if s.reg.joined && s.reg.aligned && cfgDigest s.stroke.cfg = s.reg.digest && (s.dev.board.pos = 0 || s.reg.syncMiss < 8) then setUnaligned false s else s

/-- What a beacon to align to asks of a member: a join, a slew of at most 10 ns a stroke, or a step (R421, R422). -/
def alignTo (link : Nat) (b : BeaconMsg) (s : State) : State :=
  let delta := (b.count + 2 ^ 48 - s.stroke.count) % 2 ^ 48
  let step := some (delta, b.offset / 10)
  let far := delta != 0 || decide (10000 < b.offset.natAbs)
  let same := cfgDigest s.stroke.cfg = b.digest.toNat
  if !s.reg.joined then
    let s := { s with reg := { s.reg with stepTo := step } }
    if s.reg.cfg.isSome then s else askConfig link s
  else
    let s := { s with reg := { s.reg with
      stepTo := if far then step else none
      slew := if far || b.offset.natAbs < 10 then 0 else if 0 < b.offset then 1 else -1
      aligned := !far && decide (b.offset.natAbs ≤ 200) } }
    if same then settleAligned s else if s.reg.cfg.isSome then setUnaligned true s else askConfig link (setUnaligned true s)

/-- BEACON (R420..R422): a member aligns to the first beacon of a stroke with the lowest hop count and passes it on. -/
def execBeacon (link : Nat) (b : BeaconMsg) (s : State) : Res :=
  let r := s.dev.board.regatta
  let better := match s.reg.hops with | none => true | some h => decide (b.hops < h)
  if !isMember s || !s.stroke.running || !(regattaLinks s).contains link || b.regatta != r || !better then .next s
  else
    let s := { s with reg := { s.reg with hops := some b.hops, up := link, digest := b.digest.toNat } }
    let s := ((regattaLinks s).filter (fun l => l != link)).foldl (fun s l => emit (.beacon l { b with hops := b.hops + 1, offset := 0 }) s) s
    .next (alignTo link b s)

/-- An admitted guaranteed window uses a link. -/
def linkedWindow (s : State) : Bool := s.cmds.any (fun e => e.2.guarNow && (match cmdCtx e.2 s with | some x => usesLink x | none => false))

/-- Strokes numbered anew by a step: windows and calendar keep their places in time. -/
def renumber (delta : Nat) (s : State) : State :=
  let f := fun (k : Nat) => (k + delta) % 2 ^ 48
  { s with
    cmds := s.cmds.map (fun (e : Nat × Cmd) => (e.1, { e.2 with winEnd := f e.2.winEnd }))
    shells := s.shells.map (fun (e : Nat × Shell) => (e.1, { e.2 with windowEnd := f e.2.windowEnd }))
    stroke := { s.stroke with
      count := f s.stroke.count
      cal := s.stroke.cal.map (fun x => { x with stroke := f x.stroke })
      exts := s.stroke.exts.foldl (fun t e => tabPut (f e.1) e.2 t) [] } }

/-- STROKE_STEP (R421, R422): at a stroke boundary with no admitted guaranteed window that uses a link, the member takes the master's count, phase
and configuration. -/
def execStrokeStep (s : State) : Res :=
  let due := if s.reg.joined then s.reg.stepTo.isSome || s.reg.cfg.isSome else s.reg.stepTo.isSome && s.reg.cfg.isSome
  if !isMember s || !s.stroke.running || s.stroke.phase != .recovery || !due || linkedWindow s then .next s
  else
    let (delta, off) := s.reg.stepTo.getD (0, 0)
    let s := renumber delta s
    let c := s.reg.cfg.getD s.stroke.cfg
    let s := { s with
      stroke := { s.stroke with start := ((s.stroke.start : Int) - off).toNat, cfg := c }
      reg := { s.reg with joined := true, stepTo := none, slew := 0, cfg := none, asked := false, aligned := true } }
    .next (settleAligned s)

/-- BEACON_MISS (R421): 8 consecutive strokes without a beacon. -/
def execBeaconMiss (s : State) : Res :=
  if !isMember s || !s.reg.joined || s.reg.miss < 8 then .next s else .next (setUnaligned true { s with reg := { s.reg with aligned := false } })

/-- A device that takes its stroke starts from STROKE_SYNC (18 R525). -/
def takesSync (s : State) : Bool := s.dev.board.regatta != 0 && s.dev.board.pos != 0

/-- STROKE_SYNC (R419; 18 R525): an edge `offset` ns before this device's stroke start, less its internal delay. -/
def execStrokeSync (offset : Int) (s : State) : Res :=
  if !takesSync s || !s.stroke.running then .next s
  else
    let seen := s.reg.syncIn || decide (offset.natAbs ≤ 100)
    let s := { s with stroke := { s.stroke with start := ((s.stroke.start : Int) - offset / 10).toNat }, reg := { s.reg with syncIn := seen, syncMiss := if seen then 0 else s.reg.syncMiss } }
    .next (settleAligned s)

/-- STROKE_SYNC_MISS (18 R525): 8 consecutive strokes without an edge near the expected start. -/
def execStrokeSyncMiss (s : State) : Res := if !takesSync s || s.reg.syncMiss < 8 then .next s else .next (setUnaligned true s)

/-! ### Cox messages (R406, R413, R422, R423; entry 47) -/

/-- Takes a link's equalisation slot out of the calendar. -/
def dropEq (l : Nat) (s : State) : State := { s with stroke := { s.stroke with cal := s.stroke.cal.filter (fun x => x.res != .falnar l) } }

/-- The first stroke from one on that this device's calendar can hold a link's equalisation in. -/
def eqStroke (l from' : Nat) (s : State) : Option Nat :=
  ((List.range 4096).map (fun i => (from' + i) % 2 ^ 48)).find? (fun k => canHold k ((slotsAt k s).map (fun x => x.res) ++ [.falnar l]) 2000 s)

/-- Fixes an equalisation that both ends agree on. -/
def agreeEq (l stroke : Nat) (s : State) : State :=
  let s := placeSlot stroke (.falnar l) (dropEq l s)
  setLink l { linkOf l s with eq' := some ⟨stroke, true⟩ } s

/-- A proposal of the partner (R406): this end takes the first stroke at or after it, at least 64 ahead, that its calendar can hold. -/
def onEqualise (l stroke : Nat) (s : State) : State :=
  let soon := (s.stroke.count + 64) % 2 ^ 48
  let s := dropEq l s
  match eqStroke l (if strokesTo soon stroke < 2 ^ 47 then stroke else soon) s with
  | some k => emit (.cox l (.equaliseAgreed l k)) (agreeEq l k s)
  | none => s

/-- The partner's answer: this end fixes the stroke it names, or proposes the next that its own calendar can hold. -/
def onAgreed (l stroke : Nat) (s : State) : State :=
  if (linkOf l s).eq'.isNone then s
  else
    match eqStroke l stroke (dropEq l s) with
    | none => s
    | some k =>
      if k = stroke then agreeEq l k s
      else
        let s := placeSlot k (.falnar l) (dropEq l s)
        emit (.cox l (.equalise l k)) (setLink l { linkOf l s with eq' := some ⟨k, false⟩ } s)

/-- A partner asks for what its shells need on VC2 here (R413, R414). -/
def onShareRequest (l gbps : Nat) (s : State) : State :=
  let ok := sameRegatta l s && decide (shareTotal l s + gbps ≤ linkCap l s)
  let s := if ok then setLink l { linkOf l s with reserved := gbps } s else s
  let s := if ok then (s.shells.map (fun e => e.1)).foldl (fun s d => rederive d s) s else s
  emit (.cox l (.shareAnswer l gbps ok)) s

/-- A partner's answer: shells whose grants it completes go live, one that it cannot back is refused. -/
def onShareAnswer (l : Nat) (ok : Bool) (s : State) : State :=
  let hit := (s.shells.filter (fun e => e.2.asks.any (fun g => g.link == l))).map (fun e => e.1)
  if ok then
    hit.foldl (fun s d =>
      match shellOf d s with
      | some sh => creationDone d (setShell d { sh with asks := sh.asks.filter (fun g => g.link != l) } s)
      | none => s) s
  else match hit.getLast? with | some d => refuseShare d l s | none => s

/-- A member's answer reaches the master, or goes on towards it. -/
def toMaster (link : Nat) (m : CoxMsg) (f : State → State) (s : State) : State :=
  if s.dev.board.master then f s else if s.reg.up = link then s else emit (.cox s.reg.up m) s

/-- What a Cox message does. -/
def onCox (link : Nat) (m : CoxMsg) (s : State) : State :=
  match m with
  | .configure t c =>
    if !isMember s || s.stroke.pend == some (t, c) then s
    else if cfgBusy s then emit (.cox link (.refuse s.dev.board.devId)) s
    else coxAll (some link) (.configure t c) (emit (.cox link (.accept s.dev.board.devId)) (acceptCfg t c s))
  | .accept k =>
    toMaster link m (fun s =>
      match s.reg.wait with
      | none => s
      | some w =>
        let w := { w with yes := if w.yes.contains k then w.yes else w.yes ++ [k] }
        if s.dev.board.members ≤ w.yes.length then respond w.src stOK [] (acceptCfg w.target w.cfg { s with reg := { s.reg with wait := none } })
        else { s with reg := { s.reg with wait := some w } }) s
  | .refuse _ =>
    toMaster link m (fun s =>
      match s.reg.wait with
      | none => s
      | some w => refuse w.src stBusy 0x0301 0 (coxAll none .cancel { s with reg := { s.reg with wait := none } })) s
  | .cancel => if !isMember s || s.stroke.pend.isNone then s else coxAll (some link) .cancel { s with stroke := { s.stroke with pend := none } }
  | .configRequest _ =>
    if s.dev.board.master then emit (.cox link (.configAnswer s.stroke.cfg)) s
    else
      let s := { s with reg := { s.reg with askers := s.reg.askers ++ [link] } }
      if s.reg.up = link then s else emit (.cox s.reg.up m) s
  | .configAnswer c =>
    let s := s.reg.askers.foldl (fun s l => emit (.cox l (.configAnswer c)) s) { s with reg := { s.reg with askers := [] } }
    if !s.reg.asked then s
    else if s.reg.joined && s.stroke.cfg = c then { s with reg := { s.reg with asked := false } }
    else { s with reg := { s.reg with cfg := some c, asked := false } }
  | .equalise _ k => if sameRegatta link s then onEqualise link k s else s
  | .equaliseAgreed _ k => onAgreed link k s
  | .shareRequest _ g => onShareRequest link g s
  | .shareAnswer _ _ ok => onShareAnswer link ok s

/-- COX_MESSAGE. -/
def execCoxMessage (link : Nat) (m : CoxMsg) (s : State) : Res := if linkRuns link s then .next (onCox link m s) else .next s

/-! ### Rollbacks (15 R442) -/

/-- Words of a RETRACT data unit (T14-6). -/
def retractWords (r : RetractUnit) : List Nat :=
  [r.origin * 2 ^ 52 + r.rseq * 2 ^ 36 + r.tenant * 2 ^ 24 + r.cause * 2 ^ 16, r.regatta * 2 ^ 48 + r.stroke]

/-- A shell reset is due (15 R448). -/
def needShellReset (d : Nat) (inj : Option Nat) (s : State) : State :=
  if s.flt.shellRst.any (fun x => x.1 == d) then s else { s with flt := { s.flt with shellRst := s.flt.shellRst ++ [(d, inj)] } }

/-- The rollback of a tenant's shell: its commands end, its queue pairs learn of it, its reset follows. -/
def rollback (r : RetractUnit) (inj : Option Nat) (s : State) : State :=
  let d := tenantShell r.tenant s
  match (if (tenantOf r.tenant s).isSome then shellOf d s else none) with
  | none => logRec { newRec 0x61 0 0 0 with tenant := some r.tenant, inj := inj, detail := retractWords r } s
  | some _ =>
    let s := endCmds (fun c => c.cdom == d && c.st != .queued) stAbandoned (packDetail 0x0207 0) s
    let s := shellEvent d stAbandoned (packDetail 0x0207 0) s
    let s := logRec { (newRec 0x61 3 0xB 4).at d 0 0 with tenant := some r.tenant, inj := inj, detail := retractWords r } s
    needShellReset d inj s

/-- RETRACT (R425). -/
def execRetract (link : Nat) (r : RetractUnit) (s : State) : Res :=
  if !(regattaLinks s).contains link || r.regatta != s.dev.board.regatta then .next s
  else if s.reg.seen.contains (r.origin, r.rseq) then .next s
  else
    let seen := s.reg.seen ++ [(r.origin, r.rseq)]
    let s := { s with reg := { s.reg with seen := seen.drop (seen.length - 256) } }
    let s := ((regattaLinks s).filter (fun l => l != link)).foldl (fun s l => emit (.retract l r) s) s
    .next (rollback r none s)

end Sys2Proof.Machine
end

