-- ==== Sys2Proof/Machine/Faults.lean ====
section
/-! DEFINITION. Faults (15): the FAULT commands, detectors and their actions, Paired and Sampled checks, scans and way tests. -/
namespace Sys2Proof.Machine

/-! ### The fault log (R457..R459) -/

/-- A fault record's 64 bytes (T15-10). -/
def FRec.bytes (r : FRec) : List Byte :=
  ([r.seq * 2 ^ 32 + r.det * 2 ^ 16 + r.sev * 2 ^ 12 + r.rdom * 2 ^ 8 + r.action * 2 ^ 4 + b2n r.inj.isSome * 2 ^ 3,
    r.cdom * 2 ^ 55 + (match r.tenant with | some t => t * 2 ^ 43 + 2 ^ 42 | none => 0) + r.inj.getD 0 % 2 ^ 32,
    r.ukind * 2 ^ 60 + r.stroke, r.unit % 2 ^ 16 * 2 ^ 48 + r.tIn] ++ (List.range 4).map (fun i => r.detail.getD i 0)).flatMap (fun w => leBytes w 8)

/-- Records that a requester may see (R459). -/
def mayRead (r : Req) (s : State) (f : FRec) : Bool := r.byOwner || f.cdom == r.cdom s || f.tenant == some r.tenant

/-- The log from a sequence number on: from the oldest record where that one is gone (R459). -/
def logFrom (first : Nat) (s : State) : List FRec :=
  if s.flt.log.any (fun f => f.seq == first) then s.flt.log.dropWhile (fun f => f.seq != first)
  else if (s.flt.next + 2 ^ 32 - first) % 2 ^ 32 - 1 < 2 ^ 31 && first != s.flt.next % 2 ^ 32 then s.flt.log
  else []

/-- FAULT.READ (R459; 13 T13-5): the owner's request has in3 as well. -/
def execFaultRead (m : Nat) (s : State) : Res :=
  onReq 0x0801 (.mbx m) s (fun r =>
    let a := r.word 2
    let pasid := if r.byOwner then r.field 3 19 0 else pasidOf r.tenant s
    let l := (logFrom (r.field 0 31 0) s).filter (mayRead r s)
    let got := l.take (r.field 1 15 0)
    let next := match (l.drop got.length).head? with | some f => f.seq | none => s.flt.next % 2 ^ 32
    if (r.byOwner && decide (r.params.length < 32)) || !inHost a || !inHost (a + 64 * got.length) then respond r.src stBadParam [] s
    else if s.host.lost then respond r.src stHostLost [] s
    else respond r.src stOK [got.length, next] (if got.isEmpty then s else emit (.hostWrite pasid (a - 0x400000000000) (got.flatMap FRec.bytes) false) s))

/-- FAULT.CLEAR (R459). -/
def execFaultClear (m : Nat) (s : State) : Res :=
  onReq 0x0803 (.mbx m) s (fun r =>
    let last := r.field 0 31 0
    let left := s.flt.log.filter (fun f => decide (2 ^ 31 ≤ (last + 2 ^ 32 - f.seq) % 2 ^ 32))
    respond r.src stOK [] { s with flt := { s.flt with log := left, dropped := if left.any (fun f => f.det == 0x67) then s.flt.dropped else 0 } })

/-! ### Injections (R430..R432, T15-3) -/

/-- Bit positions of an ECC pattern are below 80 or unused. -/
def eccPatOk (p : Nat) : Bool := [bits p 6 0, bits p 13 7, bits p 20 14].all (fun x => decide (x < 80) || x == 0x7F)

/-- A core named in a target: an enabled core for the owner, a seat of its shell for a tenant (R430). -/
def targetCore (r : Req) (v : Nat) (s : State) : Option Nat :=
  if r.byOwner then (if v < Config.cores then some v else none)
  else match shellOf (r.cdom s) s with | some sh => seatCore sh v | none => none

/-- The target of an injection as the detector knows it: none where the row of T15-3 has no such target. -/
def injTarget (r : Req) (det v p : Nat) (s : State) : Option Nat :=
  let core := fun (f : Nat → Nat) (x : Nat) => (targetCore r x s).map f
  let upTo := fun (n : Nat) => if v < n then some v else none
  if det = 0x01 then
    let src := bits v 31 24
    let u := bits v 8 0
    let lim := if src = 3 then 88 else if src = 4 || src = 7 then 16 else 1
    if src < 3 || 9 < src || !eccPatOk p then none
    else if src = 5 || src = 6 then core (fun c => src * 2 ^ 24 + c) u
    else if u < lim then some (src * 2 ^ 24 + u) else none
  else if det = 0x02 then
    let src := bits v 31 24
    let u := bits v 5 0
    if !eccPatOk p then none else if src = 1 then some (2 ^ 24 + u) else if src = 2 && u < 24 then some (2 ^ 25 + u) else none
  else if det = 0x03 then (if bits p 2 0 = 0 || 4 < bits p 2 0 then none else upTo 88)
  else if det = 0x04 then (if bits p 4 0 = 0 then none else upTo 16)
  else if det = 0x05 then (if bits p 4 0 = 0 && !bit p 8 then none else upTo 18)
  else if det = 0x06 then (if bits p 4 0 = 0 then none else upTo 1)
  else if det = 0x10 || det = 0x11 || det = 0x31 || det = 0x50 then core id v
  else if det = 0x20 then
    let k := bits v 31 28
    let u := bits v 15 0
    let lim := if k = 1 then 368 else if k = 2 then 16 else if k = 3 then 88 else if k = 4 then 88 else if k = 5 then 18 else if k = 6 then 16 else 2 ^ 16
    if k = 0 || 7 < k || lim ≤ u then none else some (k * 2 ^ 28 + u)
  else if det = 0x21 || det = 0x22 then upTo 1
  else if det = 0x30 then core (fun c => c + bits v 20 16 * 2 ^ 16) (bits v 8 0)
  else if det = 0x32 then some (bits v 11 0 + bits v 31 16 * 2 ^ 16)
  else if det = 0x33 || det = 0x36 then upTo 18
  else if det = 0x34 then upTo 32
  else if det = 0x35 then upTo 88
  else if det = 0x40 || det = 0x41 || det = 0x42 then upTo 5
  else if det = 0x43 then upTo 100
  else if det = 0x51 then
    let u := bits v 15 8
    if bits v 31 24 = 0 && u < 16 then some (u * 2 ^ 8 + bits v 4 0)
    else if bits v 31 24 = 1 && u < 88 && bits v 4 0 < 16 then some (2 ^ 24 + u * 2 ^ 8 + bits v 4 0)
    else none
  else none

/-- What a tenant with `r_debug` may inject, and on its own shell only (R430). -/
def injAllowed (r : Req) (det v : Nat) (s : State) : Bool :=
  if r.byOwner then true
  else
    let src := bits v 31 24
    let ch := if src = 1 then bits v 5 0 else 64 + bits v 5 0
    if det = 0x01 then src == 5 || src == 6
    else if det = 0x02 then (src == 1 || src == 2) && chanOwner ch s == some (r.cdom s)
    else if det = 0x32 then (match tabFind (bits v 11 0) s.qps with | some p => tenantShell p.tenant s == r.cdom s | none => false)
    else det == 0x10 || det == 0x11 || det == 0x30

/-- Detectors of T15-3. -/
def detectors : List Nat :=
  [0x01, 0x02, 0x03, 0x04, 0x05, 0x06, 0x10, 0x11, 0x20, 0x21, 0x22] ++ [0x30, 0x31, 0x32, 0x33, 0x34, 0x35, 0x36, 0x40, 0x41, 0x42, 0x43, 0x50, 0x51]

/-- FAULT.INJECT (R430, R431): arms an injection; at most 64 are armed. -/
def execFaultInject (m : Nat) (s : State) : Res :=
  onReq 0x0802 (.mbx m) s (fun r =>
    let det := r.field 0 15 0
    let v := r.field 1 31 0
    let at' := r.field 2 47 0
    let p := r.word 3
    if !detectors.contains det then respond r.src stBadParam [] s
    else if !injAllowed r det v s then respond r.src stNotPermitted [] s
    else match injTarget r det v p s with
      | none => respond r.src stBadParam [] s
      | some t =>
        if 64 ≤ s.flt.injs.length then respond r.src stBusy [] s
        else
          let n := s.flt.nextInj
          let i : Inj := ⟨n, det, t, if at' = 0 then (s.stroke.count + 1) % 2 ^ 48 else at', p⟩
          respond r.src stOK [n] { s with flt := { s.flt with injs := s.flt.injs ++ [i], nextInj := (n + 1) % 2 ^ 32 } })

/-- INJECT_LAPSED (R431): 65,536 strokes after its stroke. -/
def execInjectLapsed (n : Nat) (s : State) : Res :=
  match s.flt.injs.find? (fun i => i.num == n) with
  | none => .next s
  | some i =>
    if s.stroke.count < i.stroke + 65536 then .next s
    else .next (logRec { newRec 0x6D 0 0 0 with inj := some n } { s with flt := { s.flt with injs := s.flt.injs.filter (fun j => j.num != n) } })

/-- Takes the injection of a detector at a target: its number, its pattern. -/
def injected (det target : Nat) (s : State) : Option Nat × Nat × State :=
  let i := takeInj det target s
  (i.1.map (fun x => x.num), (match i.1 with | some x => x.pat | none => 0), i.2)

/-! ### Probes and progress (R428) -/

/-- CORE_PROBE: an armed CORE_PROGRESS injection leaves the probe unanswered. -/
def execCoreProbe (core : Nat) (answered : Bool) (s : State) : Res :=
  if Config.cores ≤ core || (coreOf core s).fenced || coreGone core s then .next s
  else
    let i := injected 0x31 core s
    let s := i.2.2
    let k := coreOf core s
    if answered && i.1.isNone then .next (setCore core { k with probe := none } s)
    else .next (setCore core { k with probe := if k.probe.isSome then k.probe else some (s.now, i.1) } s)

/-- Domain and unit of a core in a record. -/
def NewRec.ofCore (r : NewRec) (core : Nat) (s : State) : NewRec :=
  r.at (match (coreOf core s).holder with | some (d, _) => d | none => 0x1FF) 1 core

/-- A command runs nodes on a core. -/
def coreRuns (core : Nat) (s : State) : Bool := s.cmds.any (fun e => stepRuns e.2 && (placesOf e.2 s).any (fun p => p.2.2 == core))

/-- CORE_PROGRESS (R428): a probe unanswered for 10 µs, or a repetition stuck for 100 µs, resets the core. -/
def execCoreProgress (core : Nat) (s : State) : Res :=
  let k := coreOf core s
  if k.fenced || coreGone core s then .next s
  else match k.probe with
    | some (t, inj) =>
      let s := untilTime (t + Config.us 10) (setCore core { k with probe := none } s)
      .next (needResetBy inj core (logRec { (newRec 0x31 3 6 2).ofCore core s with inj := inj } s))
    | none => if coreRuns core s then .next (needReset core (logRec ((newRec 0x31 3 6 2).ofCore core s) s)) else .next s

/-! ### Dies (R427, R429) -/

/-- Domains of which a half of a die owns lines (09 T9-10). -/
def ownedOn (die : Nat) (s : State) : List Nat :=
  ((s.coh.dir.filter (fun e => decide (e.2.dstate = .owned) && (bit e.2.presence (2 * die) || bit e.2.presence (2 * die + 1)))).map (fun e => e.2.cdom)).eraseDups

/-- A die is fenced: its cores, its halves and ports; domains with lines owned there fail (R448; 09 R275). -/
def fenceDie (inj : Option Nat) (die : Nat) (s : State) : State :=
  let s := if s.flt.fences.any (fun f => f.dom == 3 && f.unit == die) then s
    else { s with flt := { s.flt with fences := s.flt.fences ++ [⟨3, die, s.now, false, false, inj, false⟩] } }
  let s := (List.range 46).foldl (fun s i => loseCoreBy inj (46 * die + i) s) s
  (ownedOn die s).foldl (fun s d => failDomainBy inj detProtocol 2 (2 * die) d s) s

/-- A die is fenced for its reset; after a wire fault it stays fenced (R427). -/
def needDieReset (inj : Option Nat) (stay : Bool) (die : Nat) (s : State) : State :=
  let s := markReset inj 3 die (fenceDie inj die s)
  { s with flt := { s.flt with fences := s.flt.fences.map (fun f => if f.dom = 3 && f.unit = die then { f with stay := f.stay || stay } else f) } }

/-- UCIE_CRC (R427, T15-3): `fails` consecutive flits of a half's port are corrupted. Up to 8 are recovered by retries; the retrain after the 8th
failed retry succeeds or shows a wire fault. -/
def execUcieCrc (half fails : Nat) (retrained : Bool) (s : State) : Res :=
  if 16 ≤ half then .next s
  else
    let i := injected 0x04 half s
    let s := i.2.2
    let n := max fails (bits i.2.1 4 0)
    if n = 0 then .next s
    else if n ≤ 8 || retrained then .next (logRec { (newRec 0x04 1 2 0).at 0x1FF 2 half with inj := i.1 } s)
    else .next (needDieReset i.1 true (half / 2) (logRec { (newRec 0x04 3 6 3).at 0x1FF 2 half with inj := i.1 } s))

/-! ### Control parity and the Cox (R429, R430) -/

/-- Domains with an entry, an open transaction or a pinned line in a slice (T15-2). -/
def sliceDoms (ch : Nat) (s : State) : List Nat :=
  let on := fun (l : Nat) => dpaChan (l * 512) == ch
  ((s.coh.dir.filter (fun e => on e.1 && decide (e.2.dstate ≠ .inv))).map (fun e => e.2.cdom) ++
    (s.coh.open'.filter (fun e => on e.1)).filterMap (fun e => e.2.msg.cdom) ++
    (s.coh.atoms.filter (fun e => on e.1)).flatMap (fun e => e.2.map (fun a => a.cdom))).eraseDups

/-- A warm reset is triggered (T15-7); during one it becomes a cold reset (R450), which `cold` performs. -/
def warmTrigger (cold : Option Nat → State → State) (det ukind unit : Nat) (inj : Option Nat) (s : State) : State :=
  let s := logRec { (newRec det 4 6 6).at 0x1FF ukind unit with inj := inj } s
  if s.dev.state = 4 then cold inj s
  else if s.dev.stage != .released && s.dev.stage != .loader then s
  else setDevState 4 { s with flt := { s.flt with warm := some inj } }

/-! ### Snoops (09 R275) -/

/-- SNOOP_TIMEOUT (R275): 4 µs after a snoop was sent, its line's domain fails. -/
def execSnoopTimeout (agent line : Nat) (s : State) : Res :=
  match tabFind line s.coh.open' with
  | none => .next s
  | some t =>
    if !t.waits.contains agent then .next s
    else
      let key := lineKey agent line
      let inj := tabFind key s.flt.withheld
      let s := untilTime (t.at' + Config.us 4) { s with flt := { s.flt with withheld := tabDel key s.flt.withheld } }
      .next (failDomainBy inj 0x34 3 (dpaChan (line * 512)) (dirOf line s).cdom s)

/-! ### Scans and tests (R444..R446) -/

/-- A scan begins or waits; a core that is scanned runs nothing. -/
def queueScan (j : ScanJob) (s : State) : State :=
  if s.flt.scans.contains j then s
  else
    let s := { s with flt := { s.flt with scans := s.flt.scans ++ [j] } }
    if j.kind = 0 then setCore j.unit { coreOf j.unit s with scanning := true } s else s

/-- Two cores are fenced and scanned one after the other (R436, R441). -/
def fenceAndScan (inj : Option Nat) (cores : List Nat) (s : State) : State :=
  cores.foldl (fun s c => if coreGone c s then s else queueScan ⟨0, c, none⟩ (loseCoreBy inj c s)) s

/-- A core goes back to service at the next stroke boundary, cleared (T15-5). -/
def returnCore (core : Nat) (s : State) : State :=
  if coreGone core s then s
  else
    let s := zeroCore core s
    setCore core { coreOf core s with returnAt := some ((s.stroke.count + 1) % 2 ^ 48) } s

/-- A half's lines, misses and buffers go without a writeback. -/
def dropHalf (half : Nat) (s : State) : State :=
  let mine := fun (k : Nat) => k / 2 ^ 40 == half
  let forHalf := fun (m : NMsg) => match m with
    | .data a _ _ _ _ _ _ | .grant a _ _ | .pushreq a _ | .snpinv a _ | .snpshr a _ | .snpcur a _ | .snpfwd a _ _ | .sresp a _ _ _ _ _ _
    | .grantack a _ | .wback a _ _ | .pushack a _ | .error a _ => a == half
  let ofHalf := fun (m : HMsg) => match m with
    | .rds a _ _ | .rdn a _ _ | .own a _ | .push a _ _ | .spush a _ _ | .wb a _ | .evict a => a == half
    | _ => false
  let closed := s.coh.open'.filter (fun e => e.2.grantee == some half || ofHalf e.2.msg)
  let s := { s with coh := { s.coh with
    lines := s.coh.lines.filter (fun e => !mine e.1)
    miss := s.coh.miss.filter (fun e => !mine e.1)
    wbuf := s.coh.wbuf.filter (fun e => !mine e.1)
    net := s.coh.net.filter (fun m => !forHalf m)
    open' := s.coh.open'.filter (fun e => !(e.2.grantee == some half || ofHalf e.2.msg)) } }
  let s := keepQueued (fun m => !ofHalf m) s
  let s := closed.foldl (fun s e => setDir e.1 { dirOf e.1 s with lock := false } s) s
  let s := s.coh.dir.foldl (fun s e =>
    if !bit e.2.presence half then s
    else
      let p := e.2.presence - 2 ^ half
      if p = 0 then setDir e.1 e.2.toInv s else setDir e.1 { e.2 with presence := p, fwd := if e.2.fwd = some half then none else e.2.fwd } s) s
  let waiting := s.coh.open'.filter (fun e => e.2.waits.contains half)
  let s := waiting.foldl (fun s e =>
    match tabFind e.1 s.coh.open' with
    | none => s
    | some t =>
      let t := { t with waits := t.waits.erase half }
      if t.waits.isEmpty then execSnoopResponse.finish e.1 t s else { s with coh := { s.coh with open' := tabPut e.1 t s.coh.open' } }) s
  drainAll s

/-- A shell holds a seat, share or way on a die (R444). -/
def dieHeld (die : Nat) (s : State) : Bool :=
  let on := fun (c : Comp) => c.seats.any (fun x => dieOf x.core == die) || c.halves.any (fun h => h.half / 2 == die)
  s.shells.any (fun e => on e.2.comp || (match e.2.rebind with | some r => on r.comp || r.moves.any (fun m => dieOf m.2.1 == die) | none => false))

/-- A channel holds a sole copy for a shell: a range that is neither mirrored nor in a sealed coded set, or saved contexts (R444, R393; 11 R322). -/
def soleCopy (ch : Nat) (s : State) : Bool :=
  match chanOwner ch s with
  | none => s.released.any (fun x => x.body.chans.contains ch)
  | some d =>
    match shellOf d s with
    | none => false
    | some sh =>
      let hit := fun (i : Nat) => match setOf sh i with | some st => st.chans.contains ch | none => false
      let coded := fun (i : Nat) => match setOf sh i with | some st => st.coded != 0 | none => false
      (hit 0 && sh.comp.seats.any (fun x => x.sliced)) ||
      sh.ranges.any (fun e => (hit e.2.set && !(e.2.mirror && !e.2.mirrorLost) && !(coded e.2.set && e.2.sealed && !sh.seals.any (fun y => y.range == e.1))) ||
        (e.2.mirror && e.2.mirrorLost && e.2.side && hit e.2.mset))

/-- A shell here or at the partner holds a share of a link (R444; 14 R405). -/
def linkHeld (l : Nat) (s : State) : Bool := s.shells.any (fun e => e.2.comp.links.any (fun g => g.link == l)) || (linkOf l s).reserved != 0

/-- A unit of FAULT.TEST is fenced. -/
def unitFenced (kind unit : Nat) (s : State) : Bool :=
  if kind = 0 then (coreOf unit s).fenced
  else if kind = 1 then s.flt.fences.any (fun f => f.dom == 3 && f.unit == unit)
  else if kind = 2 then (chanOf unit s).fenced
  else (linkOf unit s).st == .out

/-- The fence of FAULT.TEST (T15-5): none where a shell still needs the unit. -/
def testFence (kind unit : Nat) (s : State) : Option State :=
  if kind = 0 then some (loseCore unit s)
  else if kind = 1 then (if dieHeld unit s then none else some (fenceDie none unit s))
  else if kind = 2 then (if soleCopy unit s then none else some (loseChannel unit s))
  else if linkHeld unit s then none else some (if (linkOf unit s).st = .out then s else dropLink unit .out s)

/-- Cores that return with a die: the ones that its fence fenced and the ones that waited for a reset of their own (R450). -/
def dieCores (die : Nat) (s : State) : List Nat :=
  let mine := fun (f : Fence) => f.dom == 2 && dieOf f.unit == die
  let own := (s.flt.fences.takeWhile (fun f => !(f.dom == 3 && f.unit == die))).filter (fun f => mine f && !f.reset)
  (List.range 46).map (fun i => 46 * die + i) |>.filter (fun c => !own.any (fun f => f.unit == c))

/-- A die goes back to service: its caches invalid, its cores cleared (T15-5). -/
def returnDie (die : Nat) (s : State) : State :=
  let s := dropHalf (2 * die + 1) (dropHalf (2 * die) s)
  unfence 3 die ((dieCores die s).foldl (fun s c => returnCore c s) s)

/-- The return of FAULT.TEST (T15-5): none for a unit that left service, or a link that has not passed since it failed (R445). -/
def testReturn (kind unit : Nat) (s : State) : Option State :=
  if kind = 0 then (if coreGone unit s then none else some (returnCore unit s))
  else if kind = 1 then (if bit s.dev.devsec.diesRet unit then none else some (returnDie unit s))
  else if kind = 2 then
    (let k := chanOf unit s
    if !k.usable || k.leaving then none
    else
      let s := setChan unit { chanOf unit (zeroChan unit s) with fenced := false } (zeroChan unit s)
      let s := unfence 8 unit s
      some (match chanOwner unit s with | some d => rederive d s | none => s))
  else if s.flt.badLinks.contains unit then none
  else some (emit (.linkRetrain unit 4) (setLink unit { linkOf unit s with st := .untrained, badLanes := [], width := 0 } s))

/-- FAULT.TEST (R444; 13 R393): action 0 fences, 1 scans, 2 returns. A scan needs verified patterns (17 R494). -/
def execFaultTest (m : Nat) (s : State) : Res :=
  onReq 0x0804 (.mbx m) s (fun r =>
    let kind := r.field 0 3 0
    let u := r.field 0 19 8
    let act := r.field 1 1 0
    let lim := if kind = 0 then Config.cores else if kind = 1 then 8 else if kind = 2 then 88 else if kind = 3 then 18 else 0
    if lim ≤ u || act = 3 then respond r.src stBadParam [] s
    else if act = 0 then (match testFence kind u s with | some s => respond r.src stOK [0] s | none => respond r.src stBusy [] s)
    else if !unitFenced kind u s then respond r.src stWrongState [] s
    else if act = 2 then
      (if s.flt.scans.any (fun j => j.kind == kind && j.unit == u) then respond r.src stBusy [] s
      else match testReturn kind u s with | some s => respond r.src stOK [0] s | none => respond r.src stWrongState [] s)
    else if !s.flt.scans.isEmpty then respond r.src stBusy [] s
    else match (if kind ≤ 1 then readPatterns s else some s) with
      | none => respond r.src stWrongState [] s
      | some s => queueScan ⟨kind, u, some r.src⟩ (setBegun r.src s))

/-- Unit kind of a record about a tested unit (T15-2). -/
def testUkind (kind : Nat) : Nat := if kind = 0 then 1 else if kind = 1 then 2 else if kind = 2 then 8 else if kind = 3 then 5 else if kind = 4 then 2 else 3

/-- A channel that failed its test leaves service for good (R445; 10 R301). -/
def leaveService (ch : Nat) (s : State) : State :=
  let a := dpaOf ch 0
  let s := if s.dev.devsec.banks.any (fun b => dpaChan b == ch) then s else writeDevSec { s.dev.devsec with banks := s.dev.devsec.banks ++ [a] } s
  let held := (chanOwner ch s).isSome || s.released.any (fun x => x.body.chans.contains ch)
  setChan ch (if held then { chanOf ch s with leaving := true } else { chanOf ch s with usable := false }) s

/-- A unit failed (R445); an injected failure retires no hardware (R432). -/
def unitFails (j : ScanJob) (inj : Option Nat) (s : State) : State :=
  let s := if j.kind = 0 then logRec { (newRec 0x50 3 7 0).ofCore j.unit s with inj := inj } s else s
  if inj.isSome then s
  else if j.kind = 0 then retireCore j.unit s
  else if j.kind = 1 then retireDie j.unit s
  else if j.kind = 2 then leaveService j.unit s
  else { s with flt := { s.flt with badLinks := if s.flt.badLinks.contains j.unit then s.flt.badLinks else s.flt.badLinks ++ [j.unit] } }

/-- The next scan that waits begins. -/
def scanEnds (s : State) : State := { s with flt := { s.flt with scans := s.flt.scans.tail } }

/-- SCAN_DONE (R445): the scan or test in progress ends. -/
def execScanDone (passed : Bool) (s : State) : Res :=
  match s.flt.scans with
  | [] => .next s
  | j :: _ =>
    let i := if j.kind = 0 then injected 0x50 j.unit s else if 4 ≤ j.kind then injected 0x51 j.unit s else (none, 0, s)
    let ok := passed && i.1.isNone
    let s := scanEnds i.2.2
    let unit := if 4 ≤ j.kind then bits j.unit 15 8 else j.unit
    let act := if ok then 0 else if j.kind ≤ 1 then 7 else 5
    let s := logRec { (newRec 0x62 (if ok then 0 else 3) act 0).at 0x1FF (testUkind j.kind) unit with inj := i.1 } s
    if 4 ≤ j.kind then
      if ok then .next s
      else
        let s := logRec { (newRec 0x51 2 5 0).at 0x1FF (testUkind j.kind) unit with inj := i.1 } s
        .next (if i.1.isSome || s.flt.badWays.contains j.unit then s else { s with flt := { s.flt with badWays := s.flt.badWays ++ [j.unit] } })
    else
      let s := if j.kind = 0 then setCore j.unit { coreOf j.unit s with scanning := false, latent := false, lastScan := s.now } s else s
      let s := if ok then { s with flt := { s.flt with badLinks := if j.kind = 3 then s.flt.badLinks.filter (fun l => l != j.unit) else s.flt.badLinks } } else unitFails j i.1 s
      .next (match j.src with
        | some src => respond src stOK [b2n ok] s
        | none => if ok && j.kind = 0 then returnCore j.unit s else s)

/-! ### Rolling tests (R446) -/

/-- Cores that no shell holds and that work, of a half. -/
def freeCores (half : Nat) (s : State) : List Nat :=
  let used := s.shells.flatMap (fun e => e.2.comp.cores ++ (match e.2.rebind with | some r => r.comp.cores ++ r.moves.map (fun m => m.2.1) | none => []))
  (List.range Config.cores).filter (fun c => halfOf s c == half && !used.contains c && !(coreOf c s).fenced && !coreGone c s)

/-- Shells with a seat on a core. -/
def shellsOn (core : Nat) (s : State) : List Nat := (s.shells.filter (fun e => e.2.comp.cores.contains core)).map (fun e => e.1)

/-- A scan swap may run for a shell: it can flip now and nothing of it is under way. -/
def swapOpen (d core : Nat) (s : State) : Bool :=
  match shellOf d s with
  | none => false
  | some sh =>
    let f := (s.stroke.count + 1) % 2 ^ 48
    sh.rebind.isNone && sh.flips.isEmpty && !sh.oldEpoch && sh.created.isNone && !sh.failed && f % sh.comp.k == sh.comp.o && !oldRequests d core s &&
    !((coreOf core s).groups.any (fun g => g.2.cdom == d && !g.2.far.isEmpty))

/-- A shell's seat moves from a core to a free one, flip and move in one recovery phase (R446; 11 R331). -/
def swapSeat (core new d : Nat) (s : State) : State :=
  match shellOf d s with
  | none => s
  | some sh =>
    let f := (s.stroke.count + 1) % 2 ^ 48
    let c := { sh.comp with seats := sh.comp.seats.map (fun x => if x.core = core then { x with core := new } else x) }
    let rb : Rebind := { src := .mbx 0, comp := c, flip := f, step := 0, rcopy := 0, copyK := 1, subst := none, copied := false, moves := [], trb := 0, began := s.now, forced := false, known := [], old := none }
    let s := rebindFlip d sh rb f s
    let moves := match shellOf d s with | some sh => (match sh.rebind with | some r => r.moves | none => []) | none => []
    let s := moves.foldl (fun s m =>
      let s := moveSeat d m s
      match shellOf d s with
      | none => s
      | some sh =>
        match sh.comp.seats[m.1]? with
        | some x => if x.sliced then s else setShell d { sh with arriving := sh.arriving ++ [(m.1, m.2.2)] } s
        | none => s) s
    let s := match shellOf d s with | some sh => fixWays d (setShell d { sh with rebind := none } s) | none => s
    rederive d (endDrain d s)

/-- The slice plan of a core goes on where its seats went (R446): the seat of the next stroke is restored there. -/
def takePlan (k : Core) (new : Nat) (s : State) : State :=
  let s := setCore new { coreOf new s with plan := k.plan, planNext := k.planNext, planPos := k.planPos, before := k.before } s
  if k.plan.isEmpty then s else setCore new { coreOf new s with incoming := holderAt new ((s.stroke.count + 1) % 2 ^ 48) s } s

/-- ROLLING_TEST (R446): a core, through a scan swap where it holds seats; or a way of the shared remainder (T15-3's target). -/
def execRollingTest (ways : Bool) (unit : Nat) (s : State) : Res :=
  if !s.flt.scans.isEmpty || s.dev.state != 2 then .next s
  else if ways then
    let slice := bits unit 31 24 == 1
    let u := bits unit 15 8
    let way := bits unit 4 0
    let held := if slice then (match chanOwner u s with
        | some d => (match shellOf d s with | some sh => sh.comp.sets.foldl (fun n e => if e.2.chans.contains u then n + e.2.ways else n) 0 | none => 0)
        | none => 0)
      else if (wayHolder u way s).isSome then way + 1 else 0
    if way < held || s.flt.badWays.contains unit || (if slice then 16 ≤ way || 88 ≤ u else 16 ≤ u) then .next s
    else .next (queueScan ⟨if slice then 5 else 4, unit, none⟩ s)
  else if Config.cores ≤ unit || coreGone unit s || (coreOf unit s).fenced then .next s
  else match readPatterns s with
  | none => .next s
  | some s =>
  if (shellsOn unit s).isEmpty then .next (fenceAndScan none [unit] s)
  else
    let ds := shellsOn unit s
    match freeCores (halfOf s unit) s with
    | [] => .next s
    | new :: _ =>
      if s.stroke.phase != .recovery || !ds.all (fun d => swapOpen d unit s) then .next s
      else .next (fenceAndScan none [unit] (takePlan (coreOf unit s) new (ds.foldl (fun s d => swapSeat unit new d s) s)))

/-- LATENT_SCAN_OVERDUE (R446): a core not scanned for 24 h. -/
def execLatentScanOverdue (core : Nat) (s : State) : Res :=
  let k := coreOf core s
  if Config.cores ≤ core || coreGone core s || k.latent then .next s
  else
    let s := untilTime (k.lastScan + Config.sec 86400) s
    .next (logRec ((newRec 0x68 2 0 0).ofCore core s) (setCore core { coreOf core s with latent := true } s))

/-! ### Paired mode (R434, R436) -/

/-- Releases an item that matched: it leaves the core now. -/
def releaseItem (core : Nat) (h : HeldItem) (s : State) : State :=
  match h.what with
  | .write n a bytes =>
    (match cmdOf n s with
    | none => s
    | some c =>
      let sm := match cmdGraph c s with | some g => g.seatMap | none => []
      let w := writeShell n c.cdom core sm c.guarNow a bytes s
      if w.1 = 0 then w.2 else faultStop n (if w.1 = 1 then stFaultData else stTranslation) w.2)
  | .store n slot pc lane a relaxed bytes =>
    (match cmdOf n s with
    | none => s
    | some c =>
      let loc := if 2 ^ 48 ≤ a then Loc.unmapped else locate c.cdom (seatMapOf n s) a s
      let bad := fun (s : State) => match groupOf core slot s with | some g => if g.park.isSome then s else park core slot ⟨0x05, lane, pc, a % 2 ^ 48⟩ s | none => s
      match loc with
      | .mem dpa _ _ => storeLine (halfOf s core) (dpa / 512) c.cdom (core, slot, pc, lane, a) (cellsOf (dpa % 512) bytes) s
      | .spad k off => spadWrite k off bytes s
      | .host x => if s.host.lost then s else emit (.hostWrite (pasidOf c.tenant s) x bytes relaxed) s
      | .peer dev off => (match sendReq c.cdom dev kWrite c.tenant 0 0 off bytes.length bytes (.store core slot pc lane) s with | some s => s | none => bad s)
      | _ => bad s)
  | .atom line a => pushAtom line a s
  | .sector id sector a bytes =>
    (match tabFind id (coreOf core s).copies with
    | none => s
    | some cp =>
      match locate cp.cdom (seatMapOf cp.cmd s) a s with
      | .mem dpa _ _ => if cp.cdom ∈ s.coh.failing then copyFault core id 0x05 a cp s else ctrAdd core cp.ctr (sectorDone core id sector (homePush (halfOf s core) cp.cdom dpa bytes s))
      | .spad c off => ctrAdd c cp.ctr (sectorDone core id sector (spadWrite c off bytes s))
      | .host x => if s.host.lost then copyFault core id 0x05 a cp s else sectorDone core id sector (emit (.hostWrite (pasidOf (copyTenant cp s) s) x bytes true) s)
      | .peer dev off =>
        (match sendReq cp.cdom dev (if 0x700000000 ≤ off then kSector else kWrite) (copyTenant cp s) 0 cp.ctr off 64 bytes (.copy core id sector) s with
        | some s => s
        | none => copyFault core id 0x05 a cp s)
      | _ => copyFault core id 0x05 a cp s)

/-- The command of a held item. -/
def itemCmd (core : Nat) (h : HeldItem) (s : State) : Option Nat :=
  match h.what with
  | .write n _ _ | .store n _ _ _ _ _ _ => some n
  | .atom _ a => (match a.by' with | .thread c slot _ _ => (groupOf c slot s).map (fun g => g.cmd) | .link _ _ _ _ => none)
  | .sector id _ _ _ => (tabFind id (coreOf core s).copies).map (fun c => c.cmd)

/-- The partner core of a primary (R433). -/
def partnerOf (core : Nat) (s : State) : Option Nat :=
  match holderOf core s with | some (_, seat, sh) => seatCore sh (seat + 1) | none => none

/-- Words 4 to 7 of a record of a signature mismatch (T15-10); an item of no node has no node number and repetition that the spec states (entry 48). -/
def mismatchWords (handle : Nat) (node : Option (Nat × Nat)) (expected observed : Word) (s : State) : List Nat :=
  let n := match node with | some (i, r) => i % 2 ^ 16 * 2 ^ 32 + r % 2 ^ 32 | none => (Config.freeW32 s.fresh).toNat % 2 ^ 16 * 2 ^ 32 + (Config.freeW32 (s.fresh + 1)).toNat
  [handle * 2 ^ 48 + n, 0, expected.toNat, observed.toNat]

/-- A Paired mismatch (R436): the item and all after it are dropped, the command ends, both cores are fenced and scanned. -/
def pairedMismatch (core : Nat) (h : HeldItem) (observed : Word) (inj : Option Nat) (s : State) : State :=
  let n := itemCmd core h s
  let c := match n with | some k => cmdOf k s | none => none
  let partner := partnerOf core s
  let handle := match c with | some c => c.handle | none => 0
  let r := { (newRec 0x10 3 5 0).ofCore core s with tenant := c.map (fun c => c.tenant), inj := inj, detail := mismatchWords handle h.node h.sig observed s }
  let s := if h.node.isNone then bump (bump s) else s
  let seq := s.flt.next % 2 ^ 32
  let s := logRec r s
  let s := setCore core { coreOf core s with held := [] } s
  let s := match n with | some k => finishWith k stFaultData seq 0 s | none => s
  fenceAndScan inj (core :: (match partner with | some p => [p] | none => [])) s

/-- PAIRED_SIGNATURE (R434): the partner's signature of the primary's oldest held item. -/
def execPairedSignature (core : Nat) (sig : Word) (s : State) : Res :=
  match (coreOf core s).held with
  | [] => .next s
  | h :: _ =>
    let i := injected 0x10 core s
    let s := i.2.2
    let sig := sig ^^^ BitVec.ofNat 64 i.2.1
    if sig = h.sig then .next (releaseItem core h (setCore core { coreOf core s with held := (coreOf core s).held.tail } s))
    else .next (pairedMismatch core h sig i.1 s)

/-- PAIRED_SIGNATURE_TIMEOUT (R434): none came within 2 µs. -/
def execPairedSignatureTimeout (core : Nat) (s : State) : Res :=
  match (coreOf core s).held with
  | [] => .next s
  | h :: _ => .next (pairedMismatch core h 0 none (untilTime (h.at' + Config.us 2) s))

/-! ### Sampled mode (R437, R441) -/

/-- SAMPLED_CHECK (R437, R440, R441): a checker core ends its oldest check. -/
def execSampledCheck (core : Nat) (expected observed : Word) (s : State) : Res :=
  match s.flt.sampled.find? (fun x => x.checker == core) with
  | none => .next s
  | some x =>
    let i := injected 0x11 x.core s
    let s := { i.2.2 with flt := { i.2.2.flt with sampled := i.2.2.flt.sampled.erase x } }
    let got := observed ^^^ BitVec.ofNat 64 i.2.1
    if got = expected then .next s
    else
      let win := match shellOf x.cdom s with | some sh => [(x.cdom, windowOf sh x.stroke)] | none => []
      let s := { s with flt := { s.flt with badWins := s.flt.badWins ++ win } }
      let s := logRec { (newRec 0x11 3 0xA 0).at x.cdom 1 x.core with tenant := some x.tenant, inj := i.1, detail := mismatchWords x.handle (some (x.node, x.rep)) expected got s } s
      let r : RetractUnit := { origin := s.dev.board.devId, rseq := s.reg.rseq, tenant := x.tenant, cause := if i.1.isSome then 2 else 1, regatta := s.dev.board.regatta, stroke := x.stroke }
      let s := logRec { (newRec 0x60 3 0xA 0).at x.cdom 0 0 with tenant := some x.tenant, inj := i.1, detail := retractWords r } s
      let s := { s with reg := { s.reg with rseq := (s.reg.rseq + 1) % 65536, seen := (s.reg.seen ++ [(r.origin, r.rseq)]).drop (s.reg.seen.length - 255) } }
      let s := (regattaLinks s).foldl (fun s l => emit (.retract l r) s) s
      .next (fenceAndScan i.1 [x.core, x.checker] (rollback r i.1 s))

end Sys2Proof.Machine
end

