-- ==== Sys2Proof/Machine/Resets.lean ====
section
/-! DEFINITION. Resets (15 R448..R451): control parity, the Cox's own detectors, and the resets of each domain. -/
namespace Sys2Proof.Machine

/-! ### Cold reset (R448, R450, R458) -/

/-- A device cold reset: everything but fuses and flash takes its reset value (T15-7); the log starts with the persistent records (R458). Pins that
hold the device keep it held; what the monitors read is the board's. Log entry 49. -/
def coldReset (inj : Option Nat) (s : State) : State :=
  let z := State.reset
  let f := s.flash.faults
  let next := f.foldl (fun m r => max m (r.seq + 1)) 0
  let held := s.dev.devRst || decide (s.dev.tap ≠ .none') || s.dev.therm
  let up := !held && !s.dev.perst
  let s := { z with
    pending := s.pending, now := s.now, fresh := s.fresh, out := s.out, fuse := s.fuse, flash := s.flash
    dev := { z.dev with stage := if held then .held else .powered, devRst := s.dev.devRst, perst := s.dev.perst, tap := s.dev.tap, therm := s.dev.therm }
    host := { z.host with linkUp := up, cfgAt := if up then some (s.now + Config.ms 100) else none }
    pwr := { z.pwr with sensors := s.pwr.sensors, alerts := s.pwr.alerts, dips := s.pwr.dips, volt := s.pwr.volt, pmbus := s.pwr.pmbus }
    flt := { z.flt with log := f, next := next % 2 ^ 32 } }
  logRec { newRec 0x63 3 6 7 with inj := inj } s

/-- DEVICE_COLD_RESET (R448, R450): at once, whatever is in progress. -/
def execDeviceColdReset (s : State) : Res := .next (coldReset none s)

/-! ### Control parity and the Cox (R429, R430) -/

/-- CTRL_PARITY (T15-2). -/
def execCtrlParity (ukind unit : Nat) (s : State) : Res :=
  let lim := if ukind = 1 then Config.cores else if ukind = 2 || ukind = 6 then 16 else if ukind = 3 || ukind = 4 then 88 else if ukind = 5 then 18 else 2 ^ 16
  if ukind = 0 || 7 < ukind || lim ≤ unit then .next s
  else
    let i := injected 0x20 (ukind * 2 ^ 28 + unit) s
    let s := i.2.2
    let rec' := { (newRec 0x20 3 6 0).at 0x1FF ukind unit with inj := i.1 }
    if ukind = 1 then .next (needResetBy i.1 unit (logRec { { rec' with rdom := 2 }.ofCore unit s with inj := i.1 } s))
    else if ukind = 2 then .next (needDieReset i.1 false (unit / 2) (logRec { rec' with rdom := 3 } s))
    else if ukind = 3 then
      (let ds := sliceDoms unit s
      .next (if ds.isEmpty then logRec { rec' with rdom := 5 } s else ds.foldl (fun s d => failDomainBy i.1 0x20 3 unit d s) s))
    else if ukind = 4 then .next (loseChannel unit (logRec { rec' with action := 5 } s))
    else if ukind = 5 then .next (if linkRuns unit s then dropLink unit .down (logRec { rec' with action := 5 } s) else logRec { rec' with action := 5 } s)
    else if ukind = 6 then .next (failDomainBy i.1 0x20 6 unit 0 s)
    else .next (warmTrigger coldReset 0x20 7 unit i.1 s)

/-- COX_LOCKSTEP (T15-3): the Cox pair disagrees. -/
def execCoxLockstep (s : State) : Res := let i := injected 0x21 0 s; .next (warmTrigger coldReset 0x21 9 0 i.1 i.2.2)

/-- COX_WATCHDOG (T15-3): 1 ms without Winemar's keep-alive. -/
def execCoxWatchdog (s : State) : Res := let i := injected 0x22 0 s; .next (warmTrigger coldReset 0x22 9 0 i.1 i.2.2)

/-! ### Fences drain (R448) -/

/-- The core that an outstanding remote request waits in. -/
def waitCore : RWait → Option Nat
  | .thread c _ _ _ | .copy c _ _ | .store c _ _ _ | .station _ c => some c
  | .queue _ => none

/-- The core of a requester. -/
def reqCore (r : Requester) (s : State) : Option Nat :=
  match r with
  | .thread c _ | .copy c _ => some c
  | .station n seat => (match cmdOf n s with | some c => cmdCore c seat s | none => none)
  | .pcie | .hostCore _ | .falnar _ _ => none

/-- An access of a group waits for data. -/
def farWaits (g : Nat × Group) : Bool := g.2.far.any (fun f => f.items.any (fun it => it.got.isNone && !it.err))

/-- A core has outstanding requests. -/
def coreWaits (core : Nat) (s : State) : Bool :=
  (coreOf core s).groups.any farWaits || (coreOf core s).saved.any farWaits || s.rreqs.any (fun e => waitCore e.2.wait == some core) ||
  s.mem.held.any (fun e => reqCore e.2.1 s == some core)

/-- Outstanding requests of a core receive error responses. -/
def failCore (core : Nat) (s : State) : State :=
  let tags := (s.rreqs.filter (fun e => waitCore e.2.wait == some core)).map (fun e => e.1)
  let s := tags.foldl (fun s t => failReq t s) s
  let mine := s.mem.held.filter (fun e => reqCore e.2.1 s == some core)
  let s := { s with mem := { s.mem with held := s.mem.held.filter (fun e => reqCore e.2.1 s != some core) } }
  let s := mine.foldl (fun s e => busError e.2.1 1 e.2.2 s) s
  let cut := fun (g : Nat × Group) => (g.1, { g.2 with far := g.2.far.map (fun f => { f with items := f.items.map (fun it => { it with err := it.err || it.got.isNone }) }) })
  let k := coreOf core s
  setCore core { k with groups := k.groups.map cut, saved := k.saved.map cut } s

/-- The fence of a unit. -/
def fenceOf (dom unit : Nat) (s : State) : Option Fence := s.flt.fences.find? (fun f => f.dom == dom && f.unit == unit)

/-- FENCE_DRAIN_TIMEOUT (R448): 100 µs after a fence, what is outstanding receives error responses. -/
def execFenceDrainTimeout (rdom unit : Nat) (s : State) : Res :=
  match fenceOf rdom unit s with
  | none => .next s
  | some f =>
    let s := untilTime (f.at' + Config.us 100) s
    let s := { s with flt := { s.flt with fences := s.flt.fences.map (fun x => if x.dom = rdom && x.unit = unit then { x with drained := true } else x) } }
    if rdom = 2 then .next (failCore unit s)
    else if rdom = 3 then .next ((List.range 46).foldl (fun s i => failCore (46 * unit + i) s) s)
    else
      let mine := s.mem.held.filter (fun e => e.1 == unit)
      let s := { s with mem := { s.mem with held := s.mem.held.filter (fun e => e.1 != unit) } }
      .next (mine.foldl (fun s e => busError e.2.1 1 e.2.2 s) s)

/-! ### Core and die (R448, R450, R451) -/

/-- Times of a window that ends now, with now. -/
def recent (now window : Nat) (l : List Nat) : List Nat := l.filter (fun t => decide (now < t + window)) ++ [now]

/-- Counts a core reset; the third in 60 s retires the core (T15-8). -/
def countCoreReset (core : Nat) (s : State) : State :=
  let l := recent s.now (Config.sec 60) (tabGet [] core s.flt.coreRst)
  let s := { s with flt := { s.flt with coreRst := tabPut core l s.flt.coreRst } }
  if 3 ≤ l.length then retireCore core s else s

/-- CORE_RESET (R448): a fenced core is cleared and returns at the next stroke boundary; its fence has drained. -/
def execCoreReset (core : Nat) (s : State) : Res :=
  match fenceOf 2 core s with
  | none => .next s
  | some f =>
    if !f.reset || (fenceOf 3 (dieOf core) s).isSome || (coreWaits core s && !f.drained) then .next s
    else
      let s := if coreRuns core s then untilTime (f.at' + Config.us 40) s else s
      let s := { s with flt := { s.flt with fences := s.flt.fences.map (fun x => if x.dom = 2 && x.unit = core then { x with reset := false, inj := none } else x) } }
      let s := returnCore core s
      let s := logRec { (newRec 0x63 2 6 2).ofCore core s with inj := f.inj } s
      .next (if f.inj.isSome then s else countCoreReset core s)

/-- Counts a die reset; the second in 10 min retires the die (T15-8). -/
def countDieReset (die : Nat) (s : State) : State :=
  let l := recent s.now (Config.sec 600) (tabGet [] die s.flt.dieRst)
  let s := { s with flt := { s.flt with dieRst := tabPut die l s.flt.dieRst } }
  if 2 ≤ l.length then retireDie die s else s

/-- DIE_RESET (R448, R450): both halves lose their lines, all 46 cores are cleared; their own resets are part of it. -/
def execDieReset (die : Nat) (s : State) : Res :=
  match fenceOf 3 die s with
  | none => .next s
  | some f =>
    let cores := (List.range 46).map (fun i => 46 * die + i)
    if !f.reset || (cores.any (fun c => coreWaits c s) && !f.drained) then .next s
    else
      let s := if cores.any (fun c => coreRuns c s) then untilTime (f.at' + Config.us 40) s else s
      let back := dieCores die s
      let s := (ownedOn die s).foldl (fun s d => failDomainBy f.inj detProtocol 2 (2 * die) d s) s
      let s := dropHalf (2 * die + 1) (dropHalf (2 * die) s)
      let s := { s with flt := { s.flt with fences := s.flt.fences.map (fun x =>
        if (x.dom = 3 && x.unit = die) || (x.dom = 2 && dieOf x.unit = die) then { x with reset := false, inj := none } else x) } }
      let s := if f.stay then cores.foldl (fun s c => zeroCore c s) s else back.foldl (fun s c => returnCore c s) (cores.foldl (fun s c => zeroCore c s) s)
      let s := if f.stay then s else unfence 3 die s
      let s := logRec { (newRec 0x63 2 6 3).at 0x1FF 2 die with inj := f.inj } s
      .next (if f.inj.isSome then s else countDieReset die s)

/-! ### Shell and coherent domain (R448, R449) -/

/-- Cores of which a seat is bound to a shell now. -/
def heldCores (d : Nat) (s : State) : List Nat :=
  (s.cores.filter (fun e => match e.2.holder with | some (x, _) => x == d | none => false)).map (fun e => e.1)

/-- What a shell reset clears (T15-7): its cores, its saved contexts, its N lines. -/
def clearShell (d : Nat) (s : State) : State :=
  let s := (heldCores d s).foldl (fun s c => zeroCore c s) s
  let s := { s with cores := s.cores.map (fun (e : Nat × Core) => (e.1, { e.2 with ctxs := e.2.ctxs.filter (fun x => x.1 / 1024 != d) })) }
  let s := { s with cores := s.cores.filter (fun (e : Nat × Core) => decide (e.2 ≠ Core.zero)) }
  (List.range 32).foldl (fun s a => dropAllN a d s) s

/-- SHELL_RESET (R448, R449): the reset that a rollback asked for. -/
def execShellReset (cdom : Nat) (s : State) : Res :=
  match s.flt.shellRst.find? (fun x => x.1 == cdom) with
  | none => .next s
  | some x =>
    let s := { s with flt := { s.flt with shellRst := s.flt.shellRst.filter (fun y => y.1 != cdom) } }
    let s := endCmds (fun c => c.cdom == cdom && c.st != .queued) stAbandoned (packDetail 0x0207 0) s
    .next (schedule (logRec { (newRec 0x63 2 6 4).at cdom 0 0 with inj := x.2 } (clearShell cdom s)))

/-- A re-binding that flipped is abandoned by its domain's failure; the domain reset puts every seat where the new composition has it (11 T11-13). -/
def rebuildSeats (d : Nat) (s : State) : State :=
  match shellOf d s with
  | none => s
  | some sh =>
    match sh.rebind with
    | none => s
    | some r =>
      let f := (s.stroke.count + 1) % 2 ^ 48
      let s := refuse r.src stAbandoned 0x0204 0 (fixWays d (setShell d { sh with rebind := none } s))
      if r.step = 0 then s
      else r.moves.foldl (fun s m =>
        let s := seatOut d m.2.1 s
        match sh.comp.seats[m.1]? with
        | some x => if x.sliced then planSeat d sh f (m.1, x) s else setCore m.2.2 { coreOf m.2.2 s with holder := some (d, m.1) } s
        | none => s) s

/-- Answers the SHELL.DESTROY that waits for a domain's reset. -/
def answerDestroy (d : Nat) (s : State) : State :=
  s.mbx.foldl (fun s e =>
    match e.2.cur with
    | some q => if q.begun && q.code == 0x0303 && leNat (q.params.take 8) % 512 == d then respond (.mbx e.1) stOK [] s else s
    | none => s) s

/-- A destroyed shell goes: its tenants, their queue pairs, its apertures and resources (13 R393). -/
def endShell (d : Nat) (s : State) : State :=
  let ts := (s.tenants.filter (fun e => e.2.shell == d)).map (fun e => e.1)
  let s := ts.foldl (fun s t => removeTenant t s) s
  let s := { s with host := { s.host with apts := (s.host.apts.map (fun (e : Nat × Apt) => (e.1, if e.2.valid && e.2.cdom = d then { e.2 with valid := false, wr := false, cdom := 0, base := 0 } else e.2))).filter (fun e => decide (e.2 ≠ Apt.zero)) } }
  let s := { s with coh := { s.coh with failing := s.coh.failing.filter (fun x => x != d) } }
  answerDestroy d (dropShell d s)

/-- Completions that a shell's queue pairs still owe. -/
def owesAny (d : Nat) (s : State) : Bool := s.qps.any (fun e => (tenantOf e.2.tenant s).isSome && tenantShell e.2.tenant s == d && !e.2.owed.isEmpty)

/-- DOMAIN_RESET (R448, R449): after a takedown, or the end of SHELL.DESTROY, once its completions are written. -/
def execDomainReset (cdom : Nat) (s : State) : Res :=
  if s.retiring.contains cdom then
    (let s := endCmds (fun c => c.cdom == cdom) stShellGone 0 s
    let s := drainAll (takedownBody cdom (clearShell cdom s))
    if owesAny cdom s then .next s
    else .next (schedule (logRec ((newRec 0x63 3 6 5).at cdom 0 0) (endShell cdom s))))
  else if !s.coh.failing.contains cdom then .next s
  else
    let inj := tabFind cdom s.flt.domInj
    let s := endCmds (fun c => c.cdom == cdom && c.st != .queued) stDomainFailed 0 s
    let s := takedownBody cdom (clearShell cdom s)
    let s := rebuildSeats cdom s
    let s := { s with coh := { s.coh with failing := s.coh.failing.filter (fun x => x != cdom) }, flt := { s.flt with domInj := tabDel cdom s.flt.domInj, shellRst := s.flt.shellRst.filter (fun y => y.1 != cdom) } }
    let s := match shellOf cdom s with | some sh => setShell cdom { sh with failed := false } s | none => s
    let s := if cdom = 0 then
        (let s := (List.range 64).foldl (fun s m => if (mbxOf (64 + m) s).session then endSession (64 + m) s else s) s
        (s.qps.filter (fun e => e.2.local')).foldl (fun s e => closeQueue e.1 s) s)
      else s
    .next (schedule (rederive cdom (logRec { (newRec 0x63 3 6 5).at cdom 0 0 with inj := inj } s)))

end Sys2Proof.Machine
end

