-- ==== Sys2Proof/Machine/Power.lean ====
section
/-! DEFINITION. Power, supply and temperature (16): the commands, the monitors and PLDM. -/
namespace Sys2Proof.Machine

/-- The supply monitor, VR_ALERT_N and thermal shutdown act from the end of step 2 of start-up (17 R486, 18 R528). -/
def monitorsOn (s : State) : Bool := s.dev.stage != .held && s.dev.stage != .powered

/-! ### Commands (R470, R468, R481) -/

/-- POWER.CAP (R470). -/
def execPowerCap (m : Nat) (s : State) : Res :=
  onReq 0x0901 (.mbx m) s (fun r =>
    let w := r.field 0 15 0
    if 2400 < w then respond r.src stBadParam [] s
    else
      let s := noteFloor { s with pwr := { s.pwr with hostCap := w } }
      respond r.src stOK [effectiveCap s % 2 ^ 16, powerFloor s % 2 ^ 16] s)

/-- A sensor's reading with what is injected on it (15 R431). -/
def sensorAt (i : Nat) (s : State) : Int :=
  (s.pwr.offsets.filter (fun o => o.1 == i && decide (s.now < o.2.2.1))).foldl (fun a o => a + o.2.1) (tabGet 250 i s.pwr.sensors)

/-- The highest of the readings [lo, hi). -/
def hottest (lo hi : Nat) (s : State) : Int := (List.range (hi - lo)).foldl (fun m i => max m (sensorAt (lo + i) s)) (-3000)

/-- Tj: the highest of the 48 die and keel readings. -/
def tjOf (s : State) : Int := hottest 0 48 s

/-- POWER.STATUS (R481; 13 T13-5). -/
def execPowerStatus (src : Src) (s : State) : Res :=
  onReq 0x0902 src s (fun r => respond r.src stOK [s.pwr.power % 2 ^ 16 + unsigned 16 (tjOf s) * 2 ^ 16 + s.dev.op * 2 ^ 32] s)

/-- POWER.HINT (R468): replaces or cancels the shell's hint. -/
def execPowerHint (q : Nat) (s : State) : Res :=
  onReq 0x0903 (.queue q) s (fun r =>
    let d := r.cdom s
    let act := r.field 1 12 8
    let n := r.field 2 15 0
    let first := r.field 0 47 0
    match shellOf d s with
    | none => respond r.src stBadParam [] s
    | some sh =>
      if 16 < act then respond r.src stBadParam [] s
      else
        let first := if strokesTo first s.stroke.count < 2 ^ 47 then (s.stroke.count + 1) % 2 ^ 48 else first
        let h : Option Hint := if n = 0 then none else some ⟨first, r.field 1 1 0, act, n⟩
        respond r.src stOK [] (retarget { setShell d { sh with hint := h } s with pwr := { s.pwr with raised := s.pwr.raised.filter (fun x => x != d) } }))

/-- HINT_FILLER_RAISE (R469): before the drive of a hinted stroke the filler floor of the shell's dies rises. -/
def execHintFillerRaise (cdom : Nat) (s : State) : Res :=
  match shellOf cdom s with
  | none => .next s
  | some sh =>
    match sh.hint with
    | none => .next s
    | some h =>
      if s.pwr.raised.contains cdom || !(hintActive s.stroke.count h || hintActive ((s.stroke.count + 1) % 2 ^ 48) h) then .next s
      else .next { s with pwr := { s.pwr with raised := s.pwr.raised ++ [cdom] } }

/-! ### The clock (R462) -/

/-- OP_CLOCK_SWITCH (R462): a raise waits for the core voltage at 10 mV/µs; a drop of the voltage follows the switch. The monitor evaluates (02 R64). -/
def execOpClockSwitch (s : State) : Res :=
  match s.pwr.target with
  | none => .next s
  | some (p, t) =>
    let v := Config.coreVolt p
    let s := untilTime (t + Config.us (v - s.pwr.volt)) s
    .next (monitorAll { s with dev := { s.dev with op := p }, pwr := { s.pwr with target := none, volt := v } })

/-! ### The weir (R472..R474) -/

/-- The bubble fraction that the weir asks for, in 1/65536 (R472). -/
def wantedBubble (power arith cap : Nat) : Nat :=
  if power ≤ cap then 0 else if arith = 0 then 61440 else min 61440 ((power - cap) * 65536 / arith)

/-- The bubble fraction that the running seats can take on average (R472): 15/16 for best-effort work, 1 − f_GOP / f for guaranteed work. -/
def bubbleRoom (s : State) : Nat :=
  let runs := s.cmds.filter (fun e => e.2.st == .running)
  let limits := runs.flatMap (fun e => (placesOf e.2 s).map (fun _ =>
    if e.2.guarNow then
      (let g := match shellOf e.2.cdom s with | some sh => Config.clockMHz sh.comp.gop | none => 0
      (opMHz s - g) * 65536 / opMHz s)
    else 61440))
  if limits.isEmpty then 61440 else limits.foldl (fun a x => a + x) 0 / limits.length

/-- Arithmetic power of a point relative to OP0 in thousandths (T16-2). -/
def pointPower : Nat → Nat
  | 0 => 1000 | 1 => 812 | 2 => 648 | 3 => 384 | _ => 196

/-- The estimated power at the next higher point (R473). -/
def estimateUp (s : State) : Nat := s.pwr.power - s.pwr.arith + s.pwr.arith * pointPower (s.dev.op - 1) / pointPower s.dev.op

/-- The weir's step rule at the end of 1 ms (R473): one step down, never below the floor point. -/
def weirMs (s : State) : State :=
  let avg := s.pwr.bubbleSum / 1000
  let s := { s with pwr := { s.pwr with ticks := 0, powerMs := s.pwr.powerSum / 1000, powerSum := 0, bubbleMs := avg, bubbleSum := 0 } }
  let down := min 3 (ceilingPoint s + 1)
  if 8192 < avg && down ≤ floorPoint s then { s with pwr := { s.pwr with ceilW := max s.pwr.ceilW down, below := 0 } } else s

/-- One step up when the next point has fitted 5 % below the cap for 10 ms (R473). -/
def weirUp (s : State) : State :=
  let fits := s.pwr.ceilW != 0 && s.dev.op != 0 && decide (estimateUp s * 100 ≤ effectiveCap s * 95)
  let n := if fits then s.pwr.below + 1 else 0
  if 10000 ≤ n then { s with pwr := { s.pwr with ceilW := s.pwr.ceilW - 1, below := 0 } } else { s with pwr := { s.pwr with below := n } }

/-- The device stays above its cap with every seat at its limit and the point at the floor (R474). -/
def weirShort (s : State) : Bool :=
  decide (effectiveCap s < s.pwr.power) && decide (floorPoint s ≤ s.dev.op) && decide (bubbleRoom s ≤ wantedBubble s.pwr.power s.pwr.arith (effectiveCap s))

/-- A CAP_FLOOR record with its event (R471, R474, R482). -/
def capFloor (s : State) : State := powerEvent 0x71 [effectiveCap s] (logRec (newRec 0x71 2 0 0) { s with pwr := { s.pwr with floorAt := s.now } })

/-- WEIR_TICK (R472, R473): package power and its arithmetic part over 10 µs. A bubble fraction moves by 1/32 per µs at most (R465; log entry 51). -/
def execWeirTick (watts arith : Nat) (s : State) : Res :=
  let s := noteFloor { s with pwr := { s.pwr with power := watts, arith := arith } }
  let w := wantedBubble watts arith (effectiveCap s)
  let b := if s.pwr.bubble < w then min w (s.pwr.bubble + 2048) else max w (s.pwr.bubble - 2048)
  let s := { s with pwr := { s.pwr with bubble := b, ticks := s.pwr.ticks + 1, powerSum := s.pwr.powerSum + watts, bubbleSum := s.pwr.bubbleSum + b } }
  let s := weirUp (if 1000 ≤ s.pwr.ticks then weirMs s else s)
  let short := weirShort s
  let s := if short && !s.pwr.atFloor then capFloor s else s
  .next (retarget { s with pwr := { s.pwr with atFloor := short } })

/-- CAP_FLOOR_REPEAT (R474): once per second while the device stays above the cap. -/
def execCapFloorRepeat (s : State) : Res := if s.pwr.atFloor then .next (capFloor (untilTime (s.pwr.floorAt + Config.sec 1) s)) else .next s

/-- PMBUS_POLL (R461): current in mA, voltage in mV and temperature of every regulator, in the order of T16-1. -/
def execPmbusPoll (readings : List Nat) (s : State) : Res := .next { s with pwr := { s.pwr with pmbus := readings } }

/-! ### VR_ALERT_N (R475; 18 R528) -/

/-- VR_ALERT (R475): a low level of `ns` on a group's input; an armed injection presents one of 1 µs. 10 ns to 20 ns may act or not. -/
def execVrAlert (group ns : Nat) (s : State) : Res :=
  if !monitorsOn s then .next s
  else
    let i := injected 0x40 group s
    let s := i.2.2
    let acts := if i.1.isSome || 20 ≤ ns then true else if ns < 10 then false else Config.freeBit s.fresh
    let s := if i.1.isNone && 10 ≤ ns && ns < 20 then bump s else s
    if !acts then .next s
    else
      let stays := 20 ≤ ns
      let s := enterOpe { s with pwr := { s.pwr with
        alerts := if stays && !s.pwr.alerts.contains group then s.pwr.alerts ++ [group] else s.pwr.alerts, alertAt := if stays then s.pwr.alertAt else s.now + Config.us 1
        alertOn := true, alertEnds := false } }
      let s := powerEvent 0x40 [group, 1] (logRec { (newRec 0x40 3 0 0).at 0x1FF 0 group with inj := i.1 } s)
      .next (monitorAll (voidWindows (if i.1.isSome then 4 else 1) s))

/-- VR_ALERT_N_DEASSERT (R475). -/
def execVrAlertNDeassert (group : Nat) (s : State) : Res :=
  if s.pwr.alerts.contains group then .next { s with pwr := { s.pwr with alerts := s.pwr.alerts.filter (fun g => g != group), alertAt := s.now } } else .next s

/-- VR_ALERT_END (R475): every VR_ALERT_N high for 100 µs; the point of R464 returns at the next stroke boundary. -/
def execVrAlertEnd (s : State) : Res :=
  if !s.pwr.alertOn || !s.pwr.alerts.isEmpty || s.pwr.alertEnds then .next s
  else
    let s := untilTime (s.pwr.alertAt + Config.us 100) s
    let s := powerEvent 0x40 [0] { s with pwr := { s.pwr with alertEnds := true } }
    .next (if s.stroke.running then s else retarget { s with pwr := { s.pwr with alertOn := false, alertEnds := false } })

/-! ### Supply monitor (R476, R477) -/

/-- SUPPLY_WARN (T16-4): a group's rail at or below −5 %; an armed injection presents it for 1 µs. -/
def execSupplyWarn (group : Nat) (s : State) : Res :=
  if !monitorsOn s then .next s
  else
    let i := injected 0x41 group s
    let s := i.2.2
    let s := enterOpe { s with pwr := { s.pwr with
      dips := if i.1.isNone && !s.pwr.dips.contains group then s.pwr.dips ++ [group] else s.pwr.dips, dipAt := if i.1.isSome then s.now + Config.us 1 else s.pwr.dipAt
      holdOn := true, dipCount := s.pwr.dipCount + 1 } }
    let s := powerEvent 0x41 [group] (logRec { (newRec 0x41 2 0 0).at 0x1FF 0 group with inj := i.1 } s)
    .next (monitorAll (blameOpen (if i.1.isSome then 4 else 2) s))

/-- SUPPLY_RETURN (R476, R477): the voltage is back above the warning threshold and the hold of 50 µs starts. -/
def execSupplyReturn (group : Nat) (s : State) : Res :=
  if s.pwr.dips.contains group then .next { s with pwr := { s.pwr with dips := s.pwr.dips.filter (fun g => g != group), dipAt := s.now } } else .next s

/-- SUPPLY_HOLD_END (R476): 50 µs after the recovery; OPE is left when VR_ALERT_N has ended too (R477). -/
def execSupplyHoldEnd (s : State) : Res :=
  if !s.pwr.holdOn || !s.pwr.dips.isEmpty then .next s
  else .next (retarget (untilTime (s.pwr.dipAt + Config.us 50) { s with pwr := { s.pwr with holdOn := false } }))

/-- SUPPLY_RESET (T16-4): a group's rail at or below −10 %. -/
def execSupplyReset (group : Nat) (s : State) : Res :=
  if !monitorsOn s then .next s
  else
    let i := injected 0x42 group s
    .next (coldReset i.1 (logRec { (newRec 0x42 4 6 7).at 0x1FF 0 group with inj := i.1 } i.2.2))

/-! ### Temperature (R478..R480) -/

/-- A thermal record with its event. -/
def thermalRec (sev action rdom sensor level : Nat) (inj : Option Nat) (s : State) : State :=
  powerEvent 0x43 [level, 1] (logRec { (newRec 0x43 sev action rdom).at 0x1FF 0 sensor with inj := inj } s)

/-- The thermal ceiling falls one step, never below the floor point (T16-5). -/
def thermalDown (s : State) : State :=
  let p := min 3 (ceilingPoint s + 1)
  { s with pwr := { s.pwr with ceilT := if p ≤ floorPoint s then max s.pwr.ceilT p else s.pwr.ceilT, throttleAt := s.now } }

/-- Thermal shutdown (T16-5): THERM_TRIP_N is asserted and the cold reset is held. -/
def shutDown (sensor : Nat) (inj : Option Nat) (s : State) : State :=
  let s := thermalRec 4 6 7 sensor 3 inj s
  emit (.pin "THERM_TRIP_N" false) (coldReset inj { s with dev := { s.dev with therm := true } })

/-- Compares the readings with the thresholds of T16-5. -/
def judgeHeat (sensor : Nat) (inj : Option Nat) (s : State) : State :=
  let tj := tjOf s
  let dr := hottest 48 100 s
  if 1150 ≤ tj || 1100 ≤ dr then (if monitorsOn s && !s.dev.therm then shutDown sensor inj s else s)
  else
    let top := max tj dr
    let s := if !s.pwr.throttle && 950 ≤ top then thermalRec 2 0 0 sensor 1 inj (thermalDown { s with pwr := { s.pwr with throttle := true } })
      else if s.pwr.throttle && top < 930 then powerEvent 0x43 [1, 0] { s with pwr := { s.pwr with throttle := false, throttleAt := s.now } }
      else s
    let s := if !s.pwr.limit && 1050 ≤ top then thermalRec 3 0 0 sensor 2 inj { s with pwr := { s.pwr with limit := true } } else s
    retarget { s with pwr := { s.pwr with limitOff := s.pwr.limit && top < 1030 } }

/-- A reading is taken; an armed injection alters it for 1 s (15 R431). With it, the injection that alters this sensor now. -/
def takeReading (sensor : Nat) (reading : Int) (s : State) : Option Nat × State :=
  let i := injected 0x43 sensor s
  let s := i.2.2
  let s := { s with pwr := { s.pwr with sensors := tabSet 250 sensor reading s.pwr.sensors, offsets := s.pwr.offsets.filter (fun o => decide (s.now < o.2.2.1)) } }
  match i.1 with
  | some n => (some n, { s with pwr := { s.pwr with offsets := s.pwr.offsets ++ [(sensor, signed 12 (i.2.1 % 2 ^ 12), s.now + Config.sec 1, n)] } })
  | none => ((s.pwr.offsets.find? (fun o => o.1 == sensor)).map (fun o => o.2.2.2), s)

/-- A channel's DRAM temperature sets its refresh rate and may raise its drift alarm (10 R307, R308). -/
def dramHeat (ch : Nat) (t : Int) (s : State) : State :=
  let k := chanOf ch s
  let s := setChan ch { k with temp := t, twice := decide ((850 : Int) < t) } s
  if 80 ≤ (t - k.trainedT).natAbs then raiseDrift ch s else s

/-- Channels that a DRAM sensor serves (15 R431): a Tier F stack its 16, a GDDR7 device its channel's two (log entry 52). -/
def sensorChans (sensor : Nat) : List Nat :=
  if sensor < 48 then [] else if sensor < 52 then (List.range 16).map (fun i => 16 * (sensor - 48) + i) else [64 + (sensor - 52) / 2]

/-- THERMAL_SAMPLE (R478): a sensor, numbered as R431 gives, is read. -/
def execThermalSample (sensor : Nat) (reading : Int) (s : State) : Res :=
  if 100 ≤ sensor then .next s
  else
    let r := takeReading sensor reading s
    let t := sensorAt sensor r.2
    .next (judgeHeat sensor r.1 ((sensorChans sensor).foldl (fun s c => dramHeat c t s) r.2))

/-- DRAM_TEMPERATURE_READ (10 R307, R308; R478): the readings of channels; a stack reports the last of its channels' readings. -/
def execDramTemperatureRead (readings : List (Nat × Int)) (s : State) : Res :=
  .next (readings.foldl (fun s x =>
    if 88 ≤ x.1 then s
    else
      let sensors := if x.1 < 64 then [48 + x.1 / 16] else [52 + 2 * (x.1 - 64), 53 + 2 * (x.1 - 64)]
      sensors.foldl (fun s i =>
        let r := takeReading i x.2 s
        judgeHeat i r.1 (dramHeat x.1 (sensorAt i r.2) r.2)) s) s)

/-- THROTTLE_STEP (T16-5): one further step for each 100 µs of the throttle level. -/
def execThrottleStep (s : State) : Res := if s.pwr.throttle then .next (retarget (thermalDown (untilTime (s.pwr.throttleAt + Config.us 100) s))) else .next s

/-- THROTTLE_RISE (T16-5): the ceiling rises one step per 10 ms once the level has ended. -/
def execThrottleRise (s : State) : Res :=
  if s.pwr.throttle || s.pwr.ceilT = 0 then .next s
  else
    let s := untilTime (s.pwr.throttleAt + Config.ms 10) s
    .next (retarget { s with pwr := { s.pwr with ceilT := s.pwr.ceilT - 1, throttleAt := s.now } })

/-! ### PLDM (R481) -/

/-- A sensor of T16-6. -/
def pldmSensor (id : Nat) (s : State) : Option Nat :=
  if id = 1 then some s.pwr.power
  else if id = 2 then some s.pwr.powerMs
  else if id = 3 then some (unsigned 16 (tjOf s))
  else if id = 4 then some (unsigned 16 (hottest 48 52 s))
  else if id = 5 then some (unsigned 16 (hottest 52 100 s))
  else if id = 6 then some (powerFloor s)
  else if id = 7 then some s.dev.op
  else if id = 8 then some (s.pwr.bubbleMs / 256)
  else if id = 9 then some (if s.pwr.limit then 2 else if s.pwr.throttle then 1 else 0)
  else if 10 ≤ id && id ≤ 19 then some (s.pwr.pmbus.getD (3 * (id - 10)) 0 * s.pwr.pmbus.getD (3 * (id - 10) + 1) 0 / 10 ^ 6)
  else if id = 20 then some s.pwr.dipCount
  else none

/-- An answer on PLDM, from a device that runs; loader state answers ERROR_NOT_READY (17 R497). -/
def pldm (r : Option (List Nat)) (s : State) : State :=
  if s.dev.stage = .loader then emit (.pldm false []) s else if s.dev.stage != .released then s else match r with | some l => emit (.pldm true l) s | none => emit (.pldm false []) s

/-- GetSensorReading (R481). -/
def execGetSensorReading (id : Nat) (s : State) : Res := .next (pldm ((pldmSensor id s).map (fun v => [v])) s)

/-- GetNumericEffecterValue (T16-6): effecter 100 reads as the effective cap. -/
def execGetNumericEffecterValue (id : Nat) (s : State) : Res := .next (pldm (if id = 100 then some [effectiveCap s] else none) s)

/-- SetNumericEffecterValue (R470, R474): the board cap. -/
def execSetNumericEffecterValue (id value : Nat) (s : State) : Res :=
  if id != 100 || 2400 < value || s.dev.stage != .released then .next (pldm none s)
  else .next (pldm (some []) (noteFloor { s with pwr := { s.pwr with boardCap := value } }))

/-- GetPDR (R481). -/
def execGetPdr (handle : Nat) (s : State) : Res := .next (pldm (some ((Config.pdr handle).map (fun b => b.toNat))) s)

end Sys2Proof.Machine
end

