-- ==== Sys2Proof/Machine/Warm.lean ====
section
/-! DEFINITION. The device warm reset (15 R448..R451; 17 R488). Log entry 50 names what it keeps where the spec names a kind only. -/
namespace Sys2Proof.Machine

/-- Dirty cache data goes to memory, then nothing is cached and nothing is on its way. -/
def flushCaches (s : State) : State :=
  let s := ((s.coh.dir.filter (fun e => decide (e.2.dstate ≠ .inv))).map (fun e => e.1)).foldl (fun s l => recallAll l s) s
  let s := (s.coh.home.map (fun e => e.1)).foldl (fun s l => homeEvict l s) s
  { s with coh := State.reset.coh, mem := { s.mem with tags := s.mem.tags.filter (fun e => decide (e.1 / 2 ^ 60 ≤ 2)), spad := [], held := [] } }

/-- A core after a warm reset: cleared; a core that waits for a scan or was fenced on demand stays fenced. A sliced core takes its newest plan, at the
position that stroke 0 has in its repetition (02 R59). -/
def warmCore (now : Nat) (stays : Bool) (k : Core) : Core :=
  let plan := match k.planNext with | some (_, p) => p | none => k.plan
  let len := max 1 (planLen plan)
  let pos := match k.planNext with | some (t, _) => (len - t % len) % len | none => (k.planPos + len - now % len) % len
  { Core.zero with
    holder := if plan.isEmpty then k.holder else none, ctxs := k.ctxs, fenced := k.fenced && stays, retired := k.retired, latent := k.latent, scanning := k.scanning && stays
    lastScan := k.lastScan, plan := plan, planPos := pos, incoming := planAt plan pos }

/-- A seat that was still moving is bound to its new core. -/
def settleMoves (d : Nat) (sh : Shell) (s : State) : State :=
  let late := match sh.rebind with | some r => if r.step = 0 then [] else r.moves | none => []
  let s := late.foldl (fun s m => moveSeat d m s) s
  (late.map (fun m => (m.1, m.2.2)) ++ sh.arriving).foldl (fun s x =>
    match sh.comp.seats[x.1]? with
    | none => s
    | some y =>
      if y.sliced then planSeat d sh 1 (x.1, y) s
      else setCore x.2 { coreOf x.2 s with holder := some (d, x.1), ctxs := tabDel (ctxKey d x.1) (coreOf x.2 s).ctxs } s) s

/-- A shell after a warm reset: kept, with no change of it under way; a mirror that was being built goes on. A set that waited to be acquired or
released stays with the one that had it. -/
def warmShell (d : Nat) (s : State) : State :=
  match shellOf d s with
  | none => s
  | some sh =>
    let s := settleMoves d sh s
    let back := sh.flips.filterMap (fun f => match f.2 with | .acquire _ r _ _ => some r | _ => none)
    let kept := sh.flips.filterMap (fun f => match f.2 with | .restore l => some (0, Flip.restore l) | _ => none)
    let sh := { sh with
      oldEpoch := false, olds := [], flips := kept, owed := [], rebind := none, arriving := [], asks := [], seals := [], mirrors := sh.mirrors.map (fun m => { m with src := none })
      hint := none, failed := false, windowEnd := 0 }
    setShell d sh { s with released := s.released ++ back }

/-- Every fetched entry and command ends with ABANDONED 0x0206 (R449). -/
def endAll (s : State) : State :=
  let s := endCmds (fun _ => true) stAbandoned (packDetail 0x0206 0) s
  let s := (s.qps.map (fun e => e.1)).foldl (fun s q => endEntries q stAbandoned (packDetail 0x0206 0) s) s
  { s with qps := s.qps.map (fun (e : Nat × QPair) => (e.1, { e.2 with deferred := false, closing := none })) }

/-- Mailboxes after a warm reset: no session (12 R356), no request; their keel registers stay (12 R350). -/
def warmMbx (b : Mbx) : Mbx := { Mbx.zero with irqEn := b.irqEn, vec := b.vec, done := b.done, overrun := b.overrun, req := b.req, resp := b.resp }

/-- A fence that a warm reset ends: one that waited for its reset or its return, but not a die with a wire fault (R427, R450). -/
def fenceEnds (cores : Tab Core) (f : Fence) : Bool :=
  (f.dom == 2 && (f.reset || (tabGet Core.zero f.unit cores).returnAt.isSome)) || (f.dom == 3 && f.reset && !f.stay)

/-- Faults after a warm reset: the log and the counts stay; what waited for a reset inside the device is absorbed (R450). -/
def warmFaults (cores : Tab Core) (f : Flt) : Flt :=
  { f with injs := [], fences := f.fences.filter (fun x => !fenceEnds cores x), scans := f.scans.filter (fun j => j.src.isNone), sampled := [], withheld := [], domInj := [], badWins := [], shellRst := [], warm := none }

/-- Links drop; they train again (R449; 14 R417). -/
def dropLinks (s : State) : State :=
  let up := (s.links.filter (fun e => decide (e.2.st ≠ .out) && decide (e.2.st ≠ .fenced))).map (fun e => e.1)
  up.foldl (fun s l =>
    let s := if linkRuns l s then dropLink l .untrained s else s
    let k := linkOf l s
    emit (.linkRetrain l 4) (setLink l { Link.zero with startId := k.startId } s)) { s with rreqs := [], freedTags := [] }

/-- What a warm reset does (R448, R449), and the fifth in an hour (R451). A device that was in loader state starts in full (17 R488). -/
def warmReset (inj : Option Nat) (s : State) : State :=
  let s := if s.dev.stage = .loader then setDevState 0 s else s
  let s := flushCaches (endAll s)
  let s := dropLinks s
  let old := s.cores
  let now := s.stroke.count
  let stays := fun (c : Nat) => s.flt.fences.any (fun f => !fenceEnds old f && ((f.dom == 2 && f.unit == c) || (f.dom == 3 && f.unit == dieOf c)))
  let s := { s with
    cores := (old.map (fun (e : Nat × Core) => (e.1, warmCore now (stays e.1) e.2))).filter (fun (e : Nat × Core) => decide (e.2 ≠ Core.zero))
    flt := warmFaults old s.flt
    mbx := (s.mbx.map (fun (e : Nat × Mbx) => (e.1, warmMbx e.2))).filter (fun (e : Nat × Mbx) => decide (e.2 ≠ Mbx.zero))
    mem := { s.mem with chans := s.mem.chans.map (fun (e : Nat × Chan) => (e.1, { e.2 with calib := false })) }
    reg := { State.reset.reg with rseq := s.reg.rseq, seen := s.reg.seen }
    stroke := { s.stroke with count := 0, running := false, phase := .idle, pend := none, cal := [], exts := [] }
    dev := { s.dev with stage := .config, staging := [], staged := [], cals := [], fwOk := false, patOk := false }
    man := { State.reset.man with baud := s.dev.board.baud } }
  let s := (s.shells.filter (fun e => e.2.created.isSome)).foldl (fun s e => dropShell e.1 s) s
  let s := s.retiring.foldl (fun s d => endShell d s) s
  let s := (s.shells.map (fun e => e.1)).foldl (fun s d => warmShell d s) s
  let s := rederiveAll (reapGraphs s)
  let s := logRec { newRec 0x63 3 6 6 with inj := inj } s
  if inj.isSome then s
  else
    let l := recent s.now (Config.sec 3600) s.flt.warmRst
    let s := { s with flt := { s.flt with warmRst := l } }
    if 5 ≤ l.length && !s.dev.devsec.oos then (let st := s.dev.state; setDevState st (goOutOfService s)) else s

/-- DEVICE_WARM_RESET (R449): the warm reset that was triggered; the start-up steps of R488 follow. -/
def execDeviceWarmReset (s : State) : Res :=
  match s.flt.warm with
  | none => .next s
  | some inj => .next (warmReset inj s)

end Sys2Proof.Machine
end

