-- ==== Sys2Proof/Machine/Startup.lean ====
section
/-! DEFINITION. Start-up (17 T17-1, R484..R488, R491, R492; 18 R532..R534): the steps from power good to release, in order. -/
namespace Sys2Proof.Machine

/-! ### The board section (T17-5) -/

/-- All four stroke fields 0 select the defaults (T17-5). -/
def strokeOf (b : Board) : StrokeCfg := if b.stroke = ⟨0, 0, 0, 0⟩ then StrokeCfg.default else b.stroke

/-- A route entry in range (14 T14-4b); the device's own is not valid (14 R409). -/
def routeOk (b : Board) (i w : Nat) : Bool :=
  decide (i < 4096) && bits w 12 0 == 0 && (!bit w 31 || (bits w 30 26 < 18 && (!bit w 24 || bits w 23 19 < 18) && bits w 17 13 != 0 && i != b.devId))

/-- The fields of a board section are in range (R491, T17-5). -/
def boardOk (b : Board) : Bool :=
  (b.stroke == ⟨0, 0, 0, 0⟩ || cfgLegal b.stroke) && decide (b.devId < 4096) && decide (b.pos < 8) && (!b.master || (b.pos == 0 && b.regatta != 0)) &&
  decide (b.regatta < 65536) && decide (b.members < 4096) && (b.regatta != 0 || b.members == 0) && decide (b.powerCap ≤ 2400) && decide (b.sliceDis < 2 ^ 88) &&
  decide (b.baud ≤ 5) && b.routes.all (fun e => routeOk b e.1 e.2)

/-- The words of a board section before `crc` is put in. -/
def boardWords (gen : Nat) (b : Board) : List Nat :=
  [0x53544342 * 2 ^ 32 + 2 ^ 16, gen * 2 ^ 32, b.stroke.period * 2 ^ 40 + b.stroke.catchLen * 2 ^ 16, b.stroke.finish * 2 ^ 40 + b.stroke.recovery * 2 ^ 16,
    b.devId * 2 ^ 52 + b.pos * 2 ^ 49 + b2n b.master * 2 ^ 48 + b.regatta * 2 ^ 32 + b.members * 2 ^ 20 + b2n b.dense * 2 ^ 19 + b2n b.rate32 * 2 ^ 18 + b.powerCap,
    b.sliceDis % 2 ^ 64, b.sliceDis / 2 ^ 64 * 2 ^ 40 + b.baud * 2 ^ 37 + b2n b.selfTest * 2 ^ 36 + b2n b.stolOff * 2 ^ 35]

/-- The 64 KiB of a board-section copy (T17-5). -/
def boardBytes (gen : Nat) (b : Board) : List Byte :=
  let rest := List.replicate (0x1000 - 56) (0 : Byte) ++ (List.range 4096).flatMap (fun i => leBytes (tabGet 0 i b.routes) 4) ++ List.replicate 0xB000 0
  let ws := boardWords gen b
  let crc := crc32c (ws.flatMap (fun w => leBytes w 8) ++ rest)
  (ws.zipIdx.flatMap (fun x => leBytes (if x.2 = 1 then x.1 + crc else x.1) 8)) ++ rest

/-- The board copy in use: valid, with the higher generation (R491). -/
def boardInUse (f : Flash) : Option (Copy2 Board × Bool) :=
  bestCopy { f.board0 with valid := f.board0.valid && boardOk f.board0.body } { f.board1 with valid := f.board1.valid && boardOk f.board1.body }

/-! ### Pins (18 R532..R534) -/

/-- The device is held: DEV_RESET_N low, a TAP instruction (18 R526), a thermal shutdown. -/
def pinsHold (s : State) : Bool := s.dev.devRst || decide (s.dev.tap ≠ .none') || s.dev.therm

/-- What the pins do when DEV_RESET_N acts (R532): the links go down, GSn_RESET_N goes low, the flash and STROKE_SYNC lands are released. -/
def releasePins (s : State) : State :=
  emits ([.pin "PCIE_LINK" false] ++ (List.range 18).map (fun l => .linkRetrain l 0) ++ [.pin "GS_RESET_N" false, .pin "SPI_DRIVEN" false, .pin "STROKE_SYNC" false]) s

/-- DEV_RESET_N_ASSERT (R532): a low level of `ns`. At least 10 µs resets the device, below 1 µs nothing, between them it may. The pin stays low until
POWER_GOOD (R534, R486). -/
def execDevResetNAssert (ns : Nat) (s : State) : Res :=
  let acts := if 10000 ≤ ns then true else if ns < 1000 then false else Config.freeBit s.fresh
  let s := if 1000 ≤ ns && ns < 10000 then bump s else s
  if !acts then .next s else .next (releasePins (coldReset none { s with dev := { s.dev with devRst := true } }))

/-- POWER_GOOD (R486, R530): DEV_RESET_N deasserts with the rails good and start-up begins at step 1. THERM_TRIP_N is released only if every sensor
reads below 95 °C (R533); the endpoint's 100 ms begin with power good (R531). -/
def execPowerGood (s : State) : Res :=
  if s.dev.stage != .held && !s.dev.devRst then .next s
  else
    let cool := decide (hottest 0 100 s < 950)
    let s := if s.dev.therm && cool then emit (.pin "THERM_TRIP_N" true) { s with dev := { s.dev with therm := false } } else s
    let s := { s with dev := { s.dev with devRst := false } }
    if pinsHold s then .next s
    else
      let s := { s with dev := { s.dev with stage := .powered } }
      .next (if s.dev.perst then s else { s with host := { s.host with linkUp := true, cfgAt := some (s.now + Config.ms 100) } })

/-! ### Steps 2 to 4 -/

/-- FUSE_LOAD (step 2, T17-2): an uncorrectable fuse word or a keel fault halts; a home slice that fails is disabled for this start. -/
def execFuseLoad (fuseOk keelOk : Bool) (badSlices : List Nat) (s : State) : Res :=
  if s.dev.stage != .powered then .next s
  else if !fuseOk then .next { s with dev := { s.dev with stage := .halted, halt := 1 } }
  else if !keelOk then .next { s with dev := { s.dev with stage := .halted, halt := 2 } }
  else .next { s with dev := { s.dev with stage := .fuses, sliceBad := (badSlices.filter (fun n => decide (n < 88))).eraseDups } }

/-- Loader state (R497): the staging area is written with the zero codeword. -/
def enterLoader (cause : Nat) (s : State) : State :=
  setDevState 1 { s with dev := { s.dev with stage := .loader, cause := cause, staging := [], staged := [], fwVer := 0, fwSvn := 0, fwDigest := [], patLen := 0, patWant := [], patOk := false } }

/-- CONFIG_READ (step 3, R491, R492): the board section takes effect here, with the default cap (16 R470) and the Stolmon rate. -/
def execConfigRead (s : State) : Res :=
  if s.dev.stage != .fuses then .next s
  else match boardInUse s.flash with
    | none => .next (enterLoader 7 s)
    | some (c, _) =>
      let d := bestCopy s.flash.dev0 s.flash.dev1
      .next { s with
        dev := { s.dev with stage := .config, board := c.body, bootGen := c.gen, devsec := (match d with | some (x, _) => x.body | none => DevSec.default), devLost := d.isNone }
        pwr := { s.pwr with boardCap := c.body.powerCap }
        man := { s.man with baud := c.body.baud } }

/-- IMAGE_VERIFY (step 4, R496): the flash image, or the loader with its cause (T17-8). -/
def execImageVerify (flashOk : Bool) (s : State) : Res :=
  if s.dev.stage != .config then .next s
  else match (if flashOk then verifyImage s.fuse s.flash.image s.flash.pages 6 else .inl 6) with
    | .inl c => .next (enterLoader c { s with dev := { s.dev with fwOk := false } })
    | .inr i => .next (runImage i { s with dev := { s.dev with stage := .image, fwOk := true } })

/-! ### Steps 5 to 8 -/

/-- COX_BOOT (step 5): the image's sections are in their targets. -/
def execCoxBoot (s : State) : Res := if s.dev.stage != .image then .next s else .next { s with dev := { s.dev with stage := .cox } }

/-- A channel that is out of service from the start: its slice is disabled or failed, or a bank of it is retired (10 R283, R301; 15 R447). -/
def chanDisabled (ch : Nat) (s : State) : Bool :=
  bit s.dev.board.sliceDis ch || s.dev.sliceBad.contains ch || s.dev.devsec.banks.any (fun b => dpaChan b == ch)

/-- MEMORY_TRAINING (step 6, 10 R283): channels that fail stay out of service. GSn_RESET_N goes high (18 R532). A warm reset runs no training (R488). -/
def execMemoryTraining (okF : BitVec 64) (okS : BitVec 24) (s : State) : Res :=
  if s.dev.stage != .cox || s.dev.state = 4 then .next s
  else
    let ok := fun (ch : Nat) => (if ch < 64 then bit okF.toNat ch else bit okS.toNat (ch - 64)) && !chanDisabled ch s
    let s := emit (.pin "GS_RESET_N" true) { s with dev := { s.dev with stage := .memory, gsRst := false } }
    .next ((List.range 88).foldl (fun s ch => let k := chanOf ch s; setChan ch { Chan.zero with usable := ok ch, temp := k.temp, trainedT := k.temp, twice := k.twice } s) s)

/-- HARDWARE_FILL (step 7, 10 R297): every usable word of both tiers and of the SRAM arrays is 0. -/
def execHardwareFill (s : State) : Res :=
  if s.dev.stage != .memory then .next s
  else .next { s with dev := { s.dev with stage := .filled }, mem := { s.mem with dram := [], spad := [], tags := [], rmw := [], held := [] }, coh := State.reset.coh }

/-- CORE_SELF_TEST (step 8, R487): cores that fail are retired; without verified patterns the step is skipped. -/
def execCoreSelfTest (failed : List Nat) (s : State) : Res :=
  if s.dev.stage != .filled || !s.dev.board.selfTest then .next s
  else match readPatterns s with
    | none => .next { s with dev := { s.dev with stage := .tested } }
    | some s =>
      let bad := (failed.filter (fun c => decide (c < Config.cores))).eraseDups
      let s := { s with dev := { s.dev with stage := .tested, testRan := true, coreBad := bad } }
      .next (bad.foldl (fun s c => retireCore c (logRec ((newRec 0x62 3 7 0).at 0x1FF 1 c) s)) s)

/-! ### Step 9: release (R485) -/

/-- Blows `svn_min` bits until their count matches the image's `svn`. -/
def blowSvn (s : State) : State := if svnMin s.fuse < s.dev.fwSvn then { s with fuse := { s.fuse with svnMin := 2 ^ s.dev.fwSvn - 1 } } else s

/-- Route entries that the Cox refuses at start-up count as invalid (14 R410): one that names a link out of service, its alternate among them, or
whose one hop ends at another device. The board section itself stays as it was read. -/
def checkRoutes (s : State) : State :=
  let bad := fun (i w : Nat) => bit w 31 &&
    (!linkRuns (bits w 30 26) s || (bit w 24 && !linkRuns (bits w 23 19) s) || (bits w 17 13 == 1 && (linkOf (bits w 30 26) s).partner != i))
  { s with dev := { s.dev with routesOff := (s.dev.board.routes.filter (fun e => bad e.1 e.2)).map (fun e => e.1) } }

/-- Measurement 5: the start-up status at release (T17-9). -/
def startStatus (s : State) : List Byte :=
  let up := fun (lo n : Nat) => maskOf ((List.range n).filter (fun i => (chanOf (lo + i) s).usable))
  let out := (List.range 88).filter (fun n => bit s.dev.board.sliceDis n || s.dev.sliceBad.contains n)
  leBytes (up 0 64) 8 ++ leBytes (up 64 24) 4 ++ leBytes (maskOf ((List.range 18).filter (fun l => linkRuns l s))) 4 ++
  leBytes ((List.range Config.cores).filter (fun c => coreGone c s)).length 2 ++ leBytes s.dev.coreBad.length 2 ++ leBytes out.length 1 ++ leBytes (b2n s.dev.testRan) 1 ++ List.replicate 10 0

/-- The stroke timer starts with stroke 0 and the configuration of the configuration block (02 R33), its first window opens. The calendar of strokes 0 to 64 is
fixed here, so the first strokes have less than 64 strokes of notice (02 R60; DESIGN CHOICE, entry 95). -/
def startStrokes (s : State) : State :=
  let s := { s with stroke := { s.stroke with count := 0, running := true, start := s.now, phase := .catch', cfg := strokeOf s.dev.board, pend := none } }
  let s := (List.range 65).foldl (fun s k => fixStroke k s) s
  powerAdmitted (admitAll s)

/-- State 2, or 3 for a device out of service or with too few cores (R485; 15 R451, R452). -/
def releaseState (s : State) : State :=
  if s.dev.devsec.oos then setDevState 3 s else if liveCores s < s.dev.devsec.floor then goOutOfService s else setDevState 2 s

/-- RELEASE (R485): svn fuses, stroke timer, DEV_STATUS `state` with vector 0. A member of a regatta is unaligned until it joins (14 R421). -/
def execRelease (s : State) : Res :=
  let warm := s.dev.state == 4 && s.dev.stage == .cox
  let cold := s.dev.state == 0 && (s.dev.stage == .tested || (s.dev.stage == .filled && !s.dev.board.selfTest))
  if !warm && !cold then .next s
  else
    let s := checkRoutes (blowSvn s)
    let s := { s with
      dev := { s.dev with stage := .released, startStat := startStatus s, unaligned := isMember s, op := 0 }
      pwr := { s.pwr with volt := Config.coreVolt 0, target := none } }
    let s := if s.pwr.alerts.isEmpty then s else enterOpe { s with pwr := { s.pwr with alertOn := true } }
    .next (serveWaiting (releaseState (startStrokes s)))

end Sys2Proof.Machine
end

