-- ==== Sys2Proof/Machine/Attest.lean ====
section
/-! DEFINITION. Attestation, firmware, recovery and DEBUG commands (13 T13-6, R392; 17 R497..R502). -/
namespace Sys2Proof.Machine

/-! ### Measurements and quotes (R501, R502) -/

/-- Measurement `i` of T17-9: whether it is raw, its value. -/
def measurement (i : Nat) (s : State) : Bool × List Byte :=
  let loader := s.dev.stage == .loader
  if i = 1 then
    let flags := b2n s.dev.devsec.claimed + 2 * b2n s.dev.debugOpen + 4 * b2n s.fuse.jtagOff + 8 * b2n loader + 16 * b2n s.dev.devLost
    (true, leBytes (svnMin s.fuse) 1 ++ leBytes s.fuse.claims 1 ++ leBytes flags 1 ++ leBytes (if loader then 0 else s.dev.fwSvn) 1 ++ leBytes s.fuse.serial 8 ++ List.replicate 4 0)
  else if i = 2 then (false, padTo 32 (if loader then [] else s.dev.fwDigest))
  else if i = 3 then (false, padTo 32 (if s.dev.patOk then s.dev.patWant else []))
  else if i = 4 then (false, sha256 (boardBytes s.dev.bootGen s.dev.board))
  else if i = 5 then (true, padTo 32 s.dev.startStat)
  else (true, padTo 32 (x25519 Config.agreementKey (leBytes 9 32)))

/-- A measurement block of a quote (T17-10). -/
def measBlock (s : State) (i : Nat) : List Byte :=
  let m := measurement i s
  leBytes i 1 ++ leBytes (b2n m.1) 1 ++ leBytes m.2.length 2 ++ List.replicate 4 0 ++ padTo 32 m.2

/-- RSASSA-PKCS1-v1_5 with SHA-256 under the identity key (R499). -/
def identitySign (m : List Byte) : List Byte := rsaSign Config.identityModulus Config.identityExponent (sha256 m)

/-- The quote for a selector (T17-10). -/
def quoteBytes (requester cdom selector : Nat) (nonce : List Byte) (s : State) : List Byte :=
  let l := (List.range 6).filter (fun i => bit selector i)
  let body := leBytes (0x53545154 * 2 ^ 32 + 2 ^ 16 + selector * 2 ^ 8 + l.length) 8 ++ leBytes (requester * 2 ^ 48 + s.stroke.count) 8 ++
    leBytes (s.dev.board.devId * 2 ^ 52 + cdom * 2 ^ 43) 8 ++ padTo 32 nonce ++ l.flatMap (fun i => measBlock s (i + 1))
  body ++ identitySign body

/-- ATTEST.QUOTE (R499, R502): in4[7:6] is 0. -/
def execAttestQuote (m : Nat) (s : State) : Res :=
  onReq 0x0A01 (.mbx m) s (fun r =>
    let sel := r.field 4 7 0
    if !s.flash.ident then respond r.src stFlashError [] s
    else if 64 ≤ sel then respond r.src stReserved [] s
    else respondBytes r.src stOK 0 0 (quoteBytes r.tenant (if r.byOwner then 0 else r.cdom s) sel (r.params.take 32) s) s)

/-- ATTEST.CERT (R499, R500): the length of the slot-0 chain, then up to 4,056 bytes from the offset. -/
def execAttestCert (m : Nat) (s : State) : Res :=
  onReq 0x0A02 (.mbx m) s (fun r =>
    let c := Config.certChain
    if !s.flash.ident then respond r.src stFlashError [] s
    else respondBytes r.src stOK 0 0 (leBytes c.length 8 ++ (c.drop (r.field 0 31 0)).take 4056) s)

/-! ### Firmware (R498) and recovery (R497) -/

/-- FIRMWARE.INFO (13 R386): the running version, the last check of the flash image, the digest's first bytes. -/
def execFirmwareInfo (src : Src) (s : State) : Res :=
  onReq 0x0B01 src s (fun r => respond r.src stOK [s.dev.fwVer + b2n s.dev.fwOk * 2 ^ 16, leNat (s.dev.fwDigest.take 8)] s)

/-- A firmware write's offset and length are in range, and its data are all there. -/
def pageArgs (r : Req) (lim : Nat) : Bool :=
  let off := r.field 0 31 0
  let len := r.field 0 47 32
  off % 4096 == 0 && decide (off < lim) && decide (8 ≤ len) && decide (len ≤ chunkBytes) && len % 8 == 0 && decide (8 + len ≤ r.params.length)

/-- FIRMWARE.WRITE (R498): offset 0 erases both areas first; a page programmed since then is refused. `flashOk`: the flash took the page. -/
def execFirmwareWrite (m : Nat) (flashOk : Bool) (s : State) : Res :=
  onReq 0x0B02 (.mbx m) s (fun r =>
    let off := r.field 0 31 0
    let data := (r.params.drop 8).take (r.field 0 47 32)
    if !pageArgs r 0x2000000 then respond r.src stBadParam [] s
    else
      let s := if off = 0 then { s with flash := erasePages 0 8192 s.flash, dev := { s.dev with fwOk := false } } else s
      let s := if off = 0 || patternBase ≤ off then { s with dev := { s.dev with patOk := false } } else s
      if (tabFind (off / 4096) s.flash.pages).isSome || !flashOk then respond r.src stFlashError [] s
      else respond r.src stOK [] { s with flash := programPage (off / 4096) data s.flash })

/-- FIRMWARE.VERIFY (R498): the flash image under R496 and the pattern area against its `pat_digest`. -/
def execFirmwareVerify (m : Nat) (s : State) : Res :=
  onReq 0x0B03 (.mbx m) s (fun r =>
    match verifyImage s.fuse s.flash.image s.flash.pages 6 with
    | .inl _ => respond r.src stOK [0] { s with dev := { s.dev with fwOk := false } }
    | .inr i =>
      let pat := patternsMatch s.flash i.patLen i.patWant
      let s := { s with dev := { s.dev with fwOk := pat, patOk := s.dev.patOk || (pat && i.patWant == s.dev.patWant) } }
      respond r.src stOK [b2n pat] s)

/-- Writes the staged image to the image area (R497). -/
def persistImage (len : Nat) (s : State) : State :=
  let f := erasePages 0 2048 s.flash
  let f := (List.range (ceilDiv len chunkBytes)).foldl (fun f c => programPage c (memRead s.dev.staging (4096 * c) (tabGet 0 c s.dev.staged)) f) f
  { s with flash := f }

/-- RECOVERY.LOAD (R497): a chunk; with `last` the staged image is verified and start-up goes on from step 5. -/
def execRecoveryLoad (m : Nat) (flashOk : Bool) (s : State) : Res :=
  onReq 0x0C01 (.mbx m) s (fun r =>
    let c := r.field 0 31 0 / 4096
    let data := (r.params.drop 8).take (r.field 0 47 32)
    if !pageArgs r 0x800000 then respond r.src stBadParam [] s
    else
      let s := { s with dev := { s.dev with staging := memWrite s.dev.staging (4096 * c) data, staged := tabPut c data.length s.dev.staged } }
      if !bit (r.word 0) 63 then respond r.src stOK [] s
      else match verifyImage s.fuse s.dev.staging s.dev.staged 8 with
        | .inl k => respond r.src stSignatureBad [] { s with dev := { s.dev with cause := k } }
        | .inr i =>
          let persist := bit (r.word 0) 62
          let s := if persist && flashOk then persistImage (bits (headWord (chunkRead s.dev.staging 0 0 headLen) 1) 63 40) s
            else if persist then { s with flash := erasePages 0 2048 s.flash } else s
          let s := respond r.src (if persist && !flashOk then stFlashError else stOK) [] s
          setDevState 0 (runImage i { s with dev := { s.dev with stage := .image, cause := 0, fwOk := persist && flashOk } }))

/-- RECOVERY.STATUS (13 R386): loader cause, bytes received. -/
def execRecoveryStatus (m : Nat) (s : State) : Res :=
  onReq 0x0C02 (.mbx m) s (fun r => respond r.src stOK [s.dev.cause + s.dev.staged.foldl (fun a e => a + e.2) 0 % 2 ^ 32 * 2 ^ 32] s)

/-! ### DEBUG (R392) -/

/-- The shell a DEBUG command names: the owner's field, or the tenant's own. -/
def debugShell (r : Req) (hi lo : Nat) (s : State) : Option (Nat × Shell) :=
  let f := r.field 0 hi lo
  let d := if r.byOwner then f else r.cdom s
  if !r.byOwner && f != 0 && f != d then none else (shellOf d s).map (fun sh => (d, sh))

/-- The code of a directory entry's state (T9-5). -/
def dstateCode : DState → Nat
  | .inv => 0 | .shared => 1 | .owned => 2 | .failed => 3

/-- The two words of a directory entry (T9-5). -/
def dirWords (line : Nat) (s : State) : List Nat :=
  let e := dirOf line s
  let st := if s.coh.failing.contains e.cdom && e.dstate != .inv then 3 else dstateCode e.dstate
  [e.cdom * 2 ^ 55 + st * 2 ^ 53 + b2n e.lock * 2 ^ 52 + e.otag * 2 ^ 44 + (match e.fwd with | some a => 2 ^ 43 + a * 2 ^ 38 | none => 0) + e.presence, line]

/-- The two words of an ownership record (T11-15). -/
def ownWords (o : OwnRec) : List Nat := [o.owner * 2 ^ 55 + o.to' * 2 ^ 46 + o.hstate * 2 ^ 44 + o.seq, o.relTime]

/-- The two words of a range entry (T11-9). -/
def rangeWords (r : Range) : List Nat :=
  [r.base * 2 ^ 41 + r.frames * 2 ^ 18 + r.set * 2 ^ 15 + r.mset * 2 ^ 12 + b2n r.mirror * 2 ^ 11 + b2n r.stream * 2 ^ 10 + b2n r.wr * 2 ^ 9 + b2n r.mirrorLost * 2 ^ 8, r.frame0 * 2 ^ 40]

/-- The group of a shell's seat in a slot: on its core, stopped and put aside there, or in a saved context. -/
def debugGroup (d seat slot : Nat) (sh : Shell) (s : State) : Option Group :=
  match seatCore sh seat with
  | none => none
  | some core =>
    let k := coreOf core s
    let mine := fun (g : Group) => g.cdom == d && (g.park.isSome || g.stopped)
    let here := match tabFind slot k.groups with | some g => if mine g then some g else none | none => none
    let put := (k.saved.find? (fun e => e.1 == slot && e.2.cdom == d)).map (fun e => e.2)
    let kept := match tabFind (ctxKey d seat) k.ctxs with | some x => tabFind slot x.groups | none => none
    here.orElse (fun _ => put.orElse (fun _ => kept))

/-- A line of stored codewords (kind 4): 64 words, each with its 16 check and poison bits, without decoding. -/
def rawLine (dpa : Nat) (s : State) : List Byte :=
  (List.range 64).flatMap (fun i =>
    let v := leNat (memRead s.mem.dram (dpa + 8 * i) 8)
    let t := tagOf (dramKey (dpa + 8 * i)) s
    leBytes (flip80 v t.p t.e).1 8 ++ leBytes (checkBits v t) 2)

/-- Bits of in1 that a kind does not name (R380, T13-9). -/
def debugReserved (kind x : Nat) : Bool :=
  (kind == 1 && decide (8 ≤ x)) || (kind == 2 && x != bits x 8 0 + bits x 20 16 * 2 ^ 16 + bits x 33 32 * 2 ^ 32) || (kind == 3 && decide (256 ≤ x)) ||
  (kind == 5 && x != bits x 5 0 + bits x 7 7 * 128)

/-- DEBUG.READ (R392, T13-9). -/
def execDebugRead (m : Nat) (s : State) : Res :=
  onReq 0x0D01 (.mbx m) s (fun r =>
    let kind := r.field 0 3 0
    let x := r.word 1
    let no := respond r.src stNotPermitted [] s
    let mine := fun (ch : Nat) => r.byOwner || chanOwner ch s == some (r.cdom s)
    if debugReserved kind x then respond r.src stReserved [] s
    else if kind = 0 then (if dpaUsable s x && mine (dpaChan x) then respond r.src stOK (dirWords (x / 512) s) s else no)
    else if kind = 4 then (if r.byOwner && dpaUsable s x && x % 512 = 0 then respondBytes r.src stOK 0 0 (rawLine x s) s else no)
    else if kind = 5 then
      (let ch := bits x 5 0 + if bit x 7 then 64 else 0
      if ch < 88 && mine ch then respond r.src stOK [(chanOf ch s).rmw] s else no)
    else match debugShell r 24 16 s with
      | none => no
      | some (d, sh) =>
        if kind = 1 then (if (tabFind (bits x 2 0) sh.owns).isSome then respond r.src stOK (ownWords (ownRec d (bits x 2 0) sh)) s else no)
        else if kind = 2 then
          (match debugGroup d (bits x 8 0) (bits x 20 16) sh s with
          | none => no
          | some g => respondBytes r.src stOK 0 0 (((slotArea (bits x 20 16) g).drop (2048 * bits x 33 32)).take 2048) s)
        else if kind = 3 then respond r.src stOK (match tabFind (bits x 7 0) sh.ranges with | some g => rangeWords g | none => [0, 0]) s
        else no)

/-- DEBUG.ATTR (09 R272): the shell's `discard_poison`. -/
def execDebugAttr (m : Nat) (s : State) : Res :=
  onReq 0x0D02 (.mbx m) s (fun r =>
    match debugShell r 8 0 s with
    | none => respond r.src stNotPermitted [] s
    | some (d, sh) => respond r.src stOK [] (setShell d { sh with discardPoison := bit (r.word 0) 16 } s))

end Sys2Proof.Machine
end

