-- ==== Sys2Proof/Machine/GraphDesc.lean ====
section
/-! DEFINITION. Graph descriptors (03 R97..R100; 06 R154): how the Cox reads one, and the checks 0x0001 to 0x0008 of Table 3-9 that look at one record at a
time (03 R71..R74, R85, R104; 04 R108..R115; 05 R131..R133, R139..R148). -/
namespace Sys2Proof.Machine

/-! ### Records -/

/-- The header (T3-4). -/
structure GHead where
  magic    : Nat
  version  : Nat
  length   : Nat
  crc      : Nat
  nTiles   : Nat
  nPonds   : Nat
  nNodes   : Nat
  nSteps   : Nat
  nSeats   : Nat
  nSegs    : Nat
  tileOff  : Nat
  pondOff  : Nat
  nodeOff  : Nat
  stepOff  : Nat
  segOff   : Nat
  statusBase : Nat
  rsv      : Bool

/-- Reads the header's words. -/
def headOfWords (ws : List Nat) : GHead :=
  let w := fun i => ws.getD i 0
  { magic := bits (w 0) 63 32, version := bits (w 0) 31 16, length := bits (w 1) 63 32, crc := bits (w 1) 31 0, nTiles := bits (w 2) 63 48
    nPonds := bits (w 2) 47 32, nNodes := bits (w 2) 31 16, nSteps := bits (w 2) 15 0, nSeats := bits (w 3) 63 56, nSegs := bits (w 3) 55 48
    tileOff := bits (w 4) 63 32, pondOff := bits (w 4) 31 0, nodeOff := bits (w 5) 63 32, stepOff := bits (w 5) 31 0, segOff := bits (w 6) 63 32
    statusBase := bits (w 7) 47 0
    rsv := bits (w 0) 15 0 != 0 || bits (w 3) 47 0 != 0 || bits (w 6) 31 0 != 0 || bits (w 7) 63 48 != 0 }

/-- A record with its offset in the descriptor and its words. -/
structure GRec where
  off   : Nat
  words : List Nat

/-- Word `i` of a record. -/
def GRec.w (r : GRec) (i : Nat) : Nat := r.words.getD i 0

/-- `n` records of `size` bytes from an offset on. -/
def recordsAt (bs : List Byte) (off n size : Nat) : List GRec :=
  (List.range n).map (fun i => ⟨off + i * size, wordsOf ((bs.drop (off + i * size)).take size) (size / 8)⟩)

/-- Tile descriptor (T3-2). -/
def tileOfRec (r : GRec) : Tile :=
  { space := bits (r.w 0) 63 62, addr := bits (r.w 0) 47 0, fmt := bits (r.w 1) 63 56, col := bits (r.w 1) 55 52 == 1, rows := bits (r.w 1) 46 40 + 1
    cols := bits (r.w 1) 38 32 + 1, stride := bits (r.w 1) 31 0, mx := bit (r.w 2) 63, saxis := bit (r.w 2) 62, sstride := bits (r.w 2) 61 48
    saddr := bits (r.w 2) 47 0, ts := BitVec.ofNat 32 (bits (r.w 3) 63 32), amode := bits (r.w 3) 31 30, anchor := signed 10 (bits (r.w 3) 29 20) }

/-- Node record (T3-5). -/
def nodeOfRec (r : GRec) : Node :=
  { op := bits (r.w 0) 63 56, seat := bits (r.w 0) 55 50, dst := bits (r.w 0) 47 32, src0 := bits (r.w 0) 31 16, src1 := bits (r.w 0) 15 0
    count := bits (r.w 1) 47 32, param := r.w 2, advD := signed 32 (bits (r.w 3) 63 32), adv0 := signed 32 (bits (r.w 3) 31 0), adv1 := signed 32 (bits (r.w 4) 63 32) }

/-- Step record (T3-7). -/
def stepOfRec (r : GRec) : StepRec :=
  { first := bits (r.w 0) 63 48, n := bits (r.w 0) 47 32, pace := bits (r.w 0) 31 16, msInt := bits (r.w 0) 15 0
    seg := if bits (r.w 1) 63 48 = 0xFFFF then none else some (bits (r.w 1) 63 48) }

/-- Pond record (T3-7). -/
def pondOfRec (r : GRec) : Pond :=
  { cons := bits (r.w 0) 63 58, prod := bits (r.w 0) 57 52, depth := bits (r.w 0) 47 40, bytes := bits (r.w 0) 31 0, base := bits (r.w 1) 20 0 }

/-- A segment's loop table: entries and offset (T6-1). -/
def loopCount (r : GRec) : Nat := bits (r.w 1) 50 44
def loopOff (r : GRec) : Nat := bits (r.w 3) 63 32

/-- Segment record with its loop table (T6-1, T6-2). -/
def segOfRec (bs : List Byte) (r : GRec) : Segment :=
  { mask := r.w 0, n := bits (r.w 1) 63 59 + 1, d := bits (r.w 1) 55 51 + 1, codeLen := bits (r.w 1) 43 28, codeAddr := bits (r.w 2) 47 0
    loopTab := (recordsAt bs (loopOff r) (loopCount r) 8).map (fun e => (bits (e.w 0) 63 48, bits (e.w 0) 31 0)), arg := [r.w 4, r.w 5, r.w 6, r.w 7] }

/-- A descriptor as read: bytes, header, records. -/
structure GDesc where
  bytes : List Byte
  head  : GHead
  tiles : List GRec
  ponds : List GRec
  nodes : List GRec
  steps : List GRec
  segs  : List GRec

/-- The records of a descriptor whose layout holds. -/
def descOf (h : GHead) (bs : List Byte) : GDesc :=
  { bytes := bs, head := h, tiles := recordsAt bs h.tileOff h.nTiles 32, ponds := recordsAt bs h.pondOff h.nPonds 16
    nodes := recordsAt bs h.nodeOff h.nNodes 40, steps := recordsAt bs h.stepOff h.nSteps 16, segs := recordsAt bs h.segOff h.nSegs 64 }

/-- The graph that a descriptor spells. -/
def GDesc.graph (d : GDesc) : Graph :=
  { tiles := d.tiles.map tileOfRec, ponds := d.ponds.map pondOfRec, nodes := d.nodes.map nodeOfRec, steps := d.steps.map stepOfRec
    segs := d.segs.map (segOfRec d.bytes), nSeats := d.head.nSeats, statusBase := d.head.statusBase }

/-- Offsets of records. -/
def GDesc.tileAt (d : GDesc) (i : Nat) : Nat := d.head.tileOff + 32 * i
def GDesc.pondAt (d : GDesc) (i : Nat) : Nat := d.head.pondOff + 16 * i
def GDesc.nodeAt (d : GDesc) (i : Nat) : Nat := d.head.nodeOff + 40 * i
def GDesc.stepAt (d : GDesc) (i : Nat) : Nat := d.head.stepOff + 16 * i
def GDesc.segAt (d : GDesc) (i : Nat) : Nat := d.head.segOff + 64 * i

/-! ### 0x0001 to 0x0004 -/

/-- Spans of the sections, the header first. A table of no records is no section: R97 is not asked of its offset, but for `tile_off`, whose table is never
empty (DESIGN CHOICE, log entry 93). -/
def GHead.sections (h : GHead) : List (Nat × Nat) :=
  (0, 64) :: ([(h.tileOff, 32 * h.nTiles), (h.pondOff, 16 * h.nPonds), (h.nodeOff, 40 * h.nNodes), (h.stepOff, 16 * h.nSteps), (h.segOff, 64 * h.nSegs)].filter (fun e => e.2 != 0))

/-- No two spans of a list overlap. -/
def disjoint (l : List (Nat × Nat)) : Bool :=
  l.zipIdx.all (fun e => (l.take e.2).all (fun f => decide (f.1 + f.2 ≤ e.1.1) || decide (e.1.1 + e.1.2 ≤ f.1)))

/-- 0x0001 and the header's part of 0x0002 (R97). -/
def checkHead (h : GHead) : Option Bad :=
  if h.magic != 0x53544752 || h.version != 1 then some (0x0001, 0)
  else if h.length < 64 || 2 ^ 20 < h.length || h.nTiles = 0 || 4096 < h.nTiles || 1024 < h.nPonds || h.nNodes = 0 || 16384 < h.nNodes || h.nSteps = 0 ||
    4096 < h.nSteps || h.nSeats = 0 || 64 < h.nSeats || h.tileOff % 32 != 0 || h.sections.any (fun e => e.1 % 8 != 0 || decide (h.length < e.1 + e.2)) ||
    !disjoint h.sections then some (0x0002, 0)
  else none

/-- The rest of 0x0002: steps take the nodes in order, no count is 0. -/
def checkSteps (d : GDesc) (g : Graph) : Option Bad :=
  let bad := fun (e : StepRec × Nat) =>
    e.1.n == 0 || decide (e.1.n ≤ e.1.pace) || e.1.first != (g.steps.take e.2).foldl (fun n x => n + x.n) 0 || decide (g.nodes.length < e.1.first + e.1.n) ||
    (e.2 + 1 == g.steps.length && e.1.first + e.1.n != g.nodes.length)
  (firstBad 0x0002 (fun e => d.stepAt e.2) bad g.steps.zipIdx).or (firstBad 0x0002 (fun e => d.nodeAt e.2) (fun (e : Node × Nat) => e.1.count == 0) g.nodes.zipIdx)

/-- 0x0003: the CRC of the descriptor with its own field 0. -/
def checkCrc (d : GDesc) : Option Bad :=
  if crc32c (d.bytes.take 8 ++ List.replicate 4 0 ++ d.bytes.drop 12) = d.head.crc then none else some (0x0003, 0)

/-- Bits of a node's word 2 that Table 3-6 gives its opcode; every bit for an opcode the table lacks, which 0x0005 refuses. -/
def paramMask (op : Nat) : Nat :=
  match op with
  | 0x10 | 0x11 | 0x60 | 0x61 | 0x70 | 0x72 => 0
  | 0x20 | 0x21 => bm 63 59 + bm 55 32 + bm 31 0
  | 0x30 => bm 63 46
  | 0x40 => bm 63 52 + bm 31 0
  | 0x41 => bm 63 52
  | 0x42 => bm 63 60 + bm 55 52 + bm 31 0
  | 0x50 => bm 63 55
  | 0x51 => bm 63 52
  | 0x62 => bm 63 63
  | 0x63 => bm 31 0
  | 0x71 => bm 63 60
  | _ => bmAll

/-- 0x0004 (R11): reserved fields, and reserved codes of format, layout and anchor mode. -/
def checkReservedG (d : GDesc) : Option Bad :=
  let tile := fun (r : GRec) =>
    bits (r.w 0) 61 48 != 0 || bits (r.w 1) 51 47 != 0 || bit (r.w 1) 39 || bits (r.w 3) 19 0 != 0 || fmtBits (bits (r.w 1) 63 56) == 0 ||
    decide (1 < bits (r.w 1) 55 52) || bits (r.w 3) 31 30 == 3
  let pond := fun (r : GRec) => bits (r.w 0) 51 48 != 0 || bits (r.w 0) 39 32 != 0 || bits (r.w 1) 63 21 != 0
  let node := fun (r : GRec) =>
    bits (r.w 0) 49 48 != 0 || bits (r.w 1) 63 48 != 0xFFFF || bits (r.w 1) 31 0 != 0 || bits (r.w 4) 31 0 != 0 ||
    decide (r.w 2 &&& paramMask (bits (r.w 0) 63 56) ≠ r.w 2)
  let seg := fun (r : GRec) => bits (r.w 1) 58 56 != 0 || bits (r.w 1) 27 0 != 0 || bits (r.w 2) 63 48 != 0 || bits (r.w 3) 31 0 != 0
  let loops := d.segs.flatMap (fun r => if loopOff r + 8 * loopCount r ≤ d.head.length then recordsAt d.bytes (loopOff r) (loopCount r) 8 else [])
  (if d.head.rsv then some (0x0004, 0) else none).or <| (firstBad 0x0004 (fun r => r.off) tile d.tiles).or <| (firstBad 0x0004 (fun r => r.off) pond d.ponds).or <|
    (firstBad 0x0004 (fun r => r.off) node d.nodes).or <| (firstBad 0x0004 (fun r => r.off) (fun r => bits (r.w 1) 47 0 != 0) d.steps).or <|
    (firstBad 0x0004 (fun r => r.off) seg d.segs).or <| firstBad 0x0004 (fun r => r.off) (fun r => bits (r.w 0) 47 32 != 0) loops

/-! ### 0x0005: opcodes and operands (T3-3) -/

/-- The function codes of Table 6-4. -/
def mapFunc (f : Nat) : Bool := decide (f ≤ 0x0B) || f == 0x10 || f == 0x11 || (decide (0x20 ≤ f) && decide (f ≤ 0x29))

/-- Whether an operation takes src1; none for a MAP whose function code is reserved. -/
def takesSrc1 (n : Node) : Option Bool :=
  match n.op with
  | 0x20 | 0x21 | 0x30 | 0x71 => some true
  | 0x40 => let f := bits n.param 63 56; if mapFunc f then some (decide (f ≤ 7)) else none
  | _ => some false

/-- The opcodes of Table 3-3. -/
def opKnown (op : Nat) : Bool :=
  [0x10, 0x11, 0x20, 0x21, 0x30, 0x40, 0x41, 0x42, 0x50, 0x51, 0x60, 0x61, 0x62, 0x63, 0x70, 0x71, 0x72].contains op

/-- 0x0005. -/
def checkOpcodes (d : GDesc) (g : Graph) : Option Bad :=
  firstBad 0x0005 (fun e => d.nodeAt e.2) (fun (e : Node × Nat) =>
    !opKnown e.1.op || e.1.dst == 0xFFFF || e.1.src0 == 0xFFFF || (match takesSrc1 e.1 with | some b => b == (e.1.src1 == 0xFFFF) | none => false)) g.nodes.zipIdx

/-! ### 0x0006: tiles -/

/-- What a tile's own fields must be (R71, R73, R74, R108, R109; 05 T5-3). -/
def tileBad (fp : Bool) (nPonds : Nat) (t : Tile) : Bool :=
  let w := t.perLine * fmtBits t.fmt
  let k := if t.saxis then t.rows else t.cols
  w % 8 != 0 || (t.mx && decide (7 < t.fmt)) ||
  (if t.space = 3 then t.addr != 0
  else
    (t.space == 0 && (t.addr % 32 != 0 || t.stride % 32 != 0 || (extentsAt t 0).any (fun e => decide ((2 ^ 21 : Int) < e.1 + e.2)))) || (t.space == 1 && (t.addr % 64 != 0 || t.stride % 64 != 0)) ||
    (t.space == 2 && decide (nPonds ≤ t.addr)) || decide (t.stride < t.lineBytes) ||
    (t.mx && (t.fmt == 0 || decide (7 < t.fmt) || k % 32 != 0 || t.sstride % 4 != 0 || decide (t.sstride < k / 32) ||
      (t.space != 2 && t.saddr % 4 != 0))) ||
    (t.fmt == 0x0C && !fp && (if t.space = 2 then t.amode == 1 else t.amode != 0)))

/-- The mapping that holds a range of shell addresses whole (R74; 08 R216): its kind (0 Memory, 1 a seat's window, 2 Host, 3 Peer), and which range, seat
or device. -/
def mappingOf (s : State) (sh : Shell) (nSeats : Nat) (lo hi : Int) : Option (Nat × Nat) :=
  let a := lo.toNat
  let b := (hi - 1).toNat
  if lo < 0 || hi ≤ lo || 2 ^ 48 ≤ b then none
  else if b < 2 ^ 44 then
    (match rangeAt sh (a / 2 ^ 21), rangeAt sh (b / 2 ^ 21) with | some x, some y => if x.1 = y.1 then some (0, x.1) else none | _, _ => none)
  else if 0x100000000000 ≤ a && b < 0x100008000000 then
    (let k := (a - 0x100000000000) / 2 ^ 21
     if a / 2 ^ 21 = b / 2 ^ 21 && k < nSeats then some (1, k) else none)
  else if 0x110000000000 ≤ a && b < 0x110040000000 then
    (let k := (a - 0x110000000000) / 2 ^ 21
     if a / 2 ^ 21 = b / 2 ^ 21 && k < sh.comp.seats.length && !spareSeat sh k then some (1, 64 + k) else none)
  else if 0x400000000000 ≤ a && b < 0x800000000000 then some (2, 0)
  else if 0x800000000000 ≤ a then
    (let k := a / 2 ^ 35 % 4096
     if a / 2 ^ 35 = b / 2 ^ 35 && k != s.dev.board.devId && bit (routeOf k s) 31 && b % 2 ^ 35 < 0x740000000 then some (3, k) else none)
  else none

/-- Every byte of a range of shell addresses is mapped, be it by more than one mapping. -/
def rangeMapped (s : State) (sh : Shell) (nSeats : Nat) (lo : Int) (n : Nat) : Bool :=
  decide (0 ≤ lo) && (List.range (((lo + n).toNat + 2 ^ 21 - 1) / 2 ^ 21 - lo.toNat / 2 ^ 21)).all (fun i =>
    let p := ((lo.toNat / 2 ^ 21 + i) * 2 ^ 21 : Nat)
    (mappingOf s sh nSeats (max lo p) (min (lo + n) (p + (2 ^ 21 : Nat)))).isSome)

/-- A `space` 0b01 tile that stands `a` bytes on has every byte mapped. -/
def tileMapped (s : State) (sh : Shell) (nSeats : Nat) (t : Tile) (a : Int) : Bool := (extentsAt t a).all (fun e => rangeMapped s sh nSeats e.1 e.2)

/-- The one mapping that holds a tile whole, its scales included (R74). -/
def tileMapping (s : State) (sh : Shell) (nSeats : Nat) (t : Tile) (a : Int) : Option (Nat × Nat) :=
  match (extentsAt t a).map (fun e => mappingOf s sh nSeats e.1 (e.1 + e.2)) with
  | [] => none
  | m :: ms => if ms.all (fun x => x == m) then m else none

/-- A tile that is mapped, but not by one mapping (R74): BAD_TILE, where one that is not mapped is ADDRESS_RANGE (log entry 93). -/
def tileSplit (s : State) (sh : Shell) (nSeats : Nat) (t : Tile) : Bool := t.space == 1 && (tileMapping s sh nSeats t 0).isNone && tileMapped s sh nSeats t 0

/-- Formats a role accepts (T3-1): 0 Intake, 1 Gather, 2 Gather tables, 3 Matrix operands, 4 Vector, 5 FP32, 6 AX128, 7 Reduce logic, 8 Shape, 9 Outlet
output and fused operand. -/
def roleFmt (k fmt : Nat) : Bool :=
  match k with
  | 0 => decide (1 ≤ fmt) && decide (fmt ≤ 12)
  | 1 | 9 => decide (1 ≤ fmt) && decide (fmt ≤ 10)
  | 2 => fmt == 0x0B
  | 3 => decide (1 ≤ fmt) && decide (fmt ≤ 9)
  | 4 => decide (8 ≤ fmt) && decide (fmt ≤ 11)
  | 5 => fmt == 0x0A
  | 6 => fmt == 0x0C
  | 7 => fmt == 0x06 || fmt == 0x0B
  | _ => decide (1 ≤ fmt) && decide (fmt ≤ 11)

/-- Role and permitted spaces of an operation's dst, src0 and src1 (R72, R76, R87; 04 R115; 05 R139, R141, R148). -/
def roleOf (op role : Nat) : Nat × List Nat :=
  match op, role with
  | 0x10, 0 | 0x11, 0 => (0, [0, 2])
  | 0x10, _ | 0x11, _ => (0, [0, 1])
  | 0x20, 0 | 0x21, 0 => (1, [0, 2])
  | 0x20, 1 | 0x21, 1 => (1, [0, 1])
  | 0x20, _ | 0x21, _ => (2, [0])
  | 0x30, 0 => (6, [3])
  | 0x30, _ => (3, [0, 2])
  | 0x42, 1 => (5, [0, 2])
  | 0x40, _ | 0x41, _ | 0x42, _ => (4, [0, 2])
  | 0x50, 0 => (6, [3])
  | 0x50, _ => (6, [2])
  | 0x51, 0 => (7, [0, 2])
  | 0x51, _ => (7, [2])
  | 0x70, 0 | 0x71, 0 => (9, [0, 1, 2])
  | 0x72, 0 => (6, [0, 1, 2])
  | 0x70, 1 | 0x71, 1 | 0x72, 1 => (6, [3])
  | 0x71, _ => (9, [0, 2])
  | _, _ => (8, [0, 2])

/-- A finite FP32 pattern. -/
def finite32 (v : W32) : Bool := match dec32 v with | .fin _ _ => true | _ => false

/-- A destination scale of Outlet: normal, of magnitude 2^-126 to 2^126 (R110). -/
def outScaleOk (v : W32) : Bool := let e := v.toNat / 2 ^ 23 % 256; decide (1 ≤ e) && (decide (e ≤ 252) || (e == 253 && v.toNat % 2 ^ 23 == 0))

/-- Node indices with the step that takes them. -/
def nodeStep (g : Graph) (i : Nat) : Nat := (g.steps.zipIdx.find? (fun e => decide (e.1.first ≤ i) && decide (i < e.1.first + e.1.n))).elim 0 (fun e => e.2)

/-- A surveyed operand of a Matrix node (05 R133): a scratchpad tile that an earlier step surveys on the seat, or a pond that a survey fills. -/
def surveyed (g : Graph) (i : Nat) (n : Node) (ix : Nat) : Bool :=
  match g.tiles[ix]? with
  | none => false
  | some t =>
    g.nodes.zipIdx.any (fun e =>
      e.1.op == 0x11 && (match g.tiles[e.1.dst]? with
        | some u => (t.space == 2 && u.space == 2 && u.addr == t.addr && decide (nodeStep g e.2 ≤ nodeStep g i)) ||
            (t.space == 0 && e.1.dst == ix && e.1.seat == n.seat && decide (nodeStep g e.2 < nodeStep g i))
        | none => false))

/-- The offset moves the block scales by whole blocks (04 R536). -/
def scaleMoves (t : Tile) (a : Int) : Bool :=
  let st : Int := t.stride
  let w := if st = 0 then 0 else Int.tdiv a st
  let e8 := (a - w * st) * 8
  let eb : Int := fmtBits t.fmt
  let el := e8 / eb
  let dr := if t.col then el else w
  let dc := if t.col then w else el
  e8 % eb == 0 && (if t.saxis then dr else dc) % 32 == 0

/-- The operand rules of a node (04, 05). -/
def nodeBad (fp : Bool) (g : Graph) (i : Nat) (n : Node) : Bool :=
  let os := opnds g n
  let tl := fun (k : Nat) => (os.find? (fun o => o.role == k)).map (fun o => o.t)
  let same := fun (a b : Tile) => a.rows == b.rows && a.cols == b.cols
  os.any (fun o => let r := roleOf n.op o.role; !roleFmt r.1 o.t.fmt || !r.2.contains o.t.space) ||
  os.any (fun o => o.t.mx && o.t.space != 2 && o.adv != 0 && !(List.range (positions n o.role)).all (fun (p : Nat) => scaleMoves o.t ((p : Int) * o.adv))) ||
  (match tl 0, tl 1 with
  | some d, some a =>
    (match n.op with
    | 0x10 | 0x11 | 0x20 | 0x21 =>
      d.fmt != a.fmt || d.mx != a.mx || (d.mx && d.saxis != a.saxis) || !same d a || (d.fmt != 0x0C && !(finite32 d.ts && finite32 a.ts)) ||
      (decide (0x20 ≤ n.op) && (match tl 2 with | some b => !finite32 b.ts | none => false)) ||
      (decide (0x20 ≤ n.op) && (d.lineBytes % 64 != 0 || d.lineBytes == 0 || decide (512 < d.lineBytes) || d.col || a.col || a.addr % 64 != 0 || a.stride % 64 != 0))
    | 0x30 =>
      (match tl 2 with
      | some b =>
        a.cols != b.rows || d.rows != a.rows || d.cols != b.cols || (a.mx && a.saxis) || (b.mx && !b.saxis) || !(finite32 a.ts && finite32 b.ts) ||
        (!fp && (d.amode == 2 || (d.amode == 1 && !(surveyed g i n n.src0 && surveyed g i n n.src1))))
      | none => true)
    | 0x40 => !same d a || (match tl 2 with | some b => !same d b | none => false)
    | 0x41 => d.fmt != 0x0A || d.rows != a.rows || d.cols != 1
    | 0x42 => !same d a
    | 0x50 => !same d a || (!fp && (if bit n.param 55 then d.amode != 2 else d.amode == 1))
    | 0x51 => d.fmt != a.fmt || !same d a || d.mx || a.mx
    | 0x60 => d.fmt != a.fmt || d.rows != a.cols || d.cols != a.rows
    | 0x61 => d.fmt != a.fmt || d.rows * d.cols != a.rows * a.cols
    | 0x62 => d.fmt != a.fmt || (if bit n.param 63 then a.cols != 1 || a.rows != d.rows else a.rows != 1 || a.cols != d.cols)
    | 0x63 => d.fmt != a.fmt || decide (d.rows < a.rows) || decide (d.cols < a.cols)
    | 0x70 | 0x71 =>
      (!fp && a.amode != 2) || !outScaleOk d.ts || (match tl 2 with | some b => !same d b | none => false)
    | _ => !fp && a.amode != 2)
  | _, _ => true)

/-- 0x0006, the survey table's limit included (05 R132). -/
def checkTiles (fp : Bool) (split : Tile → Bool) (d : GDesc) (g : Graph) : Option Bad :=
  let past := fun (k : Nat) => k != 0xFFFF && decide (g.tiles.length ≤ k)
  let entries := fun (i seat : Nat) => ((g.nodes.take (i + 1)).filter (fun n => n.op == 0x11 && n.seat == seat && (match g.tiles[n.dst]? with | some t => t.space == 0 | none => false))).map (fun n => n.dst)
  (firstBad 0x0006 (fun e => d.tileAt e.2) (fun (e : Tile × Nat) => tileBad fp g.ponds.length e.1 || split e.1) g.tiles.zipIdx).or <|
    firstBad 0x0006 (fun e => d.nodeAt e.2) (fun (e : Node × Nat) =>
      past e.1.dst || past e.1.src0 || past e.1.src1 || nodeBad fp g e.2 e.1 || (e.1.op == 0x11 && decide (32 < (entries e.2 e.1.seat).eraseDups.length))) g.nodes.zipIdx

/-! ### 0x0007 and 0x0008 -/

/-- A Table 3-6 field out of range (R87, R99; 06 R176). -/
def paramBad (g : Graph) (n : Node) : Bool :=
  let ports := bits n.param 55 52
  let badPorts := ports == 0 || decide (8 < ports)
  match n.op with
  | 0x20 => bits n.param 63 59 != 0
  | 0x21 =>
    let s := bits n.param 63 59
    decide (s < 9) || decide (21 < s) || (match g.tiles[n.src0]? with | some t => t.stride == 0 || 2 ^ s % t.stride != 0 | none => true)
  | 0x30 => bits n.param 63 56 == 0 || bits n.param 55 48 == 0 || n.count % bits n.param 55 48 != 0
  | 0x40 => badPorts || !mapFunc (bits n.param 63 56)
  | 0x41 => badPorts || decide (1 < bits n.param 63 56)
  | 0x42 => badPorts
  | 0x50 => bits n.param 63 56 == 0 || decide (64 < bits n.param 63 56)
  | 0x51 => bits n.param 63 56 == 0 || decide (64 < bits n.param 63 56) || decide (4 < bits n.param 55 52)
  | 0x71 => decide (1 < bits n.param 63 60)
  | _ => false

/-- 0x0007. -/
def checkParams (d : GDesc) (g : Graph) : Option Bad := firstBad 0x0007 (fun e => d.nodeAt e.2) (fun (e : Node × Nat) => paramBad g e.1) g.nodes.zipIdx

/-- 0x0008. -/
def checkSeats (d : GDesc) (g : Graph) : Option Bad :=
  (firstBad 0x0008 (fun e => d.nodeAt e.2) (fun (e : Node × Nat) => decide (g.nSeats ≤ e.1.seat)) g.nodes.zipIdx).or <|
    firstBad 0x0008 (fun e => d.pondAt e.2) (fun (e : Pond × Nat) => decide (g.nSeats ≤ e.1.cons) || decide (g.nSeats ≤ e.1.prod)) g.ponds.zipIdx

end Sys2Proof.Machine
end

