-- ==== Sys2Proof/Machine/GraphCheck.lean ====
section
/-! DEFINITION. The checks of Tables 3-9 and 6-7 that look across records (03 R79, R83, R90, R93, R94, R104; 06 R154, R156, R179, R181; 07 R206, R208) and
those of Table 13-8 (13 R390; 02 R63). -/
namespace Sys2Proof.Machine

/-! ### 0x0009: ponds (R83, R100) -/

/-- A node with its index. -/
abbrev INode := Node × Nat

/-- Tiles that an operand produces or consumes over a node (R83). -/
def tilesPer (n : Node) (role : Nat) : Nat :=
  if n.op = 0x30 && role != 0 then n.count * bits n.param 63 56
  else if (n.op = 0x50 || n.op = 0x51) && role = 1 then n.count * bits n.param 63 56
  else positions n role

/-- Bytes of a pond slot that holds a tile with its scales (R83; 04 R108). -/
def slotNeed (t : Tile) : Nat :=
  if t.mx then t.slotData + (t.scaleLines - 1) * t.sstride + t.blocks else t.lines * t.stride

/-- Operands in a pond: the node, its operand. -/
def pondUses (g : Graph) (p : Nat) : List (INode × Opnd) :=
  g.nodes.zipIdx.flatMap (fun (e : Node × Nat) => ((opnds g e.1).filter (fun o => o.t.space == 2 && o.t.addr == p)).map (fun o => (e, o)))

/-- The producer and the consumer of a pond. -/
def pondEnds (g : Graph) (p : Nat) : Option (INode × INode) :=
  let u := pondUses g p
  match u.find? (fun x => x.2.role == 0), u.find? (fun x => x.2.role != 0) with
  | some a, some b => some (a.1, b.1)
  | _, _ => none

/-- A pond breaks a rule of R83 or R100. -/
def pondBad (g : Graph) (k : Nat) (p : Pond) : Bool :=
  let u := pondUses g k
  let ps := u.filter (fun x => x.2.role == 0)
  let cs := u.filter (fun x => x.2.role != 0)
  let one := fun (l : List (INode × Opnd)) => (l.map (fun x => x.1.2)).eraseDups.length == 1
  let total := fun (l : List (INode × Opnd)) => l.foldl (fun n x => n + tilesPer x.1.1 x.2.role) 0
  !one ps || !one cs || total ps != total cs || decide (p.depth < 2) || decide (64 < p.depth) || p.bytes % 32 != 0 || p.base % 32 != 0 ||
  u.any (fun x => decide (p.bytes < slotNeed x.2.t)) || decide (32 < ((g.ponds.take (k + 1)).filter (fun q => q.cons == p.cons)).length) ||
  (match pondEnds g k with
  | some (a, b) => nodeStep g a.2 != nodeStep g b.2 || p.prod != a.1.seat || p.cons != b.1.seat
  | none => true)

/-- Accumulator nodes of a step on a seat: producers, joining Reduce nodes, Outlet nodes. -/
structure AccGroup where
  mma : List INode
  add0 : List INode
  add1 : List INode
  outs : List INode

/-- The accumulator nodes that share a step and a seat with a node. -/
def accGroup (g : Graph) (step seat : Nat) : AccGroup :=
  let ns := g.nodes.zipIdx.filter (fun (e : Node × Nat) => e.1.seat == seat && nodeStep g e.2 == step)
  { mma := ns.filter (fun e => e.1.op == 0x30), add0 := ns.filter (fun e => e.1.op == 0x50 && !bit e.1.param 55)
    add1 := ns.filter (fun e => e.1.op == 0x50 && bit e.1.param 55), outs := ns.filter (fun e => decide (0x70 ≤ e.1.op)) }

/-- Steps and seats that have nodes. -/
def stepSeats (g : Graph) : List (Nat × Nat) := (g.nodes.zipIdx.map (fun (e : Node × Nat) => (nodeStep g e.2, e.1.seat))).eraseDups

/-- Connections of ponds and accumulators, from node to node. -/
def flowEdges (g : Graph) : List (Nat × Nat) :=
  (List.range g.ponds.length).filterMap (fun k => (pondEnds g k).map (fun e => (e.1.2, e.2.2))) ++
  (stepSeats g).flatMap (fun k =>
    let a := accGroup g k.1 k.2
    (a.mma ++ a.add0).flatMap (fun x => (a.add1 ++ a.outs).map (fun y => (x.2, y.2))) ++ a.add1.flatMap (fun x => a.outs.map (fun y => (x.2, y.2))))

/-- Nodes that remain when those without an edge into them are taken away again and again. -/
def onCycles (es : List (Nat × Nat)) : Nat → List Nat → List Nat
  | 0, ns => ns
  | f + 1, ns =>
    let left := ns.filter (fun n => es.any (fun e => e.2 == n && ns.contains e.1))
    if left.length = ns.length then ns else onCycles es f left

/-- 0x0009; of a cycle, the first node left that lies on one or after one (DESIGN CHOICE, log entry 93). -/
def checkPonds (d : GDesc) (g : Graph) : Option Bad :=
  let adv := fun (e : INode) => (opnds g e.1).any (fun o => decide (2 ≤ o.t.space) && o.adv != 0)
  let ns := List.range g.nodes.length
  (firstBad 0x0009 (fun e => d.nodeAt e.2) adv g.nodes.zipIdx).or <| (firstBad 0x0009 (fun e => d.pondAt e.2) (fun (e : Pond × Nat) => pondBad g e.2 e.1) g.ponds.zipIdx).or <|
    (onCycles (flowEdges g) ns.length ns).head?.map (fun n => (0x0009, d.nodeAt n))

/-! ### 0x000A to 0x000C -/

/-- A step's accumulator nodes on a seat break R79 or R140. -/
def accBad (a : AccGroup) : Bool :=
  match a.add1 with
  | x :: l =>
    !(l.isEmpty && a.add0.isEmpty && (match a.mma, a.outs with
      | [m], [o] => x.1.count * bits m.1.param 55 48 == m.1.count && o.1.count == x.1.count
      | _, _ => false))
  | [] =>
    (match a.mma ++ a.add0, a.outs with
    | [], [] => false
    | [p], [o] => (if p.1.op = 0x30 then p.1.count / bits p.1.param 55 48 else p.1.count) != o.1.count
    | _, _ => true)

/-- 0x000A: of the first step and seat whose accumulator nodes break the rule, the first of those nodes in the table (DESIGN CHOICE, log entry 93). -/
def checkAcc (d : GDesc) (g : Graph) : Option Bad :=
  ((stepSeats g).find? (fun k => accBad (accGroup g k.1 k.2))).map (fun k =>
    let a := accGroup g k.1 k.2
    (0x000A, d.nodeAt ((a.mma ++ a.add0 ++ a.add1 ++ a.outs).foldl (fun m e => min m e.2) g.nodes.length)))

/-- 0x000B. -/
def checkStations (d : GDesc) (g : Graph) : Option Bad :=
  firstBad 0x000B (fun e => d.nodeAt e.2) (fun (e : INode) =>
    (g.nodes.take e.2).zipIdx.any (fun (f : INode) => f.1.seat == e.1.seat && f.1.op / 16 == e.1.op / 16 && nodeStep g f.2 == nodeStep g e.2)) g.nodes.zipIdx

/-- A scratchpad range that a node uses in a step: step, seat, hull and the spans in it, written, node, pond, record. -/
structure Extent where
  step  : Nat
  seat  : Nat
  lo    : Int
  hi    : Int
  spans : List (Int × Int)
  wr    : Bool
  node  : Nat
  pond  : Option Nat
  off   : Nat

/-- The byte spans of a tile that stands `a` bytes on: its lines, its scale lines. -/
def lineSpans (t : Tile) (a : Int) : List (Int × Int) :=
  (List.range t.lines).map (fun (i : Nat) => let b : Int := (t.addr : Int) + a + ((i * t.stride : Nat) : Int); (b, b + ((t.lineBytes : Nat) : Int))) ++
  (List.range t.scaleLines).map (fun (i : Nat) => let b : Int := ((t.scaleAt a + i * t.sstride : Nat) : Int); (b, b + ((t.blocks : Nat) : Int)))

/-- A node writes an operand: its dst, and the src0 that VECTOR.SOFTMAX overwrites (R81). -/
def writesOpnd (n : Node) (role : Nat) : Bool := role == 0 || (n.op == 0x42 && role == 1)

/-- Scratchpad ranges of a graph's nodes over all their positions, and those of its ponds for the node at each end. -/
def spadExtents (d : GDesc) (g : Graph) : List Extent :=
  g.nodes.zipIdx.flatMap (fun (e : INode) => (opnds g e.1).flatMap (fun o =>
    if o.t.space != 0 then []
    else
      let n := positions e.1 o.role
      let last : Int := ((n - 1 : Nat) : Int) * o.adv
      let hull : List (Int × Int) := (List.zip (extentsAt o.t 0) (extentsAt o.t last)).map (fun x => (min x.1.1 x.2.1, max x.1.1 x.2.1 + ((x.1.2 : Nat) : Int)))
      let spans := (List.range (if o.adv = 0 then 1 else n)).flatMap (fun (p : Nat) => lineSpans o.t ((p : Int) * o.adv))
      hull.map (fun x =>
        { step := nodeStep g e.2, seat := e.1.seat, lo := x.1, hi := x.2, spans := spans.filter (fun y => decide (x.1 ≤ y.1) && decide (y.2 ≤ x.2))
          wr := writesOpnd e.1 o.role, node := e.2, pond := none, off := d.nodeAt e.2 }))) ++
  g.ponds.zipIdx.flatMap (fun (p : Pond × Nat) => match pondEnds g p.2 with
    | some x =>
      let hi : Int := p.1.base + p.1.depth * p.1.bytes
      [x.1, x.2].map (fun y =>
        { step := nodeStep g y.2, seat := p.1.cons, lo := p.1.base, hi := hi, spans := [((p.1.base : Int), hi)], wr := y.2 == x.1.2 || y.1.op == 0x42, node := y.2
          pond := some p.2, off := d.pondAt p.2 })
    | none => [])

/-- One node writes what another node of its step reads or writes on a seat, not through a pond that connects them (R90). -/
def clash (e f : Extent) : Bool :=
  e.step == f.step && e.seat == f.seat && (e.wr || f.wr) && e.node != f.node && !(e.pond.isSome && e.pond == f.pond) && decide (e.lo < f.hi) && decide (f.lo < e.hi) &&
  e.spans.any (fun x => f.spans.any (fun y => decide (x.1 < y.2) && decide (y.1 < x.2)))

/-- 0x000C: a range past 2 MiB, or a clash. -/
def checkHazards (d : GDesc) (g : Graph) : Option Bad :=
  let es := spadExtents d g
  let past := es.find? (fun e => decide (e.lo < 0) || decide (2 ^ 21 < e.hi))
  let hit := es.zipIdx.find? (fun e => (es.take e.2).any (fun f => clash e.1 f))
  match past with
  | some e => some (0x000C, e.off)
  | none => hit.map (fun e => (0x000C, e.1.off))

/-! ### 0x000D to 0x000F -/

/-- Positions of an operand as byte offsets. -/
def offsetsOf (n : Node) (o : Opnd) : List Int := (List.range (if o.adv = 0 then 1 else positions n o.role)).map (fun (p : Nat) => (p : Int) * o.adv)

/-- An operand at some position lies in a mapping of a kind. -/
def opndIn (s : State) (sh : Shell) (g : Graph) (n : Node) (o : Opnd) (kind : Nat) : Bool :=
  (offsetsOf n o).any (fun a => match tileMapping s sh g.nSeats o.t a with | some m => m.1 == kind | none => false)

/-- Status words of a graph (R101). -/
def statusCount (g : Graph) : Nat := (g.nodes.filter (fun n => hasStatus n.op)).foldl (fun k n => k + n.count) 0

/-- A status area obeys Table 3-4: 64-byte aligned, every byte in Memory ranges with `wr`. -/
def statusAreaOk (sh : Shell) (a n : Nat) : Bool :=
  a % 64 == 0 && (n == 0 || (decide (a + 8 * n ≤ 2 ^ 44) && (List.range ((a + 8 * n - 1) / 2 ^ 21 + 1 - a / 2 ^ 21)).all (fun i =>
    match rangeAt sh (a / 2 ^ 21 + i) with | some (_, r) => r.wr | none => false)))

/-- Operands in `space` 0b01. -/
def farOpnds (g : Graph) (n : Node) : List Opnd := (opnds g n).filter (fun o => o.t.space == 1)

/-- A shell with no channel set whose graph uses memory (11 R309): a tile that would lie in the Memory region, code, or status words; the record of the
first such node, else of the first segment (log entry 93). -/
def checkNoSet (sh : Shell) (d : GDesc) (g : Graph) : Option Bad :=
  if !sh.comp.sets.isEmpty then none
  else
    let far := fun (n : Node) => (farOpnds g n).any (fun o => decide (o.t.addr < 2 ^ 44)) || hasStatus n.op
    (firstBad 0x0012 (fun e => d.nodeAt e.2) (fun (e : INode) => far e.1) g.nodes.zipIdx).or <|
      if g.segs.isEmpty then none else some (0x0012, d.segAt 0)

/-- 0x000D: a tile, an operand at a later position, the status area. -/
def checkAddresses (s : State) (sh : Shell) (d : GDesc) (g : Graph) : Option Bad :=
  (checkNoSet sh d g).or <|
  (firstBad 0x000D (fun e => d.tileAt e.2) (fun (e : Tile × Nat) => e.1.space == 1 && (tileMapping s sh g.nSeats e.1 0).isNone) g.tiles.zipIdx).or <|
  (firstBad 0x000D (fun e => d.nodeAt e.2) (fun (e : INode) =>
    (farOpnds g e.1).any (fun o => (offsetsOf e.1 o).any (fun a => (tileMapping s sh g.nSeats o.t a).isNone))) g.nodes.zipIdx).or <|
    if statusAreaOk sh g.statusBase (statusCount g) then none else some (0x000D, 0)

/-- 0x000E: a repetition longer than 40 µs (R57, R93). -/
def checkLong (x : WCtx) (d : GDesc) : Option Bad :=
  firstBad 0x000E (fun e => d.nodeAt e.2) (fun (e : INode) => decide (40000000 < longestRep x e.2 e.1)) x.rg.graph.nodes.zipIdx

/-- 0x000F (R38). -/
def checkHost (s : State) (sh : Shell) (d : GDesc) (g : Graph) : Option Bad :=
  (firstBad 0x000F (fun e => d.tileAt e.2) (fun (e : Tile × Nat) => e.1.space == 1 && (tileMapping s sh g.nSeats e.1 0).any (fun m => m.1 == 2)) g.tiles.zipIdx).or <|
    firstBad 0x000F (fun e => d.nodeAt e.2) (fun (e : INode) => (farOpnds g e.1).any (fun o => opndIn s sh g e.1 o 2)) g.nodes.zipIdx

/-- 0x0010 (R47). -/
def checkSubword (s : State) (sh : Shell) (d : GDesc) (g : Graph) : Option Bad :=
  firstBad 0x0010 (fun e => d.nodeAt e.2) (fun (e : INode) => (farOpnds g e.1).any (fun o =>
    o.role == 0 && opndIn s sh g e.1 o 0 &&
    (o.t.lineBytes % 8 != 0 || (o.t.mx && (o.t.saddr % 8 != 0 || o.t.sstride % 8 != 0 || o.t.blocks % 8 != 0))))) g.nodes.zipIdx

/-! ### Segments: 0x0014 to 0x0018, 0x0011 -/

/-- 0x0014. -/
def checkSegments (d : GDesc) (g : Graph) : Option Bad :=
  let tables := d.segs.map (fun r => (loopOff r, 8 * loopCount r))
  let seg := fun (e : (Segment × GRec) × Nat) =>
    let x := e.1.1
    let n := loopCount e.1.2
    let o := loopOff e.1.2
    x.mask == 0 || decide (2 ^ g.nSeats ≤ x.mask) || decide (64 < n) || x.codeLen == 0 || decide (4096 < x.codeLen) || x.codeAddr % 64 != 0 || decide (2 ^ 44 ≤ x.codeAddr) ||
    (if n = 0 then o != 0
    else o % 8 != 0 || decide (d.head.length < o + 8 * n) || !disjoint ((o, 8 * n) :: d.head.sections) ||
      (tables.take e.2).any (fun t => t.2 != 0 && !(decide (t.1 + t.2 ≤ o) || decide (o + 8 * n ≤ t.1))))
  let entry := fun (e : Segment × GRec) =>
    (e.1.loopTab.zipIdx.find? (fun t => t.1.2 == 0 || decide (e.1.codeLen ≤ t.1.1))).map (fun t => (0x0014, loopOff e.2 + 8 * t.2))
  (firstBad 0x0014 (fun e => d.segAt e.2) seg (g.segs.zip d.segs).zipIdx).or <| ((g.segs.zip d.segs).findSome? entry).or <|
    firstBad 0x0014 (fun e => d.stepAt e.2) (fun (e : StepRec × Nat) => match e.1.seg with | some k => decide (g.segs.length ≤ k) | none => false) g.steps.zipIdx

/-- An unguarded instruction. -/
def Iss.sure (i : Iss) : Bool := i.guard == 7 && !i.gneg

/-- Where an instruction may go on within its function. A CALL goes on after its return; a BRI is followed to its reconvergence point. -/
def codeNext (c : Instr) (pc : Nat) : List Nat :=
  match c with
  | .bra i t _ => if Iss.sure i then [t] else [t, pc + 1]
  | .bri _ _ r => [r]
  | .exitT i => if Iss.sure i then [] else [pc + 1]
  | .ret _ => []
  | _ => [pc + 1]

/-- Instructions reachable from some, without passing `bar`. -/
def reachFrom (code : List Instr) (bar : Option Nat) : Nat → List Nat → List Nat → List Nat
  | 0, seen, _ => seen
  | _ + 1, seen, [] => seen
  | f + 1, seen, n :: todo =>
    if seen.contains n || bar == some n then reachFrom code bar f seen todo
    else
      let next := match code[n]? with | some c => (codeNext c n).filter (fun x => decide (x < code.length)) | none => []
      reachFrom code bar f (n :: seen) (next ++ todo)

/-- The instructions of the function that starts at an index. -/
def bodyOf (code : List Instr) (e : Nat) : List Nat := reachFrom code none (3 * code.length + 3) [] [e]

/-- Call targets of a function. -/
def callsOf (code : List Instr) (e : Nat) : List Nat :=
  ((bodyOf code e).filterMap (fun n => match code[n]? with | some (Instr.call _ t) => some t | _ => none)).eraseDups

/-- Functions entered after `n` nested calls. -/
def callLevel (code : List Instr) : Nat → List Nat
  | 0 => [0]
  | n + 1 => ((callLevel code n).flatMap (callsOf code)).eraseDups

/-- Every function that may run. -/
def functionsOf (code : List Instr) : List Nat := ((List.range 9).flatMap (callLevel code)).eraseDups

/-- A branch leaves the code or reconverges wrongly (07 R206, R208). -/
def targetBad (len pc : Nat) (c : Instr) : Bool :=
  match c with
  | .bra _ t r => decide (len ≤ t) || decide (len ≤ r) || decide (r ≤ pc)
  | .bri _ _ r => decide (len ≤ r)
  | .call _ t => decide (len ≤ t)
  | _ => false

/-- The code of a segment where every word is mapped and decodes. -/
def wholeCode (s : State) (cdom : Nat) (sh : Shell) (x : Segment) : Option (List Instr) :=
  (segCode s cdom sh x).foldr (fun c l => match c, l with | some c, some l => some (c :: l) | _, _ => none) (some [])

/-- An instruction that its graph does not admit (07 R191, R192): BKPT in guaranteed use, a node, field or step that ST.PATCH or ST.SKIP cannot
name (06 R173). -/
def graphRefuses (g : Graph) (guar : Bool) (c : Instr) : Bool :=
  match c with
  | .bkpt _ _ => guar
  | .stPatch _ _ n f =>
    (match g.nodes[n]? with
    | none => true
    | some nd =>
      if f ≤ 1 then nd.op != 0x20 && nd.op != 0x21
      else match g.tiles[if f = 2 then nd.dst else if f = 3 then nd.src0 else nd.src1]? with | some t => t.space != 1 | none => true)
  | .stSkip _ st => decide (g.steps.length ≤ st)
  | _ => false

/-- The entry function reaches a RET, with an empty stack (07 R208): without BRI no code that passes does. -/
def emptyRet (code : List Instr) : Bool :=
  !code.any (fun c => match c with | .bri _ _ _ => true | _ => false) &&
  (bodyOf code 0).any (fun n => match code[n]? with | some (Instr.ret _) => true | _ => false)

/-- 0x0015. -/
def codeBad (s : State) (cdom : Nat) (sh : Shell) (g : Graph) (guar : Bool) (x : Segment) : Bool :=
  match wholeCode s cdom sh x with
  | none => true
  | some code =>
    code.zipIdx.any (fun (e : Instr × Nat) => targetBad code.length e.2 e.1) || !(callLevel code 9).isEmpty || code.any (graphRefuses g guar) || emptyRet code

/-- 0x0016 (06 R156). -/
def checkThreadArea (d : GDesc) (g : Graph) : Option Bad :=
  ((spadExtents d g).find? (fun e => g.segs.any (fun x => bit x.mask e.seat) && decide ((Config.threadArea : Int) < e.hi))).map (fun e => (0x0016, e.off))

/-- Back edges of a function: edges to an instruction that dominates their start. -/
def edgesOf (code : List Instr) (e : Nat) : List (Nat × Nat) :=
  (bodyOf code e).flatMap (fun n => match code[n]? with | some c => ((codeNext c n).filter (fun x => decide (x < code.length))).map (fun x => (n, x)) | none => [])

/-- `v` dominates `u` in the function that starts at `e`. -/
def dominates (code : List Instr) (e v u : Nat) : Bool := v == e || !(reachFrom code (some v) (3 * code.length + 3) [] [e]).contains u

/-- The control flow of a function is irreducible: without its back edges it still has a cycle. -/
def irreducible (code : List Instr) (e : Nat) : Bool :=
  let es := (edgesOf code e).filter (fun x => !(decide (x.2 ≤ x.1) && dominates code e x.2 x.1))
  let ns := bodyOf code e
  !(onCycles es ns.length ns).isEmpty

/-- 0x0017 (R181). -/
def flowBad (code : List Instr) : Bool :=
  code.any (fun c => match c with | .bri _ _ _ => true | _ => false) || (functionsOf code).any (irreducible code)

/-- A GLOBAL store narrower than a word (07 R198), checked with 0x0010. -/
def narrowStore (code : List Instr) : Bool := code.any (fun c => match c with | .st _ _ m => m.glob && decide (m.width < 3) | _ => false)

/-- 0x0018. -/
def copyUnsized (code : List Instr) : Bool := code.any (fun c => match c with | .cpAsync _ _ _ l _ _ => l != .zero | _ => false)

/-- 0x0011: a backward branch that the loop table lacks (02 R32; R179). -/
def loopUnbounded (x : Segment) (code : List Instr) : Bool :=
  code.zipIdx.any (fun (e : Instr × Nat) => match e.1 with | .bra _ t _ => decide (t ≤ e.2) && !x.loopTab.any (fun l => l.1 == e.2) | _ => false)

/-- Runs a test on the code of each segment. -/
def checkCode (k : Nat) (s : State) (cdom : Nat) (sh : Shell) (d : GDesc) (g : Graph) (f : Segment → List Instr → Bool) : Option Bad :=
  firstBad k (fun e => d.segAt e.2) (fun (e : Segment × Nat) => match wholeCode s cdom sh e.1 with | some c => f e.1 c | none => false) g.segs.zipIdx

/-! ### The checks in order (R104, R181) -/

/-- Checks that read only the descriptor, and whether a tile lies in one mapping. -/
def checkStatic (fp : Bool) (split : Tile → Bool) (d : GDesc) (g : Graph) : Option Bad :=
  (checkSteps d g).or <| (checkCrc d).or <| (checkReservedG d).or <| (checkOpcodes d g).or <| (checkTiles fp split d g).or <| (checkParams d g).or <| (checkSeats d g).or <|
    (checkPonds d g).or <| (checkAcc d g).or <| (checkStations d g).or (checkHazards d g)

/-- Checks for guaranteed use (Table 3-9, G). -/
def checkGuar (x : WCtx) (d : GDesc) : Option Bad :=
  let g := x.rg.graph
  (checkHost x.s x.sh d g).or <| (checkSubword x.s x.sh d g).or <|
    (checkCode 0x0010 x.s x.cdom x.sh d g (fun _ c => narrowStore c)).or <| (checkCode 0x0017 x.s x.cdom x.sh d g (fun _ c => flowBad c)).or <|
    (checkCode 0x0018 x.s x.cdom x.sh d g (fun _ c => copyUnsized c)).or <| (checkCode 0x0011 x.s x.cdom x.sh d g loopUnbounded).or <|
    (firstBad 0x0012 (fun e => d.nodeAt e.2) (fun (e : INode) => uncredited x e.2 e.1) g.nodes.zipIdx).or <|
    (firstBad 0x0012 (fun e => d.segAt e.2) (fun (e : Segment × Nat) => segUncredited x e.1) g.segs.zipIdx).or ((milestoneGap x).map (fun i => (0x0013, d.stepAt i)))

/-- Every check of Tables 3-9 and 6-7 for a registration (R390). -/
def checkGraph (x : WCtx) (d : GDesc) : Option Bad :=
  let g := x.rg.graph
  (checkStatic x.rg.accFp32 (tileSplit x.s x.sh g.nSeats) d g).or <| (checkAddresses x.s x.sh d g).or <| (checkLong x d).or <| (checkSegments d g).or <|
    (firstBad 0x0015 (fun e => d.segAt e.2) (fun (e : Segment × Nat) => codeBad x.s x.cdom x.sh g x.rg.guar e.1) g.segs.zipIdx).or <| (checkThreadArea d g).or <|
    if x.rg.guar then checkGuar x d else none

/-! ### Table 13-8 -/

/-- 0x0019: the seat map (R390; 15 R433). -/
def seatMapBad (sh : Shell) (m : List Nat) : Bool :=
  m.any (fun k => decide (sh.comp.seats.length ≤ k) || spareSeat sh k) || m.zipIdx.any (fun e => (m.take e.2).contains e.1)

/-- Input and output tensors of a graph (02 R63): direction, address, format, shape, block scales of its `space` 0b01 tiles. -/
def tensorsOf (g : Graph) : List (Bool × Nat × Nat × Nat × Nat × Bool) :=
  (g.nodes.flatMap (fun n => (farOpnds g n).map (fun o => (o.role == 0, o.t.addr, o.t.fmt, o.t.rows, o.t.cols, o.t.mx)))).eraseDups

/-- Two graphs have the same tensors. -/
def sameTensors (a b : Graph) : Bool := (tensorsOf a).all (fun t => (tensorsOf b).contains t) && (tensorsOf b).all (fun t => (tensorsOf a).contains t)

/-- 0x001A. -/
def fallbackBad (cdom primary : Nat) (g : Graph) (s : State) : Bool :=
  match graphOf cdom primary s with
  | none => true
  | some p => p.gone || p.primary.isSome || p.fallback.isSome || decide (p.graph.nSeats < g.nSeats) || !sameTensors g p.graph

end Sys2Proof.Machine
end

