-- ==== Sys2Proof/Machine/GraphCmds.lean ====
section
/-! DEFINITION. The GRAPH commands (13 T13-4, R385..R391). -/
namespace Sys2Proof.Machine

/-! ### GRAPH.REGISTER (R390) -/

/-- Whether a handle is free: unregistered ones whose commands are not complete still take theirs (R391). -/
def handleFree (d h : Nat) (s : State) : Bool := (graphOf d h s).isNone

/-- The handle of a new registration: the Cox's pick where it is free, else the lowest free one. -/
def newHandle (d pick : Nat) (s : State) : Option Nat :=
  if pick < 0xFFFF && handleFree d pick s then some pick else (List.range 1025).find? (fun h => handleFree d h s)

/-- Status of a read of a descriptor that failed at an offset. -/
def readStatus (d a : Nat) (s : State) : Nat := match (if a < 2 ^ 48 then locate d [] a s else Loc.unmapped) with | .mem _ _ _ | .spad _ _ => stFaultData | _ => stTranslation

/-- Status of a refused check: a reserved field has its own (R390). -/
def graphStatus (b : Bad) : Nat := if b.1 = 0x0004 then stReserved else stGraphRefused

/-- The seat map of a request: a 16-bit field for each graph seat. -/
def seatMapOfReq (r : Req) (n : Nat) : List Nat := (List.range n).map (fun k => r.field (2 + k / 4) (16 * (k % 4) + 15) (16 * (k % 4)))

/-- Registers a graph that passed its checks; a fallback is entered with its primary. -/
def enterGraph (d h : Nat) (g : RegGraph) (s : State) : State :=
  let s := { s with graphs := tabPut (d * 65536 + h) g s.graphs }
  match g.primary with
  | none => s
  | some p => (match graphOf d p s with | some a => { s with graphs := tabPut (d * 65536 + p) { a with fallback := some h } s.graphs } | none => s)

/-- Checks a descriptor that has been read and registers it. -/
def registerDesc (r : Req) (d pick : Nat) (sh : Shell) (de : GDesc) (s : State) : State :=
  let refuseAt := fun (b : Bad) => refuse r.src (graphStatus b) b.1 b.2 s
  let n := de.head.nSeats
  if r.params.length < 16 + 8 * ceilDiv n 4 then respond r.src stBadParam [] s else
  let primary := if r.field 1 31 16 = 0xFFFF then none else some (r.field 1 31 16)
  let g : RegGraph :=
    { graph := de.graph, guar := bit (r.word 1) 0, accFp32 := bit (r.word 1) 1, primary := primary, fallback := none, seatMap := seatMapOfReq r n, wcet := []
      gone := false, goneAt := 0, lostCredit := false }
  let x := wctx s d sh g
  match checkGraph x de with
  | some b => refuseAt b
  | none =>
    if seatMapBad sh g.seatMap then refuseAt (0x0019, 0)
    else if (match primary with | some p => fallbackBad d p de.graph s | none => false) then refuseAt (0x001A, 0)
    else if 1024 ≤ (s.graphs.filter (fun e => decide (e.1 / 65536 = d))).length then respond r.src stNoResource [] s
    else match newHandle d pick s with
      | none => respond r.src stNoResource [] s
      | some h =>
        let w := deriveWcet x
        respond r.src stOK [h, w.getD sh.comp.gop 0 % 2 ^ 32] (enterGraph d h { g with wcet := w } s)

/-- GRAPH.REGISTER (R390; 03 R104; 06 R181): the Cox reads the descriptor in the shell's memory, header first. `pick` is the handle it takes. -/
def execGraphRegister (m : Nat) (pick : Nat) (s : State) : Res :=
  onReq 0x0501 (.mbx m) s (fun r =>
    let d := r.cdom s
    let a := r.word 0
    match shellOf d s with
    | none => respond r.src stBadParam [] s
    | some sh =>
      if a % 64 != 0 then respond r.src stBadParam [] s
      else
        let x := coxRead d a 64 s
        match x.bad with
        | some o => respond r.src (readStatus d (a + o) s) [] x.st
        | none =>
          let h := headOfWords (wordsOf x.bytes 8)
          match checkHead h with
          | some b => refuse r.src (graphStatus b) b.1 b.2 x.st
          | none =>
            let y := coxRead d a h.length x.st
            match y.bad with
            | some o => respond r.src (readStatus d (a + o) s) [] y.st
            | none => registerDesc r d pick sh (descOf h y.bytes) y.st)

/-- GRAPH.UNREGISTER (R391). -/
def execGraphUnregister (src : Src) (s : State) : Res :=
  onReq 0x0502 src s (fun r =>
    let d := r.cdom s
    let h := r.field 0 15 0
    match graphOf d h s with
    | none => respond src stBadHandle [] s
    | some g =>
      if g.gone then respond src stBadHandle [] s
      else respond src stOK [] (unregister d h s))

/-! ### GRAPH.RUN (R387) -/

/-- The inline bytes fall inside one graph-seat window or one mapped range with `wr` (R387; 12 R363). -/
def inlineOk (sh : Shell) (g : Graph) (dst n : Nat) : Bool :=
  dst % 8 == 0 &&
  (if 0x100000000000 ≤ dst && dst < 0x100008000000 then
    (let k := (dst - 0x100000000000) / 2 ^ 21
     decide (k < g.nSeats) && decide (dst % 2 ^ 21 + n ≤ Config.threadArea))
  else
    decide (dst + n ≤ 2 ^ 44) && (match rangeAt sh (dst / 2 ^ 21), rangeAt sh ((dst + n - 1) / 2 ^ 21) with
      | some a, some b => a.1 == b.1 && a.2.wr
      | _, _ => false))

/-- A work command that its queue's entry begins. -/
def newRun (q tenant d : Nat) (e : Entry) (r : Req) : Cmd :=
  { q := q, tenant := tenant, cdom := d, cid := e.cid, irq := e.irq, be := e.be, defer := e.defer, late := e.late, handle := r.field 0 63 48
    inl := e.inl.take e.inlLen, inlDst := r.field 0 47 0, status := r.field 1 47 0, runArgs := if bit (r.word 4) 63 then some (r.word 2, r.word 3) else none
    st := .queued, order := 0, winEnd := 0, guarNow := false, subst := false, substPending := false, void := false, cause := 0, step := 0, inSeg := false
    segDone := false, seatLost := false, fbSeats := none, started := false, startAt := 0, seats := [], skips := [], miles := 0, flagged := 0, stop := 0, park := none
    parkOwed := false }

/-- The first check of R387 that a run fails. -/
def runStatus (d : Nat) (e : Entry) (r : Req) (s : State) : Option Nat :=
  match graphOf d (r.field 0 63 48) s, shellOf d s with
  | some g, some sh =>
    if g.gone then some stBadHandle
    else if !e.be && !g.guar then some stNotGuaranteed
    else if e.inlLen % 8 != 0 || (e.inlLen != 0 && !inlineOk sh g.graph (r.field 0 47 0) e.inlLen) then some stBadParam
    else if r.field 1 47 0 != 0 && !statusAreaOk sh (r.field 1 47 0) (statusCount g.graph) then some stBadParam
    else none
  | _, _ => some stBadHandle

/-- The entry at a queue's head as a request, whatever stands before it waiting for a catch. -/
def headRun (q : Nat) (s : State) : Option (QPair × Entry × Req) :=
  match tabFind q s.qps with
  | none => none
  | some p =>
    match p.entries with
    | e :: _ => if e.code = 0x0503 && !p.ctlBusy then some (p, e, ⟨.queue q, p.tenant, e.body.flatMap (fun w => leBytes w 8)⟩) else none
    | [] => none

/-- GRAPH.RUN (R385, R387; 02 R42): the entry at the head becomes a work command of its queue; a best-effort one with nothing queued before it is
dispatched at once. -/
def execGraphRun (q : Nat) (s : State) : Res :=
  match headRun q s with
  | none => .next s
  | some (p, e, r) =>
    let d := r.cdom s
    match runStatus d e r s with
    | some st => .next (respond r.src st [] s)
    | none =>
      let n := s.nextCmd
      let s := setCmd n (newRun q p.tenant d e r) { s with nextCmd := n + 1 }
      .next (schedule (dispatchFront q s.cmds.length (popEntry q s)))

/-! ### GRAPH.RESUME (R389; 06 R171) -/

/-- A group of a command that is resumed: what stopped it is gone; the one that parked repeats its instruction, or goes on after its BKPT (07 T7-16). -/
def unparked (here : Bool) (r : ParkRec) (g : Group) : Group :=
  let g := { g with stopped := false, stall := 0, park := if here then none else g.park }
  if here && r.code == 0x16 then advance1 g else g

/-- A parked command goes on (06 R171): its parked group as `unparked` says, what it stopped continues where its seats are open. -/
def unpark (n core slot : Nat) (r : ParkRec) (c : Cmd) (s : State) : State :=
  let s := { s with cores := s.cores.map (fun (e : Nat × Core) =>
    let go := fun (x : Nat × Group) => (x.1, if x.2.cmd = n then unparked (e.1 = core && x.1 = slot) r x.2 else x.2)
    (e.1, { e.2 with
      groups := e.2.groups.map go, saved := e.2.saved.map go
      copies := e.2.copies.map (fun (y : Nat × Copy) => (y.1, if y.2.cmd = n then { y.2 with stopped := false } else y.2)) })) }
  let s := spadWrite core (slotBase slot + 0x1E00) (parkBytes slot 0 none) s
  let s := setCmd n { c with st := .running, park := none, parkOwed := false } s
  let s := (placesOf c s).foldl (fun s p => match cmdOf n s with
    | some c => if liveRun c p.1 && !seatOpenBE n c p s then holdSeat n p s else s
    | none => s) s
  (placesOf c s).foldl (fun s p => wakeCtrs p.2.2 s) s

/-- Completes a parked command with its fault status and its park record (R388, R170). -/
def endParked (n core slot : Nat) (r : ParkRec) (s : State) : State := finishWith n stFaultPark (parkWord0 r slot (parkSeat n core slot s)) r.detail s

/-- GRAPH.RESUME (R389). -/
def execGraphResume (src : Src) (s : State) : Res :=
  onReq 0x0504 src s (fun r =>
    let q := r.field 0 11 0
    match tabFind q s.qps with
    | none => respond src stBadParam [] s
    | some p =>
      if tenantShell p.tenant s != r.cdom s then respond src stNotPermitted [] s
      else match s.cmds.find? (fun e => e.2.q == q && e.2.cid == r.field 0 31 16 && e.2.st == .parked) with
        | none => respond src stBadParam [] s
        | some (n, c) =>
          match c.park with
          | none => respond src stBadParam [] s
          | some (core, slot, k) =>
            if r.word 1 % 2 = 0 && replayable k.code then respond src stOK [] (schedule (unpark n core slot k c s))
            else respond src stOK [] (schedule (endParked n core slot k s)))

/-- GRAPH.QUERY (T13-4). -/
def execGraphQuery (m : Nat) (s : State) : Res :=
  onReq 0x0505 (.mbx m) s (fun r =>
    match graphOf (r.cdom s) (r.field 0 15 0) s with
    | none => respond r.src stBadHandle [] s
    | some g =>
      if g.gone then respond r.src stBadHandle [] s
      else respond r.src stOK ((List.range 5).map (fun i => g.wcet.getD i 0) ++ [(if g.guar && !g.lostCredit then 1 else 0) + (g.primary.getD 0xFFFF) * 2 ^ 16]) s)

end Sys2Proof.Machine
end

