-- ==== Sys2Proof/Machine/Manage.lean ====
section
/-! DEFINITION. Management ways into the device: SPDM (17 R500), Stolmon (17 R507, R508) and the TAP (17 R506; 18 R526). -/
namespace Sys2Proof.Machine

/-! ### SPDM (R500): response codes and error codes of DSP0274 (PRESUMED, log entry 54) -/

/-- Negotiation state of a transport. -/
def spdmOf (smbus : Bool) (s : State) : Spdm := if smbus then s.man.spdm1 else s.man.spdm0

/-- Sets it; the other transport keeps its own. -/
def setSpdm (smbus : Bool) (p : Spdm) (s : State) : State := { s with man := if smbus then { s.man with spdm1 := p } else { s.man with spdm0 := p } }

/-- An SPDM answer. -/
def spdmSay (smbus : Bool) (code : Nat) (bytes : List Byte) (s : State) : State := emit (.spdm smbus code bytes) s

/-- ERROR with a code: 1 InvalidRequest, 3 Busy, 4 UnexpectedRequest, 5 Unspecified. -/
def spdmError (smbus : Bool) (code : Nat) (s : State) : State := spdmSay smbus 0x7F [BitVec.ofNat 8 code] s

/-- The transport carries messages: the DOE mailbox is reached once the endpoint answers configuration requests (12 R349). -/
def spdmReached (smbus : Bool) (s : State) : Bool :=
  s.dev.stage != .held && s.dev.stage != .halted && (smbus || (s.host.linkUp && (match s.host.cfgAt with | some t => decide (t ≤ s.now) | none => false)))

/-- A request is served from loader state and from step 5 on; earlier it gets Busy; without a good identity block it gets Unspecified (R499). `ready` says that the negotiation has come far enough. -/
def spdmServe (smbus : Bool) (ready : Spdm → Bool) (s : State) (f : State → State) : Res :=
  if !spdmReached smbus s then .next s
  else if s.dev.stage = .powered || s.dev.stage = .fuses || s.dev.stage = .config then .next (spdmError smbus 3 s)
  else if !s.flash.ident then .next (spdmError smbus 5 s)
  else if !ready (spdmOf smbus s) then .next (spdmError smbus 4 s)
  else .next (f s)

/-- GET_VERSION: SPDM 1.3; the negotiation of this transport starts over. -/
def execGetVersion (smbus : Bool) (s : State) : Res :=
  spdmServe smbus (fun _ => true) s (fun s => spdmSay smbus 0x04 (leBytes 0x1300 2) (setSpdm smbus ⟨true, false, false⟩ s))

/-- GET_CAPABILITIES: CERT_CAP, CHAL_CAP and MEAS_CAP with signature. -/
def execGetCapabilities (smbus : Bool) (s : State) : Res :=
  spdmServe smbus (fun p => p.ver) s (fun s => spdmSay smbus 0x61 (leBytes 0x16 4) (setSpdm smbus { spdmOf smbus s with caps := true } s))

/-- NEGOTIATE_ALGORITHMS: TPM_ALG_RSASSA_3072 and TPM_ALG_SHA_256 only; `offered` says that the requester offers both. -/
def execNegotiateAlgorithms (smbus offered : Bool) (s : State) : Res :=
  spdmServe smbus (fun p => p.caps) s (fun s => spdmSay smbus 0x63 [BitVec.ofNat 8 (b2n offered)] (setSpdm smbus { spdmOf smbus s with algs := offered } s))

/-- GET_DIGESTS: slot 0 alone. -/
def execGetDigests (smbus : Bool) (s : State) : Res :=
  spdmServe smbus (fun p => p.algs) s (fun s => spdmSay smbus 0x01 ((1 : Byte) :: sha256 Config.certChain) s)

/-- GET_CERTIFICATE: a part of the slot-0 chain and how much is left. -/
def execGetCertificate (smbus : Bool) (slot offset len : Nat) (s : State) : Res :=
  spdmServe smbus (fun p => p.algs) s (fun s =>
    let c := Config.certChain
    if slot != 0 || c.length ≤ offset then spdmError smbus 1 s
    else
      let part := (c.drop offset).take len
      spdmSay smbus 0x02 (leBytes part.length 2 ++ leBytes (c.length - offset - part.length) 2 ++ part) s)

/-- CHALLENGE: proves the identity key of slot 0 over the nonce. -/
def execChallenge (smbus : Bool) (slot : Nat) (nonce : List Byte) (s : State) : Res :=
  spdmServe smbus (fun p => p.algs) s (fun s =>
    if slot != 0 then spdmError smbus 1 s
    else spdmSay smbus 0x03 (sha256 Config.certChain ++ Config.spdmBody 0x03 nonce) s)

/-- GET_MEASUREMENTS (R501): index 0 asks for the count, 0xFF for all; with a signature over the nonce when asked. -/
def execGetMeasurements (smbus : Bool) (index : Nat) (signed : Bool) (nonce : List Byte) (s : State) : Res :=
  spdmServe smbus (fun p => p.algs) s (fun s =>
    let l := if index = 0 then [] else if index = 0xFF then [1, 2, 3, 4, 5, 6] else [index]
    if index != 0 && index != 0xFF && 6 < index then spdmError smbus 1 s
    else
      let body := BitVec.ofNat 8 (if index = 0 then 6 else l.length) :: l.flatMap (measBlock s)
      spdmSay smbus 0x60 (body ++ (if signed then Config.spdmBody 0x60 (nonce ++ body) else [])) s)

/-! ### Stolmon (R507, R508) -/

/-- The UART is on: not while the device is held, nor with `stolmon_off`. -/
def stolOn (s : State) : Bool := s.dev.stage != .held && !s.dev.board.stolOff

/-- An `ok` line after a command's values. -/
def stOk (cmd : String) (words : List Nat) (s : State) : State := emit (.line cmd true words) s

/-- An `err` line with a status of 13 T13-10. -/
def stErr (cmd : String) (status : Nat) (s : State) : State := emit (.line cmd false [status]) s

/-- A Stolmon command: a level ends after 10 min without input, and input restarts them (R508); a command above the level is refused. `anywhere` marks the commands of level L, which loader state
and start-up serve too (T17-12). -/
def stCmd (cmd : String) (level : Nat) (anywhere : Bool) (s : State) (f : State → State) : Res :=
  if !stolOn s then .next s
  else
    let s := if s.man.lastIn + Config.sec 600 ≤ s.now then { s with man := { s.man with level := 0 } } else s
    let s := { s with man := { s.man with lastIn := s.now } }
    .next (if s.man.level < level || (!anywhere && s.dev.stage != .released) then stErr cmd stNotPermitted s else f s)

/-- `help`: the commands open at the current level, numbered in the order of T17-12. -/
def execStHelp (s : State) : Res :=
  stCmd "help" 0 true s (fun s =>
    let own := if s.dev.stage = .released then [4, 5, 6] ++ (if 1 ≤ s.man.level then [7, 8, 9, 10, 11, 12, 13] else []) ++ (if 2 ≤ s.man.level then [14] else []) else []
    stOk "help" ([0, 1, 2, 3] ++ own) s)

/-- `id`. -/
def execStId (s : State) : Res := stCmd "id" 0 true s (fun s => stOk "id" [s.fuse.part, s.fuse.stepping, s.fuse.serial, s.dev.board.devId, s.dev.fwVer] s)

/-- `status`. -/
def execStStatus (s : State) : Res :=
  stCmd "status" 0 true s (fun s =>
    stOk "status" ([s.dev.state, s.dev.cause, s.dev.halt, s.dev.op, s.stroke.count, unsigned 16 (tjOf s), s.pwr.power, b2n s.dev.devsec.claimed] ++
      (padTo 32 s.dev.startStat).map (fun b => b.toNat)) s)

/-- `baud c`: the rate after the `ok` line, until the next reset. -/
def execStBaud (code : Nat) (s : State) : Res :=
  stCmd "baud" 0 true s (fun s => if 5 < code then stErr "baud" stBadParam s else (let s := stOk "baud" [] s; { s with man := { s.man with baud := code } }))

/-- Stolmon proofs are refused for 60 s after four failed ones. -/
def stLocked (s : State) : Bool := match s.man.lockAt with | some t => decide (s.now < t + Config.sec 60) | none => false

/-- `unlock l` (R508): prints a nonce of eight groups. An unclaimed device stays at level 0. -/
def execStUnlock (level : Nat) (rnd : List Byte) (s : State) : Res :=
  stCmd "unlock" 0 false s (fun s =>
    if level = 0 || 2 < level then stErr "unlock" stBadParam s
    else if !s.dev.devsec.claimed then stErr "unlock" stNoKey s
    else if stLocked s then stErr "unlock" stLockedOut s
    else
      let n := padTo 32 rnd
      stOk "unlock" ((List.range 8).map (fun i => beNat ((n.drop (4 * i)).take 4))) { s with man := { s.man with chal := some (n, level, s.now) } })

/-- `prove` (R508): within 60 s, once for each nonce. -/
def execStProve (proof : List Byte) (s : State) : Res :=
  stCmd "prove" 0 false s (fun s =>
    match s.man.chal with
    | none => stErr "prove" stWrongState s
    | some (n, l, t) =>
      let s := { s with man := { s.man with chal := none } }
      if t + Config.sec 60 < s.now then stErr "prove" stWrongState s
      else if proof = hmac s.dev.devsec.secret (n ++ leBytes l 1 ++ leBytes s.fuse.serial 8) then stOk "prove" [] { s with man := { s.man with level := l, fails := [] } }
      else
        let l := recent s.now (Config.sec 60) s.man.fails
        let s := if 4 ≤ l.length then logRec (newRec 0x6A 2 0 0) { s with man := { s.man with fails := [], lockAt := some s.now } } else { s with man := { s.man with fails := l } }
        stErr "prove" stProofRefused s)

/-- `lock`. -/
def execStLock (s : State) : Res := stCmd "lock" 0 false s (fun s => stOk "lock" [] { s with man := { s.man with level := 0 } })

/-- STOLMON_LEVEL_TIMEOUT (R508): 10 min without input. -/
def execStLevelTimeout (s : State) : Res :=
  if s.man.level = 0 then .next s
  else .next (let s := untilTime (s.man.lastIn + Config.sec 600) s; { s with man := { s.man with level := 0 } })

/-- Fuse words 0..8 (T17-3). -/
def fuseWords (f : Fuses) : List Nat :=
  let dis := (f.coreDis.zipIdx).foldl (fun a x => if x.2 < 16 then a + x.1 % 32 * 2 ^ (5 * x.2) else a) 0
  [f.part * 2 ^ 48 + f.stepping * 2 ^ 40 + f.serial, dis % 2 ^ 64, dis / 2 ^ 64, f.svnMin, b2n f.prod * 2 ^ 34 + b2n f.jtagOff * 2 ^ 33 + (2 ^ f.claims - 1)] ++
  (List.range 4).map (fun i => leNat (((padTo 32 f.rootHash).drop (8 * i)).take 8))

/-- `fuses` (R489). -/
def execStFuses (s : State) : Res := stCmd "fuses" 1 false s (fun s => stOk "fuses" (fuseWords s.fuse) s)

/-- `log s n` (15 R459): at most 64 records. -/
def execStLog (first n : Nat) (s : State) : Res :=
  stCmd "log" 1 false s (fun s => if 64 < n then stErr "log" stBadParam s else stOk "log" (wordsOf (((logFrom first s).take n).flatMap FRec.bytes) (8 * ((logFrom first s).take n).length)) s)

/-- `sensors`: the values of 16 T16-6. -/
def execStSensors (s : State) : Res :=
  stCmd "sensors" 1 false s (fun s => stOk "sensors" ((List.range 20).map (fun i => (pldmSensor (i + 1) s).getD 0) ++ [effectiveCap s]) s)

/-- `shells`: of each shell `cdom`, seats, channels, GOP, map epoch. -/
def execStShells (s : State) : Res :=
  stCmd "shells" 1 false s (fun s =>
    stOk "shells" (s.shells.flatMap (fun e => [e.1, e.2.comp.seats.length, (e.2.comp.sets.flatMap (fun x => x.2.chans)).length, e.2.comp.gop, e.2.epoch])) s)

/-- The named fields of a board section, in the order of T17-5. -/
def boardFields (b : Board) : List Nat :=
  [b.stroke.period, b.stroke.catchLen, b.stroke.finish, b.stroke.recovery, b.devId, b.pos, b2n b.master, b.regatta, b.members, b2n b.dense, b2n b.rate32, b.powerCap] ++
  [b.sliceDis % 2 ^ 64, b.sliceDis / 2 ^ 64, b.baud, b2n b.selfTest, b2n b.stolOff]

/-- `cfg show`: the fields and the route table. -/
def execStCfgShow (s : State) : Res :=
  stCmd "cfg show" 1 false s (fun s => stOk "cfg show" (boardFields s.dev.board ++ s.dev.board.routes.flatMap (fun e => [e.1, e.2])) s)

/-- Widths of the named fields (T17-5). -/
def fieldWidths : List Nat := [24, 24, 24, 24, 12, 3, 1, 16, 12, 1, 1, 16, 64, 24, 3, 1, 1]

/-- A board section with one named field replaced. -/
def setField (f v : Nat) (b : Board) : Board :=
  match f with
  | 0 => { b with stroke := { b.stroke with period := v } }
  | 1 => { b with stroke := { b.stroke with catchLen := v } }
  | 2 => { b with stroke := { b.stroke with finish := v } }
  | 3 => { b with stroke := { b.stroke with recovery := v } }
  | 4 => { b with devId := v }
  | 5 => { b with pos := v }
  | 6 => { b with master := v == 1 }
  | 7 => { b with regatta := v }
  | 8 => { b with members := v }
  | 9 => { b with dense := v == 1 }
  | 10 => { b with rate32 := v == 1 }
  | 11 => { b with powerCap := v }
  | 12 => { b with sliceDis := b.sliceDis / 2 ^ 64 * 2 ^ 64 + v }
  | 13 => { b with sliceDis := b.sliceDis % 2 ^ 64 + v * 2 ^ 64 }
  | 14 => { b with baud := v }
  | 15 => { b with selfTest := v == 1 }
  | _ => { b with stolOff := v == 1 }

/-- Writes a change into the board copy that is not in use, with the generation raised (R491); earlier changes not yet in force stand (log entry 55). -/
def writeBoard (f : Board → Board) (s : State) : State :=
  let put := fun (old other : Copy2 Board) =>
    let base := if old.gen < other.gen then other.body else old.body
    (⟨true, max old.gen other.gen + 1, f base⟩ : Copy2 Board)
  let one := match boardInUse s.flash with | some (_, first) => first | none => false
  if one then { s with flash := { s.flash with board1 := put s.flash.board0 s.flash.board1 } } else { s with flash := { s.flash with board0 := put s.flash.board1 s.flash.board0 } }

/-- `cfg set f v`: a field of a new board-section copy; it takes effect at the next cold start. -/
def execStCfgSet (field value : Nat) (s : State) : Res :=
  stCmd "cfg set" 1 false s (fun s =>
    match fieldWidths[field]? with
    | none => stErr "cfg set" stBadParam s
    | some w => if 2 ^ w ≤ value || (field = 11 && 2400 < value) || (field = 14 && 5 < value) then stErr "cfg set" stBadParam s else stOk "cfg set" [] (writeBoard (setField field value) s))

/-- `cfg route i w`: a route entry of a new board-section copy. -/
def execStCfgRoute (index : Nat) (entry : W32) (s : State) : Res :=
  stCmd "cfg route" 1 false s (fun s =>
    if 4096 ≤ index || !routeOk { s.dev.board with devId := 4096 } index entry.toNat then stErr "cfg route" stBadParam s
    else stOk "cfg route" [] (writeBoard (fun b => { b with routes := tabSet 0 index entry.toNat b.routes }) s))

/-- `debug open` (R505, R506): refused for good by a fuse; erases tenant keys and records, which ends their sessions and queue pairs. -/
def execStDebugOpen (s : State) : Res :=
  stCmd "debug open" 2 false s (fun s =>
    if s.fuse.jtagOff then stErr "debug open" stNotPermitted s
    else
      let s := (s.tenants.map (fun e => e.1)).foldl (fun s t => removeTenant t s) s
      stOk "debug open" [] (logRec (newRec 0x72 2 0 0) { s with dev := { s.dev with debugOpen := true } }))

/-! ### The TAP (18 R526) -/

/-- A boundary instruction is loaded: the device acts as if DEV_RESET_N were asserted. -/
def tapHold (t : Tap) (s : State) : State :=
  if s.dev.tap = .none' then releasePins (coldReset none { s with dev := { s.dev with tap := t } }) else { s with dev := { s.dev with tap := t } }

/-- EXTEST. -/
def execExtest (s : State) : Res := .next (tapHold .extest s)

/-- CLAMP. -/
def execClamp (s : State) : Res := .next (tapHold .clamp s)

/-- HIGHZ. -/
def execHighz (s : State) : Res := .next (tapHold .highz s)

/-- JTAG_INSTRUCTION_LOAD (R526): another instruction; a device that one of the three held starts at step 1. -/
def execJtagInstructionLoad (s : State) : Res :=
  if s.dev.tap = .none' then .next s
  else
    let s := { s with dev := { s.dev with tap := .none' } }
    if pinsHold s then .next s
    else
      let s := { s with dev := { s.dev with stage := .powered } }
      .next (if s.dev.perst then s else { s with host := { s.host with linkUp := true, cfgAt := some (s.now + Config.ms 100) } })

/-- JTAG_PRIVATE_ACCESS (R506): answers only while `debug_open` is 1. `op` 0 halts the Cox, 1 reads `addr` as many bytes as `bytes` has, 2 writes keel
memory. The spec gives keel memory no layout: what nothing wrote here reads as free values (log entry 53). -/
def execJtagPrivateAccess (op addr : Nat) (bytes : List Byte) (s : State) : Res :=
  if !s.dev.debugOpen then .next s
  else if op = 0 then .next { s with dev := { s.dev with coxHalt := true } }
  else if op = 1 then
    .next (bump (emit (.readData ((List.range bytes.length).map (fun i => (tabFind (addr + i) s.dev.keel).getD (Config.freeByte (s.fresh + i))))) { s with fresh := s.fresh + bytes.length }))
  else if op = 2 then .next { s with dev := { s.dev with keel := (List.range bytes.length).foldl (fun m i => tabPut (addr + i) (bytes.getD i 0) m) s.dev.keel } }
  else .next s

end Sys2Proof.Machine
end

