-- ==== Sys2Proof/Machine/StationMove.lean ====
section
/-! DEFINITION. Stations that move or rearrange data: Intake (R112, R132), Gather (R87, R88), Shape (T3-3, R539), the fill of a pond slot
(R82), and the Vector station (R176, R537..R539). One command is one repetition (R75). -/
namespace Sys2Proof.Machine

/-- The offset of a repetition (R75). -/
def Rep.at' (r : Rep) (adv : Int) : Int := (r.num : Int) * adv

/-! ### Intake -/

/-- The survey value of a copied tile (R132): its scale bytes, the destination's format and tile scale; none leaves the entry unchanged. -/
def surveyOf (t : Tile) (scales : List (List Nat)) : Option Int :=
  let live := (scales.flatMap id).filter (fun b => b != 255)
  let s : Option Int := if !t.mx then some 0 else (live.foldl (fun m b => max m (b + 1)) 0 : Nat) |> fun m => if m = 0 then none else some ((m : Int) - 1 - 127)
  match s, dec32 t.ts with
  | some s, .fin _ x => if x.m = 0 then none else some (s + boundU t.fmt + dyLog x + 1)
  | _, _ => none

/-- Raises an entry of the survey table (R132). -/
def raiseSurvey (key : Nat) (v : Option Int) (q : SeatRun) : SeatRun :=
  match v with
  | none => q
  | some v => { q with survey := tabPut key (match tabFind key q.survey with | some w => max v w | none => v) q.survey }

/-- The anchor that AX128 cells of an input place have (T5-3). -/
def inAnchor (pl : Place) : Int := if pl.pond.isSome && pl.t.amode = 2 then pl.slot.anchor else pl.t.anchor

/-- One repetition of Intake. -/
def intake (survey : Bool) (ext : Ext) (r : Rep) (s : State) : State :=
  match inPlace r r.nd.src0 3 (r.at' r.nd.adv0) s, outPlace r r.nd.dst 2 (r.at' r.nd.advD) s with
  | some src, some dst =>
    let d := readTile r src ext s
    if d.1.bad = 3 then s
    else if d.1.bad != 0 then repFault r d.1.bad (markBits d.1.idx d.1.ecc) d.2.2
    else
      let s := freeSlot r src d.2.2
      let sv := if survey then surveyOf dst.t d.1.scales else none
      let w := writeTile r dst d.1.rows d.1.scales d.1.idx d.1.ecc (if dst.t.amode = 2 then inAnchor src else dst.t.anchor) sv s
      if w.1 != 0 then repFault r w.1 0 w.2
      else
        let s := if survey && dst.pond.isNone then setRun r.cmd r.seat (raiseSurvey (1024 + r.nd.dst) sv (seatRunOf r.cmd r.seat w.2)) w.2 else w.2
        repEnd r s
  | _, _ => s

/-- INTAKE_COPY (R112). -/
def execIntakeCopy (core : Nat) (ext : Ext) (s : State) : Res := onNode core 0x10 s (intake false ext)

/-- INTAKE_SURVEY (R112, R132). -/
def execIntakeSurvey (core : Nat) (ext : Ext) (s : State) : Res := onNode core 0x11 s (intake true ext)

/-- POND_SLOT_FILLED (R82, R132): the producer's last write to the oldest slot that waits is acknowledged; its survey value raises the
consumer's entry. -/
def execPondSlotFilled (cmd pond : Nat) (s : State) : Res :=
  match cmdOf cmd s with
  | none => .next s
  | some c =>
    match cmdGraph c s with
    | none => .next s
    | some rg =>
      let seat := pondSeat rg.graph pond
      let q := runOf c seat
      match q.ponds.find? (fun e => e.1 / 2 ^ 32 == pond && !e.2.landed) with
      | none => .next s
      | some (k, sl) => .next (setRun cmd seat (raiseSurvey pond sl.survey { q with ponds := tabPut k { sl with landed := true } q.ponds }) s)

/-! ### Gather -/

/-- A fetched row: its elements, its scale bytes (one a block, or one a column where blocks lie down the columns), its marks. -/
structure GRow where
  row : List Nat
  sc  : List Nat
  oob : Bool

/-- Scale bytes that travel with a row of a tile. -/
def Tile.rowScales (t : Tile) : Nat := if !t.mx then 0 else if t.saxis then t.cols else t.blocks

/-- The spans of a row of src0 that stands at a byte offset: its elements, the scale bytes of the blocks that they lie in (04 R108, R536). -/
def rowSpans (t : Tile) (pl : Place) : List (Nat × Nat) :=
  (pl.base, t.lineBytes) ::
  (if !t.mx then [] else if t.saxis then (List.range t.cols).map (fun i => (pl.sbase + i * t.sstride, 1)) else [(pl.sbase, t.blocks)])

/-- Fetches a row of src0 at a byte offset, and whether what it reads in the scratchpad carries `idx_oob` (R88). -/
def gatherRow (r : Rep) (t : Tile) (a : Int) (x : RdAcc) : RdAcc × Bool :=
  let pl := tilePlace r t 3 a
  let sp := rowSpans t pl
  let m := if pl.shell then 0 else sp.foldl (blockMarks (seatRunOf r.cmd r.seat x.st).flags) 0
  let y := sp.foldl (readSpan r pl) { x with bytes := [] }
  ({ y with ecc := y.ecc || bit m 1 }, bit m 0)

/-- The rows of a repetition in order (R87, R88); an entry is none where the table does not hold it. -/
def gatherAll (r : Rep) (t : Tile) (limit : Nat) (offs : Nat → Nat → Int) (es : List (Option Nat)) (ext : Ext) (s : State) : List GRow × RdAcc :=
  let zero : Bool → GRow := fun o => ⟨List.replicate t.cols 0, List.replicate t.rowScales 127, o⟩
  es.zipIdx.foldl (fun y e =>
    match e.1 with
    | none => (y.1 ++ [zero true], y.2)
    | some v =>
      if v = 0xFFFFFFFF then (y.1 ++ [zero false], y.2)
      else if limit ≤ v then (y.1 ++ [zero true], y.2)
      else
        let x := gatherRow r t (offs v e.2) y.2
        (y.1 ++ [⟨unpack (fmtBits t.fmt) t.cols (x.1.bytes.take t.lineBytes), (x.1.bytes.drop t.lineBytes).map (fun b => b.toNat), x.2⟩], x.1))
    ([], ⟨[], 0, false, ext, s⟩)

/-- The scale byte of a block whose elements came from blocks with these scale bytes: the one they share, else a free value (entry 36). -/
def blockByte (bs : List Nat) (k : Nat) : Nat :=
  match bs with
  | [] => (Config.freeByte k).toNat
  | x :: xs => if xs.all (fun y => y == x) then x else (Config.freeByte k).toNat

/-- Scale lines of gathered rows (R88, R112): each row's own, or, where blocks lie down the columns, for each column and 32 rows the byte that those rows
carry (entry 36). -/
def gatherScales (t : Tile) (rows : List GRow) (k : Nat) : List (List Nat) :=
  if !t.mx then []
  else if !t.saxis then rows.map (fun x => x.sc)
  else (List.range t.cols).map (fun i => (List.range t.blocks).map (fun b =>
    blockByte (((rows.drop (32 * b)).take 32).map (fun x => x.sc.getD i 127)) (k + i * t.blocks + b)))

/-- A field of a Gather node, patched or not (R173). -/
def gatherField (r : Rep) (field dflt : Nat) : Nat := (tabFind (8 * r.ix + field) (runOf r.c r.seat).patches).getD dflt

/-- One repetition of Gather: `index` is the table index of a row, `offs` the byte offset of an entry in row j. -/
def gather (index : Tile → Nat → Nat) (offs : Tile → Nat → Nat → Int) (ext : Ext) (r : Rep) (s : State) : State :=
  match tileOf r r.nd.src0, inPlace r r.nd.src1 4 0 s, outPlace r r.nd.dst 2 (r.at' r.nd.advD) s with
  | some t, some tab, some dst =>
    let d := readHere r tab s
    if d.1.bad != 0 then repFault r d.1.bad (markBits d.1.idx d.1.ecc) d.2
    else
      let flat := d.1.rows.flatMap id
      let es := (List.range t.rows).map (fun j => flat[index t j]?)
      let g := gatherAll r t (gatherField r 1 (bits r.nd.param 31 0)) (offs t) es ext d.2
      if g.2.bad = 3 then s
      else if g.2.bad != 0 then repFault r g.2.bad 0 g.2.st
      else
        let x := takeFree (if t.mx then t.cols * t.blocks else 0) g.2.st
        let sc := gatherScales t g.1 g.2.st.fresh
        let oob := g.1.any (fun x => x.oob)
        let w := writeTile r dst (g.1.map (fun x => x.row)) sc (d.1.idx || oob) (d.1.ecc || g.2.ecc) 0 none x.2
        if w.1 != 0 then repFault r w.1 0 w.2 else repEnd r w.2
  | _, _, _ => s

/-- GATHER_ROWS (R87): row j of repetition r by entry r × rows + j. -/
def execGatherRows (core : Nat) (ext : Ext) (s : State) : Res :=
  onNode core 0x20 s (fun r => gather (fun t j => r.num * t.rows + j) (fun t e _ => (e * t.stride : Nat)) ext r)

/-- GATHER_PAGED (R87): position p in page p / rpp. -/
def execGatherPaged (core : Nat) (ext : Ext) (s : State) : Res :=
  onNode core 0x21 s (fun r =>
    let ps := bits r.nd.param 63 59
    let pos := gatherField r 0 (bits r.nd.param 55 32)
    let rpp := fun (t : Tile) => max 1 (2 ^ ps / max 1 t.stride)
    gather (fun t j => (pos + r.num * t.rows + j) / rpp t)
      (fun t e j => (e * 2 ^ ps + (pos + r.num * t.rows + j) % rpp t * t.stride : Nat)) ext r)

/-! ### Shape -/

/-- Scale byte of an element of a tile. -/
def scaleOf (t : Tile) (scales : List (List Nat)) (i j : Nat) : Nat :=
  if !t.mx then 127 else if t.saxis then (scales.getD j []).getD (i / 32) 127 else (scales.getD i []).getD (j / 32) 127

/-- Scale lines of a destination whose element (i, j) comes from `src i j`: the byte that a block's elements share; a block whose elements
came from blocks of different scale has no stated byte (entry 36). -/
def shapeScales (t td : Tile) (scales : List (List Nat)) (src : Nat → Nat → Option (Nat × Nat)) (k : Nat) : List (List Nat) :=
  if !td.mx then []
  else
    (List.range td.scaleLines).map (fun i => (List.range td.blocks).map (fun b =>
      blockByte ((List.range 32).filterMap (fun e => (if td.saxis then src (32 * b + e) i else src i (32 * b + e)).map (fun p => scaleOf t scales p.1 p.2)))
        (k + i * td.blocks + b)))

/-- One repetition of Shape: where each element comes from, `pad` elsewhere; elements move bit for bit (R539). -/
def shape (src : Tile → Tile → Nat → Nat → Option (Nat × Nat)) (pad : Rep → Nat) (r : Rep) (s : State) : State :=
  match inPlace r r.nd.src0 3 (r.at' r.nd.adv0) s, outPlace r r.nd.dst 2 (r.at' r.nd.advD) s with
  | some a, some dst =>
    let d := readHere r a s
    if d.1.bad != 0 then repFault r d.1.bad (markBits d.1.idx d.1.ecc) d.2
    else
      let f := src a.t dst.t
      let rows := (List.range dst.t.rows).map (fun i => (List.range dst.t.cols).map (fun j =>
        match f i j with
        | some (x, y) => (d.1.rows.getD x []).getD y 0
        | none => pad r % 2 ^ fmtBits dst.t.fmt))
      let k := d.2.fresh
      let s := (takeFree (dst.t.scaleLines * dst.t.blocks) (freeSlot r a d.2)).2
      let w := writeTile r dst rows (shapeScales a.t dst.t d.1.scales f k) d.1.idx d.1.ecc (inAnchor a) none s
      if w.1 != 0 then repFault r w.1 0 w.2 else repEnd r w.2
  | _, _ => s

/-- SHAPE_TRANSPOSE. -/
def execShapeTranspose (core : Nat) (s : State) : Res := onNode core 0x60 s (shape (fun _ _ i j => some (j, i)) (fun _ => 0))

/-- SHAPE_RESHAPE: element k in row order stays element k (entry 37). -/
def execShapeReshape (core : Nat) (s : State) : Res :=
  onNode core 0x61 s (shape (fun a d i j => let k := i * d.cols + j; some (k / max 1 a.cols, k % max 1 a.cols)) (fun _ => 0))

/-- SHAPE_BROADCAST: `axis` 0 copies one row to every row, 1 one column to every column. -/
def execShapeBroadcast (core : Nat) (s : State) : Res :=
  onNode core 0x62 s (fun r => shape (fun _ _ i j => if bit r.nd.param 63 then some (i, 0) else some (0, j)) (fun _ => 0) r)

/-- SHAPE_PAD: a copy into a larger tile (entry 37). -/
def execShapePad (core : Nat) (s : State) : Res :=
  onNode core 0x63 s (shape (fun a _ i j => if i < a.rows && j < a.cols then some (i, j) else none) (fun r => bits r.nd.param 31 0))

/-! ### Vector -/

/-- An element of an input tile as a Vector node reads it (R539): its FP32 value, or the stored integer. -/
def vIn (fmt : Nat) (ts : W32) (p : Nat) : W32 := if fmt = 0x0B then ofPat p else fmul (readF32 fmt (ofPat p)) ts

/-- An exact value times the reciprocal of the destination's scale, rounded once (R539). -/
def scaledOut (r : Rnd) (fmt : Nat) (ts : W32) (neg : Bool) (x : Dy) : Nat :=
  match ffmtOf fmt, dec32 (recipScale ts) with
  | some f, .fin t y =>
    let z := dyMul x (finDy t y)
    if z.m = 0 then withSign f (neg != t) 0 else roundF r f (decide (z.m < 0)) z
  | some f, k => narrow r f (fmul (rnd32 x neg) (match k with | .inf s => ofPat (infPat fp32 s) | _ => qnan32))
  | none, _ => 0

/-- An FP32 result written to a destination (R175, R539). -/
def vOut (r : Rnd) (fmt : Nat) (ts : W32) (v : W32) : Nat :=
  if fmt = 0x0B then (toInt32 r v).toNat
  else
    match dec32 v with
    | .fin s x => scaledOut r fmt ts s (finDy s x)
    | _ => (match ffmtOf fmt with | some f => narrow r f (fmul v (recipScale ts)) | none => 0)

/-- An integer result written to a destination (R175). -/
def vOutInt (r : Rnd) (fmt : Nat) (ts : W32) (v : W32) : Nat := if fmt = 0x0B then v.toNat else scaledOut r fmt ts false ⟨v.toInt, 0⟩

/-- One element of VECTOR.MAP (R175, R176). -/
def mapElt (func : Nat) (ta tb td : Tile) (scalar : W32) (a b : Nat) : Nat :=
  let two := vfUsesB func
  let num := fun (t : Tile) (p : Nat) => if t.fmt = 0x0B then fofInt (ofPat p).toInt else vIn t.fmt t.ts p
  if ta.fmt = 0x0B && (!two || tb.fmt = 0x0B) && intForm func then vOutInt .nearest td.fmt td.ts (vecInt func (ofPat a) (ofPat b))
  else if func = 0x10 || func = 0x11 then
    let r : Rnd := if func = 0x11 then .toZero else .nearest
    if ta.fmt = 0x0B then vOutInt r td.fmt td.ts (ofPat a) else vOut r td.fmt td.ts (vIn ta.fmt ta.ts a)
  else vOut .nearest td.fmt td.ts (vecF32 func (num ta a) (if two then num tb b else 0) scalar)

/-- VECTOR_MAP (R537). -/
def execVectorMap (core : Nat) (s : State) : Res :=
  onNode core 0x40 s (fun r s =>
    let func := bits r.nd.param 63 56
    let two := vfUsesB func
    match inPlace r r.nd.src0 3 (r.at' r.nd.adv0) s, (if two then inPlace1 r (r.at' r.nd.adv1) s else inPlace r r.nd.src0 3 (r.at' r.nd.adv0) s), outPlace r r.nd.dst 2 (r.at' r.nd.advD) s with
    | some a, some b, some dst =>
      let da := readHere r a s
      let db := if two then readHere r b da.2 else (da.1, da.2)
      if da.1.bad != 0 then repFault r da.1.bad (markBits da.1.idx da.1.ecc) da.2
      else if db.1.bad != 0 then repFault r db.1.bad (markBits db.1.idx db.1.ecc) db.2
      else
        let rows := List.zipWith (fun x y => List.zipWith (mapElt func a.t b.t dst.t (ofPat (bits r.nd.param 31 0))) x y) da.1.rows db.1.rows
        let s := if two then freeSlot r b (freeSlot r a db.2) else freeSlot r a db.2
        let w := writeTile r dst rows [] (da.1.idx || db.1.idx) (da.1.ecc || db.1.ecc) 0 none s
        if w.1 != 0 then repFault r w.1 0 w.2 else repEnd r w.2
    | _, _, _ => s)

/-- One level of the tree of R538: adjacent pairs combined, an odd last value passed on. -/
def treeLevel (f : W32 → W32 → W32) : List W32 → List W32
  | a :: b :: t => f a b :: treeLevel f t
  | l => l

/-- The tree of R538 over at most 2^fuel values. -/
def tree (f : W32 → W32 → W32) : Nat → List W32 → W32
  | 0, l => l.headD 0
  | n + 1, l => (match l with | [x] => x | l => tree f n (treeLevel f l))

/-- A value read as FP32. -/
def vNum (t : Tile) (p : Nat) : W32 := if t.fmt = 0x0B then fofInt (ofPat p).toInt else vIn t.fmt t.ts p

/-- VECTOR_ROWRED (R537, R538). -/
def execVectorRowred (core : Nat) (s : State) : Res :=
  onNode core 0x41 s (fun r s =>
    match inPlace r r.nd.src0 3 (r.at' r.nd.adv0) s, outPlace r r.nd.dst 2 (r.at' r.nd.advD) s with
    | some a, some dst =>
      let d := readHere r a s
      if d.1.bad != 0 then repFault r d.1.bad (markBits d.1.idx d.1.ecc) d.2
      else
        let f := if bits r.nd.param 63 56 = 0 then fmax else fadd
        let rows := d.1.rows.map (fun row => [vOut .nearest dst.t.fmt dst.t.ts (tree f 8 (row.map (vNum a.t)))])
        let w := writeTile r dst rows [] d.1.idx d.1.ecc 0 none (freeSlot r a d.2)
        if w.1 != 0 then repFault r w.1 0 w.2 else repEnd r w.2
    | _, _ => s)

/-- One row of the softmax of R538: the exponentials and the quotients. -/
def softRow (scale : W32) (xs : List W32) : List W32 × List W32 :=
  let ys := xs.map (fun x => fmul x scale)
  let m := tree fmax 12 ys
  let es := ys.map (fun y => fExp2 (fsub y m))
  let t := tree fadd 12 es
  (es, es.map (fun e => fdiv e t))

/-- Splits the columns of rows over the tiles of a span. -/
def splitCols (widths : List Nat) (rows : List (List Nat)) : List (List (List Nat)) :=
  (widths.foldl (fun x w => (x.1 ++ [x.2.map (fun r => r.take w)], x.2.map (fun r => r.drop w))) (([] : List (List (List Nat))), rows)).1

/-- Tile j of the span of this repetition as a position (T3-6): base + (r × span + j) × advance. -/
def spanAt (r : Rep) (j : Nat) (adv : Int) : Int := ((r.num * (bits r.nd.param 63 60 + 1) + j : Nat) : Int) * adv

/-- The slots of a pond that a span of tiles does not fit in are freed one by one as they are read (R82, R83; log entry 92). -/
def spanHolds (r : Rep) : Bool :=
  match tileOf r r.nd.src0 with
  | some t => !(t.space == 2) || (match r.rg.graph.ponds[t.addr % 1024]? with | some p => decide (bits r.nd.param 63 60 + 1 ≤ p.depth) | none => true)
  | none => true

/-- Places the span's source tiles once more, to overwrite them (R81). -/
def spanSrcs (r : Rep) (s : State) : List Place :=
  if spanHolds r then (List.range (bits r.nd.param 63 60 + 1)).filterMap (fun j => inPlaceN r r.nd.src0 3 (spanAt r j r.nd.adv0) j s) else []

/-- The end of a span's reads: the quotients of each row, and the exponentials that overwrite src0 (R81, R538). -/
def softMid (r : Rep) (p : PartTile) (s : State) : State :=
  let outs := p.rows.map (fun row => softRow (ofPat (bits r.nd.param 31 0)) (row.map ofPat))
  let srcs := spanSrcs r s
  let es := splitCols (srcs.map (fun x => x.t.cols)) (outs.map (fun o => o.1.map (fun v => v.toNat)))
  let s := (List.zip srcs es).foldl (fun s x => ((tileBytes x.1 x.2 []).foldl (writeSpan r x.1) (0, s)).2) s
  setPart r { p with rows := outs.map (fun o => o.2.map (fun v => v.toNat)) } (srcs.foldl (fun s x => freeSlot r x s) s)

/-- Takes the span's tiles one by one, then writes its results tile by tile, as far as its ponds let it (R81, R82). -/
def softRun (r : Rep) : Nat → State → State
  | 0, s => s
  | fuel + 1, s =>
    let n := bits r.nd.param 63 60 + 1
    let k := tabGet 0 r.ix (seatRunOf r.cmd r.seat s).part
    let p := partOf r s
    if k < n then
      match inPlaceN r r.nd.src0 3 (spanAt r k r.nd.adv0) (if spanHolds r then k else 0) s with
      | none => s
      | some a =>
        let d := readHere r a s
        if d.1.bad != 0 then repFault r d.1.bad 0 d.2
        else
          let new := d.1.rows.map (fun row => row.map (fun x => (vNum a.t x).toNat))
          let p : PartTile := ⟨if k = 0 then new else List.zipWith (fun x y => x ++ y) p.rows new, p.idx || d.1.idx, p.ecc || d.1.ecc⟩
          let s := addPart r (setPart r p (if spanHolds r then d.2 else freeSlot r a d.2))
          softRun r fuel (if k + 1 = n then softMid r p s else s)
    else
      match outPlace r r.nd.dst 2 (spanAt r (k - n) r.nd.advD) s with
      | none => s
      | some dst =>
        let rows := p.rows.map (fun row => (row.take dst.t.cols).map (fun v => vOut .nearest dst.t.fmt dst.t.ts (ofPat v)))
        let w := writeTile r dst rows [] p.idx p.ecc 0 none s
        if w.1 != 0 then repFault r w.1 0 w.2
        else if k + 1 = 2 * n then repEnd r w.2
        else softRun r fuel (addPart r (setPart r { p with rows := p.rows.map (fun row => row.drop dst.t.cols) } w.2))

/-- VECTOR_SOFTMAX (R81, R538): one repetition, as far as its ponds hold tiles or have room. -/
def execVectorSoftmax (core : Nat) (s : State) : Res := onNode core 0x42 s (fun r s => softRun r (2 * (bits r.nd.param 63 60 + 1)) s)

end Sys2Proof.Machine
end

