-- ==== Sys2Proof/Machine/StationMath.lean ====
section
/-! DEFINITION. Matrix (04 R113..R119), Reduce (05 R139..R141) and Outlet (04 R121..R124; 05 R147..R149), with the accumulator slots that
pass between them (03 R79; 05 R127..R137). -/
namespace Sys2Proof.Machine

def AccSlot.zero : AccSlot :=
  { cells := [], anchor := 0, full := false, contrib := 0, sticky := false, sat := false, nan := false, idx := false, ecc := false, satCells := 0 }

/-- Key of a cell in a slot: row × 128 + column. -/
def cellKey (i j : Nat) : Nat := i * 128 + j

/-- A cell of a slot. -/
def accCell (a : AccSlot) (i j : Nat) : Cell128 := tabGet Cell128.zero (cellKey i j) a.cells

/-- Sets an accumulator slot. -/
def setAcc (r : Rep) (p : Nat) (a : AccSlot) (s : State) : State :=
  let q := seatRunOf r.cmd r.seat s
  setRun r.cmd r.seat { q with acc := tabPut p a q.acc } s

/-- FP32 pattern of a cell in FP32 compatibility mode (R137). -/
def cell32 (c : Cell128) : W32 := BitVec.ofNat 32 (unsigned 32 c.sum)

/-- A cell that holds an FP32 pattern. -/
def ofCell32 (v : W32) : Cell128 := { Cell128.zero with sum := (v.toNat : Int) }

/-- Whether an FP32 pattern is infinite. -/
def isInf32 (v : W32) : Bool := match dec32 v with | .inf _ => true | _ => false

/-- A slot passes to its consumer (R79, R135): patterns formed, flags of T5-2 set, saturated cells counted. -/
def passSlot (fp : Bool) (a : AccSlot) : AccSlot :=
  if fp then { a with full := true, satCells := min 65535 ((a.cells.filter (fun e => isInf32 (cell32 e.2))).length) }
  else
    let fs := a.cells.map (fun e => e.2.form)
    { a with full := true, nan := a.nan || fs.any (fun f => f.2.2.1), sat := a.sat || fs.any (fun f => f.2.2.2),
             satCells := min 65535 ((fs.filter (fun f => f.1 == 1 || f.1 == 2)).length) }

/-! ### Matrix -/

/-- Values of a tile by row (R110); none for a NaN element. -/
def valueRows (t : Tile) (d : TData) : List (List (Option Dy)) :=
  d.rows.zipIdx.map (fun x => x.1.zipIdx.map (fun y => eltValue t.fmt y.1 (scaleOf t d.scales x.2 y.2) t.ts))

/-- Contributions of a row of A and a column of B to a cell (R113, R128), with `sticky`. -/
def dotAx (A : Int) (row col : List (Option Dy)) (c : Cell128) : Cell128 × Bool :=
  (List.zip row col).foldl (fun z p =>
    match p with
    | (some x, some y) => let k := contrib (dyMul x y) A; (z.1.add k.1, z.2 || k.2)
    | _ => (z.1.add Cell128.nanC, z.2)) (c, false)

/-- One FP32 addition of an exact product to a cell (R137). -/
def addF32 (v : W32) (p : Option Dy) : W32 :=
  match dec32 v, p with
  | .nan, _ => qnan32
  | _, none => qnan32
  | .inf _, some _ => v
  | .fin s x, some y => rnd32 (dyAdd (finDy s x) y) false

/-- The FP32 sum of a row and a column in ascending p, and whether the cell became infinite on the way (R137). -/
def dotF32 (row col : List (Option Dy)) (v : W32) : W32 × Bool :=
  (List.zip row col).foldl (fun z p =>
    let v := addF32 z.1 (match p with | (some x, some y) => some (dyMul x y) | _ => none)
    (v, z.2 || isInf32 v)) (v, false)

/-- Adds one tile product into a slot. -/
def mmaTile (fp : Bool) (A : List (List (Option Dy))) (B : List (List (Option Dy))) (slot : AccSlot) : AccSlot :=
  let bad := A.any (fun r => r.any (fun x => x.isNone)) || B.any (fun r => r.any (fun x => x.isNone))
  let cols := (List.range ((B.head?).map (fun r => r.length) |>.getD 0)).map (fun j => B.map (fun r => r.getD j none))
  A.zipIdx.foldl (fun sl x => cols.zipIdx.foldl (fun sl y =>
    let k := cellKey x.2 y.2
    let c := tabGet Cell128.zero k sl.cells
    if fp then
      let z := dotF32 x.1 y.1 (cell32 c)
      { sl with cells := tabSet Cell128.zero k (ofCell32 z.1) sl.cells, sat := sl.sat || z.2, nan := sl.nan || z.1 == qnan32 }
    else
      let z := dotAx slot.anchor x.1 y.1 c
      { sl with cells := tabSet Cell128.zero k z.1 sl.cells, sticky := sl.sticky || z.2 }) sl) { slot with nan := slot.nan || bad }

/-- The survey entry of an operand (R132, R133). -/
def surveyEntry (r : Rep) (ti : Nat) (s : State) : Option Int :=
  match tileOf r ti with
  | none => none
  | some t => tabFind (if t.space = 2 then t.addr % 1024 else 1024 + ti) (seatRunOf r.cmd r.seat s).survey

/-- ceil(log2 n). -/
def clog2 (n : Nat) : Nat := if n ≤ 1 then 0 else (n - 1).log2 + 1

/-- The anchor of a slot that Matrix clears (T5-3, R133); 0 in FP32 compatibility mode, which has none (R131). -/
def mmaAnchor (r : Rep) (k kt chain : Nat) (s : State) : Int :=
  match tileOf r r.nd.dst with
  | none => 0
  | some d =>
    if r.rg.accFp32 then 0
    else if d.amode = 1 then
      match surveyEntry r r.nd.src0 s, surveyEntry r r.nd.src1 s with
      | some a, some b => max (-512) (min 511 (a + b + (clog2 (k * kt * chain) : Nat) - 126))
      | _, _ => -512
    else d.anchor

/-- REDUCE.ADDX of the step on the seat that joins the Matrix node (R140). -/
def joined (r : Rep) : Bool :=
  (stepNodes r.rg.graph r.c.step).any (fun x => x.2.op == 0x50 && x.2.seat == r.seat && bit x.2.param 55)

/-- Adds the tile pairs that are there, up to the end of one repetition (R82, R113). -/
def mmaRun (r : Rep) : Nat → State → State
  | 0, s => s
  | fuel + 1, s =>
    let q := seatRunOf r.cmd r.seat s
    let kt := bits r.nd.param 63 56
    let chain := max 1 (bits r.nd.param 55 48)
    let k := tabGet 0 r.ix q.part
    let num := repsDone q r.ix
    let at' := fun (reuse : Bool) (adv : Int) => (((if reuse then num % chain * kt + k else num * kt + k : Nat)) : Int) * adv
    match inPlace r r.nd.src0 3 (at' (bit r.nd.param 47) r.nd.adv0) s, inPlace1 r (at' (bit r.nd.param 46) r.nd.adv1) s with
    | some pa, some pb =>
      let p := num / chain
      let slot := match accOf r p s with
        | some a => some a
        | none => if q.acc.length < 2 then some { AccSlot.zero with anchor := mmaAnchor r pa.t.cols kt chain s } else none
      match slot with
      | none => s
      | some sl =>
        let da := readHere r pa s
        let db := readHere r pb da.2
        if da.1.bad != 0 then repFault r da.1.bad (markBits da.1.idx da.1.ecc) da.2
        else if db.1.bad != 0 then repFault r db.1.bad (markBits db.1.idx db.1.ecc) db.2
        else
          let sl := mmaTile r.rg.accFp32 (valueRows pa.t da.1) (valueRows pb.t db.1) sl
          let sl := { sl with idx := sl.idx || da.1.idx || db.1.idx, ecc := sl.ecc || da.1.ecc || db.1.ecc }
          let s := freeSlot r pb (freeSlot r pa db.2)
          if k + 1 < kt then mmaRun r fuel (addPart r (setAcc r p sl s))
          else
            let sl := { sl with contrib := sl.contrib + 1 }
            let sl := if sl.contrib = chain && !joined r then passSlot r.rg.accFp32 sl else sl
            repEnd r (setAcc r p sl s)
    | _, _ => s

/-- MATRIX_MMA (R113): one repetition, as far as its ponds hold tiles. -/
def execMatrixMma (core : Nat) (s : State) : Res := onNode core 0x30 s (fun r s => mmaRun r (bits r.nd.param 63 56) s)

/-! ### Reduce -/

/-- Adds a partial tile into a slot (R139; R137 in FP32 mode). -/
def addxTile (fp : Bool) (anchor : Int) (rows : List (List Nat)) (slot : AccSlot) : AccSlot :=
  rows.zipIdx.foldl (fun sl x => x.1.zipIdx.foldl (fun sl y =>
    let k := cellKey x.2 y.2
    let c := tabGet Cell128.zero k sl.cells
    if fp then
      let v := fadd (cell32 c) (BitVec.ofNat 32 y.1)
      { sl with cells := tabSet Cell128.zero k (ofCell32 v) sl.cells, sat := sl.sat || isInf32 v, nan := sl.nan || v == qnan32 }
    else
      let z := reanchor y.1 anchor slot.anchor
      { sl with cells := tabSet Cell128.zero k (c.add z.1) sl.cells, sticky := sl.sticky || z.2 }) sl) slot

/-- Repetitions of Matrix that a slot takes in a joined pair. -/
def pairChain (r : Rep) : Nat :=
  match (stepNodes r.rg.graph r.c.step).find? (fun x => x.2.op == 0x30 && x.2.seat == r.seat) with
  | some x => max 1 (bits x.2.param 55 48)
  | none => 1

/-- Adds the partials that are there, up to the end of one repetition. -/
def addxRun (r : Rep) : Nat → State → State
  | 0, s => s
  | fuel + 1, s =>
    let q := seatRunOf r.cmd r.seat s
    let n := bits r.nd.param 63 56
    let k := tabGet 0 r.ix q.part
    let p := repsDone q r.ix
    let accIn := bit r.nd.param 55
    match inPlace r r.nd.src0 3 0 s with
    | none => s
    | some pa =>
      let slot := match accOf r p s with
        | some a => if accIn then (if a.contrib = pairChain r then some a else none) else some a
        | none =>
          if accIn then none
          else if q.acc.length < 2 then
            some { AccSlot.zero with anchor := (match tileOf r r.nd.dst with | some d => if r.rg.accFp32 then 0 else if d.amode = 2 then inAnchor pa else d.anchor | none => 0) }
          else none
      match slot with
      | none => s
      | some sl =>
        let d := readHere r pa s
        if d.1.bad != 0 then repFault r d.1.bad (markBits d.1.idx d.1.ecc) d.2
        else
          let sl := addxTile r.rg.accFp32 (inAnchor pa) d.1.rows sl
          let sl := { sl with idx := sl.idx || d.1.idx, ecc := sl.ecc || d.1.ecc }
          let s := freeSlot r pa d.2
          if k + 1 < n then addxRun r fuel (addPart r (setAcc r p sl s))
          else repEnd r (setAcc r p (passSlot r.rg.accFp32 sl) s)

/-- REDUCE_ADDX (R139, R140). -/
def execReduceAddx (core : Nat) (s : State) : Res := onNode core 0x50 s (fun r s => addxRun r (bits r.nd.param 63 56) s)

/-- REDUCE.LOGIC on two patterns of `w` bits (R141). -/
def logicElt (op w a b : Nat) : Nat :=
  match op with
  | 0 => a &&& b
  | 1 => a ||| b
  | 2 => a ^^^ b
  | 3 => if signed w b < signed w a then b else a
  | _ => if signed w a < signed w b then b else a

/-- Combines the tiles that are there, up to the end of one repetition. -/
def logicRun (r : Rep) : Nat → State → State
  | 0, s => s
  | fuel + 1, s =>
    let q := seatRunOf r.cmd r.seat s
    let n := bits r.nd.param 63 56
    let k := tabGet 0 r.ix q.part
    match inPlace r r.nd.src0 3 0 s, outPlace r r.nd.dst 2 (r.at' r.nd.advD) s with
    | some pa, some dst =>
      let d := readHere r pa s
      let p := partOf r s
      if d.1.bad != 0 then repFault r d.1.bad (markBits d.1.idx d.1.ecc) d.2
      else
        let w := fmtBits pa.t.fmt
        let rows := if k = 0 then d.1.rows else List.zipWith (fun x y => List.zipWith (logicElt (bits r.nd.param 55 52) w) x y) p.rows d.1.rows
        let p : PartTile := ⟨rows, p.idx || d.1.idx, p.ecc || d.1.ecc⟩
        let s := freeSlot r pa d.2
        if k + 1 < n then logicRun r fuel (addPart r (setPart r p s))
        else
          let x := writeTile r dst rows [] p.idx p.ecc 0 none s
          if x.1 != 0 then repFault r x.1 (markBits p.idx p.ecc) x.2
          else repEnd r (writeStatus r (markBits p.idx p.ecc) x.2)
    | _, _ => s

/-- REDUCE_LOGIC (R141). -/
def execReduceLogic (core : Nat) (s : State) : Res := onNode core 0x51 s (fun r s => logicRun r (bits r.nd.param 63 56) s)

/-! ### Outlet -/

/-- The value of a cell as Outlet takes it (R147); a finite value stands signed. -/
def outValue (fp : Bool) (a : AccSlot) (i j : Nat) : FVal :=
  let c := accCell a i j
  if fp then (match dec32 (cell32 c) with | .fin s x => .fin false (finDy s x) | v => v)
  else
    let f := c.form
    if f.1 = 3 then .nan else .fin false ⟨f.2.1, a.anchor⟩

/-- The fused value (R148). An infinite cell of FP32 mode follows IEEE 754 (entry 38). -/
def fuse (mul : Bool) (c : FVal) (s : Option Dy) : FVal :=
  match c, s with
  | .nan, _ => .nan
  | _, none => .nan
  | .inf g, some y => if !mul then .inf g else if y.m = 0 then .nan else .inf (g != decide (y.m < 0))
  | .fin _ x, some y => .fin false (if mul then dyMul x y else dyAdd x y)

/-- v = value × r (R121). -/
def scaleVal (ts : W32) (v : FVal) : FVal :=
  match v, dec32 (recipScale ts) with
  | .fin _ x, .fin t y => .fin false (dyMul x (finDy t y))
  | .inf g, .fin t _ => .inf (g != t)
  | .inf g, .inf t => .inf (g != t)
  | .fin _ x, .inf t => .inf (decide (x.m < 0) != t)
  | _, _ => .nan

/-- The element of a scaled value, and `ovf_out` (R122, T4-3). -/
def outElt (fmt : Nat) (v : FVal) : Nat × Bool :=
  match v with
  | .nan => (nanElt fmt, false)
  | .inf g => ((convElt fmt ⟨if g then -1 else 1, 1000⟩).1, true)
  | .fin _ x => convElt fmt x

/-- The element of a scaled value in a block (R124, step 4): a result beyond the largest finite value becomes that value with the sign of v, for an integer
format too. -/
def mxElt (fmt : Nat) (v : Dy) : Nat :=
  let e := (convElt fmt v).1
  if (ffmtOf fmt).isNone && e == 2 ^ (fmtBits fmt - 1) then e + 1 else e

/-- One block of 32 scaled values (R124): scale byte, elements, `ovf_out`. -/
def outBlock (fmt : Nat) (vs : List FVal) : Nat × List Nat × Bool :=
  if vs.any (fun v => v == .nan) then (255, vs.map (fun _ => 0), false)
  else
    let inf := vs.any (fun v => match v with | .inf _ => true | _ => false)
    let mags := vs.filterMap (fun v => match v with | .fin _ x => if x.m = 0 then none else some (dyAbs x) | _ => none)
    if !inf && mags.isEmpty then (127, vs.map (fun _ => 0), false)
    else
      let top := mags.foldl (fun m x => max m (dyLog x)) ((mags.head?).map dyLog |>.getD 0)
      let x := top - emaxOf fmt
      let hi := inf || decide (127 < x)
      let X : Int := if hi then 127 else max (-127) x
      ((X + 127).toNat, vs.map (fun v => match v with | .fin _ y => mxElt fmt ⟨y.m, y.e - X⟩ | .inf g => mxElt fmt ⟨if g then -1 else 1, 1000⟩ | .nan => 0), hi)

/-- Chunks of 32. -/
def chunks32 : Nat → List FVal → List (List FVal)
  | 0, _ => []
  | n + 1, l => l.take 32 :: chunks32 n (l.drop 32)

/-- Columns of a table of values. -/
def flipVals (n : Nat) (rows : List (List FVal)) : List (List FVal) := (List.range n).map (fun j => rows.map (fun r => r.getD j .nan))

/-- Converts a tile of values to a destination: element rows, scale lines, `ovf_out` (R121..R124). -/
def outTile (t : Tile) (vals : List (List FVal)) : List (List Nat) × List (List Nat) × Bool :=
  let vs := vals.map (fun r => r.map (scaleVal t.ts))
  if !t.mx then
    let es := vs.map (fun r => r.map (outElt t.fmt))
    (es.map (fun r => r.map (fun e => e.1)), [], es.any (fun r => r.any (fun e => e.2)))
  else
    let ls := if t.saxis then flipVals t.cols vs else vs
    let bs := ls.map (fun l => (chunks32 t.blocks l).map (outBlock t.fmt))
    let es := bs.map (fun l => l.flatMap (fun b => b.2.1))
    (if t.saxis then flipRows t.rows es else es, bs.map (fun l => l.map (fun b => b.1)), bs.any (fun l => l.any (fun b => b.2.2)))

/-- Where an Outlet repetition writes its tile, none while it must wait (R82, R102). -/
def outHere (r : Rep) (s : State) : Option Place :=
  match outPlace r r.nd.dst 2 (r.at' r.nd.advD) s with
  | some pl => if placeBusy r pl s then none else some pl
  | none => none

/-- The end of an Outlet repetition: tile, status word, slot returned, Sampled check (R79, R102, R437). -/
def outEnd (r : Rep) (dst : Place) (rows scales : List (List Nat)) (idx ecc : Bool) (anchor : Int) (st : Nat) (s : State) : State :=
  let w := writeTile r dst rows scales idx ecc anchor none s
  if w.1 != 0 then repFault r w.1 st w.2
  else
    let s := writeStatus r st w.2
    let q := seatRunOf r.cmd r.seat s
    let s := setRun r.cmd r.seat { q with acc := tabDel r.num q.acc, outReps := q.outReps + 1 } s
    repEnd r (openSample r.cmd r.seat r.core q.outReps r.ix r.num r.c q.sampleAt s)

/-- OUTLET_CONVERT (R121..R124, R147). -/
def execOutletConvert (core : Nat) (s : State) : Res :=
  onNode core 0x70 s (fun r s =>
    match outSlot r s, outHere r s with
    | some a, some dst =>
      let o := outTile dst.t ((List.range dst.t.rows).map (fun i => (List.range dst.t.cols).map (outValue r.rg.accFp32 a i)))
      outEnd r dst o.1 o.2.1 a.idx a.ecc 0 (slotStatus a a.sticky a.sat a.nan o.2.2 a.idx a.ecc) s
    | _, _ => s)

/-- OUTLET_FUSED (R148). -/
def execOutletFused (core : Nat) (s : State) : Res :=
  onNode core 0x71 s (fun r s =>
    match outSlot r s, inPlace1 r (r.at' r.nd.adv1) s, outHere r s with
    | some a, some b, some dst =>
      let d := readHere r b s
      if d.1.bad != 0 then repFault r d.1.bad (markBits d.1.idx d.1.ecc) d.2
      else
        let sv := valueRows b.t d.1
        let bad := sv.any (fun row => row.any (fun x => x.isNone))
        let mul := bits r.nd.param 63 60 == 1
        let vals := (List.range dst.t.rows).map (fun i => (List.range dst.t.cols).map (fun j =>
          fuse mul (outValue r.rg.accFp32 a i j) ((sv.getD i []).getD j none)))
        let o := outTile dst.t vals
        outEnd r dst o.1 o.2.1 (a.idx || d.1.idx) (a.ecc || d.1.ecc) 0 (slotStatus a a.sticky a.sat (a.nan || bad) o.2.2 (a.idx || d.1.idx) (a.ecc || d.1.ecc)) (freeSlot r b d.2)
    | _, _, _ => s)

/-- One cell of OUTLET.EXPORT with a destination anchor (R149): pattern, sticky, sat. -/
def exportCell (fp : Bool) (a : AccSlot) (to' : Option Int) (i j : Nat) : Nat × Bool × Bool :=
  let c := accCell a i j
  if fp then ((cell32 c).toNat, false, false)
  else
    let p := patOf c.form
    match to' with
    | none => (p, false, false)
    | some A => let z := reanchor p a.anchor A; let f := z.1.form; (patOf f, z.2, f.2.2.2)

/-- OUTLET_EXPORT (R142, R149). -/
def execOutletExport (core : Nat) (s : State) : Res :=
  onNode core 0x72 s (fun r s =>
    match outSlot r s, outHere r s with
    | some a, some dst =>
      let to' : Option Int := if dst.t.amode = 2 then none else some dst.t.anchor
      let cs := (List.range dst.t.rows).map (fun i => (List.range dst.t.cols).map (exportCell r.rg.accFp32 a to' i))
      let st := cs.any (fun row => row.any (fun c => c.2.1))
      let sat := cs.any (fun row => row.any (fun c => c.2.2))
      outEnd r dst (cs.map (fun row => row.map (fun c => c.1))) [] a.idx a.ecc (to'.getD a.anchor)
        (slotStatus a (a.sticky || st) (a.sat || sat) a.nan false a.idx a.ecc) s
    | _, _ => s)

end Sys2Proof.Machine
end

