-- ==== Sys2Proof/Machine/ThreadCtl.lean ====
section
/-! DEFINITION. Control flow, barriers, station steering and stops of thread groups (06 R157..R174, R179; 07 R203, R205..R211). -/
namespace Sys2Proof.Machine

/-! ### Branches -/

/-- Index in the loop table of the loop whose backward branch stands at `pc`, with its bound. -/
def loopAt (g : Group) (pc : Nat) : Option (Nat × Nat) := (g.loopTab.zipIdx.find? (fun e => e.1.1 == pc)).map (fun e => (e.2, e.1.2))

/-- Counts a taken backward branch (R179): none where it would pass d × (bound − 1); the loop's index. -/
def countLoop (pc target : Nat) (g : Group) : Option Group × Nat :=
  if pc < target then (some g, 0)
  else
    match loopAt g pc with
    | none => (some g, 0)
    | some (k, b) =>
      let n := tabGet 0 k g.loops + 1
      if g.d * (b - 1) < n then (none, k) else (some { g with loops := tabSet 0 k n g.loops }, k)

/-- A taken backward branch of a declared loop is progress (R164). -/
def branched (pc target : Nat) (before after : Group) : Group := if target ≤ pc && (loopAt before pc).isSome then { after with stall := 0 } else after

/-- Adds a meeting point to a path's list; a point already innermost stands. -/
def pushReconv (r : Nat) (l : List Nat) : List Nat := if l.head? = some r then l else r :: l

/-- Splits the running path: the taken lanes enter the path table (R157). -/
def splitPath (target reconv : Nat) (taken : List Nat) (g : Group) : Group :=
  match g.paths with
  | [] => g
  | p :: t =>
    let tm := laneMask taken
    let rs := pushReconv reconv p.reconv
    let a : Path := { mask := p.mask &&& ~~~tm, pc := p.pc + 1, reconv := rs, stack := p.stack, wait := .run }
    let b : Path := { mask := tm, pc := target, reconv := rs, stack := p.stack, wait := .run }
    let g1 := enterLoops p.pc target (enterLoops p.pc (p.pc + 1) g)
    let hit := reconv == p.pc + 1 || reconv == target
    let ps := a :: (if hit then wakeSpun t else t) ++ [b]
    { g1 with paths := if hit then settlePaths ps else ps, issued := if hit then 0 else g.issued + 1, stall := stallStep (hit || leavesLoop p.pc (p.pc + 1) g || leavesLoop p.pc target g) g }

/-- BRA (R206): the guard is the condition; a split beyond the bound parks (R158), and so does a loop beyond its bound (R179). -/
def execBra (i : Iss) (target reconv : Nat) (s : State) : Res :=
  match ready (.bra i target reconv) s with
  | none => .next s
  | some g =>
    let taken := votingLanes g i
    let pc := pcOf g
    let act := match g.paths with | p :: _ => lanesOf p.mask | [] => []
    let put := fun g => Host.Outcome.next (setIssued i g s)
    if taken.isEmpty then put (advance1 g)
    else
      match countLoop pc target g with
      | (none, k) => .next (parkAt i 0x03 0 k s)
      | (some g1, _) =>
        if taken.length = act.length then put (branched pc target g (advance target g1))
        else
          let g2 := splitPath target reconv taken g1
          if g.d < g2.paths.length then .next (parkAt i 0x04 0 0 s) else put (branched pc target g g2)

/-- BRI (R207). -/
def execBri (i : Iss) (r : Sel) (reconv : Nat) (s : State) : Res :=
  match ready (.bri i r reconv) s with
  | none => .next s
  | some g =>
    let t := (rdR g 0 r).toNat % 4096
    if g.code.length ≤ t then .next (parkAt i 0x10 0 0 s)
    else
      match countLoop (pcOf g) t g with
      | (none, k) => .next (parkAt i 0x03 0 k s)
      | (some g1, _) =>
        let g2 := match g1.paths with | p :: ps => { g1 with paths := { p with reconv := pushReconv reconv p.reconv } :: ps } | [] => g1
        .next (setIssued i (branched (pcOf g) t g (advance t g2)) s)

/-- CALL (R208). -/
def execCall (i : Iss) (target : Nat) (s : State) : Res :=
  match ready (.call i target) s with
  | none => .next s
  | some g =>
    match g.paths with
    | [] => .next s
    | p :: ps =>
      if 8 ≤ p.stack.length then .next (parkAt i 0x10 0 0 s)
      else .next (setIssued i (advance target { g with paths := { p with stack := (p.pc + 1) :: p.stack } :: ps }) s)

/-- RET (R208). -/
def execRet (i : Iss) (s : State) : Res :=
  match ready (.ret i) s with
  | none => .next s
  | some g =>
    match g.paths with
    | [] => .next s
    | p :: ps =>
      match p.stack with
      | [] => .next (parkAt i 0x10 0 0 s)
      | r :: rs => .next (setIssued i (advance r { g with paths := { p with stack := rs } :: ps }) s)

/-- EXIT (R209): the voting lanes leave the path; a path without lanes leaves the table, and barriers and segments may end. -/
def execExitT (i : Iss) (s : State) : Res :=
  match ready (.exitT i) s with
  | none => .next s
  | some g =>
    match g.paths with
    | [] => .next s
    | p :: ps =>
      let m := p.mask &&& ~~~(laneMask (votingLanes g i))
      if m = 0 then
        let g1 := { g with paths := settlePaths (wakeSpun ps), issued := 0, stall := 0 }
        .next (endGroup i (barrierCheck i (setIssued i g1 s)))
      else .next (barrierCheck i (setIssued i (advance1 { g with paths := { p with mask := m } :: ps }) s))

/-! ### SPIN -/

/-- The next runnable path of the table in round-robin order runs; the suspended one goes to the table's end (R162). -/
def rotateSpin (g : Group) : Group :=
  match g.paths with
  | [] => g
  | p :: t =>
    match t.find? (fun q => q.wait == .run) with
    | none => g
    | some q => { g with paths := q :: (t.erase q ++ [{ p with wait := .spun }]), issued := 0 }

/-- SPIN (R162). -/
def execSpin (i : Iss) (s : State) : Res :=
  match ready (.spin i) s with
  | none => .next s
  | some g =>
    let g1 := advance1 g
    if (votingLanes g i).isEmpty then .next (setIssued i g1 s)
    else
      let g2 := { g1 with paths := wakeSpun g1.paths }
      let moved := match g.paths, g1.paths with | p :: _, q :: _ => p.mask != q.mask || q.wait != PWait.run | _, _ => true
      if moved then .next (setIssued i g2 s)
      else if g2.paths.tail.any (fun (q : Path) => q.wait == .run) then .next (setIssued i (rotateSpin g2) s)
      else .next (setIssued i { g2 with idle := true } s)

/-- PATH_SWITCH_COUNT (R162): the running path has issued 1,024 instructions; suspended paths become runnable. -/
def execPathSwitchCount (core slot : Nat) (s : State) : Res :=
  match groupOf core slot s with
  | none => .next s
  | some g => if g.issued < 1024 then .next s else .next (setGroup core slot { g with paths := wakeSpun g.paths } s)

/-- SPIN_IDLE_END (R162). -/
def execSpinIdleEnd (core slot : Nat) (s : State) : Res :=
  match groupOf core slot s with
  | none => .next s
  | some g => .next (setGroup core slot { g with idle := false } s)

/-- STALL_TRAP (R160, R161, R165): once the stall count has reached 2^20, or an armed injection makes the trap fire (15 T15-3), the group parks, with BARRIER_DIVERGED while a path waits at a barrier; the stall is recorded (15 T15-3). -/
def execStallTrap (core slot : Nat) (s : State) : Res :=
  match groupOf core slot s with
  | none => .next s
  | some g =>
    let i := takeInj 0x30 (core + slot * 2 ^ 16) s
    if g.park.isSome || g.stopped || (decide (g.stall < 100 * 2 ^ 20) && i.1.isNone) then .next s
    else
      let code := if g.paths.any atBarrier then 0x01 else 0x02
      let r : ParkRec := ⟨code, 0, pcOf g, 0⟩
      let s := logRec { (newRec 0x30 2 4 1).at g.cdom 1 core with inj := i.1.map (fun x => x.num), tenant := (cmdOf g.cmd s).map (fun c => c.tenant), detail := [parkWord0 r slot g.seat, 0] } i.2
      .next (park core slot r s)

/-! ### Barriers -/

/-- The running path waits at a barrier. -/
def waitAt (i : Iss) (w : PWait) (g : Group) (s : State) : Res :=
  match g.paths with
  | [] => .next s
  | p :: ps => .next (barrierCheck i (setIssued i { g with paths := pickPath ({ p with wait := w } :: wakeSpun ps), issued := 0 } s))

/-- BAR.G (R159, R203): a release first, so it waits for the group's accesses (08 R225). -/
def execBarG (i : Iss) (s : State) : Res :=
  match ready (.barG i) s with
  | none => .next s
  | some g =>
    if (votingLanes g i).isEmpty then .next (setIssued i (advance1 g) s)
    else if relHeld i 0 g s then .next s
    else waitAt i .barG g s

/-- BAR.B (R159, R203): a count of 0 means the groups launched on the seat (T7-13); a release
at block scope first (08 R225). -/
def execBarB (i : Iss) (b n : Nat) (s : State) : Res :=
  match ready (.barB i b n) s with
  | none => .next s
  | some g =>
    if (votingLanes g i).isEmpty then .next (setIssued i (advance1 g) s)
    else if relHeld i 1 g s then .next s
    else waitAt i (.barB b (if n = 0 then g.n else n)) g s

/-! ### Station steering -/

/-- Kind of target: 0 Tier F, 1 Tier S, 2 host, 3 peer, 4 scratchpad, 9 not mapped. -/
def tierOf : Loc → Nat
  | .mem d _ _ => if d < Config.tierSBase then 0 else 1
  | .host _ => 2
  | .peer _ _ => 3
  | .spad _ _ => 4
  | .bad => 4
  | .unmapped => 9

/-- Step that holds a node. -/
def stepOfNode (gr : Graph) (n : Nat) : Option Nat := gr.steps.findIdx? (fun t => decide (t.first ≤ n) && decide (n < t.first + t.n))

/-- Whether a patch keeps the rules of R173. -/
def patchOk (g : Group) (c : Cmd) (gr : Graph) (node field v : Nat) (s : State) : Bool :=
  match gr.nodes[node]?, stepOfNode gr node with
  | some nd, some st =>
    let gather := nd.op == 0x20 || nd.op == 0x21
    if nd.seat != g.seat || decide (st ≤ c.step) then false
    else if field ≤ 1 then gather
    else
      match gr.tiles[if field = 2 then nd.dst else if field = 3 then nd.src0 else nd.src1]? with
      | none => false
      | some t => t.space == 1 && v % 64 == 0 && tierOf (groupLoc g v s) != 9 && tierOf (groupLoc g v s) == tierOf (groupLoc g t.addr s)
  | _, _ => false

/-- ST.PATCH (R173, R205). -/
def execStPatch (i : Iss) (a : Sel) (node field : Nat) (s : State) : Res :=
  match ready (.stPatch i a node field) s with
  | none => .next s
  | some g =>
    let v := if field = 0 then (rdR g 0 a).toNat % 2 ^ 24 else if field = 1 then (rdR g 0 a).toNat else rdWide g 0 a 2
    let s' := setIssued i (advance1 g) s
    if (votingLanes g i).isEmpty then .next s'
    else
      match cmdOf g.cmd s with
      | none => .next s
      | some c =>
        match cmdGraph c s, tabFind g.seat c.seats with
        | some rg, some q =>
          if patchOk g c rg.graph node field v s then
            .next (setCmd g.cmd { c with seats := tabPut g.seat { q with patches := tabPut (8 * node + field) v q.patches } c.seats } s')
          else .next (parkAt i 0x08 0 0 s)
        | _, _ => .next (parkAt i 0x08 0 0 s)

/-- ST.SKIP (R174). -/
def execStSkip (i : Iss) (st : Nat) (s : State) : Res :=
  match ready (.stSkip i st) s with
  | none => .next s
  | some g =>
    let s' := setIssued i (advance1 g) s
    if (votingLanes g i).isEmpty then .next s'
    else
      match cmdOf g.cmd s with
      | none => .next s
      | some c => if st ≤ c.step then .next (parkAt i 0x08 0 0 s) else .next (setCmd g.cmd { c with skips := if c.skips.contains st then c.skips else c.skips ++ [st] } s')

/-- BKPT (R211). -/
def execBkpt (i : Iss) (code : BitVec 16) (s : State) : Res :=
  match ready (.bkpt i code) s with
  | none => .next s
  | some g => if (votingLanes g i).isEmpty then .next (setIssued i (advance1 g) s) else .next (parkAt i 0x16 0 code.toNat s)

end Sys2Proof.Machine
end

