-- ==== Sys2Proof/Machine/ThreadInt.lean ====
section
/-! DEFINITION. Integer, predicate and lane instructions of thread groups (07 R190..R194, R199), RDSPEC (R210), RNG.P (06 R178). -/
namespace Sys2Proof.Machine

/-- NOP (R190). -/
def execNop (i : Iss) (s : State) : Res := regOp (.nop i) (fun _ g => g) s

/-- IADD (R193). -/
def execIadd (i : Iss) (d a b : Sel) (s : State) : Res := alu2 (.iadd i d a b) d a b (fun x y => x + y) s

/-- ISUB (R193). -/
def execIsub (i : Iss) (d a b : Sel) (s : State) : Res := alu2 (.isub i d a b) d a b (fun x y => x - y) s

/-- IMUL (R193). -/
def execImul (i : Iss) (d a b : Sel) (s : State) : Res := alu2 (.imul i d a b) d a b (fun x y => x * y) s

/-- IMULHS (R190). -/
def execImulhs (i : Iss) (d a b : Sel) (s : State) : Res :=
  alu2 (.imulhs i d a b) d a b (fun x y => BitVec.ofInt 32 (x.toInt * y.toInt / 2 ^ 32)) s

/-- IMULHU (R190). -/
def execImulhu (i : Iss) (d a b : Sel) (s : State) : Res :=
  alu2 (.imulhu i d a b) d a b (fun x y => BitVec.ofNat 32 (x.toNat * y.toNat / 2 ^ 32)) s

/-- IMACC (R190). -/
def execImacc (i : Iss) (d a b c : Sel) (s : State) : Res := alu3 (.imacc i d a b c) d a b c (fun x y z => x * y + z) s

/-- IMIN (R190). -/
def execImin (i : Iss) (d a b : Sel) (s : State) : Res := alu2 (.imin i d a b) d a b (fun x y => if x.slt y then x else y) s

/-- IMAX (R190). -/
def execImax (i : Iss) (d a b : Sel) (s : State) : Res := alu2 (.imax i d a b) d a b (fun x y => if x.slt y then y else x) s

/-- UMIN (R190). -/
def execUmin (i : Iss) (d a b : Sel) (s : State) : Res := alu2 (.umin i d a b) d a b (fun x y => if x.ult y then x else y) s

/-- UMAX (R190). -/
def execUmax (i : Iss) (d a b : Sel) (s : State) : Res := alu2 (.umax i d a b) d a b (fun x y => if x.ult y then y else x) s

/-- AND (R190). -/
def execAndR (i : Iss) (d a b : Sel) (s : State) : Res := alu2 (.andR i d a b) d a b (fun x y => x &&& y) s

/-- OR (R190). -/
def execOrR (i : Iss) (d a b : Sel) (s : State) : Res := alu2 (.orR i d a b) d a b (fun x y => x ||| y) s

/-- XOR (R190). -/
def execXorR (i : Iss) (d a b : Sel) (s : State) : Res := alu2 (.xorR i d a b) d a b (fun x y => x ^^^ y) s

/-! Shift amounts are unsigned 32-bit values (R193). -/

/-- Left shift: 0 from an amount of 32 on. -/
def shl32 (x y : W32) : W32 := if 32 ≤ y.toNat then 0 else x <<< y.toNat
/-- Zero-filled right shift: 0 from an amount of 32 on. -/
def shr32 (x y : W32) : W32 := if 32 ≤ y.toNat then 0 else x >>> y.toNat
/-- Sign-filled right shift: copies of the sign from an amount of 32 on. -/
def sar32 (x y : W32) : W32 := if 32 ≤ y.toNat then (if x.msb then 0xFFFFFFFF#32 else 0) else x.sshiftRight y.toNat

/-- SHL (R193). -/
def execShl (i : Iss) (d a b : Sel) (s : State) : Res := alu2 (.shl i d a b) d a b shl32 s

/-- SHR (R193). -/
def execShr (i : Iss) (d a b : Sel) (s : State) : Res := alu2 (.shr i d a b) d a b shr32 s

/-- SAR (R193). -/
def execSar (i : Iss) (d a b : Sel) (s : State) : Res := alu2 (.sar i d a b) d a b sar32 s

/-- BCNT (R190). -/
def execBcnt (i : Iss) (d a : Sel) (s : State) : Res := alu1 (.bcnt i d a) d a (fun x => BitVec.ofNat 32 (popCount x.toNat 32)) s

/-- CLZ: 32 for 0 (R193). -/
def execClz (i : Iss) (d a : Sel) (s : State) : Res := alu1 (.clz i d a) d a (fun x => BitVec.ofNat 32 (32 - bitLen x.toNat)) s

/-- MOV (R190). -/
def execMov (i : Iss) (d a : Sel) (s : State) : Res := alu1 (.mov i d a) d a (fun x => x) s

/-- IADD64: a pair plus a sign-extended word, modulo 2^64 (R193). -/
def execIadd64 (i : Iss) (d a b : Sel) (s : State) : Res :=
  regOp (.iadd64 i d a b) (fun ls g => perLane (fun g0 l acc =>
    wrWide l d (unsigned 64 ((rdWide g0 l a 2 : Int) + (rdR g0 l b).toInt)) 2 acc) (effLanes [d, a, b] ls) g) s

/-- MOVI (R190). -/
def execMovi (i : Iss) (d : Sel) (imm : W32) (s : State) : Res := alu1 (.movi i d imm) d .zero (fun _ => imm) s

/-- IADDI (R193). -/
def execIaddi (i : Iss) (d a : Sel) (imm : W32) (s : State) : Res := alu1 (.iaddi i d a imm) d a (fun x => x + imm) s

/-- ANDI (R193). -/
def execAndi (i : Iss) (d a : Sel) (imm : W32) (s : State) : Res := alu1 (.andi i d a imm) d a (fun x => x &&& imm) s

/-- ORI (R193). -/
def execOri (i : Iss) (d a : Sel) (imm : W32) (s : State) : Res := alu1 (.ori i d a imm) d a (fun x => x ||| imm) s

/-- XORI (R193). -/
def execXori (i : Iss) (d a : Sel) (imm : W32) (s : State) : Res := alu1 (.xori i d a imm) d a (fun x => x ^^^ imm) s

/-- SHLI (R193). -/
def execShli (i : Iss) (d a : Sel) (imm : W32) (s : State) : Res := alu1 (.shli i d a imm) d a (fun x => shl32 x imm) s

/-- SHRI (R193). -/
def execShri (i : Iss) (d a : Sel) (imm : W32) (s : State) : Res := alu1 (.shri i d a imm) d a (fun x => shr32 x imm) s

/-- SARI (R193). -/
def execSari (i : Iss) (d a : Sel) (imm : W32) (s : State) : Res := alu1 (.sari i d a imm) d a (fun x => sar32 x imm) s

/-- ICMP (R194). -/
def execIcmp (i : Iss) (d a b c : Sel) (comb cond : Nat) (s : State) : Res :=
  predOp (.icmp i d a b c comb cond) d (fun g l => combine comb (icond cond (rdR g l a) (rdR g l b)) (rdP g l c)) s

/-- ICMPI (R194). -/
def execIcmpi (i : Iss) (d a : Sel) (cond : Nat) (imm : W32) (s : State) : Res :=
  predOp (.icmpi i d a cond imm) d (fun g l => icond cond (rdR g l a) imm) s

/-- PCOMB (R190). -/
def execPcomb (i : Iss) (d a b : Sel) (op : Nat) (s : State) : Res :=
  predOp (.pcomb i d a b op) d (fun g l => pcombOp op (rdP g l a) (rdP g l b)) s

/-- SEL (R190). -/
def execSelP (i : Iss) (d a b c : Sel) (s : State) : Res :=
  regOp (.selP i d a b c) (fun ls g => perLane (fun g0 l acc => wrR l d (if rdP g0 l c then rdR g0 l a else rdR g0 l b) acc) ls g) s

/-- Mask of the voting lanes whose predicate is 1 (R199). -/
def voteMask (g : Group) (a : Sel) (ls : List Nat) : W32 := laneMask (ls.filter (fun l => rdP g l a))

/-- LVOTE: SOME 0, EVERY 1, MASK 2 (R199). -/
def execLvote (i : Iss) (d a : Sel) (kind : Nat) (s : State) : Res :=
  regOp (.lvote i d a kind) (fun ls g => perLane (fun g0 l acc =>
    if kind = 2 then wrR l d (voteMask g0 a ls) acc
    else if kind = 1 then wrP l d (ls.all (fun k => rdP g0 k a)) acc
    else wrP l d (ls.any (fun k => rdP g0 k a)) acc) ls g) s

/-- Source lane of XLANE: PICK 0, BEHIND 1, AHEAD 2, MIRROR 3 (R199). -/
def xlaneSrc (mode lane : Nat) (b : W32) : Int :=
  match mode with
  | 0 => (b.toNat % 32 : Nat)
  | 1 => (lane : Int) - b.toNat
  | 2 => (lane : Int) + b.toNat
  | _ => (lane ^^^ b.toNat : Nat)

/-- XLANE (R199). -/
def execXlane (i : Iss) (d a b : Sel) (k mode : Nat) (s : State) : Res :=
  regOp (.xlane i d a b k mode) (fun ls g => perLane (fun g0 l acc =>
    let j := xlaneSrc mode l (if b = .zero then BitVec.ofNat 32 k else rdR g0 l b)
    let src := if 0 ≤ j ∧ j < 32 ∧ ls.contains j.toNat then j.toNat else l
    wrR l d (rdR g0 src a) acc) (effLanes [d, a, b] ls) g) s

/-- RDSPEC: LANE 0, ACTIVE 1, CYCLE 2, SLOT 3 (R210). CYCLE is a free value; LANE read once into a uniform register is one too (entry 4). -/
def execRdspec (i : Iss) (d : Sel) (which : Nat) (s : State) : Res :=
  let v := Config.freeW32 s.fresh
  if (ready (.rdspec i d which) s).isNone then .next s
  else regOp (.rdspec i d which) (fun ls g => perLane (fun g0 l acc =>
    wrR l d (match which with
      | 0 => if d.isUni then v else BitVec.ofNat 32 l
      | 1 => (match g0.paths with | p :: _ => p.mask | [] => 0)
      | 2 => v
      | _ => BitVec.ofNat 32 i.slot) acc) (effLanes [d] ls) g) (bump s)

/-! ### Philox-4x32-10 (06 R178) -/

/-- One round on four words under a key. -/
def philoxRound (c : W32 × W32 × W32 × W32) (k0 k1 : W32) : W32 × W32 × W32 × W32 :=
  let p0 := 0xD2511F53 * c.1.toNat
  let p1 := 0xCD9E8D57 * c.2.2.1.toNat
  (BitVec.ofNat 32 (p1 / 2 ^ 32) ^^^ c.2.1 ^^^ k0, BitVec.ofNat 32 p1, BitVec.ofNat 32 (p0 / 2 ^ 32) ^^^ c.2.2.2 ^^^ k1, BitVec.ofNat 32 p0)

/-- Rounds with the key stepped after each. -/
def philoxGo : Nat → (W32 × W32 × W32 × W32) → W32 → W32 → W32 × W32 × W32 × W32
  | 0, c, _, _ => c
  | n + 1, c, k0, k1 => philoxGo n (philoxRound c k0 k1) (k0 + 0x9E3779B9#32) (k1 + 0xBB67AE85#32)

/-- The four outputs as one number, lowest word first. -/
def philox (c k : Nat) : Nat :=
  let w := fun i => BitVec.ofNat 32 (c / 2 ^ (32 * i))
  let r := philoxGo 10 (w 0, w 1, w 2, w 3) (BitVec.ofNat 32 k) (BitVec.ofNat 32 (k / 2 ^ 32))
  r.1.toNat + 2 ^ 32 * r.2.1.toNat + 2 ^ 64 * r.2.2.1.toNat + 2 ^ 96 * r.2.2.2.toNat

/-- RNG.P (R178). -/
def execRngP (i : Iss) (d a b : Sel) (s : State) : Res :=
  regOp (.rngP i d a b) (fun ls g => perLane (fun g0 l acc =>
    wrWide l d (philox (rdWide g0 l a 4) (rdWide g0 l b 2)) 4 acc) (effLanes [d, a, b] ls) g) s

end Sys2Proof.Machine
end

