-- ==== Sys2Proof/Machine/ThreadVec.lean ====
section
/-! DEFINITION. VF and FCMP of thread groups (07 R194, R195). -/
namespace Sys2Proof.Machine

/-- VF (R195). -/
def execVf (i : Iss) (d a b c : Sel) (func atype dtype : Nat) (s : State) : Res :=
  regOp (.vf i d a b c func atype dtype) (fun ls g => perLane (fun g0 l acc =>
    let r := fun x => typeIn atype (rdR g0 l x)
    wrR l d (typeOut dtype (rdR g0 l d) (vecFun func (typeFmt atype) (typeFmt dtype) (r a) (r b) (r c))) acc) (effLanes [d, a, b, c] ls) g) s

/-- FCMP (R194). -/
def execFcmp (i : Iss) (d a b c : Sel) (comb cond atype : Nat) (s : State) : Res :=
  predOp (.fcmp i d a b c comb cond atype) d (fun g l =>
    let v := fun x => dec32 (readF32 (typeFmt atype) (typeIn atype (rdR g l x)))
    combine comb (fcond cond (v a) (v b)) (rdP g l c)) s

end Sys2Proof.Machine
end

