-- ==== Sys2Proof/Machine/Dispatch.lean ====
section
/-! DEFINITION. Which meaning each command has: one arm per constructor. -/
namespace Sys2Proof.Machine

/-- A command's effect on everything but the queue. -/
def exec (i : Instr) (s : State) : Host.Outcome State Fault Refusal :=
  match i with
  | .catchBegin => Sys2Proof.Machine.execCatchBegin s
  | .driveBegin => Sys2Proof.Machine.execDriveBegin s
  | .finishInstant => Sys2Proof.Machine.execFinishInstant s
  | .recoveryBegin => Sys2Proof.Machine.execRecoveryBegin s
  | .contextRestore core => Sys2Proof.Machine.execContextRestore core s
  | .calibrationEnd res => Sys2Proof.Machine.execCalibrationEnd res s
  | .fallbackStart cmd => Sys2Proof.Machine.execFallbackStart cmd s
  | .seatStop core => Sys2Proof.Machine.execSeatStop core s
  | .stepBarrier cmd => Sys2Proof.Machine.execStepBarrier cmd s
  | .segmentLaunch cmd => Sys2Proof.Machine.execSegmentLaunch cmd s
  | .intakeCopy core ext => Sys2Proof.Machine.execIntakeCopy core ext s
  | .intakeSurvey core ext => Sys2Proof.Machine.execIntakeSurvey core ext s
  | .gatherRows core ext => Sys2Proof.Machine.execGatherRows core ext s
  | .gatherPaged core ext => Sys2Proof.Machine.execGatherPaged core ext s
  | .matrixMma core => Sys2Proof.Machine.execMatrixMma core s
  | .vectorMap core => Sys2Proof.Machine.execVectorMap core s
  | .vectorRowred core => Sys2Proof.Machine.execVectorRowred core s
  | .vectorSoftmax core => Sys2Proof.Machine.execVectorSoftmax core s
  | .reduceAddx core => Sys2Proof.Machine.execReduceAddx core s
  | .reduceLogic core => Sys2Proof.Machine.execReduceLogic core s
  | .shapeTranspose core => Sys2Proof.Machine.execShapeTranspose core s
  | .shapeReshape core => Sys2Proof.Machine.execShapeReshape core s
  | .shapeBroadcast core => Sys2Proof.Machine.execShapeBroadcast core s
  | .shapePad core => Sys2Proof.Machine.execShapePad core s
  | .outletConvert core => Sys2Proof.Machine.execOutletConvert core s
  | .outletFused core => Sys2Proof.Machine.execOutletFused core s
  | .outletExport core => Sys2Proof.Machine.execOutletExport core s
  | .pondSlotFilled cmd pond => Sys2Proof.Machine.execPondSlotFilled cmd pond s
  | .nop iss => Sys2Proof.Machine.execNop iss s
  | .iadd iss d a b => Sys2Proof.Machine.execIadd iss d a b s
  | .isub iss d a b => Sys2Proof.Machine.execIsub iss d a b s
  | .imul iss d a b => Sys2Proof.Machine.execImul iss d a b s
  | .imulhs iss d a b => Sys2Proof.Machine.execImulhs iss d a b s
  | .imulhu iss d a b => Sys2Proof.Machine.execImulhu iss d a b s
  | .imacc iss d a b c => Sys2Proof.Machine.execImacc iss d a b c s
  | .imin iss d a b => Sys2Proof.Machine.execImin iss d a b s
  | .imax iss d a b => Sys2Proof.Machine.execImax iss d a b s
  | .umin iss d a b => Sys2Proof.Machine.execUmin iss d a b s
  | .umax iss d a b => Sys2Proof.Machine.execUmax iss d a b s
  | .andR iss d a b => Sys2Proof.Machine.execAndR iss d a b s
  | .orR iss d a b => Sys2Proof.Machine.execOrR iss d a b s
  | .xorR iss d a b => Sys2Proof.Machine.execXorR iss d a b s
  | .shl iss d a b => Sys2Proof.Machine.execShl iss d a b s
  | .shr iss d a b => Sys2Proof.Machine.execShr iss d a b s
  | .sar iss d a b => Sys2Proof.Machine.execSar iss d a b s
  | .bcnt iss d a => Sys2Proof.Machine.execBcnt iss d a s
  | .clz iss d a => Sys2Proof.Machine.execClz iss d a s
  | .mov iss d a => Sys2Proof.Machine.execMov iss d a s
  | .iadd64 iss d a b => Sys2Proof.Machine.execIadd64 iss d a b s
  | .movi iss d imm => Sys2Proof.Machine.execMovi iss d imm s
  | .iaddi iss d a imm => Sys2Proof.Machine.execIaddi iss d a imm s
  | .andi iss d a imm => Sys2Proof.Machine.execAndi iss d a imm s
  | .ori iss d a imm => Sys2Proof.Machine.execOri iss d a imm s
  | .xori iss d a imm => Sys2Proof.Machine.execXori iss d a imm s
  | .shli iss d a imm => Sys2Proof.Machine.execShli iss d a imm s
  | .shri iss d a imm => Sys2Proof.Machine.execShri iss d a imm s
  | .sari iss d a imm => Sys2Proof.Machine.execSari iss d a imm s
  | .icmp iss d a b c comb cond => Sys2Proof.Machine.execIcmp iss d a b c comb cond s
  | .icmpi iss d a cond imm => Sys2Proof.Machine.execIcmpi iss d a cond imm s
  | .pcomb iss d a b op => Sys2Proof.Machine.execPcomb iss d a b op s
  | .selP iss d a b c => Sys2Proof.Machine.execSelP iss d a b c s
  | .lvote iss d a kind => Sys2Proof.Machine.execLvote iss d a kind s
  | .xlane iss d a b k mode => Sys2Proof.Machine.execXlane iss d a b k mode s
  | .vf iss d a b c func atype dtype => Sys2Proof.Machine.execVf iss d a b c func atype dtype s
  | .fcmp iss d a b c comb cond atype => Sys2Proof.Machine.execFcmp iss d a b c comb cond atype s
  | .ld iss d m => Sys2Proof.Machine.execLd iss d m s
  | .st iss d m => Sys2Proof.Machine.execSt iss d m s
  | .atom iss a w64 aop => Sys2Proof.Machine.execAtom iss a w64 aop s
  | .addxI iss a pst psa => Sys2Proof.Machine.execAddxI iss a pst psa s
  | .addxF iss a pst psa => Sys2Proof.Machine.execAddxF iss a pst psa s
  | .barG iss => Sys2Proof.Machine.execBarG iss s
  | .barB iss b n => Sys2Proof.Machine.execBarB iss b n s
  | .memfence iss scope kind => Sys2Proof.Machine.execMemfence iss scope kind s
  | .cpAsync iss a b c sectors ctr => Sys2Proof.Machine.execCpAsync iss a b c sectors ctr s
  | .ctrSet iss a ctr v => Sys2Proof.Machine.execCtrSet iss a ctr v s
  | .ctrWait iss a ctr v => Sys2Proof.Machine.execCtrWait iss a ctr v s
  | .ctrRd iss d ctr => Sys2Proof.Machine.execCtrRd iss d ctr s
  | .stPatch iss a node field => Sys2Proof.Machine.execStPatch iss a node field s
  | .stSkip iss step => Sys2Proof.Machine.execStSkip iss step s
  | .bra iss target reconv => Sys2Proof.Machine.execBra iss target reconv s
  | .bri iss r reconv => Sys2Proof.Machine.execBri iss r reconv s
  | .call iss target => Sys2Proof.Machine.execCall iss target s
  | .ret iss => Sys2Proof.Machine.execRet iss s
  | .exitT iss => Sys2Proof.Machine.execExitT iss s
  | .spin iss => Sys2Proof.Machine.execSpin iss s
  | .rngP iss d a b => Sys2Proof.Machine.execRngP iss d a b s
  | .rdspec iss d which => Sys2Proof.Machine.execRdspec iss d which s
  | .bkpt iss code => Sys2Proof.Machine.execBkpt iss code s
  | .pathSwitchCount core slot => Sys2Proof.Machine.execPathSwitchCount core slot s
  | .spinIdleEnd core slot => Sys2Proof.Machine.execSpinIdleEnd core slot s
  | .stallTrap core slot => Sys2Proof.Machine.execStallTrap core slot s
  | .accessResponse core slot ext => Sys2Proof.Machine.execAccessResponse core slot ext s
  | .copySectorDone core copyId sector ext => Sys2Proof.Machine.execCopySectorDone core copyId sector ext s
  | .rds agent line mask cdom => Sys2Proof.Machine.execRds agent line mask cdom s
  | .rdn agent line mask cdom => Sys2Proof.Machine.execRdn agent line mask cdom s
  | .own agent line cdom => Sys2Proof.Machine.execOwn agent line cdom s
  | .push agent line cdom bytes => Sys2Proof.Machine.execPush agent line cdom bytes s
  | .wb agent line => Sys2Proof.Machine.execWb agent line s
  | .evict agent line => Sys2Proof.Machine.execEvict agent line s
  | .directRead da addr len cdom => Sys2Proof.Machine.execDirectRead da addr len cdom s
  | .directWrite da addr cdom bytes => Sys2Proof.Machine.execDirectWrite da addr cdom bytes s
  | .data agent line => Sys2Proof.Machine.execData agent line s
  | .grant agent line => Sys2Proof.Machine.execGrant agent line s
  | .pushreq agent line => Sys2Proof.Machine.execPushreq agent line s
  | .snpinv agent line => Sys2Proof.Machine.execSnpinv agent line s
  | .snpshr agent line => Sys2Proof.Machine.execSnpshr agent line s
  | .snpcur agent line => Sys2Proof.Machine.execSnpcur agent line s
  | .snpfwd agent line => Sys2Proof.Machine.execSnpfwd agent line s
  | .snoopResponse agent line => Sys2Proof.Machine.execSnoopResponse agent line s
  | .grantack agent line => Sys2Proof.Machine.execGrantack agent line s
  | .wback agent line => Sys2Proof.Machine.execWback agent line s
  | .pushack agent line => Sys2Proof.Machine.execPushack agent line s
  | .coherenceError agent line => Sys2Proof.Machine.execCoherenceError agent line s
  | .atomicUnitOp line => Sys2Proof.Machine.execAtomicUnitOp line s
  | .dramReadReturn req src unit word => Sys2Proof.Machine.execDramReadReturn req src unit word s
  | .readMergeWrite dpa bytes => Sys2Proof.Machine.execReadMergeWrite dpa bytes s
  | .memTransferRetry req isRead dpa fails => Sys2Proof.Machine.execMemTransferRetry req isRead dpa fails s
  | .scrub dpa => Sys2Proof.Machine.execScrub dpa s
  | .cacheScrub src unit word => Sys2Proof.Machine.execCacheScrub src unit word s
  | .mirrorLineCopy cdom range line => Sys2Proof.Machine.execMirrorLineCopy cdom range line s
  | .channelClearDone ch => Sys2Proof.Machine.execChannelClearDone ch s
  | .wayClean slice unit way => Sys2Proof.Machine.execWayClean slice unit way s
  | .substitutionCopyDone cdom => Sys2Proof.Machine.execSubstitutionCopyDone cdom s
  | .rebindDrainDone cdom => Sys2Proof.Machine.execRebindDrainDone cdom s
  | .seatMoveDone cdom seat => Sys2Proof.Machine.execSeatMoveDone cdom seat s
  | .rebindComplete cdom => Sys2Proof.Machine.execRebindComplete cdom s
  | .forcedDrain cdom => Sys2Proof.Machine.execForcedDrain cdom s
  | .handoverTimeout cdom set => Sys2Proof.Machine.execHandoverTimeout cdom set s
  | .bar4Read x len rid atomicOp => Sys2Proof.Machine.execBar4Read x len rid atomicOp s
  | .bar4Write x rid bytes => Sys2Proof.Machine.execBar4Write x rid bytes s
  | .barBadAccess bar isRead => Sys2Proof.Machine.execBarBadAccess bar isRead s
  | .registerWrite loc offset size value => Sys2Proof.Machine.execRegisterWrite loc offset size value s
  | .ridCheckSet check rid => Sys2Proof.Machine.execRidCheckSet check rid s
  | .hostResume => Sys2Proof.Machine.execHostResume s
  | .hostAbandon => Sys2Proof.Machine.execHostAbandon s
  | .mbxGo m => Sys2Proof.Machine.execMbxGo m s
  | .sqDoorbell q tail => Sys2Proof.Machine.execSqDoorbell q tail s
  | .cqDoorbell q head => Sys2Proof.Machine.execCqDoorbell q head s
  | .sqEntryFetch q ext => Sys2Proof.Machine.execSqEntryFetch q ext s
  | .sqEntryReread q ext => Sys2Proof.Machine.execSqEntryReread q ext s
  | .completionWrite q => Sys2Proof.Machine.execCompletionWrite q s
  | .parkReportWrite q cid => Sys2Proof.Machine.execParkReportWrite q cid s
  | .msixHoldExpiry q => Sys2Proof.Machine.execMsixHoldExpiry q s
  | .msixUnmask loc vec => Sys2Proof.Machine.execMsixUnmask loc vec s
  | .hostLoss cause => Sys2Proof.Machine.execHostLoss cause s
  | .pcieLinkRetrain => Sys2Proof.Machine.execPcieLinkRetrain s
  | .pcieCompletionTimeout req => Sys2Proof.Machine.execPcieCompletionTimeout req s
  | .ownerClaim m rnd => Sys2Proof.Machine.execOwnerClaim m rnd s
  | .ownerTenantAdd m => Sys2Proof.Machine.execOwnerTenantAdd m s
  | .ownerTenantRemove m => Sys2Proof.Machine.execOwnerTenantRemove m s
  | .ownerTenantKey m => Sys2Proof.Machine.execOwnerTenantKey m s
  | .ownerSecret m rnd => Sys2Proof.Machine.execOwnerSecret m rnd s
  | .ownerFloor m => Sys2Proof.Machine.execOwnerFloor m s
  | .ownerReinstate m => Sys2Proof.Machine.execOwnerReinstate m s
  | .sessionOpen m rnd => Sys2Proof.Machine.execSessionOpen m rnd s
  | .sessionProve m rnd => Sys2Proof.Machine.execSessionProve m rnd s
  | .sessionClose m => Sys2Proof.Machine.execSessionClose m s
  | .shellCreate m desc pick => Sys2Proof.Machine.execShellCreate m desc pick s
  | .shellRebind m desc => Sys2Proof.Machine.execShellRebind m desc s
  | .shellDestroy m => Sys2Proof.Machine.execShellDestroy m s
  | .shellRelease src => Sys2Proof.Machine.execShellRelease src s
  | .shellAcquire m => Sys2Proof.Machine.execShellAcquire m s
  | .shellQuery src => Sys2Proof.Machine.execShellQuery src s
  | .memoryMap src pick => Sys2Proof.Machine.execMemoryMap src pick s
  | .memoryUnmap src => Sys2Proof.Machine.execMemoryUnmap src s
  | .memoryDiscard src => Sys2Proof.Machine.execMemoryDiscard src s
  | .memoryRetire m => Sys2Proof.Machine.execMemoryRetire m s
  | .memorySeal src => Sys2Proof.Machine.execMemorySeal src s
  | .memoryUnseal src => Sys2Proof.Machine.execMemoryUnseal src s
  | .memoryRebuild src => Sys2Proof.Machine.execMemoryRebuild src s
  | .memoryAperture src => Sys2Proof.Machine.execMemoryAperture src s
  | .memoryCopy q ext => Sys2Proof.Machine.execMemoryCopy q ext s
  | .memoryFence q => Sys2Proof.Machine.execMemoryFence q s
  | .graphRegister m pick => Sys2Proof.Machine.execGraphRegister m pick s
  | .graphUnregister src => Sys2Proof.Machine.execGraphUnregister src s
  | .graphRun q => Sys2Proof.Machine.execGraphRun q s
  | .graphResume src => Sys2Proof.Machine.execGraphResume src s
  | .graphQuery m => Sys2Proof.Machine.execGraphQuery m s
  | .strokeConfigure m => Sys2Proof.Machine.execStrokeConfigure m s
  | .strokeStatus src => Sys2Proof.Machine.execStrokeStatus src s
  | .strokeCalendar src => Sys2Proof.Machine.execStrokeCalendar src s
  | .queueCreate m pick token rnd => Sys2Proof.Machine.execQueueCreate m pick token rnd s
  | .queueDelete m => Sys2Proof.Machine.execQueueDelete m s
  | .queueReset m => Sys2Proof.Machine.execQueueReset m s
  | .faultRead m => Sys2Proof.Machine.execFaultRead m s
  | .faultInject m => Sys2Proof.Machine.execFaultInject m s
  | .faultClear m => Sys2Proof.Machine.execFaultClear m s
  | .faultTest m => Sys2Proof.Machine.execFaultTest m s
  | .powerCap m => Sys2Proof.Machine.execPowerCap m s
  | .powerStatus src => Sys2Proof.Machine.execPowerStatus src s
  | .powerHint q => Sys2Proof.Machine.execPowerHint q s
  | .attestQuote m => Sys2Proof.Machine.execAttestQuote m s
  | .attestCert m => Sys2Proof.Machine.execAttestCert m s
  | .firmwareInfo src => Sys2Proof.Machine.execFirmwareInfo src s
  | .firmwareWrite m flashOk => Sys2Proof.Machine.execFirmwareWrite m flashOk s
  | .firmwareVerify m => Sys2Proof.Machine.execFirmwareVerify m s
  | .recoveryLoad m flashOk => Sys2Proof.Machine.execRecoveryLoad m flashOk s
  | .recoveryStatus m => Sys2Proof.Machine.execRecoveryStatus m s
  | .debugRead m => Sys2Proof.Machine.execDebugRead m s
  | .debugAttr m => Sys2Proof.Machine.execDebugAttr m s
  | .flitReceive link flit => Sys2Proof.Machine.execFlitReceive link flit s
  | .idleFlitSend link => Sys2Proof.Machine.execIdleFlitSend link s
  | .replayLimit link => Sys2Proof.Machine.execReplayLimit link s
  | .laneDegrade link lane => Sys2Proof.Machine.execLaneDegrade link lane s
  | .linkRetrainDone link width partner => Sys2Proof.Machine.execLinkRetrainDone link width partner s
  | .retrainTimeout link => Sys2Proof.Machine.execRetrainTimeout link s
  | .linkHeartbeat link => Sys2Proof.Machine.execLinkHeartbeat link s
  | .linkTrainingDone link width partner regatta => Sys2Proof.Machine.execLinkTrainingDone link width partner regatta s
  | .remoteRead link msg => Sys2Proof.Machine.execRemoteRead link msg s
  | .remoteWrite link msg => Sys2Proof.Machine.execRemoteWrite link msg s
  | .countedCopySector link msg => Sys2Proof.Machine.execCountedCopySector link msg s
  | .remoteAtom link msg => Sys2Proof.Machine.execRemoteAtom link msg s
  | .remoteAddx link msg => Sys2Proof.Machine.execRemoteAddx link msg s
  | .remoteData msg => Sys2Proof.Machine.execRemoteData msg s
  | .remoteAck msg => Sys2Proof.Machine.execRemoteAck msg s
  | .remoteError msg => Sys2Proof.Machine.execRemoteError msg s
  | .remoteTimeout tag => Sys2Proof.Machine.execRemoteTimeout tag s
  | .beacon link b => Sys2Proof.Machine.execBeacon link b s
  | .strokeStep => Sys2Proof.Machine.execStrokeStep s
  | .beaconMiss => Sys2Proof.Machine.execBeaconMiss s
  | .strokeSync offset => Sys2Proof.Machine.execStrokeSync offset s
  | .strokeSyncMiss => Sys2Proof.Machine.execStrokeSyncMiss s
  | .retract link r => Sys2Proof.Machine.execRetract link r s
  | .coxMessage link m => Sys2Proof.Machine.execCoxMessage link m s
  | .coreProbe core answered => Sys2Proof.Machine.execCoreProbe core answered s
  | .coreProgress core => Sys2Proof.Machine.execCoreProgress core s
  | .ctrlParity ukind unit => Sys2Proof.Machine.execCtrlParity ukind unit s
  | .coxLockstep => Sys2Proof.Machine.execCoxLockstep s
  | .coxWatchdog => Sys2Proof.Machine.execCoxWatchdog s
  | .snoopTimeout agent line => Sys2Proof.Machine.execSnoopTimeout agent line s
  | .ucieCrc half fails retrained => Sys2Proof.Machine.execUcieCrc half fails retrained s
  | .pairedSignature core sig => Sys2Proof.Machine.execPairedSignature core sig s
  | .pairedSignatureTimeout core => Sys2Proof.Machine.execPairedSignatureTimeout core s
  | .sampledCheck core expected observed => Sys2Proof.Machine.execSampledCheck core expected observed s
  | .injectLapsed n => Sys2Proof.Machine.execInjectLapsed n s
  | .scanDone passed => Sys2Proof.Machine.execScanDone passed s
  | .rollingTest ways unit => Sys2Proof.Machine.execRollingTest ways unit s
  | .latentScanOverdue core => Sys2Proof.Machine.execLatentScanOverdue core s
  | .fenceDrainTimeout rdom unit => Sys2Proof.Machine.execFenceDrainTimeout rdom unit s
  | .coreReset core => Sys2Proof.Machine.execCoreReset core s
  | .dieReset die => Sys2Proof.Machine.execDieReset die s
  | .shellReset cdom => Sys2Proof.Machine.execShellReset cdom s
  | .domainReset cdom => Sys2Proof.Machine.execDomainReset cdom s
  | .deviceWarmReset => Sys2Proof.Machine.execDeviceWarmReset s
  | .deviceColdReset => Sys2Proof.Machine.execDeviceColdReset s
  | .vrAlert group ns => Sys2Proof.Machine.execVrAlert group ns s
  | .vrAlertEnd => Sys2Proof.Machine.execVrAlertEnd s
  | .supplyWarn group => Sys2Proof.Machine.execSupplyWarn group s
  | .supplyHoldEnd => Sys2Proof.Machine.execSupplyHoldEnd s
  | .supplyReset group => Sys2Proof.Machine.execSupplyReset group s
  | .thermalSample sensor reading => Sys2Proof.Machine.execThermalSample sensor reading s
  | .throttleStep => Sys2Proof.Machine.execThrottleStep s
  | .throttleRise => Sys2Proof.Machine.execThrottleRise s
  | .weirTick watts arith => Sys2Proof.Machine.execWeirTick watts arith s
  | .opClockSwitch => Sys2Proof.Machine.execOpClockSwitch s
  | .capFloorRepeat => Sys2Proof.Machine.execCapFloorRepeat s
  | .pmbusPoll readings => Sys2Proof.Machine.execPmbusPoll readings s
  | .hintFillerRaise cdom => Sys2Proof.Machine.execHintFillerRaise cdom s
  | .getSensorReading id => Sys2Proof.Machine.execGetSensorReading id s
  | .getNumericEffecterValue id => Sys2Proof.Machine.execGetNumericEffecterValue id s
  | .setNumericEffecterValue id value => Sys2Proof.Machine.execSetNumericEffecterValue id value s
  | .getPdr handle => Sys2Proof.Machine.execGetPdr handle s
  | .devResetNAssert ns => Sys2Proof.Machine.execDevResetNAssert ns s
  | .powerGood => Sys2Proof.Machine.execPowerGood s
  | .fuseLoad fuseOk keelOk badSlices => Sys2Proof.Machine.execFuseLoad fuseOk keelOk badSlices s
  | .configRead => Sys2Proof.Machine.execConfigRead s
  | .imageVerify flashOk => Sys2Proof.Machine.execImageVerify flashOk s
  | .coxBoot => Sys2Proof.Machine.execCoxBoot s
  | .memoryTraining okF okS => Sys2Proof.Machine.execMemoryTraining okF okS s
  | .hardwareFill => Sys2Proof.Machine.execHardwareFill s
  | .coreSelfTest failed => Sys2Proof.Machine.execCoreSelfTest failed s
  | .release => Sys2Proof.Machine.execRelease s
  | .getVersion smbus => Sys2Proof.Machine.execGetVersion smbus s
  | .getCapabilities smbus => Sys2Proof.Machine.execGetCapabilities smbus s
  | .negotiateAlgorithms smbus offered => Sys2Proof.Machine.execNegotiateAlgorithms smbus offered s
  | .getDigests smbus => Sys2Proof.Machine.execGetDigests smbus s
  | .getCertificate smbus slot offset len => Sys2Proof.Machine.execGetCertificate smbus slot offset len s
  | .challenge smbus slot nonce => Sys2Proof.Machine.execChallenge smbus slot nonce s
  | .getMeasurements smbus index signed nonce => Sys2Proof.Machine.execGetMeasurements smbus index signed nonce s
  | .stHelp => Sys2Proof.Machine.execStHelp s
  | .stId => Sys2Proof.Machine.execStId s
  | .stStatus => Sys2Proof.Machine.execStStatus s
  | .stBaud code => Sys2Proof.Machine.execStBaud code s
  | .stUnlock level rnd => Sys2Proof.Machine.execStUnlock level rnd s
  | .stProve proof => Sys2Proof.Machine.execStProve proof s
  | .stLock => Sys2Proof.Machine.execStLock s
  | .stLevelTimeout => Sys2Proof.Machine.execStLevelTimeout s
  | .stFuses => Sys2Proof.Machine.execStFuses s
  | .stLog first n => Sys2Proof.Machine.execStLog first n s
  | .stSensors => Sys2Proof.Machine.execStSensors s
  | .stShells => Sys2Proof.Machine.execStShells s
  | .stCfgShow => Sys2Proof.Machine.execStCfgShow s
  | .stCfgSet field value => Sys2Proof.Machine.execStCfgSet field value s
  | .stCfgRoute index entry => Sys2Proof.Machine.execStCfgRoute index entry s
  | .stDebugOpen => Sys2Proof.Machine.execStDebugOpen s
  | .extest => Sys2Proof.Machine.execExtest s
  | .clamp => Sys2Proof.Machine.execClamp s
  | .highz => Sys2Proof.Machine.execHighz s
  | .jtagInstructionLoad => Sys2Proof.Machine.execJtagInstructionLoad s
  | .jtagPrivateAccess op addr bytes => Sys2Proof.Machine.execJtagPrivateAccess op addr bytes s
  | .vrAlertNDeassert group => Sys2Proof.Machine.execVrAlertNDeassert group s
  | .supplyReturn group => Sys2Proof.Machine.execSupplyReturn group s
  | .dramTemperatureRead readings => Sys2Proof.Machine.execDramTemperatureRead readings s
  | .perstNDeassert => Sys2Proof.Machine.execPerstNDeassert s
  | .sealComplete cdom range => Sys2Proof.Machine.execSealComplete cdom range s
  | .strokeConfigureNoAnswer => Sys2Proof.Machine.execStrokeConfigureNoAnswer s

end Sys2Proof.Machine
end

