-- ==== Sys2Proof/Machine/Step.lean ====
section
/-! DEFINITION. One step: the command at the front of the queue, or one idle step of 10 ns (entries 1, 3). -/
namespace Sys2Proof.Machine

/-- Takes the command at the front and runs it on the state with the queue's rest; an empty queue lets 10 ns pass. -/
def step (s : State) : Host.Outcome State Fault Refusal :=
  match s.pending with
  | [] => .next (idleNow s)
  | c :: rest => exec c { s with pending := rest }

/-- Puts the command that a table word spells at the front; no table word spells one. -/
def State.withFetchWord (s : State) (nbits w : Nat) : State :=
  match decodeTableWord nbits w with
  | none => s
  | some c => { s with pending := c :: s.pending }

end Sys2Proof.Machine
end

