-- ==== Sys2Proof/Safety.lean ====
section
/-! DEFINITION. The terms in which the statements speak: canonical forms of the tables, what a thread instruction may change in its group,
what a control command's answer leaves, and the invariant that every step keeps. -/
namespace Sys2Proof.Machine

/-! ### Canonical forms -/

/-- The register tables of a group are in canonical form. -/
abbrev Group.wf (g : Group) : Prop := tabWf 0 g.g = true ∧ tabWf 0 g.u = true ∧ tabWf 0 g.p = true

/-- A core's tables are in canonical form, and so are its groups, waiting ones and saved ones. -/
def Core.wf (k : Core) : Prop :=
  keysFrom 0 k.groups = true ∧ tabWf 0 k.ctr = true ∧ (∀ e ∈ k.groups, e.2.wf) ∧ (∀ e ∈ k.saved, e.2.wf) ∧
  (∀ x ∈ k.ctxs, tabWf 0 x.2.ctr = true ∧ ∀ e ∈ x.2.groups, e.2.wf)

/-- Both byte memories are in canonical form. -/
abbrev State.memWf (s : State) : Prop := Memory.wf s.mem.dram = true ∧ Memory.wf s.mem.spad = true

/-- No word of a memory is flawed or poisoned and no injection waits. -/
abbrev State.flawless (s : State) : Prop := s.mem.tags = [] ∧ s.flt.injs = []

/-! ### Thread instructions -/

/-- Nothing of a group but its general registers, its uniform registers and its place in the code differs. -/
def sameButRegs (g g' : Group) : Prop :=
  g' = { g with g := g'.g, u := g'.u, loops := g'.loops, paths := g'.paths, issued := g'.issued, stall := g'.stall }

/-- Nothing of a group but its predicates and its place in the code differs. -/
def sameButPreds (g g' : Group) : Prop :=
  g' = { g with p := g'.p, loops := g'.loops, paths := g'.paths, issued := g'.issued, stall := g'.stall }

/-- Nothing of a group but its place in the code differs. -/
def sameButPlace (g g' : Group) : Prop :=
  g' = { g with loops := g'.loops, paths := g'.paths, issued := g'.issued, stall := g'.stall }

/-- Register `r` of lane `l` after an instruction with destination `d` that gives lane `k` the value `v k`: the voting lanes of a general
register, once a uniform register if a lane votes, nothing for ZERO (R183, R185, R186). -/
def afterWord (g : Group) (i : Iss) (d : Sel) (v : Nat → W32) (l : Nat) (r : Sel) : W32 :=
  if r = d then
    match d with
    | .g _ => if l ∈ votingLanes g i then v l else rdR g l r
    | .u _ => (match votingLanes g i with | [] => rdR g l r | k :: _ => v k)
    | _ => rdR g l r
  else rdR g l r

/-- A ready instruction that writes one word: it completes, its destination holds `v` where it takes effect, every other register, every
predicate and all else of the group and of the machine stay; `st` is what the machine itself does beside it. -/
def wordRow (c : Instr) (d : Sel) (st : State → State) (v : State → Group → Nat → W32) : Prop :=
  ∀ s g, ready c s = some g → g.wf → c.codeOk = true →
    ∃ g', exec c s = .next (setIssued (issOf c) g' (st s)) ∧ sameButRegs g g' ∧
      ∀ l r, l < 32 → rdR g' l r = afterWord g (issOf c) d (v s g) l r

/-- A ready instruction that writes `k` words (2 a pair, 4 a quad): the words of its destination hold `v` in the voting lanes, or once for a
uniform one, and every other register stays. -/
def wideRow (c : Instr) (d : Sel) (k : Nat) (v : Group → Nat → Nat) : Prop :=
  ∀ s g, ready c s = some g → g.wf → c.codeOk = true →
    ∃ g', exec c s = .next (setIssued (issOf c) g' s) ∧ sameButRegs g g' ∧
      (∀ l ∈ votingLanes g (issOf c), rdWide g' l d k = v g l % 2 ^ (32 * k)) ∧
      (∀ l r, l < 32 → (∀ j, j < k → r ≠ selNext d j) → rdR g' l r = rdR g l r) ∧
      (∀ l, l < 32 → l ∉ votingLanes g (issOf c) → d.isUni = false → ∀ r, rdR g' l r = rdR g l r)

/-- A ready instruction that writes a predicate: it holds `v` in the voting lanes (p7 keeps reading 1), and all else stays. -/
def predRow (c : Instr) (d : Sel) (v : Group → Nat → Bool) : Prop :=
  ∀ s g, ready c s = some g → g.wf → c.codeOk = true →
    ∃ g', exec c s = .next (setIssued (issOf c) g' s) ∧ sameButPreds g g' ∧
      ∀ l r, l < 32 → rdP g' l r = if r = d ∧ r ≠ .p 7 ∧ l ∈ votingLanes g (issOf c) then v g l else rdP g l r

/-- The running path does not reach its meeting point by going to `pc`. -/
abbrev noMeet (p : Path) (pc : Nat) : Prop := p.reconv.head? ≠ some pc

/-! ### Coherence -/

/-- A line at which no transaction is open and nothing waits. -/
abbrev idleLine (line : Nat) (s : State) : Prop :=
  tabFind line s.coh.open' = none ∧ tabGet [] line s.coh.queue = [] ∧ tabGet [] line s.coh.atoms = []

/-- A request of an agent for a domain is served: the agent's die is not fenced, the domain has not failed and owns the line's channel, the
line is idle, and a directory credit of the agent's kind is free in its set (R267, T9-9). -/
abbrev served (agent line cdom : Nat) (s : State) : Prop :=
  agentFenced agent s = false ∧ cdom ∉ s.coh.failing ∧ hasCredit line cdom s = true ∧ idleLine line s ∧ (dirOf line s).dstate ≠ .failed ∧
  creditsUsed line (agentClass agent) s < creditCap (agentClass agent)

/-- What a read at the home leaves where no word is flawed, no injection waits and the line's channel answers: memory, home cache and fault log (R257; 10 R290). -/
def quietRead (line : Nat) (s t : State) : Prop :=
  s.flawless → fencedAt (line * 512) s = false → t.mem = s.mem ∧ t.coh.home = s.coh.home ∧ t.flt = s.flt

/-! ### Stations -/

/-- The elements that a fetched row's bytes spell (R106). -/
def StationBytes.row (t : Tile) (bytes : List Byte) : List Nat := unpack (fmtBits t.fmt) t.cols (bytes.take t.lineBytes)

/-- A repetition's outcome: where its tile can be written, the tile is written at its place with its marks and the repetition counts. -/
def stored (r : Rep) (dst : Place) (rows scales : List (List Nat)) (idx ecc : Bool) (anchor : Int) (survey : Option Int) (s : State) (o : Res) : Prop :=
  (writeTile r dst rows scales idx ecc anchor survey s).1 = 0 → o = .next (repEnd r (writeTile r dst rows scales idx ecc anchor survey s).2)

end Sys2Proof.Machine
end

