-- ==== Sys2Proof/Certificates/Slice0/Obligations.lean ====
section
/-! DEFINITION. The statements for the provers. Each says what the spec's rules give; a clause that rests on a choice of the model names its log entry. -/
open Sys2Proof Sys2Proof.Machine

/-! ### Thread groups: integer, predicate and lane instructions (07) -/

/-- R193: integer results wrap modulo 2^32, shifts take unsigned amounts, CLZ of 0 is 32, IADD64 wraps modulo 2^64, immediates are 32-bit
patterns; R185, R186, R188 say where and from what. -/
def Obligations.IntegerResults : Prop :=
  (∀ i d a b, wordRow (.iadd i d a b) d id (fun _ g l => BitVec.ofNat 32 ((rdR g l a).toNat + (rdR g l b).toNat))) ∧
  (∀ i d a b, wordRow (.isub i d a b) d id (fun _ g l => BitVec.ofInt 32 ((rdR g l a).toNat - (rdR g l b).toNat))) ∧
  (∀ i d a b, wordRow (.imul i d a b) d id (fun _ g l => BitVec.ofNat 32 ((rdR g l a).toNat * (rdR g l b).toNat))) ∧
  (∀ i d a b c, wordRow (.imacc i d a b c) d id (fun _ g l => BitVec.ofNat 32 ((rdR g l a).toNat * (rdR g l b).toNat + (rdR g l c).toNat))) ∧
  (∀ i d a b, wordRow (.shl i d a b) d id (fun _ g l =>
    if (rdR g l b).toNat < 32 then BitVec.ofNat 32 ((rdR g l a).toNat * 2 ^ (rdR g l b).toNat) else 0)) ∧
  (∀ i d a b, wordRow (.shr i d a b) d id (fun _ g l =>
    if (rdR g l b).toNat < 32 then BitVec.ofNat 32 ((rdR g l a).toNat / 2 ^ (rdR g l b).toNat) else 0)) ∧
  (∀ i d a b, wordRow (.sar i d a b) d id (fun _ g l =>
    if (rdR g l b).toNat < 32 then BitVec.ofInt 32 ((rdR g l a).toInt / 2 ^ (rdR g l b).toNat)
    else if (rdR g l a).toInt < 0 then 0xFFFFFFFF#32 else 0)) ∧
  (∀ i d a imm, wordRow (.shli i d a imm) d id (fun _ g l =>
    if imm.toNat < 32 then BitVec.ofNat 32 ((rdR g l a).toNat * 2 ^ imm.toNat) else 0)) ∧
  (∀ i d a imm, wordRow (.shri i d a imm) d id (fun _ g l =>
    if imm.toNat < 32 then BitVec.ofNat 32 ((rdR g l a).toNat / 2 ^ imm.toNat) else 0)) ∧
  (∀ i d a imm, wordRow (.sari i d a imm) d id (fun _ g l =>
    if imm.toNat < 32 then BitVec.ofInt 32 ((rdR g l a).toInt / 2 ^ imm.toNat)
    else if (rdR g l a).toInt < 0 then 0xFFFFFFFF#32 else 0)) ∧
  (∀ i d a, wordRow (.clz i d a) d id (fun _ g l => if rdR g l a = 0 then 32#32 else BitVec.ofNat 32 (31 - (rdR g l a).toNat.log2))) ∧
  (∀ i d a imm, wordRow (.iaddi i d a imm) d id (fun _ g l => BitVec.ofNat 32 ((rdR g l a).toNat + imm.toNat))) ∧
  (∀ i d a imm, wordRow (.andi i d a imm) d id (fun _ g l => rdR g l a &&& imm)) ∧
  (∀ i d a imm, wordRow (.ori i d a imm) d id (fun _ g l => rdR g l a ||| imm)) ∧
  (∀ i d a imm, wordRow (.xori i d a imm) d id (fun _ g l => rdR g l a ^^^ imm)) ∧
  (∀ i d a b, wideRow (.iadd64 i d a b) d 2 (fun g l => (((rdWide g l a 2 : Int) + (rdR g l b).toInt) % 2 ^ 64).toNat))

/-- The other rows of T7-10 that write one word: high products, minima and maxima, bitwise operations, bit count, moves, SEL, CTR.RD, VF; the four
words of RNG.P; NOP, which writes nothing; R210: RDSPEC of LANE, ACTIVE and SLOT (CYCLE, and LANE read once into a uniform register, are free
values: log entry 4, the model's choice). -/
def Obligations.WordResults : Prop :=
  (∀ i d a b, wordRow (.imulhs i d a b) d id (fun _ g l => BitVec.ofInt 32 ((rdR g l a).toInt * (rdR g l b).toInt / 2 ^ 32))) ∧
  (∀ i d a b, wordRow (.imulhu i d a b) d id (fun _ g l => BitVec.ofNat 32 ((rdR g l a).toNat * (rdR g l b).toNat / 2 ^ 32))) ∧
  (∀ i d a b, wordRow (.imin i d a b) d id (fun _ g l => BitVec.ofInt 32 (min (rdR g l a).toInt (rdR g l b).toInt))) ∧
  (∀ i d a b, wordRow (.imax i d a b) d id (fun _ g l => BitVec.ofInt 32 (max (rdR g l a).toInt (rdR g l b).toInt))) ∧
  (∀ i d a b, wordRow (.umin i d a b) d id (fun _ g l => BitVec.ofNat 32 (min (rdR g l a).toNat (rdR g l b).toNat))) ∧
  (∀ i d a b, wordRow (.umax i d a b) d id (fun _ g l => BitVec.ofNat 32 (max (rdR g l a).toNat (rdR g l b).toNat))) ∧
  (∀ i d a b, wordRow (.andR i d a b) d id (fun _ g l => rdR g l a &&& rdR g l b)) ∧
  (∀ i d a b, wordRow (.orR i d a b) d id (fun _ g l => rdR g l a ||| rdR g l b)) ∧
  (∀ i d a b, wordRow (.xorR i d a b) d id (fun _ g l => rdR g l a ^^^ rdR g l b)) ∧
  (∀ i d a, wordRow (.bcnt i d a) d id (fun _ g l => BitVec.ofNat 32 (lanesOf (rdR g l a)).length)) ∧
  (∀ i d a, wordRow (.mov i d a) d id (fun _ g l => rdR g l a)) ∧
  (∀ i d imm, wordRow (.movi i d imm) d id (fun _ _ _ => imm)) ∧
  (∀ i d a b c, wordRow (.selP i d a b c) d id (fun _ g l => if rdP g l c then rdR g l a else rdR g l b)) ∧
  (∀ i d ctr, wordRow (.ctrRd i d ctr) d id (fun s _ _ => tabGet 0 ctr (coreOf i.core s).ctr)) ∧
  (∀ i d a b c f at' dt, wordRow (.vf i d a b c f at' dt) d id (fun _ g l =>
    typeOut dt (rdR g l d) (vecFun f (typeFmt at') (typeFmt dt) (typeIn at' (rdR g l a)) (typeIn at' (rdR g l b)) (typeIn at' (rdR g l c))))) ∧
  (∀ i d a b, wideRow (.rngP i d a b) d 4 (fun g l => philox (rdWide g l a 4) (rdWide g l b 2))) ∧
  (∀ i, wordRow (.nop i) .zero id (fun _ _ _ => 0)) ∧
  (∀ i d which, wordRow (.rdspec i d which) d bump (fun s g l =>
    match which with
    | 0 => if d.isUni then Config.freeW32 s.fresh else BitVec.ofNat 32 l
    | 1 => (match g.paths with | p :: _ => p.mask | [] => 0)
    | 2 => Config.freeW32 s.fresh
    | _ => BitVec.ofNat 32 i.slot))

/-- R194: a condition t of T7-11 and its combination with predicate c, for ICMP, ICMPI and FCMP, with the bits of the word that name them; −0 and +0 compare equal; FCMP takes every floating-point type and
no INT32; PCOMB's four operations. -/
def Obligations.PredicateResults : Prop :=
  (∀ i d a b c comb cond, predRow (.icmp i d a b c comb cond) d (fun g l =>
    let x := rdR g l a
    let y := rdR g l b
    let t := [decide (x = y), decide (x ≠ y), decide (x.toInt < y.toInt), decide (x.toInt ≤ y.toInt), decide (y.toInt < x.toInt), decide (y.toInt ≤ x.toInt),
      decide (x.toNat < y.toNat), decide (x.toNat ≤ y.toNat), decide (y.toNat < x.toNat), decide (y.toNat ≤ x.toNat)].getD cond false
    [t, t && rdP g l c, t || rdP g l c, xor t (rdP g l c)].getD comb false)) ∧
  (∀ i d a cond imm, predRow (.icmpi i d a cond imm) d (fun g l =>
    let x := rdR g l a
    [decide (x = imm), decide (x ≠ imm), decide (x.toInt < imm.toInt), decide (x.toInt ≤ imm.toInt), decide (imm.toInt < x.toInt), decide (imm.toInt ≤ x.toInt),
      decide (x.toNat < imm.toNat), decide (x.toNat ≤ imm.toNat), decide (imm.toNat < x.toNat), decide (imm.toNat ≤ x.toNat)].getD cond false)) ∧
  (∀ i d a b c comb cond at', predRow (.fcmp i d a b c comb cond at') d (fun g l =>
    let x := dec32 (readF32 (typeFmt at') (typeIn at' (rdR g l a)))
    let y := dec32 (readF32 (typeFmt at') (typeIn at' (rdR g l b)))
    let t := fcond cond x y
    [t, t && rdP g l c, t || rdP g l c, xor t (rdP g l c)].getD comb false)) ∧
  (∀ i d a b c comb cond at' k, k ∈ [Instr.icmp i d a b c comb cond, .fcmp i d a b c comb cond at'] → k.codeOk = true →
    bits (encodeCode k).toNat 19 16 = cond ∧ bits (encodeCode k).toNat 21 20 = comb ∧ (comb = 0 → c = .zero ∧ bits (encodeCode k).toNat 30 24 = 0x3F)) ∧
  (∀ i d a cond imm, (Instr.icmpi i d a cond imm).codeOk = true → bits (encodeCode (.icmpi i d a cond imm)).toNat 35 32 = cond ∧ bits (encodeCode (.icmpi i d a cond imm)).toNat 37 36 = 0) ∧
  (∀ i d a cond imm, 10 ≤ cond → (Instr.icmpi i d a cond imm).codeOk = false) ∧
  (∀ cond x y, x ∈ [dec32 0x80000000, dec32 0] → fcond cond x y = fcond cond (dec32 0) y ∧ fcond cond y x = fcond cond y (dec32 0)) ∧
  (∀ i d a b c comb cond at', at' ∈ [0, 2, 3, 4, 5] → (Instr.fcmp i d a b c comb cond at').codeOk = (Instr.fcmp i d a b c comb cond 0).codeOk) ∧
  (∀ i d a b c comb cond, (Instr.fcmp i d a b c comb cond 1).codeOk = false) ∧
  (∀ i d a b op, predRow (.pcomb i d a b op) d (fun g l =>
    [rdP g l a && rdP g l b, rdP g l a || rdP g l b, xor (rdP g l a) (rdP g l b), rdP g l a && !rdP g l b].getD op false))

/-- R199: LVOTE's kinds SOME, EVERY and MASK and XLANE's modes PICK, BEHIND, AHEAD and MIRROR over the voting lanes; a lane that does not vote
writes nothing. -/
def Obligations.LaneVotes : Prop :=
  (∀ i d a, predRow (.lvote i d a 0) d (fun g _ => decide (∃ k ∈ votingLanes g i, rdP g k a = true))) ∧
  (∀ i d a, predRow (.lvote i d a 1) d (fun g _ => decide (∀ k ∈ votingLanes g i, rdP g k a = true))) ∧
  (∀ i d a s g, ready (.lvote i d a 2) s = some g → g.wf → Instr.codeOk (.lvote i d a 2) = true →
    ∃ g' m, exec (.lvote i d a 2) s = .next (setIssued i g' s) ∧ sameButRegs g g' ∧
      (∀ k, k < 32 → (m.getLsbD k = true ↔ k ∈ votingLanes g i ∧ rdP g k a = true)) ∧
      ∀ l r, l < 32 → rdR g' l r = afterWord g i d (fun _ => m) l r) ∧
  (∀ i d a b k mode, wordRow (.xlane i d a b k mode) d id (fun _ g l =>
    let dist : Int := if b = .zero then k else (rdR g l b).toNat
    let j : Int := if mode = 0 then dist % 32 else if mode = 1 then l - dist else if mode = 2 then l + dist else (l ^^^ dist.toNat : Nat)
    if 0 ≤ j ∧ j < 32 ∧ j.toNat ∈ votingLanes g i then rdR g j.toNat a else rdR g l a))

/-! ### Thread groups: control flow (06, 07) -/

/-- R206, R208, R209: where BRA, CALL, RET and EXIT take a running path that does not reach a meeting point; a split sends the taken threads to `target` and
the others to the next instruction with the branch's reconvergence point. Registers and predicates stay. -/
def Obligations.ControlFlow : Prop :=
  (∀ i target reconv s g p rest, ready (.bra i target reconv) s = some g → g.paths = p :: rest →
    (votingLanes g i = [] → noMeet p (p.pc + 1) →
      ∃ g', exec (.bra i target reconv) s = .next (setIssued i g' s) ∧ sameButPlace g g' ∧ g'.paths = { p with pc := p.pc + 1 } :: rest) ∧
    (votingLanes g i ≠ [] → votingLanes g i = lanesOf p.mask → p.pc < target → noMeet p target →
      ∃ g', exec (.bra i target reconv) s = .next (setIssued i g' s) ∧ sameButPlace g g' ∧ g'.paths = { p with pc := target } :: rest) ∧
    (votingLanes g i ≠ [] → votingLanes g i ≠ lanesOf p.mask → p.pc < target → reconv ≠ target → reconv ≠ p.pc + 1 → rest.length + 2 ≤ g.d →
      p.reconv.head? ≠ some reconv →
      ∃ g' tm, exec (.bra i target reconv) s = .next (setIssued i g' s) ∧ sameButPlace g g' ∧
        lanesOf tm = votingLanes g i ∧
        g'.paths = { mask := p.mask &&& ~~~tm, pc := p.pc + 1, reconv := reconv :: p.reconv, stack := p.stack, wait := .run } ::
          (rest ++ [{ mask := tm, pc := target, reconv := reconv :: p.reconv, stack := p.stack, wait := .run }]))) ∧
  (∀ i r reconv s g p rest, ready (.bri i r reconv) s = some g → g.paths = p :: rest → (rdR g 0 r).toNat % 4096 < g.code.length →
    p.pc < (rdR g 0 r).toNat % 4096 → reconv ≠ (rdR g 0 r).toNat % 4096 → p.reconv.head? ≠ some reconv →
      ∃ g', exec (.bri i r reconv) s = .next (setIssued i g' s) ∧ sameButPlace g g' ∧
        g'.paths = { p with pc := (rdR g 0 r).toNat % 4096, reconv := reconv :: p.reconv } :: rest) ∧
  (∀ i target s g p rest, ready (.call i target) s = some g → g.paths = p :: rest → p.stack.length < 8 → noMeet p target →
      ∃ g', exec (.call i target) s = .next (setIssued i g' s) ∧ sameButPlace g g' ∧
        g'.paths = { p with pc := target, stack := (p.pc + 1) :: p.stack } :: rest) ∧
  (∀ i s g p rest r rs, ready (.ret i) s = some g → g.paths = p :: rest → p.stack = r :: rs → noMeet p r →
      ∃ g', exec (.ret i) s = .next (setIssued i g' s) ∧ sameButPlace g g' ∧ g'.paths = { p with pc := r, stack := rs } :: rest) ∧
  (∀ i s g p rest, ready (.exitT i) s = some g → g.paths = p :: rest → p.mask &&& ~~~(laneMask (votingLanes g i)) ≠ 0 → noMeet p (p.pc + 1) →
      ∃ g', exec (.exitT i) s = .next (setIssued i g' s) ∧ sameButPlace g g' ∧
        g'.paths = { p with pc := p.pc + 1, mask := p.mask &&& ~~~(laneMask (votingLanes g i)) } :: rest) ∧
  (∀ i s g p, ready (.exitT i) s = some g → g.paths = [p] → votingLanes g i = lanesOf p.mask → keysFrom 0 s.cores = true →
      keysFrom 0 (coreOf i.core s).groups = true →
      ∃ t, exec (.exitT i) s = .next t ∧ groupOf i.core i.slot t = none ∧ t.mem = s.mem ∧
        ∀ k, k ≠ i.slot → groupOf i.core k t = groupOf i.core k s)

/-- R158, R169, R170, R179, R207, R208, R214: a split beyond the divergence bound parks with DIVERGENCE_BOUND, a RET with an empty stack and a CALL with a full one
and a BRI beyond the code park with BAD_TARGET, at their own place. A group that parks keeps the record, in its slot area too, and every group of its command stops; a best-effort command
stays open and owes a park report, a guaranteed one ends with FAULT_PARK. -/
def Obligations.BadTargetsPark : Prop :=
  (∀ i target s g p rest, ready (.call i target) s = some g → g.paths = p :: rest → 8 ≤ p.stack.length →
    exec (.call i target) s = .next (parkAt i 0x10 0 0 s)) ∧
  (∀ i s g p rest, ready (.ret i) s = some g → g.paths = p :: rest → p.stack = [] →
    exec (.ret i) s = .next (parkAt i 0x10 0 0 s)) ∧
  (∀ i r reconv s g p rest, ready (.bri i r reconv) s = some g → g.paths = p :: rest → g.code.length ≤ (rdR g 0 r).toNat % 4096 →
    exec (.bri i r reconv) s = .next (parkAt i 0x10 0 0 s)) ∧
  (∀ i target reconv s g p rest, ready (.bra i target reconv) s = some g → g.paths = p :: rest → votingLanes g i ≠ [] → votingLanes g i ≠ lanesOf p.mask →
    p.pc < target → reconv ≠ target → reconv ≠ p.pc + 1 → g.d < rest.length + 2 →
    exec (.bra i target reconv) s = .next (parkAt i 0x04 0 0 s)) ∧
  (∀ i code lane detail s g c, groupOf i.core i.slot s = some g → cmdOf g.cmd s = some c → c.guarNow = false → c.park = none → s.flawless → Memory.wf s.mem.spad = true →
    let r : ParkRec := ⟨code, lane, pcOf g, detail⟩
    let t := parkAt i code lane detail s
    ∃ g', groupOf i.core i.slot t = some g' ∧ g'.park = some r ∧ g'.stopped = true ∧ g'.paths = g.paths ∧ g'.g = g.g ∧ g'.u = g.u ∧ g'.p = g.p ∧
      (∀ n x, groupOf i.core n t = some x → x.cmd = g.cmd → x.stopped = true) ∧
      cmdOf g.cmd t = some { c with st := .parked, park := some (i.core, i.slot, r), parkOwed := true } ∧
      memRead t.mem.spad (spadIx i.core (slotBase i.slot + 0x1E00)) 16 = leBytes (parkWord0 r i.slot g.seat) 8 ++ leBytes detail 8 ∧ t.mem.dram = s.mem.dram) ∧
  (∀ i code lane detail s g c p, groupOf i.core i.slot s = some g → cmdOf g.cmd s = some c → c.guarNow = true → tabFind c.q s.qps = some p → keysFrom 0 s.cmds = true →
    cmdOf g.cmd (parkAt i code lane detail s) = none ∧
      ∃ p' e, tabFind c.q (parkAt i code lane detail s).qps = some p' ∧ p'.owed = p.owed ++ [e] ∧ e.cid = c.cid ∧ e.status = 0x0500 ∧
        e.out0 = parkWord0 ⟨code, lane, pcOf g, detail⟩ i.slot g.seat ∧ e.out1 = detail)

/-- R159, R162, R166, R169, R211 and the rows beside them: barriers that complete and that hold their path, SPIN, the counters, the patch table,
skips, BKPT and the traps of a group. -/
def Obligations.GroupSteering : Prop :=
  (∀ i s g p, ready (.barG i) s = some g → i.ok = true → relHeld i 0 g s = false → g.paths = [p] → p.reconv = [] → votingLanes g i ≠ [] → (votingLanes g i = lanesOf p.mask) →
      ∃ g', exec (.barG i) s = .next (setIssued i g' s) ∧ sameButPlace g g' ∧ g'.paths = [{ p with pc := p.pc + 1 }]) ∧
  (∀ i s g p q, ready (.barG i) s = some g → relHeld i 0 g s = false → g.paths = [p, q] → q.wait = .run → votingLanes g i ≠ [] →
      ∃ g', exec (.barG i) s = .next (setIssued i g' s) ∧ sameButPlace g g' ∧ g'.paths = [q, { p with wait := .barG }]) ∧
  (∀ i b n s g p q, ready (.barB i b n) s = some g → relHeld i 1 g s = false → g.paths = [p, q] → q.wait = .run → votingLanes g i ≠ [] →
      ∃ g', exec (.barB i b n) s = .next (setIssued i g' s) ∧ sameButPlace g g' ∧
        g'.paths = [q, { p with wait := .barB b (if n = 0 then g.n else n) }]) ∧
  (∀ i s g p q, ready (.spin i) s = some g → g.paths = [p, q] → q.wait = .run → votingLanes g i ≠ [] → noMeet p (p.pc + 1) →
      ∃ g', exec (.spin i) s = .next (setIssued i g' s) ∧ sameButPlace g g' ∧ g'.paths = [q, { p with pc := p.pc + 1, wait := .spun }]) ∧
  (∀ i s g p, ready (.spin i) s = some g → g.paths = [p] → votingLanes g i ≠ [] → noMeet p (p.pc + 1) →
      ∃ g', exec (.spin i) s = .next (setIssued i g' s) ∧ g'.idle = true ∧ g'.paths = [{ p with pc := p.pc + 1 }]) ∧
  (∀ i a ctr v s g, ready (.ctrSet i a ctr v) s = some g → votingLanes g i ≠ [] → tabWf 0 (coreOf i.core s).ctr = true →
      ∃ t, exec (.ctrSet i a ctr v) s = .next t ∧ t.mem = s.mem ∧ tabGet 0 ctr (coreOf i.core t).ctr = (if a = .zero then BitVec.ofNat 32 v else rdR g 0 a) ∧
        ∀ k, k ≠ ctr → tabGet 0 k (coreOf i.core t).ctr = tabGet 0 k (coreOf i.core s).ctr) ∧
  (∀ i a ctr v s g, ready (.ctrWait i a ctr v) s = some g → votingLanes g i ≠ [] →
      let x := if a = .zero then BitVec.ofNat 32 v else rdR g 0 a
      (0 ≤ (tabGet 0 ctr (coreOf i.core s).ctr - x).toInt → ∀ p rest, g.paths = p :: rest → noMeet p (p.pc + 1) →
        ∃ g', exec (.ctrWait i a ctr v) s = .next (setIssued i g' s) ∧ sameButPlace g g' ∧ g'.paths = { p with pc := p.pc + 1 } :: rest) ∧
      ((tabGet 0 ctr (coreOf i.core s).ctr - x).toInt < 0 →
        exec (.ctrWait i a ctr v) s = .next (setIssued i { g with ctrWait := some (ctr, x) } s))) ∧
  (∀ i a node field s g c rg q, ready (.stPatch i a node field) s = some g → votingLanes g i ≠ [] → cmdOf g.cmd s = some c → cmdGraph c s = some rg →
      tabFind g.seat c.seats = some q →
      let v := if field = 0 then (rdR g 0 a).toNat % 2 ^ 24 else if field = 1 then (rdR g 0 a).toNat else rdWide g 0 a 2
      (patchOk g c rg.graph node field v s = true → ∃ t c' q', exec (.stPatch i a node field) s = .next t ∧ cmdOf g.cmd t = some c' ∧ tabFind g.seat c'.seats = some q' ∧
        tabFind (8 * node + field) q'.patches = some v ∧ t.mem = s.mem) ∧
      (patchOk g c rg.graph node field v s = false → exec (.stPatch i a node field) s = .next (parkAt i 0x08 0 0 s))) ∧
  (∀ i st s g c, ready (.stSkip i st) s = some g → votingLanes g i ≠ [] → cmdOf g.cmd s = some c →
      (c.step < st → ∃ t c', exec (.stSkip i st) s = .next t ∧ cmdOf g.cmd t = some c' ∧ st ∈ c'.skips ∧ t.mem = s.mem) ∧
      (st ≤ c.step → exec (.stSkip i st) s = .next (parkAt i 0x08 0 0 s))) ∧
  (∀ i code s g c, ready (.bkpt i code) s = some g → votingLanes g i ≠ [] → cmdOf g.cmd s = some c → c.guarNow = false → c.park = none →
      ∃ t g' c', exec (.bkpt i code) s = .next t ∧ groupOf i.core i.slot t = some g' ∧ g'.park = some ⟨0x16, 0, pcOf g, code.toNat⟩ ∧
        cmdOf g.cmd t = some c' ∧ c'.st = .parked ∧ c'.parkOwed = true) ∧
  (∀ core slot s g, groupOf core slot s = some g → 1024 ≤ g.issued →
      exec (.pathSwitchCount core slot) s = .next (setGroup core slot { g with paths := g.paths.map (fun p => if p.wait = .spun then { p with wait := .run } else p) } s)) ∧
  (∀ core slot s g, groupOf core slot s = some g → exec (.spinIdleEnd core slot) s = .next (setGroup core slot { g with idle := false } s)) ∧
  (∀ core slot s g c, groupOf core slot s = some g → g.park = none → g.stopped = false → 100 * 2 ^ 20 ≤ g.stall → cmdOf g.cmd s = some c → c.guarNow = false → c.park = none → s.flt.injs = [] →
      ∃ t g', exec (.stallTrap core slot) s = .next t ∧ groupOf core slot t = some g' ∧
        g'.park = some ⟨if g.paths.any (fun p => match p.wait with | .barG => true | .barB _ _ => true | _ => false) then 0x01 else 0x02, 0, pcOf g, 0⟩) ∧
  (∀ core slot s g, groupOf core slot s = some g → g.stall < 100 * 2 ^ 20 → s.flt.injs = [] → exec (.stallTrap core slot) s = .next s) ∧
  (∀ i s g, ready (.barG i) s = some g → votingLanes g i ≠ [] → g.far ≠ [] → exec (.barG i) s = .next s)

/-! ### Thread groups: memory (07, 08) -/

/-- R188, R196, R197: a LOCAL load of aligned addresses below 0x1C_0000 reads the scratchpad's bytes, little-endian, extended as `sx` says, into the voting lanes (once for
a uniform load); nothing else of the group and no memory changes. A LOCAL store puts the bytes of `d` at each voting lane's address; where lanes overlap, the highest lane's byte
stands; every other byte of every memory and every register stay. -/
def Obligations.LocalAccesses : Prop :=
  (∀ i d m s g, ready (.ld i d m) s = some g → g.wf → Instr.codeOk (.ld i d m) = true → m.glob = false → g.far = [] → s.flawless →
    (∀ l ∈ votingLanes g i, memAddr g l m % 2 ^ m.width = 0 ∧ memAddr g l m < 0x1C0000) →
    ∃ g', exec (.ld i d m) s =
        .next (setIssued i g' (if m.order = 1 ∧ votingLanes g i ≠ [] then acqDrop i m.scope g s else s)) ∧ sameButRegs g g' ∧
      (d ≠ .zero → ∀ l ∈ votingLanes g i, rdWide g' l d (widthWords m.width) = loadValue (2 ^ m.width) m.sx (spadBytes i.core (memAddr g l m) (2 ^ m.width) s)) ∧
      (∀ l r, l < 32 → (∀ j, j < widthWords m.width → r ≠ selNext d j) → rdR g' l r = rdR g l r) ∧
      (∀ l, l < 32 → l ∉ votingLanes g i → d.isUni = false → ∀ r, rdR g' l r = rdR g l r)) ∧
  (∀ i d m s g, ready (.st i d m) s = some g → Instr.codeOk (.st i d m) = true → m.glob = false → acqHeld g = false → g.part = [] → s.flawless →
    Memory.wf s.mem.spad = true → votingLanes g i ≠ [] → (m.order = 2 → relHeld i m.scope g s = false) →
    (∀ l ∈ votingLanes g i, memAddr g l m % 2 ^ m.width = 0 ∧ memAddr g l m < 0x1C0000) →
    ∃ t g', exec (.st i d m) s = .next t ∧ t = setIssued i g' { s with mem := { s.mem with spad := t.mem.spad } } ∧ sameButPlace g g' ∧
      (∀ l ∈ effLanes [d, m.base, m.idx] (votingLanes g i), ∀ k, k < 2 ^ m.width →
        (∀ h ∈ effLanes [d, m.base, m.idx] (votingLanes g i), l < h → memAddr g l m + k < memAddr g h m ∨ memAddr g h m + 2 ^ m.width ≤ memAddr g l m + k) →
        memGet t.mem.spad (spadIx i.core (memAddr g l m + k)) = BitVec.ofNat 8 (rdWide g l d (widthWords m.width) / 256 ^ k)) ∧
      (∀ a, (∀ l ∈ effLanes [d, m.base, m.idx] (votingLanes g i), a < spadIx i.core (memAddr g l m) ∨ spadIx i.core (memAddr g l m) + 2 ^ m.width ≤ a) →
        memGet t.mem.spad a = memGet s.mem.spad a))

/-- R212, T7-15: the first check that a lane fails, in table order, gives the park code and the lowest such lane; no lane performs its access. LD, ST, ATOM and both
ADDX alike; the checks are those of the instruction (T7-15's order is `checkOrder`, one check `accFail`). -/
def Obligations.MemoryChecks : Prop :=
  (∀ guar kind align loc as c, (∃ a ∈ as, accFail guar kind align loc c a = true) → c ∈ checkOrder →
    (∀ c' ∈ checkOrder.takeWhile (fun x => x != c), ∀ a ∈ as, accFail guar kind align loc c' a = false) →
    ∃ pre a post, as = pre ++ a :: post ∧ (∀ b ∈ pre, accFail guar kind align loc c b = false) ∧ accFail guar kind align loc c a = true ∧
      firstFail guar kind align loc as checkOrder = some (c, a.lane, a.addr)) ∧
  (∀ i d m s g code lane addr, ready (.ld i d m) s = some g → acqHeld g = false →
    firstFail (groupGuar g s) 0 (2 ^ m.width) (!m.glob) ((effLanes [d, m.base, m.idx] (votingLanes g i)).map (fun l =>
      ⟨l, memAddr g l m, if m.glob then groupLoc g (memAddr g l m) s else .spad i.core (memAddr g l m)⟩)) checkOrder = some (code, lane, addr) →
    exec (.ld i d m) s = .next (parkAt i code lane (addr % 2 ^ 48) s)) ∧
  (∀ i d m s g code lane addr, ready (.st i d m) s = some g → acqHeld g = false → g.part = [] →
    firstFail (groupGuar g s) 1 (2 ^ m.width) (!m.glob) ((effLanes [d, m.base, m.idx] (votingLanes g i)).map (fun l =>
      ⟨l, memAddr g l m, if m.glob then groupLoc g (memAddr g l m) s else .spad i.core (memAddr g l m)⟩)) checkOrder = some (code, lane, addr) →
    exec (.st i d m) s = .next (parkAt i code lane (addr % 2 ^ 48) s)) ∧
  (∀ i a w64 aop s g code lane addr, ready (.atom i a w64 aop) s = some g → acqHeld g = false →
    firstFail (groupGuar g s) 2 (if w64 then 8 else 4) false ((effLanes [a.d, a.base, a.s1, a.s2] (votingLanes g i)).map (fun l =>
      ⟨l, rdWide g l a.base 2, groupLoc g (rdWide g l a.base 2) s⟩)) checkOrder = some (code, lane, addr) →
    exec (.atom i a w64 aop) s = .next (parkAt i code lane (addr % 2 ^ 48) s)) ∧
  (∀ i a pst psa s g code lane addr, ready (.addxI i a pst psa) s = some g → acqHeld g = false →
    firstFail (groupGuar g s) 2 16 false ((effLanes ([a.d, a.base, a.s1] ++ predSels pst psa) (votingLanes g i)).map (fun l =>
      ⟨l, rdWide g l a.base 2, groupLoc g (rdWide g l a.base 2) s⟩)) checkOrder = some (code, lane, addr) →
    exec (.addxI i a pst psa) s = .next (parkAt i code lane (addr % 2 ^ 48) s)) ∧
  (∀ i a pst psa s g code lane addr, ready (.addxF i a pst psa) s = some g → acqHeld g = false →
    firstFail (groupGuar g s) 2 16 false ((effLanes ([a.d, a.base, a.s1, a.s2] ++ predSels pst psa) (votingLanes g i)).map (fun l =>
      ⟨l, rdWide g l a.base 2, groupLoc g (rdWide g l a.base 2) s⟩)) checkOrder = some (code, lane, addr) →
    exec (.addxF i a pst psa) s = .next (parkAt i code lane (addr % 2 ^ 48) s))

/-- R200, R201, R212: one lane's ATOM, ADDX.I or ADDX.F on mapped, writable memory of its shell joins the atomic operations of its line at the home, carries the
operands of that lane and leaves the group an outstanding access; registers do not change before the answer. -/
def Obligations.AtomicsIssue : Prop :=
  (∀ i a aop w64 s g l dpa st, ready (.atom i a w64 aop) s = some g → acqHeld g = false → a.order = 0 →
    effLanes [a.d, a.base, a.s1, a.s2] (votingLanes g i) = [l] → groupLoc g (rdWide g l a.base 2) s = .mem dpa true st →
    rdWide g l a.base 2 % (if w64 then 8 else 4) = 0 → g.cdom ∉ s.coh.failing → isPrimary i.core s = false → unitHeld i g 2 ⟨l, rdWide g l a.base 2, .mem dpa true st⟩ s = false →
    ∃ t g' f q, exec (.atom i a w64 aop) s = .next t ∧ groupOf i.core i.slot t = some g' ∧ g'.far = g.far ++ [f] ∧ f.ret = a.ret ∧ f.dst = a.d ∧ g'.g = g.g ∧ g'.p = g.p ∧
      tabGet [] (dpa / 512) t.coh.atoms = tabGet [] (dpa / 512) s.coh.atoms ++ [q] ∧ q.kind = 0 ∧ q.aop = aop ∧ q.dpa = dpa ∧ q.cdom = g.cdom ∧ q.len = (if w64 then 8 else 4) ∧
      q.s1 = rdWide g l a.s1 (if w64 then 2 else 1) ∧ q.s2 = rdWide g l a.s2 (if w64 then 2 else 1) ∧ t.mem = s.mem) ∧
  (∀ i a pst psa s g l dpa st, ready (.addxI i a pst psa) s = some g → acqHeld g = false → a.order = 0 →
    effLanes ([a.d, a.base, a.s1] ++ predSels pst psa) (votingLanes g i) = [l] → groupLoc g (rdWide g l a.base 2) s = .mem dpa true st →
    rdWide g l a.base 2 % 16 = 0 → g.cdom ∉ s.coh.failing → isPrimary i.core s = false → unitHeld i g 2 ⟨l, rdWide g l a.base 2, .mem dpa true st⟩ s = false →
    ∃ t g' f q, exec (.addxI i a pst psa) s = .next t ∧ groupOf i.core i.slot t = some g' ∧ g'.far = g.far ++ [f] ∧ f.pst = pst ∧ f.psa = psa ∧ g'.g = g.g ∧ g'.p = g.p ∧
      tabGet [] (dpa / 512) t.coh.atoms = tabGet [] (dpa / 512) s.coh.atoms ++ [q] ∧ q.kind = 1 ∧ q.dpa = dpa ∧ q.len = 16 ∧ q.s1 = rdWide g l a.s1 4 ∧ t.mem = s.mem) ∧
  (∀ i a pst psa s g l dpa st, ready (.addxF i a pst psa) s = some g → acqHeld g = false → a.order = 0 →
    effLanes ([a.d, a.base, a.s1, a.s2] ++ predSels pst psa) (votingLanes g i) = [l] → groupLoc g (rdWide g l a.base 2) s = .mem dpa true st →
    rdWide g l a.base 2 % 16 = 0 → g.cdom ∉ s.coh.failing → isPrimary i.core s = false → unitHeld i g 2 ⟨l, rdWide g l a.base 2, .mem dpa true st⟩ s = false →
    ∃ t g' f q, exec (.addxF i a pst psa) s = .next t ∧ groupOf i.core i.slot t = some g' ∧ g'.far = g.far ++ [f] ∧ f.pst = pst ∧ f.psa = psa ∧ g'.g = g.g ∧ g'.p = g.p ∧
      tabGet [] (dpa / 512) t.coh.atoms = tabGet [] (dpa / 512) s.coh.atoms ++ [q] ∧ q.kind = 2 ∧ q.dpa = dpa ∧ q.len = 16 ∧ q.s1 = (rdR g l a.s1).toNat ∧
      q.anchor = signed 10 (rdR g l a.s2).toNat ∧ t.mem = s.mem)

/-- R203, R204, R167, R168, R205, R212: MEMFENCE with nothing outstanding lets its path on; CP.ASYNC enters a copy in the stream engine with the operands it read;
ACCESS_RESPONSE writes what a one-lane access returned; COPY_SECTOR_DONE of a sector from host memory puts its bytes into the scratchpad and counts one arrival. -/
def Obligations.FarAccesses : Prop :=
  (∀ i scope kind s g p rest, ready (.memfence i scope kind) s = some g → g.paths = p :: rest → votingLanes g i ≠ [] → g.far = [] → scope < 2 → (2 ≤ kind → relHeld i scope g s = false) → noMeet p (p.pc + 1) →
    ∃ g', exec (.memfence i scope kind) s = .next (setIssued i g' s) ∧ sameButPlace g g' ∧ g'.paths = { p with pc := p.pc + 1 } :: rest) ∧
  (∀ i a b c sectors ctr s g, ready (.cpAsync i a b c sectors ctr) s = some g → votingLanes g i ≠ [] → acqHeld g = false →
    let len := if c = .zero then 64 * sectors else (rdR g 0 c).toNat
    rdWide g 0 a 2 % 64 = 0 → rdWide g 0 b 2 % 64 = 0 →
    (windowCore g (rdWide g 0 a 2) s = some i.core ↔ windowCore g (rdWide g 0 b 2) s ≠ some i.core) →
    len % 64 = 0 → 64 ≤ len → len ≤ 2097152 → (coreOf i.core s).copies.length < 64 →
    ∃ t, exec (.cpAsync i a b c sectors ctr) s = .next t ∧ t.mem = s.mem ∧ (coreOf i.core t).nextCopy = (coreOf i.core s).nextCopy + 1 ∧
      tabFind (coreOf i.core s).nextCopy (coreOf i.core t).copies =
        some ⟨i.slot, g.cmd, g.cdom, g.seat, rdWide g 0 a 2, rdWide g 0 b 2, len, ctr, [], false⟩) ∧
  (∀ core slot s g f it bs rest, groupOf core slot s = some g → g.wf → g.far = f :: rest → f.items = [it] → it.got = some bs → it.err = false → f.acq ≠ 2 →
    it.lane < 32 → f.ret = true → (∃ n, f.dst = .g n ∧ n + f.words ≤ 48) → f.kind < 2 →
    ∃ g', exec (.accessResponse core slot ⟨[], 0⟩) s = .next (setGroup core slot g' s) ∧ g'.far = rest ∧ g'.p = g.p ∧ g'.paths = g.paths ∧
      rdWide g' it.lane f.dst f.words = (if f.kind = 0 then loadValue f.width f.sx bs else leNat (bs.take f.width)) % 2 ^ (32 * f.words) ∧
      (∀ l r, l < 32 → (l ≠ it.lane ∨ ∀ j, j < f.words → r ≠ selNext f.dst j) → rdR g' l r = rdR g l r)) ∧
  (∀ core id sector ext s cp h off, tabFind id (coreOf core s).copies = some cp → cp.stopped = false → (coreOf core s).fenced = false →
    s.rreqs = [] → (coreOf core s).held = [] → sector ∉ cp.done → sector < cp.len / 64 → s.flawless → Memory.wf s.mem.spad = true → tabWf 0 (coreOf core s).ctr = true → keysFrom 0 s.cores = true →
    cp.src + 64 * sector < 2 ^ 48 → cp.dst + 64 * sector < 2 ^ 48 →
    locate cp.cdom (seatMapOf cp.cmd s) (cp.src + 64 * sector) s = .host h → locate cp.cdom (seatMapOf cp.cmd s) (cp.dst + 64 * sector) s = .spad core off →
    (∀ c, cmdOf cp.cmd s = some c → c.guarNow = false) → s.host.lost = false → ext.err = 0 → ext.data.length = 64 →
    ∃ t, exec (.copySectorDone core id sector ext) s = .next t ∧ memRead t.mem.spad (spadIx core off) 64 = ext.data ∧
      (∀ a, a < spadIx core off ∨ spadIx core off + 64 ≤ a → memGet t.mem.spad a = memGet s.mem.spad a) ∧ t.mem.dram = s.mem.dram ∧
      tabGet 0 cp.ctr (coreOf core t).ctr = tabGet 0 cp.ctr (coreOf core s).ctr + 1)

/-! ### Coherence: requests at a home (09) -/

/-- T9-7, R257, R258, R267: what an idle line's home does with RdS, RdN and Own by directory state: data with E and a new tag in INV; a copy in SHARED, as the forwarder where the
entry has none; a snoop of the owner in OWNED, or data for its own owner; a grant, once the other sharers are invalidated, for an Own. The data are the home's sectors, and where no word
is flawed and the channel answers, memory and home cache stay. A full set gives up its oldest unlocked entry first (R268). A line that is not idle keeps a request waiting, and turns
another agent's Own into PushReq (R259); a request that finds no directory credit of its kind waits too (R267). -/
def Obligations.HomeReadsAndOwn : Prop :=
  (∀ a line (mask : BitVec 8) c s, served a line c s → readsOpen line (.rds a mask.toNat c) s = true → (dirOf line s).dstate = .inv → victimOf line s = none →
    let tag := ((dirOf line s).otag + 1) % 256
    ∃ t x, exec (.rds a line mask c) s = .next t ∧ dirOf line t = ⟨c, .owned, true, tag, none, 2 ^ a, t.stamp⟩ ∧ tabFind line t.coh.open' = some x ∧
      x.grantee = some a ∧ t.coh.net = s.coh.net ++ [dataMsg a line mask.toNat (some .E) tag [] s] ∧ quietRead line s t) ∧
  (∀ a line (mask : BitVec 8) c s v, served a line c s → readsOpen line (.rds a mask.toNat c) s = true → (dirOf line s).dstate = .inv → victimOf line s = some v →
    holders (dirOf v s) ≠ [] → v ≠ line →
    ∃ t x y, exec (.rds a line mask c) s = .next t ∧ tabFind line t.coh.open' = some x ∧ x.msg = .rds a mask.toNat c ∧ tabFind v t.coh.open' = some y ∧ y.evictFor = some line ∧
      y.waits = holders (dirOf v s) ∧ t.coh.net = s.coh.net ++ (holders (dirOf v s)).map (fun b => .snpinv b v) ∧ t.mem = s.mem) ∧
  (∀ a line (mask : BitVec 8) c s o, served a line c s → readsOpen line (.rds a mask.toNat c) s = true → (dirOf line s).dstate = .owned → (dirOf line s).cdom = c →
    (dirOf line s).presence = 2 ^ o → o < 32 → o ≠ a → a < 32 →
    ∃ t x, exec (.rds a line mask c) s = .next t ∧ tabFind line t.coh.open' = some x ∧ x.waits = [o] ∧ (dirOf line t).lock = true ∧
      t.coh.net = s.coh.net ++ [.snpshr o line] ∧ t.mem = s.mem) ∧
  (∀ a line (mask : BitVec 8) c s, served a line c s → readsOpen line (.rds a mask.toNat c) s = true → (dirOf line s).dstate = .owned → (dirOf line s).cdom = c →
    (dirOf line s).presence = 2 ^ a → a < 32 →
    ∃ t, exec (.rds a line mask c) s = .next t ∧ t.coh.dir = s.coh.dir ∧ tabFind line t.coh.open' = none ∧
      t.coh.net = s.coh.net ++ [dataMsg a line mask.toNat none (dirOf line s).otag [] s] ∧ quietRead line s t) ∧
  (∀ a line (mask : BitVec 8) c s f, served a line c s → readsOpen line (.rds a mask.toNat c) s = true → (dirOf line s).dstate = .shared → (dirOf line s).cdom = c →
    (dirOf line s).fwd = some f → f ≠ a → absent line mask.toNat s = 0 →
    ∃ t x, exec (.rds a line mask c) s = .next t ∧ (dirOf line t).dstate = .shared ∧ (dirOf line t).fwd = some f ∧ (dirOf line t).lock = true ∧
      bit (dirOf line t).presence a = true ∧ tabFind line t.coh.open' = some x ∧ x.grantee = some a ∧
      t.coh.net = s.coh.net ++ [dataMsg a line mask.toNat (some .S) 0 [] s] ∧ quietRead line s t) ∧
  (∀ a line (mask : BitVec 8) c s, served a line c s → readsOpen line (.rds a mask.toNat c) s = true → (dirOf line s).dstate = .shared → (dirOf line s).cdom = c →
    (dirOf line s).fwd = none → a < 16 →
    ∃ t x, exec (.rds a line mask c) s = .next t ∧ (dirOf line t).dstate = .shared ∧ (dirOf line t).fwd = some a ∧ (dirOf line t).lock = true ∧
      bit (dirOf line t).presence a = true ∧ tabFind line t.coh.open' = some x ∧ x.grantee = some a ∧
      t.coh.net = s.coh.net ++ [dataMsg a line mask.toNat (some .F) 0 [] s] ∧ quietRead line s t) ∧
  (∀ a line (mask : BitVec 8) c s f, served a line c s → readsOpen line (.rds a mask.toNat c) s = true → (dirOf line s).dstate = .shared → (dirOf line s).cdom = c →
    (dirOf line s).fwd = some f → f ≠ a → absent line mask.toNat s ≠ 0 →
    ∃ t x, exec (.rds a line mask c) s = .next t ∧ tabFind line t.coh.open' = some x ∧ x.waits = [f] ∧ t.coh.net = s.coh.net ++ [.snpfwd f line (absent line mask.toNat s)] ∧ t.mem = s.mem) ∧
  (∀ a line (mask : BitVec 8) c s, served a line c s → readsOpen line (.rdn a mask.toNat c) s = true → (dirOf line s).dstate = .inv →
    ∃ t, exec (.rdn a line mask c) s = .next t ∧ t.coh.dir = s.coh.dir ∧ tabFind line t.coh.open' = none ∧
      t.coh.net = s.coh.net ++ [dataMsg a line mask.toNat (some .N) 0 [] s] ∧ quietRead line s t) ∧
  (∀ a line (mask : BitVec 8) c s o, served a line c s → readsOpen line (.rdn a mask.toNat c) s = true → (dirOf line s).dstate = .owned → (dirOf line s).cdom = c →
    (dirOf line s).presence = 2 ^ o → o < 32 →
    ∃ t x, exec (.rdn a line mask c) s = .next t ∧ tabFind line t.coh.open' = some x ∧ x.waits = [o] ∧ t.coh.net = s.coh.net ++ [.snpcur o line] ∧ t.mem = s.mem) ∧
  (∀ a line c s, served a line c s → (dirOf line s).dstate = .shared → (dirOf line s).cdom = c → (∃ b, b < 32 ∧ b ≠ a ∧ bit (dirOf line s).presence b = true) →
    ∃ t x, exec (.own a line c) s = .next t ∧ tabFind line t.coh.open' = some x ∧ x.waits = (holders (dirOf line s)).filter (fun b => b != a) ∧
      t.coh.net = s.coh.net ++ ((holders (dirOf line s)).filter (fun b => b != a)).map (fun b => .snpinv b line) ∧ t.mem = s.mem) ∧
  (∀ a line c s, served a line c s → ((dirOf line s).dstate = .inv ∧ victimOf line s = none ∨
      (dirOf line s).dstate ≠ .inv ∧ (dirOf line s).cdom = c ∧ ∀ b, b < 32 → bit (dirOf line s).presence b = true → b = a) →
    ∃ t x, exec (.own a line c) s = .next t ∧ dirOf line t = ⟨c, .owned, true, ((dirOf line s).otag + 1) % 256, none, 2 ^ a, t.stamp⟩ ∧
      tabFind line t.coh.open' = some x ∧ x.grantee = some a ∧ t.coh.net = s.coh.net ++ [.grant a line (((dirOf line s).otag + 1) % 256)] ∧ t.mem = s.mem) ∧
  (∀ a line (mask : BitVec 8) c s x, agentFenced a s = false → tabFind line s.coh.open' = some x →
    exec (.rds a line mask c) s = .next (enqueue line (.rds a mask.toNat c) (hostMiss a line c mask.toNat false s))) ∧
  (∀ a line (mask : BitVec 8) c s, agentFenced a s = false → c ∉ s.coh.failing → hasCredit line c s = true → idleLine line s → (dirOf line s).dstate = .inv →
    creditsUsed line (agentClass a) s = creditCap (agentClass a) →
    exec (.rds a line mask c) s = .next (enqueue line (.rds a mask.toNat c) (hostMiss a line c mask.toNat false s))) ∧
  (∀ a b line c s x cells, agentFenced a s = false → tabFind line s.coh.open' = some x → x.msg = .push b c cells → b ≠ a →
    exec (.own a line c) s = .next (send (.pushreq a line) (hostMiss a line c 0 true s)))

/-- R252, R257, R260, R261, R263: writes, writebacks and direct reads at an idle home. A Push or direct write leaves INV and is acknowledged, and a whole word of it is what the home then
reads; a writeback counts only from the owner with the entry's tag, and then brings its words; an Evict takes the agent out of the entry; a direct read answers with the home's bytes, or
has the owner snooped first. -/
def Obligations.HomeWrites : Prop :=
  (∀ a line c bytes s, served a line c s → (dirOf line s).dstate = .inv → keysFrom 0 s.coh.dir = true →
    ∃ t, exec (.push a line c bytes) s = .next t ∧ (dirOf line t).dstate = .inv ∧ t.coh.net = s.coh.net ++ [.pushack a line] ∧ tabFind line t.coh.open' = none ∧
      ∀ k bs, k < 64 → bs.length = 8 → pushBytes a line bytes s = cellsOf (8 * k) bs → s.flawless → fencedAt (line * 512) s = false → Memory.wf s.mem.dram = true →
        Memory.wf (hlineOf line s).data = true → (homeWord (line * 64 + k) t).data = leNat bs ∧ (homeWord (line * 64 + k) t).good = true) ∧
  (∀ a line c bytes s o, served a line c s → (dirOf line s).dstate = .owned → (dirOf line s).presence = 2 ^ o → o < 32 →
    ∃ t x, exec (.push a line c bytes) s = .next t ∧ tabFind line t.coh.open' = some x ∧ x.msg = .push a c (pushBytes a line bytes s) ∧ x.waits = [o] ∧
      t.coh.net = s.coh.net ++ [.snpinv o line] ∧ t.mem = s.mem) ∧
  (∀ a line s w, agentFenced a s = false → idleLine line s → tabFind (lineKey a line) s.coh.wbuf = some w → w.cdom ∉ s.coh.failing → (dirOf line s).dstate = .owned →
    (dirOf line s).presence = 2 ^ a → a < 32 → (dirOf line s).otag = w.otag → keysFrom 0 s.coh.dir = true →
    ∃ t, exec (.wb a line) s = .next t ∧ (dirOf line t).dstate = .inv ∧ (dirOf line t).otag = w.otag ∧ t.coh.net = s.coh.net ++ [.wback a line true] ∧
      ∀ k bs, k < 64 → bs.length = 8 → dirtyCells w.dirty w.data = cellsOf (8 * k) bs → w.pois = 0 → s.flawless → fencedAt (line * 512) s = false → Memory.wf s.mem.dram = true →
        Memory.wf (hlineOf line s).data = true → (homeWord (line * 64 + k) t).data = leNat bs ∧ (homeWord (line * 64 + k) t).good = true) ∧
  (∀ a line s w, agentFenced a s = false → idleLine line s → tabFind (lineKey a line) s.coh.wbuf = some w → w.cdom ∉ s.coh.failing →
    ((dirOf line s).dstate ≠ .owned ∨ bit (dirOf line s).presence a = false ∨ (dirOf line s).otag ≠ w.otag) →
    ∃ t, exec (.wb a line) s = .next t ∧ t.coh.dir = s.coh.dir ∧ t.coh.home = s.coh.home ∧ t.mem = s.mem ∧ t.coh.net = s.coh.net ++ [.wback a line false]) ∧
  (∀ a line s, agentFenced a s = false → idleLine line s → (dirOf line s).dstate ≠ .inv → (dirOf line s).presence = 2 ^ a → a < 32 →
    keysFrom 0 s.coh.dir = true →
    ∃ t, exec (.evict a line) s = .next t ∧ (dirOf line t).dstate = .inv ∧ t.mem.dram = s.mem.dram ∧ t.coh.net = s.coh.net) ∧
  (∀ a b line s, agentFenced a s = false → idleLine line s → (dirOf line s).dstate = .shared → (dirOf line s).presence = 2 ^ a + 2 ^ b → a ≠ b → a < 32 → b < 32 →
    (dirOf line s).fwd = some a →
    ∃ t, exec (.evict a line) s = .next t ∧ dirOf line t = { dirOf line s with presence := 2 ^ b, fwd := none } ∧ t.mem.dram = s.mem.dram) ∧
  (∀ da addr len c s, let line := addr / 512
    let n := min len (512 - addr % 512)
    c ∉ s.coh.failing → idleLine line s → readsOpen line (.dread da (addr % 512) n c addr) s = true → (dirOf line s).dstate ∈ [DState.inv, .shared] →
    ((dirOf line s).dstate = .shared → (dirOf line s).fwd = none ∨ absent line (sectorsOf (addr % 512) n) s = 0) →
    ∃ t, exec (.directRead da addr len c) s = .next t ∧ t.coh.dir = s.coh.dir ∧ t.out.getLast? = some (.dread da addr (homeAt addr n s).1 (!(homeAt addr n s).2.1)) ∧
      (s.flawless → fencedAt (line * 512) s = false → t.out = s.out ++ [.dread da addr (homeAt addr n s).1 (!(homeAt addr n s).2.1)] ∧ t.mem = s.mem)) ∧
  (∀ da addr len c s o, let line := addr / 512
    let n := min len (512 - addr % 512)
    let m := HMsg.dread da (addr % 512) n c addr
    c ∉ s.coh.failing → idleLine line s → readsOpen line m s = true → creditsUsed line m.creditClass s < creditCap m.creditClass → (dirOf line s).dstate = .owned →
    (dirOf line s).presence = 2 ^ o → o < 32 →
    ∃ t x, exec (.directRead da addr len c) s = .next t ∧ tabFind line t.coh.open' = some x ∧ x.msg = m ∧ x.waits = [o] ∧ t.coh.net = s.coh.net ++ [.snpcur o line] ∧ t.mem = s.mem) ∧
  (∀ da addr len c s, c ∈ s.coh.failing → exec (.directRead da addr len c) s = .next { s with out := s.out ++ [.dread da addr [] true] }) ∧
  (∀ da addr c bytes s, c ∉ s.coh.failing → idleLine (addr / 512) s → (dirOf (addr / 512) s).dstate = .inv → keysFrom 0 s.coh.dir = true →
    ∃ t, exec (.directWrite da addr c bytes) s = .next t ∧ (dirOf (addr / 512) t).dstate = .inv ∧ tabFind (addr / 512) t.coh.open' = none ∧
      (da ≠ .pcie → da ≠ .cox → t.out.getLast? = some (.dwrite da true)) ∧
      (addr % 8 = 0 → bytes.length = 8 → s.flawless → fencedAt (addr / 512 * 512) s = false → Memory.wf s.mem.dram = true → Memory.wf (hlineOf (addr / 512) s).data = true →
        (homeWord (addr / 8) t).data = leNat bytes ∧ (homeWord (addr / 8) t).good = true)) ∧
  (∀ da addr c bytes s o, let line := addr / 512
    let m := HMsg.dwrite da c ((cellsOf (addr % 512) bytes).filter (fun x => decide (x.1 < 512)))
    c ∉ s.coh.failing → idleLine line s → creditsUsed line m.creditClass s < creditCap m.creditClass → (dirOf line s).dstate = .owned → (dirOf line s).presence = 2 ^ o → o < 32 →
    ∃ t x, exec (.directWrite da addr c bytes) s = .next t ∧ tabFind line t.coh.open' = some x ∧ x.msg = m ∧ x.waits = [o] ∧ t.coh.net = s.coh.net ++ [.snpinv o line] ∧ t.mem = s.mem)

/-! ### Coherence: messages at agents and homes (09) -/

/-- R249..R251, R254, R255, R259, R262: what an agent does with the message first in the network: a fill, a grant, the snoops, PushReq, PushAck and WBack. A snoop of
a modified line returns its dirty bytes, one of a line that its writeback buffer holds those; SnpInv drops the line, SnpShr leaves F (S in a host core's L2), SnpCur leaves it modified. -/
def Obligations.AgentMessages : Prop :=
  (∀ a line mask tag cells p rest s m, s.coh.net = .data a line mask (some .E) tag cells p :: rest → missOf a line s = some m → m.fill ≠ 0 → m.own = false → m.push = false →
    m.cells = [] → clineOf a line s = none → mayRequest a line s = true → (roomFor a line m.cdom false s).isSome = true → (m.mask ||| m.nmask) &&& mask = m.mask ||| m.nmask →
    m.mask < 256 → m.nmask < 256 → keysFrom 0 s.coh.miss = true →
    ∃ t c, exec (.data a line) s = .next t ∧ clineOf a line t = some c ∧ c.st = .E ∧ c.cdom = m.cdom ∧ c.otag = tag ∧ c.valid = mask ∧ c.dirty = 0 ∧
      c.data = memCells [] 0 cells ∧ missOf a line t = none ∧ t.coh.net = rest ++ [.grantack a line] ∧ t.mem.dram = s.mem.dram ∧ t.mem.spad = s.mem.spad) ∧
  (∀ a line mask tag cells p rest s m c, s.coh.net = .data a line mask none tag cells p :: rest → missOf a line s = some m → m.fill ≠ 0 → m.own = false → m.push = false →
    m.cells = [] → clineOf a line s = some c → c.cdom = m.cdom → c.st ≠ .N → mayRequest a line s = true → s.mem.tags = [] →
    ∃ t c', exec (.data a line) s = .next t ∧ clineOf a line t = some c' ∧ c'.st = c.st ∧ c'.valid = c.valid ||| mask ∧ c'.dirty = c.dirty ∧
      c'.data = memCells c.data 0 (cells.filter (fun x => !bit c.dirty x.1)) ∧ t.coh.net = rest ∧ t.mem.dram = s.mem.dram) ∧
  (∀ a line tag rest s m, s.coh.net = .grant a line tag :: rest → missOf a line s = some m → m.own = true → m.push = false → m.fill = 0 → m.cells ≠ [] → clineOf a line s = none →
    mayRequest a line s = true → (roomFor a line m.cdom false s).isSome = true → s.flawless → keysFrom 0 s.coh.miss = true →
    ∃ t c, exec (.grant a line) s = .next t ∧ clineOf a line t = some c ∧ c.st = .M ∧ c.cdom = m.cdom ∧ c.otag = tag ∧ (m.mask = 0 → m.nmask = 0 → missOf a line t = none) ∧
      c.data = memCells [] 0 m.cells ∧ t.coh.net = rest ++ [.grantack a line] ∧ t.mem.dram = s.mem.dram) ∧
  (∀ a line rest s m, s.coh.net = .pushreq a line :: rest → missOf a line s = some m → keysFrom 0 s.coh.lines = true →
    ∃ t, exec (.pushreq a line) s = .next t ∧ clineOf a line t = none ∧ missOf a line t = some { m with push := true, own := false } ∧ t.coh.net = rest ∧
      t.out = s.out ++ [.coh a line 4 0] ∧ t.mem.dram = s.mem.dram ∧ t.mem.spad = s.mem.spad) ∧
  (∀ a line rest s m, s.coh.net = .pushack a line :: rest → missOf a line s = some m → m.push = true → m.own = false → m.fill = 0 → m.mask = 0 → m.nmask = 0 →
    clineOf a line s = none → mayRequest a line s = true → keysFrom 0 s.coh.miss = true →
    ∃ t, exec (.pushack a line) s = .next t ∧ missOf a line t = none ∧ t.coh.net = rest ∧ t.coh.lines = s.coh.lines ∧ t.mem = s.mem) ∧
  (∀ a line rest s c, s.coh.net = .snpinv a line :: rest → clineOf a line s = some c → c.st = .M → s.flawless → keysFrom 0 s.coh.lines = true →
    ∃ t, exec (.snpinv a line) s = .next t ∧ clineOf a line t = none ∧ t.coh.net = rest ++ [.sresp a line c.dirty c.pois (dirtyCells c.dirty c.data) 0 false] ∧ t.mem = s.mem) ∧
  (∀ a line rest s c, s.coh.net = .snpinv a line :: rest → clineOf a line s = some c → c.st ≠ .M → c.st ≠ .N → s.flt.injs = [] → keysFrom 0 s.coh.lines = true →
    ∃ t, exec (.snpinv a line) s = .next t ∧ clineOf a line t = none ∧ t.coh.net = rest ++ [.sresp a line 0 0 [] 0 false] ∧ t.mem.dram = s.mem.dram) ∧
  (∀ a line rest s w, s.coh.net = .snpinv a line :: rest → clineOf a line s = none → tabFind (lineKey a line) s.coh.wbuf = some w → s.flt.injs = [] →
    ∃ t, exec (.snpinv a line) s = .next t ∧ t.coh.wbuf = s.coh.wbuf ∧ t.coh.net = rest ++ [.sresp a line w.dirty w.pois (dirtyCells w.dirty w.data) 0 true] ∧ t.mem = s.mem) ∧
  (∀ a line rest s c, s.coh.net = .snpshr a line :: rest → clineOf a line s = some c → c.st = .M → s.flawless →
    ∃ t c', exec (.snpshr a line) s = .next t ∧ clineOf a line t = some c' ∧ c'.st = (if a < 16 then .F else .S) ∧ c'.dirty = 0 ∧ c'.data = c.data ∧
      t.coh.net = rest ++ [.sresp a line c.dirty c.pois (dirtyCells c.dirty c.data) 0 false] ∧ t.mem = s.mem) ∧
  (∀ a line rest s c, s.coh.net = .snpcur a line :: rest → clineOf a line s = some c → c.st = .M → s.flawless →
    ∃ t, exec (.snpcur a line) s = .next t ∧ t.coh.lines = s.coh.lines ∧ t.coh.net = rest ++ [.sresp a line c.dirty c.pois (dirtyCells c.dirty c.data) 0 false] ∧ t.mem = s.mem) ∧
  (∀ a line mask rest s c, s.coh.net = .snpfwd a line mask :: rest → clineOf a line s = some c → c.st = .F → c.pois = 0 → s.flawless →
    ∃ t cells, exec (.snpfwd a line) s = .next t ∧ t.coh.lines = s.coh.lines ∧
      t.coh.net = rest ++ [.sresp a line 0 0 cells (maskOf (bitList (mask &&& c.valid) 8)) false] ∧ cells.length = 64 * (bitList (mask &&& c.valid) 8).length ∧
      ∀ x ∈ cells, x.2 = memGet c.data x.1) ∧
  (∀ a line ok rest s, s.coh.net = .wback a line ok :: rest → missOf a line s = none → keysFrom 0 s.coh.wbuf = true →
    ∃ t, exec (.wback a line) s = .next t ∧ tabFind (lineKey a line) t.coh.wbuf = none ∧ t.coh.net = rest ∧ t.mem = s.mem)

/-- R255, R257, R258, R264, R265, R275, R276: the home's side. A snoop response that leaves others awaited is counted, and the last one lets the request go on; a GrantAck of the grantee
closes and unlocks; one that nobody expects takes the domain down, and from then on its requests get Error; a half that gets Error frees its register, and a group whose store waited there
parks; the atomic unit performs the oldest operation on the line's current bytes, and not before the messages that came earlier (R236, R265). -/
def Obligations.HomeMessages : Prop :=
  (∀ a b line rest s x, s.coh.net = .sresp a line 0 0 [] 0 false :: rest → tabFind line s.coh.open' = some x → x.waits = [a, b] →
    ∃ t, exec (.snoopResponse a line) s = .next t ∧ tabFind line t.coh.open' = some { x with waits := [b] } ∧ t.coh.net = rest ∧ t.mem = s.mem) ∧
  (∀ a r line mask c rest s x, s.coh.net = .sresp a line 0 0 [] 0 false :: rest → tabFind line s.coh.open' = some x → x.waits = [a] → x.msg = .rds r mask c → x.evictFor = none →
    x.fwd = [] → (dirOf line s).dstate = .owned → (dirOf line s).cdom = c → (dirOf line s).presence = 2 ^ a → a < 16 → r ≠ a → r < 32 →
    s.coh.queue.all (fun e => !sameDirSet e.1 line) = true → s.coh.bar4 = [] →
    ∃ t y, exec (.snoopResponse a line) s = .next t ∧ (dirOf line t).dstate = .shared ∧ (dirOf line t).fwd = some a ∧ (dirOf line t).presence = 2 ^ a + 2 ^ r ∧ (dirOf line t).lock = true ∧
      tabFind line t.coh.open' = some y ∧ y.grantee = some r ∧ t.coh.net = rest ++ [dataMsg r line mask (some .S) 0 [] s] ∧ quietRead line s t) ∧
  (∀ a line rest s x, s.coh.net = .grantack a line :: rest → tabFind line s.coh.open' = some x → x.grantee = some a →
    s.coh.queue.all (fun e => !sameDirSet e.1 line) = true → s.coh.bar4 = [] →
    s.flt.injs = [] → keysFrom 0 s.coh.open' = true → (dirOf line s).dstate = .owned →
    ∃ t, exec (.grantack a line) s = .next t ∧ tabFind line t.coh.open' = none ∧ dirOf line t = { dirOf line s with lock := false } ∧ t.coh.net = rest ∧ t.mem = s.mem) ∧
  (∀ a line rest s, s.coh.net = .grantack a line :: rest → tabFind line s.coh.open' = none → s.coh.queue = [] → s.coh.bar4 = [] → s.flt.injs = [] → (dirOf line s).dstate ≠ .inv →
    (dirOf line s).cdom ∉ s.coh.failing →
    ∃ t, exec (.grantack a line) s = .next t ∧ (dirOf line s).cdom ∈ t.coh.failing ∧ ∀ e ∈ t.coh.lines, e.2.cdom ≠ (dirOf line s).cdom) ∧
  (∀ a line (mask : BitVec 8) c bytes s, agentFenced a s = false → idleLine line s → c ∈ s.coh.failing →
    ∀ i ∈ [Instr.rds a line mask c, .rdn a line mask c, .own a line c, .push a line c bytes],
      ∃ t, exec i s = .next t ∧ t.coh.net = s.coh.net ++ [.error a line] ∧ t.coh.dir = s.coh.dir ∧ t.coh.home = s.coh.home ∧ t.mem = s.mem) ∧
  (∀ a line rest s, s.coh.net = .error a line :: rest → (∀ m, missOf a line s = some m → m.by' = []) → keysFrom 0 s.coh.miss = true → keysFrom 0 s.coh.wbuf = true →
    ∃ t, exec (.coherenceError a line) s = .next t ∧ missOf a line t = none ∧ tabFind (lineKey a line) t.coh.wbuf = none ∧ t.coh.net = rest ∧ t.mem = s.mem) ∧
  (∀ a line rest s m core slot pc lane addr g c, s.coh.net = .error a line :: rest → missOf a line s = some m → m.by' = [(core, slot, pc, lane, addr)] → groupOf core slot s = some g →
    g.park = none → cmdOf g.cmd s = some c → c.guarNow = false → c.park = none →
    ∃ t g', exec (.coherenceError a line) s = .next t ∧ groupOf core slot t = some g' ∧ g'.park = some ⟨0x05, lane, pc, addr % 2 ^ 48⟩ ∧ t.mem.dram = s.mem.dram) ∧
  (∀ line s q, tabGet [] line s.coh.atoms = [q] → atomOpen line q s = true →
    s.coh.queue.all (fun e => !sameDirSet e.1 line) = true → s.coh.bar4 = [] → q.cdom ∉ s.coh.failing → q.kind = 0 → q.aop = 0 → q.len = 8 →
    q.dpa / 512 = line → q.dpa % 8 = 0 → (dirOf line s).dstate = .inv → s.flawless → fencedAt q.dpa s = false → (homeAt q.dpa 8 s).2.1 = true → keysFrom 0 s.coh.atoms = true →
    Memory.wf s.mem.dram = true → Memory.wf (hlineOf line s).data = true →
    ∃ t, exec (.atomicUnitOp line) s = .next t ∧ tabGet [] line t.coh.atoms = [] ∧
      (homeWord (q.dpa / 8) t).data = (leNat (homeAt q.dpa 8 s).1 + q.s1) % 2 ^ 64 ∧ (homeWord (q.dpa / 8) t).good = true) ∧
  (∀ line s q rest, tabGet [] line s.coh.atoms = q :: rest → 0 < q.after → exec (.atomicUnitOp line) s = .next s)

/-! ### Memory controllers and their errors (10) -/

/-- R290, R293, R294, R297, R298, R306: a read return of a good word changes nothing; a channel under calibration holds the request; an uncorrectable Tier F word that nothing can rebuild
writes a record of severity 3, gives a PCIe reader a poisoned completion and is poison at its home from then on; nothing is read before memory is filled. -/
def Obligations.ReadReturns : Prop :=
  (∀ req unit word s, (chanOf (dpaChan (8 * word)) s).calib = false → bit (hlineOf (word / 64) s).valid (word % 64) = false → fencedAt (8 * word) s = false →
    8 * word < 0x4000000000 → tagOf (dramKey (8 * word)) s = ⟨false, 0⟩ → exec (.dramReadReturn req 1 unit word) s = .next s) ∧
  (∀ req src unit word s, (src = 1 ∨ src = 2) → memFilled s = true → (chanOf (dpaChan (8 * word)) s).calib = true →
    exec (.dramReadReturn req src unit word) s = .next { s with mem := { s.mem with held := s.mem.held ++ [(dpaChan (8 * word), req, word)] } }) ∧
  (∀ unit word s, memFilled s = true → (chanOf (dpaChan (8 * word)) s).calib = false → bit (hlineOf (word / 64) s).valid (word % 64) = false → fencedAt (8 * word) s = false →
    (∀ e ∈ homeSet (word / 64) s, e.2.dirty = 0) → 8 * word < 0x4000000000 → (rawWord (8 * word) s).n = 3 → rescue word s = none → s.flt.merges = [] → logCount s.flt.log < 4095 → s.flt.injs = [] →
    ∃ t r, exec (.dramReadReturn .pcie 1 unit word) s = .next t ∧ t.flt.log = s.flt.log ++ [r] ∧ r.det = 0x02 ∧ r.sev = 3 ∧ r.ukind = 8 ∧ r.seq = s.flt.next % 2 ^ 32 ∧
      t.out.getLast? = some .poisonedCpl ∧ (homeWord word t).p = true ∧ t.cores = s.cores) ∧
  (∀ req src unit word s, src ≤ 3 → memFilled s = false → exec (.dramReadReturn req src unit word) s = .next s)

/-- R291, R292, R307, R295, R296: the read-merge-write of a part-word write, transfer retries and the drift alarm, and the scrubs that write a corrected word back. -/
def Obligations.ControllerWrites : Prop :=
  (∀ w cells rest bytes s, s.mem.rmw = (w, cells) :: rest → 8 * w < 0xA000000000 → (chanOf (dpaChan (8 * w)) s).calib = false → tagOf (dramKey (8 * w)) s = ⟨false, 0⟩ → s.flt.injs = [] → Memory.wf s.mem.dram = true →
    ∃ t, exec (.readMergeWrite (8 * w) bytes) s = .next t ∧ t.mem.rmw = rest ∧
      leNat (memRead t.mem.dram (8 * w) 8) = mergeWord (leNat (memRead s.mem.dram (8 * w) 8)) cells ∧
      (∀ a, a < 8 * w ∨ 8 * w + 8 ≤ a → memGet t.mem.dram a = memGet s.mem.dram a) ∧
      (chanOf (dpaChan (8 * w)) t).rmw = min ((chanOf (dpaChan (8 * w)) s).rmw + 1) (2 ^ 64 - 1) ∧ t.mem.spad = s.mem.spad) ∧
  (∀ req isRead dpa s, s.flt.injs = [] → (chanOf (dpaChan dpa) s).calib = false → (chanOf (dpaChan dpa) s).retries = [] → s.flt.merges = [] → logCount s.flt.log < 4095 →
    (∃ t, exec (.memTransferRetry req isRead dpa 1) s = .next t ∧ (chanOf (dpaChan dpa) t).retries = [s.now] ∧ (chanOf (dpaChan dpa) t).drift = (chanOf (dpaChan dpa) s).drift) ∧
    (∃ t, exec (.memTransferRetry req isRead dpa 2) s = .next t ∧ (chanOf (dpaChan dpa) t).retries = [s.now] ∧ (chanOf (dpaChan dpa) t).drift = true)) ∧
  (∀ dpa s, s.flt.injs = [] → (chanOf (dpaChan dpa) s).calib = false → rescue (dpa / 8) s = none →
    ∃ t, exec (.memTransferRetry .pcie true dpa 4) s = .next t ∧ (chanOf (dpaChan dpa) t).drift = true ∧ t.out.getLast? = some .poisonedCpl ∧ t.mem.dram = s.mem.dram) ∧
  (∀ dpa s, dpa < 0xA000000000 → (∀ i, i < 8 → (rawWord (8 * (dpa / 64 * 8 + i)) s).n = 0) → exec (.scrub dpa) s = .next s) ∧
  (∀ dpa i s, dpa < 0xA000000000 → (chanOf (dpaChan dpa) s).calib = false → i < 8 → ((rawWord (8 * (dpa / 64 * 8 + i)) s).n = 1 ∨ (rawWord (8 * (dpa / 64 * 8 + i)) s).n = 2) →
    (∀ j, j < 8 → j ≠ i → (rawWord (8 * (dpa / 64 * 8 + j)) s).n = 0) → s.flt.injs = [] → Memory.wf s.mem.dram = true → tabWf ⟨false, 0⟩ s.mem.tags = true →
    (rawWord (8 * (dpa / 64 * 8 + i)) s).p = false → (rawWord (8 * (dpa / 64 * 8 + i)) s).data < 2 ^ 64 →
    ∃ t, exec (.scrub dpa) s = .next t ∧ (rawWord (8 * (dpa / 64 * 8 + i)) t).n = 0 ∧ (rawWord (8 * (dpa / 64 * 8 + i)) t).data = (rawWord (8 * (dpa / 64 * 8 + i)) s).data) ∧
  (∀ unit word s, bit (hlineOf (word / 64) s).valid (word % 64) = true →
    let d := decodeEcc (leNat (memRead (hlineOf (word / 64) s).data (word % 64 * 8) 8)) (tagOf (homeKey word) s)
    (d.n = 1 ∨ d.n = 2) → d.p = false → d.data < 2 ^ 64 → Memory.wf (hlineOf (word / 64) s).data = true → tabWf ⟨false, 0⟩ s.mem.tags = true →
    ∃ t, exec (.cacheScrub 3 unit word) s = .next t ∧ tagOf (homeKey word) t = ⟨false, 0⟩ ∧
      leNat (memRead (hlineOf (word / 64) t).data (word % 64 * 8) 8) = d.data ∧ t.mem.dram = s.mem.dram)

/-- R304, R323, R281, R306, R307, R348: a mirror build copies a line to its other set; clearing a channel zeroes every byte of it; a way clean empties it, at a home or in a half; the end of a calibration
frees its channels and clears the drift alarm; a host read that times out is an error of its requester. -/
def Obligations.MemoryJobs : Prop :=
  (∀ cdom range line s sh b r st ms, shellOf cdom s = some sh → sh.mirrors = [b] → b.range = range → tabFind range sh.ranges = some r → r.mirrorLost = false → r.mirror = false →
    r.frame0 * 4096 ≤ line → line < r.frame0 * 4096 + r.frames * 4096 → b.done = [] → 1 ≤ r.frames → (∀ st ms, setOf sh r.set = some st → setOf sh r.mset = some ms → (chanOf (dpaChan (setLineDpa st line)) s).calib = false ∧ (chanOf (dpaChan (setLineDpa ms line)) s).calib = false) → setOf sh r.set = some st → setOf sh r.mset = some ms → s.flawless →
    Memory.wf s.mem.dram = true → (∀ i, i < 64 → (homeRead (setLineDpa st line + 8 * i) 8 s).2.1 = true) → (∀ i, i < 64 → (homeDec (setLineDpa st line / 8 + i) s).2.good = true) →
    (∀ i, i < 64 → fencedAt (8 * (setLineDpa st line / 8 + i)) s = false) → setLineDpa st line / 512 ≠ setLineDpa ms line / 512 →
    ∃ t sh', exec (.mirrorLineCopy cdom range line) s = .next t ∧ shellOf cdom t = some sh' ∧ sh'.mirrors = [{ b with done := [line] }] ∧
      ∀ i, i < 64 → leNat (memRead t.mem.dram (8 * (setLineDpa ms line / 8 + i)) 8) = leNat (homeRead (setLineDpa st line + 8 * i) 8 s).1) ∧
  (∀ ch s, ch < 88 → (chanOf ch s).clearing = true → s.shells = [] → keysFrom 0 s.mem.chans = true →
    ∃ t, exec (.channelClearDone ch) s = .next t ∧ (chanOf ch t).clearing = false ∧
      (∀ a, dpaOf ch 0 ≤ a → a < dpaOf ch 0 + (if ch < 64 then 2 ^ 32 else 2 ^ 34) → memGet t.mem.dram a = 0) ∧
      (∀ a, (a < dpaOf ch 0 ∨ dpaOf ch 0 + (if ch < 64 then 2 ^ 32 else 2 ^ 34) ≤ a) → memGet t.mem.dram a = memGet s.mem.dram a) ∧ (∀ e ∈ t.coh.lines, dpaChan (e.1 % 2 ^ 40 * 512) ≠ ch) ∧ (∀ e ∈ t.coh.home, dpaChan (e.1 * 512) ≠ ch)) ∧
  (∀ line h s, s.coh.home = [(line, h)] → h.dirty = 0 → pinned line s = false →
    ∃ t, exec (.wayClean true (dpaChan (line * 512)) h.way) s = .next t ∧ t.coh.home = [] ∧ t.mem.dram = s.mem.dram) ∧
  (∀ h line c s, line < 2 ^ 40 → s.coh.lines = [(lineKey h line, c)] → c.st = .S →
    ∃ t, exec (.wayClean false h c.way) s = .next t ∧ t.coh.lines = [] ∧ t.mem.dram = s.mem.dram) ∧
  (∀ c s, s.dev.cals = [.trainF c] → s.mem.held = [] → s.coh.queue = [] → s.coh.bar4 = [] → keysFrom 0 s.mem.chans = true →
    ∃ t, exec (.calibrationEnd (.trainF c)) s = .next t ∧ t.dev.cals = [] ∧ (chanOf c t).drift = false ∧ (chanOf c t).calib = false ∧ (chanOf c t).trainedT = (chanOf c s).temp) ∧
  (∀ core slot s g, groupOf core slot s = some g →
    ∃ t g', exec (.pcieCompletionTimeout (.thread core slot)) s = .next t ∧ groupOf core slot t = some g' ∧
      (∀ f ∈ g'.far, ∀ it ∈ f.items, ∀ h, it.loc = .host h → it.got = none → it.err = true) ∧ g'.g = g.g ∧ t.mem = s.mem)

/-! ### Strokes and commands on seats (02, 03, 06) -/

/-- R33, R35, R39, R59, R68: each phase row of a running stroke begins its phase and only from the phase before it: catch (the count steps modulo 2^48), drive, finish, recovery;
no phase row acts out of its phase or while the stroke timer stands. -/
def Obligations.StrokePhases : Prop :=
  (∀ s, s.stroke.running = true → s.stroke.phase = .recovery → ∃ t, exec .catchBegin s = .next t ∧ t.stroke.phase = .catch' ∧ t.stroke.count = (s.stroke.count + 1) % 2 ^ 48 ∧ s.now ≤ t.now) ∧
  (∀ s, s.stroke.running = true → s.stroke.phase = .catch' →
    ∃ t, exec .driveBegin s = .next t ∧ t.stroke = { s.stroke with phase := .drive } ∧ t.now = max s.now (s.stroke.start + s.stroke.cfg.catchLen)) ∧
  (∀ s, s.stroke.running = true → s.stroke.phase = .drive → ∃ t, exec .finishInstant s = .next t ∧ t.stroke = { s.stroke with phase := .finish }) ∧
  (∀ s, s.stroke.running = true → s.stroke.phase = .finish → ∃ t, exec .recoveryBegin s = .next t ∧ t.stroke.phase = .recovery ∧ t.stroke.count = s.stroke.count) ∧
  (∀ s, (s.stroke.running = false ∨ s.stroke.phase ≠ .recovery) → exec .catchBegin s = .next s) ∧
  (∀ s, (s.stroke.running = false ∨ s.stroke.phase ≠ .catch') → exec .driveBegin s = .next s) ∧
  (∀ s, (s.stroke.running = false ∨ s.stroke.phase ≠ .drive) → exec .finishInstant s = .next s) ∧
  (∀ s, (s.stroke.running = false ∨ s.stroke.phase ≠ .finish) → exec .recoveryBegin s = .next s)

/-- R59, R66, R68, R95, R155, R36: a guaranteed command that has not started by its finish instant ends MISSED; a restored context puts the seat's bytes back on its core, from its frames in set 0 where they lie there, and waits for the save that frees the core; a tile that was
started and is not completed takes a status word with `fault` 0x03 and the flags it has; a fallback takes the place of a command that has stopped; a seat told to stop holds its groups, and a command told to end ends with its last seat; a best-effort command completes OK after
its last step; a segment launch fills free slots with its groups, or does nothing. -/
def Obligations.CommandLives : Prop :=
  (∀ s n c p, s.stroke.running = true → s.stroke.phase = .drive → s.cmds = [(n, c)] → c.guarNow = true → c.winEnd = s.stroke.count → c.started = false → c.late = false →
    tabFind c.q s.qps = some p → s.flt.injs = [] → s.flt.sampled = [] →
    ∃ t p' r, exec .finishInstant s = .next t ∧ cmdOf n t = none ∧ tabFind c.q t.qps = some p' ∧ p'.owed = p.owed ++ [r] ∧ r.cid = c.cid ∧ r.status = 0x0402 ∧ r.guar = true) ∧
  (∀ core d seat x s, (coreOf core s).incoming = some (d, seat) → (coreOf core s).saving = false → tabFind (ctxKey d seat) (coreOf core s).ctxs = some x →
    (∀ e ∈ s.cmds, e.2.st = .queued) → s.flt.watch = false → s.flt.injs = [] → s.flt.sampled = [] → Memory.wf s.mem.spad = true → (∀ off, off < 2 ^ 21 → memGet s.mem.spad (spadIx core off) = 0) →
    (x.inMem = false → Memory.wf x.spad = true → (∀ e ∈ x.spad, e.1 < 2 ^ 21) →
      ∃ t, exec (.contextRestore core) s = .next t ∧ (coreOf core t).holder = some (d, seat) ∧ (coreOf core t).incoming = none ∧ (coreOf core t).ctr = x.ctr ∧
        (coreOf core t).saved = x.groups.filter (fun g => (cmdOf g.2.cmd s).isSome) ∧ (∀ off, off < 2 ^ 21 → memGet t.mem.spad (spadIx core off) = memGet x.spad off) ∧ t.mem.dram = s.mem.dram) ∧
    (∀ p, x.inMem = true → seat < 1024 → ctxPlace d seat s = some p →
      ∃ t, exec (.contextRestore core) s = .next t ∧ (coreOf core t).holder = some (d, seat) ∧ (coreOf core t).incoming = none ∧ (coreOf core t).ctr = x.ctr ∧
        (coreOf core t).saved = x.groups.filter (fun g => (cmdOf g.2.cmd s).isSome) ∧ (∀ off, off < 2 ^ 21 → memGet t.mem.spad (spadIx core off) = memGet (readCtx p s).1 off))) ∧
  (∀ core s, ((coreOf core s).incoming = none ∨ (coreOf core s).saving = true) → exec (.contextRestore core) s = .next s) ∧
  (∀ s n c rg st r, s.cmds = [(n, c)] → cmdGraph c s = some rg → rg.graph.steps[c.step]? = some st → st.n = 1 → rg.graph.nodes[st.first]? = some r.nd →
    r = ⟨n, c, rg, r.nd.seat, r.core, st.first, r.nd⟩ → hasStatus r.nd.op = true → cmdCore c r.nd.seat s = some r.core → r.part ≠ 0 → (coreOf r.core s).fenced = false →
    stopStatus n s = writeStatus r (3 * 2 ^ 48 ||| repFlags r s) s) ∧
  (∀ s n c, s.cmds = [(n, c)] → c.substPending = true → allHeld c s = true → c.inl = [] → (∀ e ∈ c.seats, e.2.part = []) →
    ∃ t c', exec (.fallbackStart n) s = .next t ∧ cmdOf n t = some c' ∧ c'.subst = true ∧ c'.substPending = false ∧ c'.handle = c.handle ∧ c'.winEnd = c.winEnd) ∧
  (∀ s n c core seat q, s.cmds = [(n, c)] → placesOf c s = [(0, seat, core)] → tabFind 0 c.seats = some q → q.stopped = true → q.held = false → q.part = [] → c.stop = 1 →
    ∃ t, exec (.seatStop core) s = .next t ∧ cmdOf n t = none ∧ ∀ e ∈ (coreOf core t).groups, e.2.cmd ≠ n) ∧
  (∀ s n c rg st p, s.cmds = [(n, c)] → cmdGraph c s = some rg → c.st = .running → c.started = true → c.inSeg = false → c.guarNow = false → c.be = true →
    rg.graph.steps[c.step]? = some st → st.seg = none → rg.graph.steps.length = c.step + 1 → stepDone n c rg s = true → tabFind c.q s.qps = some p →
    ∃ t p' r, exec (.stepBarrier n) s = .next t ∧ cmdOf n t = none ∧ tabFind c.q t.qps = some p' ∧ p'.owed = p.owed ++ [r] ∧ r.cid = c.cid ∧ r.status = 0) ∧
  (∀ s n c rg st k sg seat core code, cmdOf n s = some c → cmdGraph c s = some rg → rg.graph.steps[c.step]? = some st → st.seg = some k → rg.graph.segs[k]? = some sg →
    placesOf c s = [(0, seat, core)] → bit sg.mask 0 = true → liveRun c 0 = true → seatHeld c.cdom seat core s = true → (runOf c 0).stopped = false → c.inSeg = true → c.segDone = false →
    c.st = .running → (coreOf core s).groups = [] → (coreOf core s).saved = [] → sg.n = 1 → loadCode c.cdom sg s = some code →
    ∃ t g, exec (.segmentLaunch n) s = .next t ∧ (coreOf core t).groups = [(0, g)] ∧ g.cmd = n ∧ g.cdom = c.cdom ∧ g.code = code ∧ g.g = [] ∧ g.p = [] ∧ tabGet 0 2 g.u = BitVec.ofNat 32 s.stroke.count ∧
      g.paths = [{ mask := BitVec.allOnes 32, pc := 0, reconv := [], stack := [], wait := .run }] ∧ t.mem = s.mem)

/-! ### Stations (03, 04, 05, 06) -/

/-- R75, R82, R87, R88, R112, R539, T3-3: an open repetition of Intake, Gather or Shape on a core whose input is there and good and whose output is free writes the tile that the rules give and counts;
TRANSPOSE exchanges rows and columns, RESHAPE keeps row order, BROADCAST repeats a row or a column, PAD fills with the pad element. POND_SLOT_FILLED lands the oldest slot that waits.
Which elements a reshaped or padded tile takes is the model's reading (log entry 37). -/
def Obligations.MovingStations : Prop :=
  (∀ core ext s r a dst, findRep core 0x10 s = some r → inPlace r r.nd.src0 3 (r.at' r.nd.adv0) s = some a → outPlace r r.nd.dst 2 (r.at' r.nd.advD) s = some dst →
    let d := readTile r a ext s
    d.1.bad = 0 → stored r dst d.1.rows d.1.scales d.1.idx d.1.ecc (if dst.t.amode = 2 then inAnchor a else dst.t.anchor) none (freeSlot r a d.2.2) (exec (.intakeCopy core ext) s)) ∧
  (∀ core ext s r a dst, findRep core 0x11 s = some r → inPlace r r.nd.src0 3 (r.at' r.nd.adv0) s = some a → outPlace r r.nd.dst 2 (r.at' r.nd.advD) s = some dst → dst.pond.isSome = true →
    let d := readTile r a ext s
    d.1.bad = 0 → stored r dst d.1.rows d.1.scales d.1.idx d.1.ecc (if dst.t.amode = 2 then inAnchor a else dst.t.anchor) (surveyOf dst.t d.1.scales) (freeSlot r a d.2.2)
      (exec (.intakeSurvey core ext) s)) ∧
  (∀ core ext s r a dst, findRep core 0x11 s = some r → inPlace r r.nd.src0 3 (r.at' r.nd.adv0) s = some a → outPlace r r.nd.dst 2 (r.at' r.nd.advD) s = some dst → dst.pond = none →
    let d := readTile r a ext s
    let w := writeTile r dst d.1.rows d.1.scales d.1.idx d.1.ecc (if dst.t.amode = 2 then inAnchor a else dst.t.anchor) (surveyOf dst.t d.1.scales) (freeSlot r a d.2.2)
    d.1.bad = 0 → w.1 = 0 →
    exec (.intakeSurvey core ext) s = .next (repEnd r (setRun r.cmd r.seat (raiseSurvey (1024 + r.nd.dst) (surveyOf dst.t d.1.scales) (seatRunOf r.cmd r.seat w.2)) w.2))) ∧
  (∀ core s r a dst, findRep core 0x60 s = some r → inPlace r r.nd.src0 3 (r.at' r.nd.adv0) s = some a → outPlace r r.nd.dst 2 (r.at' r.nd.advD) s = some dst →
    let d := readHere r a s
    d.1.bad = 0 → ∃ sc, stored r dst ((List.range dst.t.rows).map (fun i => (List.range dst.t.cols).map (fun j => (d.1.rows.getD j []).getD i 0))) sc d.1.idx d.1.ecc (inAnchor a) none
      (takeFree (dst.t.scaleLines * dst.t.blocks) (freeSlot r a d.2)).2 (exec (.shapeTranspose core) s)) ∧
  (∀ core s r a dst, findRep core 0x61 s = some r → inPlace r r.nd.src0 3 (r.at' r.nd.adv0) s = some a → outPlace r r.nd.dst 2 (r.at' r.nd.advD) s = some dst → 0 < a.t.cols →
    let d := readHere r a s
    d.1.bad = 0 → ∃ sc, stored r dst ((List.range dst.t.rows).map (fun i => (List.range dst.t.cols).map (fun j =>
        (d.1.rows.getD ((i * dst.t.cols + j) / a.t.cols) []).getD ((i * dst.t.cols + j) % a.t.cols) 0))) sc d.1.idx d.1.ecc (inAnchor a) none
      (takeFree (dst.t.scaleLines * dst.t.blocks) (freeSlot r a d.2)).2 (exec (.shapeReshape core) s)) ∧
  (∀ core s r a dst, findRep core 0x62 s = some r → inPlace r r.nd.src0 3 (r.at' r.nd.adv0) s = some a → outPlace r r.nd.dst 2 (r.at' r.nd.advD) s = some dst →
    let d := readHere r a s
    d.1.bad = 0 → ∃ sc, stored r dst ((List.range dst.t.rows).map (fun i => (List.range dst.t.cols).map (fun j =>
        if bit r.nd.param 63 then (d.1.rows.getD i []).getD 0 0 else (d.1.rows.getD 0 []).getD j 0))) sc d.1.idx d.1.ecc (inAnchor a) none
      (takeFree (dst.t.scaleLines * dst.t.blocks) (freeSlot r a d.2)).2 (exec (.shapeBroadcast core) s)) ∧
  (∀ core s r a dst, findRep core 0x63 s = some r → inPlace r r.nd.src0 3 (r.at' r.nd.adv0) s = some a → outPlace r r.nd.dst 2 (r.at' r.nd.advD) s = some dst →
    let d := readHere r a s
    d.1.bad = 0 → ∃ sc, stored r dst ((List.range dst.t.rows).map (fun i => (List.range dst.t.cols).map (fun j =>
        if i < a.t.rows ∧ j < a.t.cols then (d.1.rows.getD i []).getD j 0 else r.nd.param % 2 ^ 32 % 2 ^ fmtBits dst.t.fmt))) sc d.1.idx d.1.ecc (inAnchor a) none
      (takeFree (dst.t.scaleLines * dst.t.blocks) (freeSlot r a d.2)).2 (exec (.shapePad core) s)) ∧
  (∀ core ext s r t tab dst v x, findRep core 0x20 s = some r → tileOf r r.nd.src0 = some t → inPlace r r.nd.src1 4 0 s = some tab → outPlace r r.nd.dst 2 (r.at' r.nd.advD) s = some dst →
    (readHere r tab s).1.bad = 0 → t.rows = 1 → t.mx = false → ((readHere r tab s).1.rows.flatMap (fun l => l))[r.num]? = some v → v ≠ 0xFFFFFFFF → v < gatherField r 1 (bits r.nd.param 31 0) →
    gatherRow r t ((v * t.stride : Nat) : Int) ⟨[], 0, false, ext, (readHere r tab s).2⟩ = x → x.1.bad = 0 →
    ∃ ecc, stored r dst [StationBytes.row t x.1.bytes] [] ((readHere r tab s).1.idx || x.2) ecc 0 none x.1.st (exec (.gatherRows core ext) s)) ∧
  (∀ core ext s r t tab dst v x, findRep core 0x21 s = some r → tileOf r r.nd.src0 = some t → inPlace r r.nd.src1 4 0 s = some tab → outPlace r r.nd.dst 2 (r.at' r.nd.advD) s = some dst →
    (readHere r tab s).1.bad = 0 → t.rows = 1 → t.mx = false →
    let ps := bits r.nd.param 63 59
    let p := gatherField r 0 (bits r.nd.param 55 32) + r.num
    let rpp := max 1 (2 ^ ps / max 1 t.stride)
    ((readHere r tab s).1.rows.flatMap (fun l => l))[p / rpp]? = some v → v ≠ 0xFFFFFFFF → v < gatherField r 1 (bits r.nd.param 31 0) →
    gatherRow r t ((v * 2 ^ ps + p % rpp * t.stride : Nat) : Int) ⟨[], 0, false, ext, (readHere r tab s).2⟩ = x → x.1.bad = 0 →
    ∃ ecc, stored r dst [StationBytes.row t x.1.bytes] [] ((readHere r tab s).1.idx || x.2) ecc 0 none x.1.st (exec (.gatherPaged core ext) s)) ∧
  (∀ core ext s r t tab dst, findRep core 0x20 s = some r → tileOf r r.nd.src0 = some t → inPlace r r.nd.src1 4 0 s = some tab → outPlace r r.nd.dst 2 (r.at' r.nd.advD) s = some dst →
    (readHere r tab s).1.bad = 0 →
    let d := readHere r tab s
    let es := (List.range t.rows).map (fun j => (d.1.rows.flatMap (fun l => l))[r.num * t.rows + j]?)
    let g := gatherAll r t (gatherField r 1 (bits r.nd.param 31 0)) (fun e _ => (e * t.stride : Nat)) es ext d.2
    g.2.bad = 0 → ∃ sc, stored r dst (g.1.map (fun x => x.row)) sc (d.1.idx || g.1.any (fun x => x.oob)) (d.1.ecc || g.2.ecc) 0 none (takeFree (if t.mx then t.cols * t.blocks else 0) g.2.st).2
      (exec (.gatherRows core ext) s)) ∧
  (∀ core ext s r t tab dst, findRep core 0x21 s = some r → tileOf r r.nd.src0 = some t → inPlace r r.nd.src1 4 0 s = some tab → outPlace r r.nd.dst 2 (r.at' r.nd.advD) s = some dst →
    (readHere r tab s).1.bad = 0 →
    let d := readHere r tab s
    let p := fun (j : Nat) => gatherField r 0 (bits r.nd.param 55 32) + r.num * t.rows + j
    let rpp := max 1 (2 ^ bits r.nd.param 63 59 / max 1 t.stride)
    let es := (List.range t.rows).map (fun j => (d.1.rows.flatMap (fun l => l))[p j / rpp]?)
    let g := gatherAll r t (gatherField r 1 (bits r.nd.param 31 0)) (fun e j => (e * 2 ^ bits r.nd.param 63 59 + p j % rpp * t.stride : Nat)) es ext d.2
    g.2.bad = 0 → ∃ sc, stored r dst (g.1.map (fun x => x.row)) sc (d.1.idx || g.1.any (fun x => x.oob)) (d.1.ecc || g.2.ecc) 0 none (takeFree (if t.mx then t.cols * t.blocks else 0) g.2.st).2
      (exec (.gatherPaged core ext) s)) ∧
  (∀ r t limit offs es ext s, (gatherAll r t limit offs es ext s).1.length = es.length ∧
    ∀ (j : Nat) (x : GRow), (gatherAll r t limit offs es ext s).1[j]? = some x →
      (es[j]? = some none → x.row = List.replicate t.cols 0 ∧ x.oob = true) ∧
      (es[j]? = some (some 0xFFFFFFFF) → x.row = List.replicate t.cols 0 ∧ x.oob = false) ∧
      (∀ v, es[j]? = some (some v) → v ≠ 0xFFFFFFFF → limit ≤ v → x.row = List.replicate t.cols 0 ∧ x.oob = true)) ∧
  (∀ cmd pond s c rg k sl, cmdOf cmd s = some c → cmdGraph c s = some rg → (runOf c (pondSeat rg.graph pond)).ponds = [(k, sl)] → k / 2 ^ 32 = pond → sl.landed = false → sl.survey = none →
    ∃ t, exec (.pondSlotFilled cmd pond) s = .next t ∧ (seatRunOf cmd (pondSeat rg.graph pond) t).ponds = [(k, { sl with landed := true })] ∧ t.mem = s.mem)

/-- R113, R128, R139, R141, R142, R147..R149, R176, R537, R538: Matrix adds exact products of a tile pair into its slot; REDUCE.ADDX adds a partial on the slot's grid; REDUCE.LOGIC combines elements; VECTOR.MAP, ROWRED and
SOFTMAX write the tiles of their functions; the three Outlets write their tile and status word and return the slot. -/
def Obligations.ComputingStations : Prop :=
  (∀ core s r pa pb, findRep core 0x30 s = some r → cmdOf r.cmd s = some r.c → bits r.nd.param 63 56 = 1 → bits r.nd.param 55 48 ≤ 1 → bit r.nd.param 47 = false → bit r.nd.param 46 = false → joined r = false →
    r.rg.accFp32 = false → (runOf r.c r.seat).acc = [] → (runOf r.c r.seat).part = [] → (∀ st, r.rg.graph.steps[r.c.step]? = some st → st.msInt = 0) →
    inPlace r r.nd.src0 3 (r.at' r.nd.adv0) s = some pa → inPlace1 r (r.at' r.nd.adv1) s = some pb →
    let da := readHere r pa s
    let db := readHere r pb da.2
    let A := valueRows pa.t da.1
    let B := valueRows pb.t db.1
    da.1.bad = 0 → db.1.bad = 0 → (∀ row ∈ B, row.length ≤ 128) →
    ∃ t sl, exec (.matrixMma core) s = .next t ∧ accOf r r.num t = some sl ∧ sl.full = true ∧ sl.contrib = 1 ∧ sl.anchor = mmaAnchor r pa.t.cols 1 1 s ∧ repsDone (seatRunOf r.cmd r.seat t) r.ix = r.num + 1 ∧
      ∀ i j, i < A.length → j < ((B.head?).map (fun row => row.length)).getD 0 →
        accCell sl i j = (dotAx sl.anchor (A.getD i []) (B.map (fun row => row.getD j none)) Cell128.zero).1) ∧
  (∀ core s r pa a, findRep core 0x50 s = some r → cmdOf r.cmd s = some r.c → r.part + 1 = bits r.nd.param 63 56 → r.rg.accFp32 = false →
    (∀ st, r.rg.graph.steps[r.c.step]? = some st → st.msInt = 0) → inPlace r r.nd.src0 3 0 s = some pa → tabWf Cell128.zero a.cells = true →
    ((accOf r r.num s = some a ∧ (bit r.nd.param 55 = true → a.contrib = pairChain r)) ∨
      (accOf r r.num s = none ∧ bit r.nd.param 55 = false ∧ (runOf r.c r.seat).acc.length < 2 ∧ ∃ d, tileOf r r.nd.dst = some d ∧ a = { AccSlot.zero with anchor := if d.amode = 2 then inAnchor pa else d.anchor })) →
    let d := readHere r pa s
    d.1.bad = 0 → (∀ row ∈ d.1.rows, row.length ≤ 128) →
    ∃ t sl, exec (.reduceAddx core) s = .next t ∧ accOf r r.num t = some sl ∧ sl.full = true ∧ sl.anchor = a.anchor ∧ repsDone (seatRunOf r.cmd r.seat t) r.ix = r.num + 1 ∧
      ∀ i j v, (d.1.rows.getD i [])[j]? = some v → accCell sl i j = (accCell a i j).add (reanchor v (inAnchor pa) a.anchor).1) ∧
  (∀ core s r pa dst, findRep core 0x51 s = some r → cmdOf r.cmd s = some r.c → r.part + 1 = bits r.nd.param 63 56 →
    inPlace r r.nd.src0 3 0 s = some pa → outPlace r r.nd.dst 2 (r.at' r.nd.advD) s = some dst →
    let d := readHere r pa s
    let p := partOf r s
    let rows := if r.part = 0 then d.1.rows else List.zipWith (fun x y => List.zipWith (logicElt (bits r.nd.param 55 52) (fmtBits pa.t.fmt)) x y) p.rows d.1.rows
    let w := writeTile r dst rows [] (p.idx || d.1.idx) (p.ecc || d.1.ecc) 0 none (freeSlot r pa d.2)
    d.1.bad = 0 → w.1 = 0 → exec (.reduceLogic core) s = .next (repEnd r (writeStatus r (markBits (p.idx || d.1.idx) (p.ecc || d.1.ecc)) w.2))) ∧
  (∀ core s r a b dst, findRep core 0x40 s = some r → inPlace r r.nd.src0 3 (r.at' r.nd.adv0) s = some a → inPlace1 r (r.at' r.nd.adv1) s = some b →
    outPlace r r.nd.dst 2 (r.at' r.nd.advD) s = some dst → vfUsesB (bits r.nd.param 63 56) = true →
    let da := readHere r a s
    let db := readHere r b da.2
    da.1.bad = 0 → db.1.bad = 0 →
    stored r dst (List.zipWith (fun x y => List.zipWith (mapElt (bits r.nd.param 63 56) a.t b.t dst.t (BitVec.ofNat 32 r.nd.param)) x y) da.1.rows db.1.rows) [] (da.1.idx || db.1.idx) (da.1.ecc || db.1.ecc) 0 none
      (freeSlot r b (freeSlot r a db.2)) (exec (.vectorMap core) s)) ∧
  (∀ core s r a dst, findRep core 0x40 s = some r → inPlace r r.nd.src0 3 (r.at' r.nd.adv0) s = some a → outPlace r r.nd.dst 2 (r.at' r.nd.advD) s = some dst → vfUsesB (bits r.nd.param 63 56) = false →
    let d := readHere r a s
    d.1.bad = 0 →
    stored r dst (d.1.rows.map (fun row => row.map (fun x => mapElt (bits r.nd.param 63 56) a.t a.t dst.t (BitVec.ofNat 32 r.nd.param) x x))) [] d.1.idx d.1.ecc 0 none (freeSlot r a d.2) (exec (.vectorMap core) s)) ∧
  (∀ core s r a dst, findRep core 0x41 s = some r → inPlace r r.nd.src0 3 (r.at' r.nd.adv0) s = some a → outPlace r r.nd.dst 2 (r.at' r.nd.advD) s = some dst →
    let d := readHere r a s
    d.1.bad = 0 →
    stored r dst (d.1.rows.map (fun row => [vOut .nearest dst.t.fmt dst.t.ts (tree (if bits r.nd.param 63 56 = 0 then fmax else fadd) 8 (row.map (vNum a.t)))])) [] d.1.idx d.1.ecc 0 none (freeSlot r a d.2)
      (exec (.vectorRowred core) s)) ∧
  (∀ core s r a a' dst, findRep core 0x42 s = some r → cmdOf r.cmd s = some r.c → bits r.nd.param 63 60 = 0 → r.part = 0 → partOf r s = ⟨[], false, false⟩ → spanHolds r = true →
    inPlace r r.nd.src0 3 (spanAt r 0 r.nd.adv0) s = some a →
    let d := readHere r a s
    let p : PartTile := ⟨d.1.rows.map (fun row => row.map (fun x => (vNum a.t x).toNat)), d.1.idx, d.1.ecc⟩
    let s1 := addPart r (setPart r p d.2)
    inPlaceN r r.nd.src0 3 (spanAt r 0 r.nd.adv0) 0 s1 = some a' → a'.t.cols = a.t.cols → d.1.bad = 0 → (∀ row ∈ d.1.rows, row.length = a.t.cols) →
    let soft := d.1.rows.map (fun row => softRow (BitVec.ofNat 32 r.nd.param) (row.map (vNum a.t)))
    let s2 := ((tileBytes a' (soft.map (fun o => o.1.map (fun v => v.toNat))) []).foldl (writeSpan r a') (0, s1)).2
    let mid := setPart r { p with rows := soft.map (fun o => o.2.map (fun v => v.toNat)) } (freeSlot r a' s2)
    outPlace r r.nd.dst 2 (spanAt r 0 r.nd.advD) mid = some dst →
    stored r dst (soft.map (fun o => (o.2.take dst.t.cols).map (fun v => vOut .nearest dst.t.fmt dst.t.ts v))) [] d.1.idx d.1.ecc 0 none mid (exec (.vectorSoftmax core) s)) ∧
  (∀ core s r a, findRep core 0x42 s = some r → cmdOf r.cmd s = some r.c → 0 < r.part → r.part < bits r.nd.param 63 60 → spanHolds r = true →
    inPlaceN r r.nd.src0 3 (spanAt r r.part r.nd.adv0) r.part s = some a →
    let d := readHere r a s
    let p := partOf r s
    let t := addPart r (setPart r ⟨List.zipWith (fun x y => x ++ y) p.rows (d.1.rows.map (fun row => row.map (fun x => (vNum a.t x).toNat))), p.idx || d.1.idx, p.ecc || d.1.ecc⟩ d.2)
    d.1.bad = 0 → cmdOf r.cmd d.2 = some r.c → inPlaceN r r.nd.src0 3 (spanAt r (r.part + 1) r.nd.adv0) (r.part + 1) t = none →
    exec (.vectorSoftmax core) s = .next t) ∧
  (∀ core s r a dst, findRep core 0x70 s = some r → outSlot r s = some a → outHere r s = some dst →
    let o := outTile dst.t ((List.range dst.t.rows).map (fun i => (List.range dst.t.cols).map (outValue r.rg.accFp32 a i)))
    exec (.outletConvert core) s = .next (outEnd r dst o.1 o.2.1 a.idx a.ecc 0 (slotStatus a a.sticky a.sat a.nan o.2.2 a.idx a.ecc) s)) ∧
  (∀ core s r a b dst, findRep core 0x71 s = some r → outSlot r s = some a → inPlace1 r (r.at' r.nd.adv1) s = some b → outHere r s = some dst →
    let d := readHere r b s
    d.1.bad = 0 →
    let o := outTile dst.t ((List.range dst.t.rows).map (fun i => (List.range dst.t.cols).map (fun j =>
      fuse (bits r.nd.param 63 60 == 1) (outValue r.rg.accFp32 a i j) (((valueRows b.t d.1).getD i []).getD j none))))
    exec (.outletFused core) s = .next (outEnd r dst o.1 o.2.1 (a.idx || d.1.idx) (a.ecc || d.1.ecc) 0
      (slotStatus a a.sticky a.sat (a.nan || (valueRows b.t d.1).any (fun row => row.any (fun x => x.isNone))) o.2.2 (a.idx || d.1.idx) (a.ecc || d.1.ecc)) (freeSlot r b d.2))) ∧
  (∀ core s r a dst, findRep core 0x72 s = some r → outSlot r s = some a → outHere r s = some dst → dst.t.amode = 2 →
    let cs := (List.range dst.t.rows).map (fun i => (List.range dst.t.cols).map (exportCell r.rg.accFp32 a none i))
    exec (.outletExport core) s = .next (outEnd r dst (cs.map (fun row => row.map (fun c => c.1))) [] a.idx a.ecc a.anchor (slotStatus a a.sticky a.sat a.nan false a.idx a.ecc) s)) ∧
  (∀ core s r a dst, findRep core 0x72 s = some r → outSlot r s = some a → outHere r s = some dst → dst.t.amode ≠ 2 →
    let cs := (List.range dst.t.rows).map (fun i => (List.range dst.t.cols).map (exportCell r.rg.accFp32 a (some dst.t.anchor) i))
    exec (.outletExport core) s = .next (outEnd r dst (cs.map (fun row => row.map (fun c => c.1))) [] a.idx a.ecc dst.t.anchor
      (slotStatus a (a.sticky || cs.any (fun row => row.any (fun c => c.2.1))) (a.sat || cs.any (fun row => row.any (fun c => c.2.2))) a.nan false a.idx a.ecc) s)) ∧
  (∀ core s, findRep core 0x30 s = none → exec (.matrixMma core) s = .next s)

/-- R82, R94, R101, R106: what the stations' shared operations leave: a stored line stands in the destination's scratchpad byte for byte, and only there; the end of a repetition counts
it and clears its part; the end of an Outlet repetition returns the slot. -/
def Obligations.StationEffects : Prop :=
  (∀ r pl s p, pl.shell = false → s.flawless → Memory.wf s.mem.spad = true →
    ∃ t, writeSpan r pl (0, s) p = (0, t) ∧ memRead t.mem.spad (spadIx pl.core p.1) p.2.length = p.2 ∧
      (∀ a, a < spadIx pl.core p.1 ∨ spadIx pl.core p.1 + p.2.length ≤ a → memGet t.mem.spad a = memGet s.mem.spad a) ∧ t.mem.dram = s.mem.dram ∧ t.cores = s.cores) ∧
  (∀ r s, cmdOf r.cmd s = some r.c → (∀ st, r.rg.graph.steps[r.c.step]? = some st → st.msInt = 0) →
    repsDone (seatRunOf r.cmd r.seat (repEnd r s)) r.ix = repsDone (runOf r.c r.seat) r.ix + 1 ∧ (repEnd r s).mem = s.mem ∧ (repEnd r s).cores = s.cores) ∧
  (∀ r dst rows scales idx ecc anchor st s, cmdOf r.cmd s = some r.c → (writeTile r dst rows scales idx ecc anchor none s).1 = 0 → (∀ st, r.rg.graph.steps[r.c.step]? = some st → st.msInt = 0) →
    keysFrom 0 (runOf r.c r.seat).acc = true → accOf r r.num (outEnd r dst rows scales idx ecc anchor st s) = none)

/-! ### The host interface (12) -/

/-- R352, R362, R364, R365, R366, R369, R389: a doorbell copies and accepts a session's request whose token, MAC and number are right; SQ and CQ doorbells move the queue's indices and one that goes too
far tears it; a valid slot is fetched and counted, the eighth failed read tears the queue; a completion and a park report are written to the CQ slot of the write index. -/
def Obligations.QueuesAndMailboxes : Prop :=
  (∀ m s req, req = memRead (mbxOf m s).req 0 4096 → (m < 64 → s.flt.injs = []) → s.dev.state = 2 → (mbxOf m s).busy = false → (mbxOf m s).session = true →
    let w := fun i => leNat ((req.drop (8 * i)).take 8)
    let len := w 0 % 2 ^ 32
    let params := (req.drop 32).take len
    len ≤ 4064 → w 0 / 2 ^ 48 ∉ [0x0201, 0x0202, 0x0101] → w 1 = (mbxOf m s).token.toNat →
    (req.drop 24).take 8 = (hmac (mbxOf m s).key (req.take 24 ++ List.replicate 8 0 ++ params)).take 8 → w 2 % 2 ^ 32 = ((mbxOf m s).seq + 1) % 2 ^ 32 →
    requestStatus (w 0 / 2 ^ 48) (w 0 / 2 ^ 32 % 2 ^ 16 + w 2 / 2 ^ 32) len params (mbxOf m s).tenant s = none →
    ∃ t, exec (.mbxGo m) s = .next t ∧ (mbxOf m t).busy = true ∧ (mbxOf m t).cur = some ⟨w 0 / 2 ^ 48, params, w 2 % 2 ^ 32, (mbxOf m s).key, (mbxOf m s).tenant, false⟩ ∧
      (mbxOf m t).seq = w 2 % 2 ^ 32) ∧
  (∀ m s, m % 64 = 0 → (m < 64 → s.flt.injs = []) → (mbxOf m s).busy = true →
    ∃ t, exec (.mbxGo m) s = .next t ∧ mbxOf m t = { mbxOf m s with overrun := true }) ∧
  (∀ q tail s p, s.flt.injs = [] → (s.dev.state = 2 ∨ s.dev.state = 3) → tabFind q s.qps = some p → p.torn = false → tail.toNat ≠ p.tail →
    ((tail.toNat + 2 ^ 16 - p.n % 2 ^ 16) % 2 ^ 16 ≤ p.depth → exec (.sqDoorbell q tail) s = .next { s with qps := tabPut q { p with tail := tail.toNat } s.qps }) ∧
    (p.depth < (tail.toNat + 2 ^ 16 - p.n % 2 ^ 16) % 2 ^ 16 → ∃ t p' e, exec (.sqDoorbell q tail) s = .next t ∧ tabFind q t.qps = some p' ∧ p'.torn = true ∧ p'.cause = 3 ∧
      p'.owed = p.owed ++ [e] ∧ e.event = true ∧ e.status = 0x0600 ∧ e.cid = 0xFFFF)) ∧
  (∀ q head s p, s.flt.injs = [] → (s.dev.state = 2 ∨ s.dev.state = 3) → tabFind q s.qps = some p → (head.toNat + 2 ^ 16 - p.h % 2 ^ 16) % 2 ^ 16 ≤ (p.w - p.h) % 2 ^ 16 →
    exec (.cqDoorbell q head) s = .next { s with qps := tabPut q { p with h := p.h + (head.toNat + 2 ^ 16 - p.h % 2 ^ 16) % 2 ^ 16 } s.qps }) ∧
  (∀ q ext s p, tabFind q s.qps = some p → mayFetch p s = true → p.rereadAt = none → slotFault p ext = none → p.entries = [] → p.ctlBusy = false → entryStatus { p with n := (p.n + 1) % 2 ^ 32, awaiting := p.awaiting + 1, rereads := 0, rereadAt := none, entries := [parseEntry p ext.data] } (parseEntry p ext.data) (setQp q { p with n := (p.n + 1) % 2 ^ 32, awaiting := p.awaiting + 1, rereads := 0, rereadAt := none, entries := [parseEntry p ext.data] } s) = none →
    ∃ t p', exec (.sqEntryFetch q ext) s = .next t ∧ tabFind q t.qps = some p' ∧ p'.n = (p.n + 1) % 2 ^ 32 ∧ p'.entries = [parseEntry p ext.data] ∧ p'.awaiting = p.awaiting + 1 ∧ t.mem = s.mem) ∧
  (∀ q ext s p, tabFind q s.qps = some p → mayFetch p s = true → p.rereadAt = none → slotFault p ext ≠ none →
    exec (.sqEntryFetch q ext) s = .next { s with qps := tabPut q { p with rereads := 0, rereadAt := some (s.now + 100) } s.qps }) ∧
  (∀ q ext s p t0 c, tabFind q s.qps = some p → p.rereadAt = some t0 → p.lost = false → slotFault p ext = some c → p.rereads = 7 →
    ∃ t p', exec (.sqEntryReread q ext) s = .next t ∧ tabFind q t.qps = some p' ∧ p'.torn = true ∧ p'.cause = c ∧ p'.rereadAt = none ∧ t.now = max s.now t0) ∧
  (∀ q s p c, tabFind q s.qps = some p → nextCompl p s = some c → c.irq = false → c.event = false → p.closing = none →
    ∃ t p', exec (.completionWrite q) s = .next t ∧ tabFind q t.qps = some p' ∧ p'.w = p.w + 1 ∧ p'.owed = p.owed.tail ∧
      t.out = s.out ++ [.cqe q (p.w % p.depth) (complBytes { p with owed := p.owed.tail } c)] ∧ t.mem = s.mem) ∧
  (∀ q cid s p n c core slot r, tabFind q s.qps = some p → s.cmds = [(n, c)] → c.q = q → c.cid = cid.toNat → c.parkOwed = true → c.irq = false → s.host.lost = false → 2 ≤ p.room →
    c.park = some (core, slot, r) →
    ∃ t p' c' bytes, exec (.parkReportWrite q cid) s = .next t ∧ tabFind q t.qps = some p' ∧ p'.w = p.w + 1 ∧ cmdOf n t = some c' ∧ c'.parkOwed = false ∧
      t.out = s.out ++ [.cqe q (p.w % p.depth) bytes] ∧ bytes.length = 32 ∧ leNat ((bytes.drop 24).take 8) = r.detail % 2 ^ 64)

/-- R9, R242, R349, R350, R372, R373, R375, R376, R377, R378, R531: MSI-X messages pend while masked and go out when unmasked or when the hold ends; register writes follow the access codes; a refused BAR access is noted;
BAR4 reads return the mapped bytes once no earlier BAR4 write waits, BAR4 writes reach the home, and refused requests are counted; host loss keeps the queues for a resume, an abandon closes them. -/
def Obligations.HostSide : Prop :=
  (∀ loc v s, (vecOf loc v s).pend = true → s.host.funcMask = false → s.host.lost = false → (loc = false → s.host.msixOn = true) → keysFrom 0 s.host.vecs = true → keysFrom 0 s.host.locVecs = true →
    ∃ t, exec (.msixUnmask loc v) s = .next t ∧ t.out = s.out ++ [.msix loc v (vecOf loc v s).addr (vecOf loc v s).data] ∧ (vecOf loc v t).pend = false ∧ (vecOf loc v t).mask = false) ∧
  (∀ q s p t0, tabFind q s.qps = some p → p.sigDue = true → p.local' = false → (vecOf false p.vec s).sigAt = some t0 → (vecOf false p.vec s).mask = false → s.host.funcMask = false → s.host.lost = false →
    s.host.msixOn = true →
    ∃ t p', exec (.msixHoldExpiry q) s = .next t ∧ tabFind q t.qps = some p' ∧ p'.sigDue = false ∧ t.now = max s.now (t0 + 100 * p.hold) ∧
      t.out = s.out ++ [.msix false p.vec (vecOf false p.vec s).addr (vecOf false p.vec s).data]) ∧
  (∀ check rid s, (s.dev.state = 2 ∨ s.dev.state = 3) → exec (.ridCheckSet check rid) s = .next { s with host := { s.host with ridCheck := check, hostRid := rid.toNat } }) ∧
  (∀ bar s, exec (.barBadAccess bar true) s = .next { s with host := { s.host with barBad := true }, out := s.out ++ [.unsupported bar] } ∧
    exec (.barBadAccess bar false) s = .next { s with host := { s.host with barBad := true } }) ∧
  (∀ m value s, m < 64 → (s.dev.state = 2 ∨ s.dev.state = 3) → s.flt.injs = [] → bit value.toNat 62 = true → bit value.toNat 61 = false →
    ∃ t, exec (.registerWrite false (0x100000 + 0x4000 * m + 8) 8 value) s = .next t ∧ t = setMbx m { mbxOf m s with done := false } s) ∧
  (∀ x len s d dpa r, s.flt.injs = [] → (s.dev.state = 2 ∨ s.dev.state = 3) → bar4Target x 0 false s = some (d, dpa, r) → d ∉ s.coh.failing → 0 < len → x % 512 + len ≤ 512 → dpa % 512 = x % 512 → s.coh.bar4 = [] →
    (bar4Waits s = true → exec (.bar4Read x len 0 false) s = .next { s with coh := { s.coh with bar4 := [(dpa / 512, .dread .pcie (dpa % 512) len d x)] } }) ∧
    (bar4Waits s = false → idleLine (dpa / 512) s → readsOpen (dpa / 512) (.dread .pcie (dpa % 512) len d x) s = true → (dirOf (dpa / 512) s).dstate = .inv →
      ∃ t, exec (.bar4Read x len 0 false) s = .next t ∧ t.coh.dir = s.coh.dir ∧ t.coh.bar4 = [] ∧ t.out.getLast? = some (.dread .pcie x (homeAt dpa len s).1 (!(homeAt dpa len s).2.1)) ∧
        (s.flawless → fencedAt (dpa / 512 * 512) s = false → t.out = s.out ++ [.dread .pcie x (homeAt dpa len s).1 (!(homeAt dpa len s).2.1)] ∧ t.mem = s.mem))) ∧
  (∀ x s bytes d dpa r, s.flt.injs = [] → (s.dev.state = 2 ∨ s.dev.state = 3) → bar4Target x 0 true s = some (d, dpa, r) → d ∉ s.coh.failing → bytes.length = 8 → x % 8 = 0 → dpa % 512 = x % 512 → s.coh.bar4 = [] →
    idleLine (dpa / 512) s → (dirOf (dpa / 512) s).dstate = .inv → keysFrom 0 s.coh.dir = true →
    ∃ t, exec (.bar4Write x 0 bytes) s = .next t ∧ t.coh.bar4 = [] ∧ (dirOf (dpa / 512) t).dstate = .inv ∧ tabFind (dpa / 512) t.coh.open' = none ∧
      (s.flawless → fencedAt (dpa / 512 * 512) s = false → Memory.wf s.mem.dram = true → Memory.wf (hlineOf (dpa / 512) s).data = true →
        (homeWord (dpa / 8) t).data = leNat bytes ∧ (homeWord (dpa / 8) t).good = true ∧ t.out = s.out)) ∧
  (∀ x len s, s.flt.injs = [] → (s.dev.state = 2 ∨ s.dev.state = 3) → bar4Target x 0 false s = none → (aptOf (x / 2 ^ 26) s).refused < 2 ^ 32 - 1 →
    ∃ t, exec (.bar4Read x len 0 false) s = .next t ∧ (aptOf (x / 2 ^ 26) t).refused = (aptOf (x / 2 ^ 26) s).refused + 1 ∧ t.host.bar4Ref = true ∧ t.out = s.out ++ [.unsupported 4]) ∧
  (∀ cause s q p, s.host.lost = false → cause = 1 → tabFind q s.qps = some p → p.local' = false →
    ∃ t p', exec (.hostLoss cause) s = .next t ∧ t.host.lost = true ∧ t.host.cause = cause ∧ t.host.linkUp = false ∧ t.host.lossCount = min (s.host.lossCount + 1) (2 ^ 32 - 1) ∧
      tabFind q t.qps = some p' ∧ p'.lost = true ∧ p'.owed = p.owed ∧ t.cmds = s.cmds ∧ t.mem = s.mem) ∧
  (∀ s q p, s.host.lost = true → (s.dev.state = 2 ∨ s.dev.state = 3) → s.qps = [(q, p)] → p.lost = true → p.owed = [] → p.local' = false → p.room = 0 →
    ∃ t p' e, exec .hostResume s = .next t ∧ t.host.lost = false ∧ t.host.linkUp = true ∧ tabFind q t.qps = some p' ∧ p'.lost = false ∧ p'.owed = [e] ∧ e.event = true ∧ e.status = 0x0601) ∧
  (∀ s q p, s.host.lost = true → (s.dev.state = 2 ∨ s.dev.state = 3) → s.qps = [(q, p)] → p.local' = false → p.closing = none → keysFrom 0 s.mbx = true →
    ∃ t, exec .hostAbandon s = .next t ∧ t.host.lost = false ∧ t.qps = [] ∧ ∀ m, m < 64 → (mbxOf m t).session = false) ∧
  (∀ s, exec .pcieLinkRetrain s = .next s) ∧
  (∀ s, s.dev.stage ≠ .held → ∃ t, exec .perstNDeassert s = .next t ∧ t.dev.perst = false ∧ t.host.linkUp = true ∧ t.host.cfgAt = some (s.now + 10000000) ∧ t.mem = s.mem)

/-! ### Control commands: answers, sessions, owner, queue pairs (12, 13, 17) -/

/-- R353, R369, R385: an answer to a mailbox clears `busy`, sets `done` and puts header and results at the start of the response; an answer to a queue records one completion of the entry at its head and takes
that entry away; an answer changes the mailboxes, the queue pairs, what the host interface holds of its messages and what is sent, nothing else of the device. -/
def Obligations.Answers : Prop :=
  (∀ m status outs s q, (mbxOf m s).cur = some q → Memory.wf (mbxOf m s).resp = true → outs.length ≤ 500 →
    let t := respond (.mbx m) status outs s
    (mbxOf m t).busy = false ∧ (mbxOf m t).done = true ∧ (mbxOf m t).cur = none ∧ memRead (mbxOf m t).resp 0 8 = leBytes (q.code * 2 ^ 48 + status * 2 ^ 32 + 8 * outs.length) 8 ∧
      memRead (mbxOf m t).resp 16 8 = leBytes q.seq 8 ∧ memRead (mbxOf m t).resp 32 (8 * outs.length) = outs.flatMap (fun w => leBytes w 8) ∧ t.mem = s.mem ∧ t.cores = s.cores ∧ t.qps = s.qps) ∧
  (∀ q status outs s p e, tabFind q s.qps = some p → p.entries = [e] → ∃ p' c, tabFind q (respond (.queue q) status outs s).qps = some p' ∧ p'.entries = [] ∧ p'.ctlBusy = false ∧
      p'.owed = p.owed ++ [c] ∧ c.cid = e.cid ∧ c.status = status ∧ c.irq = e.irq ∧ c.event = false ∧ c.out0 = (outs.headD 0) % 2 ^ 64 ∧ (respond (.queue q) status outs s).mem = s.mem) ∧
  (∀ src st detail off res s, let t := respondBytes src st detail off res s
    t = { s with mbx := t.mbx, qps := t.qps, host := t.host, out := t.out })

/-- R354, R355, R356, R357: SESSION.OPEN of a tenant with a key answers a nonce and remembers it; SESSION.PROVE of the right proof within a second binds the mailbox to the tenant under the drawn token; a wrong proof spends
the nonce; SESSION.CLOSE ends the session. -/
def Obligations.SessionCommands : Prop :=
  (∀ m rnd s r, reqOf 0x0201 (.mbx m) s = some r → (mbxOf m s).session = false → m % 64 ≠ 0 → r.field 0 15 0 ≠ 0xFFFE → proofKey (r.field 0 15 0) s ≠ [] → lockedOut (r.field 0 15 0) s = false →
    rnd.length = 32 →
    exec (.sessionOpen m rnd) s = .next (respondBytes (.mbx m) 0 0 0 rnd (setMbx m { mbxOf m s with nonce := some (rnd, r.field 0 15 0, s.now) } s))) ∧
  (∀ m (rnd : Word) s r n a, rnd ≠ 0 → reqOf 0x0202 (.mbx m) s = some r → (mbxOf m s).session = false → (mbxOf m s).nonce = some (n, r.field 0 15 0, a) → s.now ≤ a + 100000000 → proofKey (r.field 0 15 0) s ≠ [] →
    (r.params.drop 8).take 32 = hmac (proofKey (r.field 0 15 0) s) (n ++ leBytes (m % 64) 2 ++ leBytes (r.field 0 15 0) 2) →
    ∃ t, exec (.sessionProve m rnd) s = .next t ∧ (mbxOf m t).session = true ∧ (mbxOf m t).tenant = r.field 0 15 0 ∧ (mbxOf m t).seq = 0 ∧ (mbxOf m t).token = rnd ∧ (mbxOf m t).nonce = none ∧
      (mbxOf m t).key = hmac (proofKey (r.field 0 15 0) s) (n ++ leBytes rnd.toNat 8) ∧ (mbxOf m t).done = true) ∧
  (∀ m (rnd : Word) s r n a, rnd ≠ 0 → reqOf 0x0202 (.mbx m) s = some r → (mbxOf m s).session = false → (mbxOf m s).nonce = some (n, r.field 0 15 0, a) →
    (r.params.drop 8).take 32 ≠ hmac (proofKey (r.field 0 15 0) s) (n ++ leBytes (m % 64) 2 ++ leBytes (r.field 0 15 0) 2) →
    ∃ t, exec (.sessionProve m rnd) s = .next t ∧ (mbxOf m t).session = false ∧ (mbxOf m t).nonce = none ∧ memRead (mbxOf m t).resp 4 2 = [0x06#8, 0x02#8]) ∧
  (∀ m s r, reqOf 0x0203 (.mbx m) s = some r → keysFrom 0 s.mbx = true →
    ∃ t, exec (.sessionClose m) s = .next t ∧ (mbxOf m t).session = false ∧ (mbxOf m t).tenant = 0xFFFF ∧ (mbxOf m t).token = 0 ∧ (mbxOf m t).key = [] ∧ (mbxOf m t).done = true)

/-- R324, R325, R451, R452, R503..R505: the owner adds, keys and removes tenants, claims the device with a wrapped secret, replaces the secret, sets the core floor and reinstates the device; each answers OK and
writes the device section where the rules say so. -/
def Obligations.OwnerCommands : Prop :=
  (∀ m s r, reqOf 0x0102 (.mbx m) s = some r → tenantOf (r.field 0 11 0) s = none → (∀ e ∈ s.tenants, e.2.pasid ≠ r.field 1 19 0) → shellLive (r.field 0 24 16) s = true →
    ∃ x, exec (.ownerTenantAdd m) s = .next (respond (.mbx m) 0 [] (setTenant (r.field 0 11 0) x s)) ∧ x.shell = r.field 0 24 16 ∧ x.pasid = r.field 1 19 0 ∧ x.keySet = false) ∧
  (∀ m s r e, reqOf 0x0103 (.mbx m) s = some r → tenantOf (r.field 0 11 0) s = some e → keysFrom 0 s.tenants = true → keysFrom 0 s.qps = true →
    ∃ t, exec (.ownerTenantRemove m) s = .next t ∧ tenantOf (r.field 0 11 0) t = none ∧ ∀ x ∈ t.qps, x.2.tenant ≠ r.field 0 11 0) ∧
  (∀ m s r e k, reqOf 0x0104 (.mbx m) s = some r → tenantOf (r.field 0 11 0) s = some e → keyUnwrap (curKey m s) ((r.params.drop 8).take 40) = some k →
    ∃ t, exec (.ownerTenantKey m) s = .next t ∧ tenantOf (r.field 0 11 0) t = some { e with keySet := true, key := k, keyGen := (e.keyGen + 1) % 2 ^ 32 }) ∧
  (∀ m rnd s r sec, reqOf 0x0101 (.mbx m) s = some r → m % 64 = 0 → s.dev.devsec.claimed = false →
    keyUnwrap (hmac (x25519 Config.agreementKey (r.params.take 32)) (r.params.take 32 ++ x25519 Config.agreementKey (leBytes 9 32) ++ leBytes s.fuse.serial 8)) ((r.params.drop 32).take 40) = some sec →
    (∃ b ∈ sec, b ≠ 0) → (∀ b ∈ r.params.drop 72, b = 0) → s.fuse.claims < 32 →
    ∃ t, exec (.ownerClaim m rnd) s = .next t ∧ t.fuse.claims = s.fuse.claims + 1 ∧ t.dev.devsec.claimed = true ∧ t.dev.devsec.secret = sec ∧ (mbxOf m t).done = true) ∧
  (∀ m rnd s r sec, reqOf 0x0105 (.mbx m) s = some r → keyUnwrap (curKey m s) (r.params.take 40) = some sec →
    ∃ t, exec (.ownerSecret m rnd) s = .next t ∧ t.dev.devsec.secret = sec ∧ t.man.level = 0 ∧ t.dev.devsec.claimed = s.dev.devsec.claimed) ∧
  (∀ m s r, reqOf 0x0106 (.mbx m) s = some r → r.field 0 8 0 ≤ liveCores s → r.field 0 8 0 ≤ 368 →
    exec (.ownerFloor m) s = .next (respond (.mbx m) 0 [] (writeDevSec { s.dev.devsec with floor := r.field 0 8 0 } s))) ∧
  (∀ m s r, reqOf 0x0107 (.mbx m) s = some r → s.dev.devsec.oos = true → s.dev.coldOos = true → bit (r.word 0) 0 = false → s.dev.devsec.floor ≤ liveCores s →
    ∃ t, exec (.ownerReinstate m) s = .next t ∧ t.dev.devsec.oos = false ∧ t.dev.state = 2 ∧ t.dev.devsec.coresRet = s.dev.devsec.coresRet) ∧
  (∀ m s r, reqOf 0x0107 (.mbx m) s = some r → (s.dev.devsec.oos = false ∨ s.dev.coldOos = false) → exec (.ownerReinstate m) s = .next (respond (.mbx m) 0x0105 [] s))

/-- R359, R367: QUEUE.CREATE gives the tenant a queue pair of 2^lg slots with the drawn token and the key of its nonce; QUEUE.DELETE of a queue with nothing owed ends it; QUEUE.RESET of a torn queue mends it. -/
def Obligations.QueueCommands : Prop :=
  (∀ m pick token rnd s r, (token : Word) ≠ 0 → reqOf 0x0701 (.mbx m) s = some r → 4 ≤ r.field 2 3 0 → r.field 2 3 0 ≤ 12 → r.field 2 26 16 ≠ 0 → r.word 0 % 4096 = 0 → r.word 1 % 4096 = 0 → pick < 4096 →
    tabFind pick s.qps = none → rnd.length = 32 →
    ∃ t p, exec (.queueCreate m pick token rnd) s = .next t ∧ tabFind pick t.qps = some p ∧ p.tenant = r.tenant ∧ p.depth = 2 ^ r.field 2 3 0 ∧ p.vec = r.field 2 26 16 ∧ p.token = token ∧ p.nonce = rnd ∧
      p.key = hmac (proofKey r.tenant s) (rnd ++ leBytes token.toNat 8 ++ leBytes pick 2) ∧ p.n = 0 ∧ p.w = 0 ∧ p.h = 0 ∧ p.torn = false ∧ p.entries = [] ∧ p.owed = [] ∧ (mbxOf m t).done = true) ∧
  (∀ m s r p, reqOf 0x0702 (.mbx m) s = some r → tabFind (r.field 0 11 0) s.qps = some p → p.tenant = r.tenant → p.closing = none → p.owed = [] → p.awaiting = 0 → keysFrom 0 s.qps = true →
    ∃ t, exec (.queueDelete m) s = .next t ∧ tabFind (r.field 0 11 0) t.qps = none ∧ (mbxOf m t).done = true) ∧
  (∀ m s r p, reqOf 0x0703 (.mbx m) s = some r → tabFind (r.field 0 11 0) s.qps = some p → p.tenant = r.tenant → p.torn = true → (p.tail + 2 ^ 16 - p.n % 2 ^ 16) % 2 ^ 16 ≤ p.depth →
    exec (.queueReset m) s = .next (respond (.mbx m) 0 [] { s with qps := tabPut (r.field 0 11 0) { p with torn := false, cause := 0 } s.qps }))

/-! ### Shells (11) -/

/-- R315, R323, R324: SHELL.CREATE of a descriptor that passes every check makes the shell under the offered number with that composition and begins clearing its channels; R330, R331: SHELL.REBIND of one
that passes names its flip and leaves the composition as it is; R393: SHELL.DESTROY begins the shell's end and ends its tenants' sessions; SHELL.QUERY answers without a change. -/
def Obligations.ShellCommands : Prop :=
  (∀ m ext pick s r de s' d, reqOf 0x0301 (.mbx m) s = some r → readDesc (r.word 0) (r.field 1 19 0) (r.field 1 40 32) ext s = (.inr de, s') → freeDom pick s' = some d → checkNew (some d) de s' = none →
    ∃ t sh, exec (.shellCreate m ext pick) s = .next t ∧ shellOf d t = some sh ∧ sh.comp = de.comp ∧ sh.ranges = [] ∧ sh.epoch = 0 ∧
      (∀ e ∈ de.comp.sets, ∀ c ∈ e.2.chans, (chanOf c t).clearing = true) ∧ (∀ e ∈ de.comp.sets, e.2.chans ≠ [] → sh.created = some (.mbx m))) ∧
  (∀ m ext s r sh de s' c sub f, reqOf 0x0302 (.mbx m) s = some r → shellOf (r.field 2 8 0) s = some sh → sh.created = none → s.retiring.contains (r.field 2 8 0) = false → sh.rebind = none →
    0 < r.field 3 23 16 → r.field 3 23 16 ≤ 64 → readDesc (r.word 0) (r.field 1 19 0) (r.field 1 40 32) ext s = (.inr de, s') → checkRebind (r.field 2 8 0) sh de s' = none →
    (∀ i, i < de.nC → inHandover sh i = false) → s'.released = [] → rebindComp sh de.comp s' = some (c, sub) → firstFlip sh.comp de.comp s' = some f → (∀ x, sub = some x → 0 < r.field 3 15 0 ∧ r.field 3 15 0 ≤ chanRate s' x.2.1 / 100) →
    ∃ t sh' rb, exec (.shellRebind m ext) s = .next t ∧ shellOf (r.field 2 8 0) t = some sh' ∧ sh'.comp = sh.comp ∧ sh'.epoch = sh.epoch ∧ sh'.rebind = some rb ∧ rb.comp = c ∧ rb.flip = f ∧ rb.step = 0 ∧
      rb.src = .mbx m) ∧
  (∀ m s r, reqOf 0x0303 (.mbx m) s = some r → shellLive (r.field 0 8 0) s = true → s.retiring.contains (r.field 0 8 0) = false → keysFrom 0 s.mbx = true →
    ∃ t, exec (.shellDestroy m) s = .next t ∧ r.field 0 8 0 ∈ t.retiring ∧ t.tenants = s.tenants ∧
      (∀ e ∈ t.mbx, e.2.session = true → tenantOf e.2.tenant t = none ∨ tenantShell e.2.tenant t ≠ r.field 0 8 0)) ∧
  (∀ src s r sh, reqOf 0x0306 src s = some r → bit (r.word 0) 0 = false → shellOf (r.cdom s) s = some sh →
    ∃ outs, exec (.shellQuery src) s = .next (respond src 0 outs s) ∧ outs.length = 2 ∧ outs.headD 0 % 2 ^ 16 = r.cdom s % 2 ^ 16) ∧
  (∀ src s r x, reqOf 0x0306 src s = some r → bit (r.word 0) 0 = true → tenantOf (r.field 0 27 16) s = some x → x.shell = r.cdom s →
    exec (.shellQuery src) s = .next (respond src 0 (tenantWords x) s)) ∧
  (∀ src s r x, reqOf 0x0306 src s = some r → bit (r.word 0) 0 = true → tenantOf (r.field 0 27 16) s = some x → x.shell ≠ r.cdom s →
    exec (.shellQuery src) s = .next (respond src 0x0104 [] s))

/-- R331, R332, R335, R336, R338: the steps of a re-binding: the copy of a substitution is marked done, an old epoch drains, a seat moves, the re-binding completes; a forced drain ends the old epoch no sooner
than T_rb after the flip. -/
def Obligations.RebindingSteps : Prop :=
  (∀ d s sh r i o n, shellOf d s = some sh → sh.rebind = some r → r.subst = some (i, o, n) → r.step = 0 → r.copied = false → (chanOf n s).clearing = false → s.stroke.count % max 1 r.copyK = 0 →
    ∃ t sh', exec (.substitutionCopyDone d) s = .next t ∧ shellOf d t = some sh' ∧ sh'.rebind = some { r with copied := true } ∧ sh'.comp = sh.comp) ∧
  (∀ d s sh, shellOf d s = some sh → sh.oldEpoch = true → (∀ e ∈ s.cores, oldRequests d e.1 s = false) → (∀ x ∈ sh.olds, x ∉ requestsOf d s) →
    ∃ t sh', exec (.rebindDrainDone d) s = .next t ∧ shellOf d t = some sh' ∧ sh'.oldEpoch = false ∧ sh'.owed = [] ∧ sh'.olds = [] ∧ sh'.epoch = sh.epoch ∧ t.mem = s.mem) ∧
  (∀ d s sh e, shellOf d s = some sh → e ∈ s.cores → oldRequests d e.1 s = true → exec (.rebindDrainDone d) s = .next s) ∧
  (∀ d s sh x, shellOf d s = some sh → x ∈ sh.olds → x ∈ requestsOf d s → exec (.rebindDrainDone d) s = .next s) ∧
  (∀ d seat s sh r x, shellOf d s = some sh → sh.rebind = some r → x ∈ r.moves → x.1 = seat → r.step ≠ 0 → sh.oldEpoch = false →
    ∃ t sh' r', exec (.seatMoveDone d seat) s = .next t ∧ shellOf d t = some sh' ∧ sh'.rebind = some r' ∧ r'.moves = r.moves.filter (fun y => y.1 != seat) ∧
      (∀ c, r.moves.find? (fun y => y.1 == seat) = some x → x.2.1 ≠ x.2.2 → tabFind (ctxKey d seat) (coreOf x.2.1 s).ctxs = some c → tabFind (ctxKey d seat) (coreOf x.2.2 t).ctxs = some c ∧ t.mem.dram = s.mem.dram)) ∧
  (∀ d s sh r, shellOf d s = some sh → sh.rebind = some r → r.step ≠ 0 → sh.oldEpoch = false → r.moves = [] →
    ∃ t sh', exec (.rebindComplete d) s = .next t ∧ shellOf d t = some sh' ∧ sh'.rebind = none ∧ sh'.comp = sh.comp ∧ t.mem.dram = s.mem.dram) ∧
  (∀ d s sh r, shellOf d s = some sh → sh.rebind = some r → r.step ≠ 0 → sh.oldEpoch = true →
    ∃ t sh', exec (.forcedDrain d) s = .next t ∧ shellOf d t = some sh' ∧ sh'.oldEpoch = false ∧ r.began + r.trb ≤ t.now ∧ s.now ≤ t.now)

/-- R340, R341, R342, R393: a set leaves its shell by SHELL.RELEASE at a coming flip and another takes it by SHELL.ACQUIRE; a release that nobody acquired comes back after 1 ms; a set in a hand-over is busy. -/
def Obligations.SetHandovers : Prop :=
  (∀ src s r sh, reqOf 0x0304 src s = some r → shellOf (r.cdom s) s = some sh → inHandover sh (r.field 0 2 0) = false → setOf sh (r.field 0 2 0) ≠ none → shellLive (r.field 0 24 16) s = true →
    r.field 0 24 16 ≠ r.cdom s → (r.field 0 2 0 ≠ 0 ∨ sh.comp.seats.any (fun x => x.sliced) = false) →
    (∀ x ∈ sh.seals, ∀ y, tabFind x.range sh.ranges = some y → y.set ≠ r.field 0 2 0) → (∀ x ∈ sh.mirrors, ∀ y, tabFind x.range sh.ranges = some y → y.set ≠ r.field 0 2 0 ∧ y.mset ≠ r.field 0 2 0) →
    exec (.shellRelease src) s = .next (setBegun src (setShell (r.cdom s) { sh with flips := sh.flips ++ [((s.stroke.count + 2) % 2 ^ 48, .release src (r.field 0 2 0) (r.field 0 24 16))] } s))) ∧
  (∀ src s r sh, reqOf 0x0304 src s = some r → shellOf (r.cdom s) s = some sh → inHandover sh (r.field 0 2 0) = true → exec (.shellRelease src) s = .next (respond src 0x0701 [] s)) ∧
  (∀ m s r sh rel i, let bases := (List.range rel.ranges.length).map (fun k => r.word (2 + k)); let runs := (rel.ranges.zip bases).map (fun x => (x.2 / 2 ^ 21, x.1.frames));
    reqOf 0x0305 (.mbx m) s = some r → shellOf (r.cdom s) s = some sh → s.released.find? (fun x => x.from' == r.field 0 8 0 && x.set == r.field 0 18 16) = some rel →
    rel.to' = r.cdom s → rel.seq = r.field 1 31 0 → s.now < rel.at' + 100000 → r.field 0 40 32 = rel.ranges.length → 8 * (2 + rel.ranges.length) ≤ r.params.length → (∀ b ∈ bases, b % 2 ^ 21 = 0) → (∀ x ∈ runs, x.1 + x.2 ≤ 2 ^ 23) →
    runs.Pairwise (fun x y => apart x y = true) → (∀ x ∈ runs, ∀ y ∈ takenFrames sh, apart x y = true) → freeSet sh = some i → sh.ranges.length + rel.ranges.length ≤ 256 →
    ∃ t sh', exec (.shellAcquire m) s = .next t ∧ shellOf (r.cdom s) t = some sh' ∧ sh'.flips = sh.flips ++ [((s.stroke.count + 2) % 2 ^ 48, .acquire (.mbx m) rel i bases)] ∧
      (∀ x ∈ t.released, x.from' ≠ r.field 0 8 0 ∨ x.set ≠ r.field 0 18 16)) ∧
  (∀ m s r sh rel, reqOf 0x0305 (.mbx m) s = some r → shellOf (r.cdom s) s = some sh → 8 * (2 + r.field 0 40 32) ≤ r.params.length →
    s.released.find? (fun x => x.from' == r.field 0 8 0 && x.set == r.field 0 18 16) = some rel → (rel.to' ≠ r.cdom s ∨ rel.seq ≠ r.field 1 31 0 ∨ rel.at' + 100000 ≤ s.now) →
    exec (.shellAcquire m) s = .next (respond (.mbx m) 0x0702 [] s)) ∧
  (∀ d i s sh rel, s.released.find? (fun x => x.from' == d && x.set == i) = some rel → s.retiring.contains d = false → shellOf d s = some sh →
    ∃ t sh', exec (.handoverTimeout d i) s = .next t ∧ shellOf d t = some sh' ∧ setOf sh' i = some rel.body ∧ rel.at' + 100000 ≤ t.now ∧ (∀ x ∈ t.released, x.from' ≠ d ∨ x.set ≠ i) ∧
      sh'.flips = sh.flips ++ [((s.stroke.count + 1) % 2 ^ 48, .restore rel.ranges)])

/-! ### Memory commands (09, 10, 11, 13) -/

/-- R320: MEMORY.MAP and MEMORY.UNMAP of a free and of an idle range queue their change for a flip; R271: MEMORY.DISCARD of whole lines that nothing holds; R345, R395: MEMORY.SEAL and
MEMORY.UNSEAL of a range of a coded set, and the seal's completion; R344: MEMORY.REBUILD of a lost mirror. -/
def Obligations.RangeCommands : Prop :=
  (∀ src pick s r sh st f, reqOf 0x0401 src s = some r → shellOf (r.cdom s) s = some sh → r.word 0 % 2 ^ 21 = 0 → 0 < r.field 1 23 0 → r.word 0 / 2 ^ 21 + r.field 1 23 0 ≤ 2 ^ 23 →
    (∀ x ∈ takenFrames sh, apart (r.word 0 / 2 ^ 21, r.field 1 23 0) x = true) → inHandover sh (bits (r.word 2) 2 0) = false → bit (r.word 2) 6 = false → s.released = [] →
    setOf sh (bits (r.word 2) 2 0) = some st → (setAfter sh (bits (r.word 2) 2 0)).isSome = true → r.word 3 = f → f ≠ 2 ^ 64 - 1 → runFree s sh (bits (r.word 2) 2 0) st (f, r.field 1 23 0) = true → pick < 256 → tabFind pick sh.ranges = none →
    pick ∉ comingIx sh →
    exec (.memoryMap src pick) s = .next (setBegun src (setShell (r.cdom s) { sh with flips := sh.flips ++ [((s.stroke.count + 2) % 2 ^ 48, .map src
      ⟨r.word 0 / 2 ^ 21, r.field 1 23 0, bits (r.word 2) 2 0, 0, false, false, false, false, bit (r.word 2) 7, bit (r.word 2) 8, f⟩ pick)] } s))) ∧
  (∀ src pick s r sh st ms f, reqOf 0x0401 src s = some r → shellOf (r.cdom s) s = some sh → r.word 0 % 2 ^ 21 = 0 → 0 < r.field 1 23 0 → r.word 0 / 2 ^ 21 + r.field 1 23 0 ≤ 2 ^ 23 →
    (∀ x ∈ takenFrames sh, apart (r.word 0 / 2 ^ 21, r.field 1 23 0) x = true) → inHandover sh (bits (r.word 2) 2 0) = false → inHandover sh (bits (r.word 2) 5 3) = false → bit (r.word 2) 6 = true → s.released = [] →
    setOf sh (bits (r.word 2) 2 0) = some st → setOf sh (bits (r.word 2) 5 3) = some ms → (setAfter sh (bits (r.word 2) 2 0)).isSome = true → (setAfter sh (bits (r.word 2) 5 3)).isSome = true → bits (r.word 2) 2 0 ≠ bits (r.word 2) 5 3 → mirrorFits s st ms = true → r.word 3 = f → f ≠ 2 ^ 64 - 1 →
    runFree s sh (bits (r.word 2) 2 0) st (f, r.field 1 23 0) = true → runFree s sh (bits (r.word 2) 5 3) ms (f, r.field 1 23 0) = true → pick < 256 → tabFind pick sh.ranges = none → pick ∉ comingIx sh →
    exec (.memoryMap src pick) s = .next (setBegun src (setShell (r.cdom s) { sh with flips := sh.flips ++ [((s.stroke.count + 2) % 2 ^ 48, .map src
      ⟨r.word 0 / 2 ^ 21, r.field 1 23 0, bits (r.word 2) 2 0, bits (r.word 2) 5 3, true, false, false, false, bit (r.word 2) 7, bit (r.word 2) 8, f⟩ pick)] } s))) ∧
  (∀ src s r sh i g, reqOf 0x0402 src s = some r → shellOf (r.cdom s) s = some sh → rangeByBase sh (r.word 0) = some (i, g) → rangeBusy sh i = false →
    exec (.memoryUnmap src) s = .next (setBegun src (setShell (r.cdom s) { sh with flips := sh.flips ++ [((s.stroke.count + 2) % 2 ^ 48, .unmap src i)] } s))) ∧
  (∀ src s r sh, reqOf 0x0403 src s = some r → shellOf (r.cdom s) s = some sh → r.word 0 % 512 = 0 → r.field 1 39 0 % 512 = 0 → r.field 1 39 0 ≠ 0 → sh.discardPoison = false →
    (∀ i, i < (r.word 0 + r.field 1 39 0 + 2 ^ 21 - 1) / 2 ^ 21 - r.word 0 / 2 ^ 21 → (rangeAt sh (r.word 0 / 2 ^ 21 + i)).isSome = true) → s.coh.open' = [] → s.coh.queue = [] → s.coh.atoms = [] →
    ∃ t, exec (.memoryDiscard src) s = .next t ∧ t.mem.dram = s.mem.dram ∧ (∀ e ∈ t.coh.lines, lineWithin (r.cdom s) (r.word 0) (r.field 1 39 0) (e.1 % 2 ^ 40) s = false) ∧
      (∀ e ∈ t.coh.wbuf, lineWithin (r.cdom s) (r.word 0) (r.field 1 39 0) (e.1 % 2 ^ 40) s = false)) ∧
  (∀ src s r sh i g st, reqOf 0x0405 src s = some r → shellOf (r.cdom s) s = some sh → rangeByBase sh (r.word 0) = some (i, g) → setOf sh g.set = some st → st.coded ≠ 0 → rangeBusy sh i = false →
    g.sealed = false →
    ∃ t sh', exec (.memorySeal src) s = .next t ∧ shellOf (r.cdom s) t = some sh' ∧ tabFind i sh'.ranges = some { g with sealed := true } ∧ sh'.seals = sh.seals ++ [⟨i, src⟩]) ∧
  (∀ src s r sh i g st, reqOf 0x0406 src s = some r → shellOf (r.cdom s) s = some sh → rangeByBase sh (r.word 0) = some (i, g) → setOf sh g.set = some st → st.coded ≠ 0 →
    ∃ t sh', exec (.memoryUnseal src) s = .next t ∧ shellOf (r.cdom s) t = some sh' ∧ tabFind i sh'.ranges = some { g with sealed := false } ∧ sh'.seals = sh.seals.filter (fun x => x.range != i) ∧ t.mem = s.mem) ∧
  (∀ src s r sh i g st, reqOf 0x0406 src s = some r → shellOf (r.cdom s) s = some sh → rangeByBase sh (r.word 0) = some (i, g) → setOf sh g.set = some st → st.coded = 0 →
    exec (.memoryUnseal src) s = .next (respond src 0x0103 [] s)) ∧
  (∀ d i s sh x g st, shellOf d s = some sh → sh.seals.find? (fun y => y.range == i) = some x → tabFind i sh.ranges = some g → setOf sh g.set = some st →
    (∀ e ∈ s.mem.rmw, inRun st (sealRun st g) (e.1 / 64) = false) → (∀ e ∈ s.coh.open', inRun st (sealRun st g) e.1 = false) →
    ∃ t sh', exec (.sealComplete d i) s = .next t ∧ shellOf d t = some sh' ∧ (∀ y ∈ sh'.seals, y.range ≠ i) ∧ t.mem.spad = s.mem.spad) ∧
  (∀ src s r sh i g a b, reqOf 0x0407 src s = some r → shellOf (r.cdom s) s = some sh → rangeByBase sh (r.word 0) = some (i, g) → g.mirror = true → g.mirrorLost = true → setOf sh g.set = some a →
    setOf sh g.mset = some b → (∀ c ∈ a.chans ++ b.chans, (chanOf c s).fenced = false) → rangeBusy sh i = false →
    exec (.memoryRebuild src) s = .next (setBegun src (setShell (r.cdom s) { sh with mirrors := sh.mirrors ++ [⟨i, [], some src⟩] } s))) ∧
  (∀ src s r sh i g, reqOf 0x0407 src s = some r → shellOf (r.cdom s) s = some sh → rangeByBase sh (r.word 0) = some (i, g) → g.mirror = false →
    exec (.memoryRebuild src) s = .next (respond src 0x0103 [] s))

/-- R299, R300: MEMORY.RETIRE writes the lists of the device section and takes a free bank's channel out of use; R374: MEMORY.APERTURE points an aperture; R385: MEMORY.COPY is best-effort work; R371: MEMORY.FENCE answers once every
earlier BAR4 write has landed, and writes its flag. -/
def Obligations.MemoryServices : Prop :=
  (∀ m s r, reqOf 0x0404 (.mbx m) s = some r → r.field 0 1 0 = 0 → dpaUsable s (r.field 1 39 0) = true → (∀ b ∈ s.dev.devsec.pages, sameUnit s true (r.field 1 39 0) b = false) → s.dev.devsec.pages.length < 4096 →
    ∃ t, exec (.memoryRetire m) s = .next t ∧ t.dev.devsec.pages = s.dev.devsec.pages ++ [r.field 1 39 0] ∧ t.dev.devsec.banks = s.dev.devsec.banks ∧ t.mem = s.mem) ∧
  (∀ m s r, reqOf 0x0404 (.mbx m) s = some r → r.field 0 1 0 = 1 → dpaUsable s (r.field 1 39 0) = true → (∀ b ∈ s.dev.devsec.banks, sameUnit s false (r.field 1 39 0) b = false) → s.dev.devsec.banks.length < 64 →
    chanOwner (dpaChan (r.field 1 39 0)) s = none → s.released = [] →
    ∃ t, exec (.memoryRetire m) s = .next t ∧ t.dev.devsec.banks = s.dev.devsec.banks ++ [r.field 1 39 0] ∧ (chanOf (dpaChan (r.field 1 39 0)) t).usable = false ∧ t.mem.dram = s.mem.dram) ∧
  (∀ src s r, reqOf 0x0408 src s = some r → (aptOf (r.field 0 9 0) s).valid = false → bit (r.word 0) 16 = true → r.word 1 % 2 ^ 26 = 0 →
    exec (.memoryAperture src) s = .next (respond src 0 [] (setApt (r.field 0 9 0) { aptOf (r.field 0 9 0) s with valid := true, wr := bit (r.word 0) 17, cdom := r.cdom s, base := r.word 1 } s))) ∧
  (∀ src s r, reqOf 0x0408 src s = some r → (aptOf (r.field 0 9 0) s).valid = true → (aptOf (r.field 0 9 0) s).cdom ≠ r.cdom s → exec (.memoryAperture src) s = .next (respond src 0x0701 [] s)) ∧
  (∀ q ext s p e rest r, tabFind q s.qps = some p → p.entries = e :: rest → reqOf 0x0409 (.queue q) s = some r → e.be = false → exec (.memoryCopy q ext) s = .next (respond (.queue q) 0x0107 [] s)) ∧
  (∀ q ext s p e rest r a b wa xa xb, tabFind q s.qps = some p → p.entries = e :: rest → reqOf 0x0409 (.queue q) s = some r → e.be = true → r.field 2 31 0 = 64 → r.word 0 % 64 = 0 → r.word 1 % 64 = 0 →
    r.cdom s ∉ s.coh.failing → r.cdom s ∉ (homeNote (r.cdom s) a 64 s).coh.failing → s.rreqs = [] → r.word 0 < 2 ^ 48 → r.word 1 < 2 ^ 48 → locate (r.cdom s) [] (r.word 0) s = .mem a wa xa →
    locate (r.cdom s) [] (r.word 1) s = .mem b true xb → (homeRead a 64 s).2.1 = true → copyWaits (r.cdom s) (r.word 0) (r.word 1) s = false →
    exec (.memoryCopy q ext) s = .next (respond (.queue q) 0 [] (homeWrite .cox (r.cdom s) b (homeRead a 64 s).1 (homeNote (r.cdom s) a 64 s)))) ∧
  (∀ q s r, reqOf 0x0410 (.queue q) s = some r → bar4Waits s = true → exec (.memoryFence q) s = .next s) ∧
  (∀ q s r, reqOf 0x0410 (.queue q) s = some r → bar4Waits s = false → s.coh.bar4 = [] → bit (r.word 0) 63 = false → exec (.memoryFence q) s = .next (respond (.queue q) 0 [] s)) ∧
  (∀ q s r sh dpa g, reqOf 0x0410 (.queue q) s = some r → bar4Waits s = false → s.coh.bar4 = [] → bit (r.word 0) 63 = true → r.field 0 47 0 % 8 = 0 → r.field 0 47 0 < 2 ^ 44 → shellOf (r.cdom s) s = some sh →
    translate s sh (r.field 0 47 0) = some (dpa, g) → g.wr = true → g.sealed = false → r.cdom s ∉ s.coh.failing → lineBusy (dpa / 512) s = false →
    exec (.memoryFence q) s = .next (respond (.queue q) 0 [] (homeWrite .cox (r.cdom s) dpa (leBytes (r.word 1) 8) s)))

/-! ### Graph and stroke commands (02, 13) -/

/-- R386, R390, R391: GRAPH.REGISTER of a descriptor that passes its checks makes the graph under a free handle; GRAPH.UNREGISTER of one that no command uses takes it away, an unknown handle answers BAD_HANDLE;
GRAPH.QUERY answers the five WCETs. -/
def Obligations.GraphHandles : Prop :=
  (∀ m pick s r sh hd h, let d := r.cdom s; let x := coxRead d (r.word 0) 64 s; let y := coxRead d (r.word 0) hd.length x.st; let de := descOf hd y.bytes;
    let g : RegGraph := { graph := de.graph, guar := bit (r.word 1) 0, accFp32 := bit (r.word 1) 1, primary := if r.field 1 31 16 = 0xFFFF then none else some (r.field 1 31 16), fallback := none, seatMap := seatMapOfReq r hd.nSeats, wcet := [], gone := false, goneAt := 0, lostCredit := false }
    reqOf 0x0501 (.mbx m) s = some r → shellOf d s = some sh → r.word 0 % 64 = 0 → x.bad = none → headOfWords (wordsOf x.bytes 8) = hd → checkHead hd = none → y.bad = none →
    16 + 8 * ceilDiv hd.nSeats 4 ≤ r.params.length → (r.field 1 31 16 ≠ 0xFFFF → fallbackBad d (r.field 1 31 16) de.graph y.st = false) → checkGraph (wctx y.st d sh g) de = none → seatMapBad sh g.seatMap = false →
    (y.st.graphs.filter (fun e => decide (e.1 / 65536 = d))).length < 1024 → newHandle d pick y.st = some h →
    ∃ t w, exec (.graphRegister m pick) s = .next t ∧ graphOf d h t = some { g with wcet := w } ∧ w.length = 5) ∧
  (∀ m pick s r sh, reqOf 0x0501 (.mbx m) s = some r → shellOf (r.cdom s) s = some sh → r.word 0 % 64 ≠ 0 → exec (.graphRegister m pick) s = .next (respond (.mbx m) 0x0103 [] s)) ∧
  (∀ src s r g, reqOf 0x0502 src s = some r → graphOf (r.cdom s) (r.field 0 15 0) s = some g → g.gone = false → (∀ e ∈ s.cmds, e.2.cdom ≠ r.cdom s ∧ e.2.handle < 65536) → keysFrom 0 s.graphs = true →
    ∃ t, exec (.graphUnregister src) s = .next t ∧ graphOf (r.cdom s) (r.field 0 15 0) t = none ∧ t.cmds = s.cmds ∧ t.mem = s.mem) ∧
  (∀ src s r, reqOf 0x0502 src s = some r → graphOf (r.cdom s) (r.field 0 15 0) s = none → exec (.graphUnregister src) s = .next (respond src 0x0106 [] s)) ∧
  (∀ m s r g, reqOf 0x0505 (.mbx m) s = some r → graphOf (r.cdom s) (r.field 0 15 0) s = some g → g.gone = false → g.wcet.length = 5 →
    ∃ b, exec (.graphQuery m) s = .next (respond (.mbx m) 0 (g.wcet ++ [b]) s) ∧ b % 2 = (if g.guar = true ∧ g.lostCredit = false then 1 else 0) ∧ b / 2 ^ 16 = g.primary.getD 0xFFFF)

/-- R42, R385, R387, R389: GRAPH.RUN of a guaranteed command queues it for a catch; of a best-effort one with nothing queued before it dispatches it at once; a wrong one completes with its status; GRAPH.RESUME lets a
command that a replayable fault parked go on and ends any other. -/
def Obligations.GraphRuns : Prop :=
  (∀ q s p e r, headRun q s = some (p, e, r) → runStatus (r.cdom s) e r s = none → (∀ c ∈ s.cmds, c.2.q ≠ q ∨ c.2.st ≠ .queued) → keysFrom 0 s.cmds = true → e.be = false →
    exec (.graphRun q) s = .next (schedule (popEntry q (setCmd s.nextCmd (newRun q p.tenant (r.cdom s) e r) { s with nextCmd := s.nextCmd + 1 })))) ∧
  (∀ q s p e r, headRun q s = some (p, e, r) → runStatus (r.cdom s) e r s = none → (∀ c ∈ s.cmds, c.2.q ≠ q ∨ c.2.st ≠ .queued) → keysFrom 0 s.cmds = true → e.be = true →
    exec (.graphRun q) s = .next (schedule (dispatchBE s.nextCmd (newRun q p.tenant (r.cdom s) e r) (popEntry q (setCmd s.nextCmd (newRun q p.tenant (r.cdom s) e r) { s with nextCmd := s.nextCmd + 1 }))))) ∧
  (∀ q s p e r, headRun q s = some (p, e, r) → graphOf (r.cdom s) (r.field 0 63 48) s = none → exec (.graphRun q) s = .next (respond (.queue q) 0x0106 [] s)) ∧
  (∀ q s p e r g sh, headRun q s = some (p, e, r) → graphOf (r.cdom s) (r.field 0 63 48) s = some g → shellOf (r.cdom s) s = some sh → g.gone = false → e.be = false → g.guar = false →
    exec (.graphRun q) s = .next (respond (.queue q) 0x0107 [] s)) ∧
  (∀ src s r p n c core slot k, reqOf 0x0504 src s = some r → tabFind (r.field 0 11 0) s.qps = some p → tenantShell p.tenant s = r.cdom s →
    s.cmds.find? (fun e => e.2.q == r.field 0 11 0 && e.2.cid == r.field 0 31 16 && e.2.st == .parked) = some (n, c) → c.park = some (core, slot, k) →
    (r.word 1 % 2 = 0 → (k.code = 0x06 ∨ k.code = 0x16) → exec (.graphResume src) s = .next (respond src 0 [] (schedule (unpark n core slot k c s)))) ∧
    ((r.word 1 % 2 = 1 ∨ (k.code ≠ 0x06 ∧ k.code ≠ 0x16)) → exec (.graphResume src) s = .next (respond src 0 [] (schedule (endParked n core slot k s)))))

/-- R35, R44, R53, R386, R423: STROKE.CONFIGURE outside a regatta accepts a legal configuration at least 2 strokes ahead for its target and changes nothing before it; a regatta's master asks its members and refuses after 2 ms
without their answers; STROKE.STATUS and STROKE.CALENDAR answer. -/
def Obligations.StrokeCommands : Prop :=
  (∀ m s r, reqOf 0x0601 (.mbx m) s = some r → s.dev.board.regatta = 0 → 2 ≤ strokesTo s.stroke.count (r.word 0) → strokesTo s.stroke.count (r.word 0) < 2 ^ 47 → cfgBusy s = false →
    cfgRefusal ⟨r.word 1, r.word 2, r.word 3, r.word 4⟩ s = none →
    ∃ t, exec (.strokeConfigure m) s = .next t ∧ t.stroke.pend = some (r.word 0, ⟨r.word 1, r.word 2, r.word 3, r.word 4⟩) ∧ t.stroke.cfg = s.stroke.cfg ∧ t.stroke.count = s.stroke.count ∧ (mbxOf m t).done = true) ∧
  (∀ m s r, reqOf 0x0601 (.mbx m) s = some r → isMember s = false → strokesTo s.stroke.count (r.word 0) < 2 → exec (.strokeConfigure m) s = .next (respond (.mbx m) 0x0103 [] s)) ∧
  (∀ m s r, reqOf 0x0601 (.mbx m) s = some r → isMember s = true → exec (.strokeConfigure m) s = .next (respond (.mbx m) 0x0104 [] s)) ∧
  (∀ m s r d, reqOf 0x0601 (.mbx m) s = some r → s.dev.board.regatta = 0 → 2 ≤ strokesTo s.stroke.count (r.word 0) → strokesTo s.stroke.count (r.word 0) < 2 ^ 47 → cfgBusy s = false →
    cfgRefusal ⟨r.word 1, r.word 2, r.word 3, r.word 4⟩ s = some d → exec (.strokeConfigure m) s = .next (refuse (.mbx m) 0x0302 d 0 s)) ∧
  (∀ s w, s.reg.wait = some w → ∃ t, exec .strokeConfigureNoAnswer s = .next t ∧ t.reg.wait = none ∧ t.now = max s.now (w.at' + 200000) ∧ t.stroke = s.stroke) ∧
  (∀ src s r, reqOf 0x0602 src s = some r →
    ∃ w, exec (.strokeStatus src) s = .next (respond src 0 [s.stroke.count, w] s) ∧ w % 2 ^ 24 = s.stroke.cfg.period % 2 ^ 24 ∧
      w / 2 ^ 24 = (s.stroke.cfg.period - s.stroke.cfg.catchLen - s.stroke.cfg.finish - s.stroke.cfg.recovery) % 2 ^ 24) ∧
  (∀ src s r, reqOf 0x0603 src s = some r →
    ∃ long cal, exec (.strokeCalendar src) s = .next (respond src 0 [long, cal] s) ∧ ∀ i, i < 64 → bit long i = (extOf ((r.word 0 + i) % 2 ^ 48) s != 0))

/-! ### Links (14) -/

/-- R419..R422, R425, R525: what a regatta's member does with a beacon, when it steps its stroke timer, how it falls out of alignment, how it takes STROKE_SYNC; a RETRACT data unit ends the admitted commands of its tenant's shell once. -/
def Obligations.RegattaSteps : Prop :=
  (∀ l b s, isMember s = true → s.stroke.running = true → l ∈ regattaLinks s → b.regatta = s.dev.board.regatta → (∀ h, s.reg.hops = some h → b.hops < h) → s.reg.joined = true → b.count = s.stroke.count → s.stroke.count < 2 ^ 48 →
    b.offset.natAbs ≤ 200 →
    ∃ t, exec (.beacon l b) s = .next t ∧ t.reg.hops = some b.hops ∧ t.reg.up = l ∧ t.reg.aligned = true ∧ t.stroke = s.stroke ∧
      t.reg.slew = (if b.offset.natAbs < 10 then 0 else if 0 < b.offset then 1 else -1)) ∧
  (∀ l b s, isMember s = true → s.stroke.running = true → l ∈ regattaLinks s → b.regatta = s.dev.board.regatta → (∀ h, s.reg.hops = some h → b.hops < h) → s.reg.joined = true → 10000 < b.offset.natAbs →
    ∃ t, exec (.beacon l b) s = .next t ∧ t.reg.aligned = false ∧ t.reg.stepTo = some ((b.count + 2 ^ 48 - s.stroke.count) % 2 ^ 48, b.offset / 10)) ∧
  (∀ s delta off c, isMember s = true → s.stroke.running = true → s.stroke.phase = .recovery → s.reg.stepTo = some (delta, off) → s.reg.cfg = some c → linkedWindow s = false →
    ∃ t, exec .strokeStep s = .next t ∧ t.stroke.count = (s.stroke.count + delta) % 2 ^ 48 ∧ t.stroke.cfg = c ∧ t.stroke.start = ((s.stroke.start : Int) - off).toNat ∧ t.reg.joined = true ∧ t.reg.aligned = true ∧
      t.reg.stepTo = none ∧ t.mem = s.mem) ∧
  (∀ s, isMember s = true → s.reg.joined = true → 8 ≤ s.reg.miss → ∃ t, exec .beaconMiss s = .next t ∧ t.dev.unaligned = true ∧ t.reg.aligned = false ∧ t.stroke = s.stroke) ∧
  (∀ o s, takesSync s = true → s.stroke.running = true → o.natAbs ≤ 100 →
    ∃ t, exec (.strokeSync o) s = .next t ∧ t.stroke = { s.stroke with start := ((s.stroke.start : Int) - o / 10).toNat } ∧ t.reg.syncMiss = 0 ∧ t.reg.syncIn = true) ∧
  (∀ s, takesSync s = true → 8 ≤ s.reg.syncMiss → ∃ t, exec .strokeSyncMiss s = .next t ∧ t.dev.unaligned = true ∧ t.reg = s.reg) ∧
  (∀ l r s sh e, l ∈ regattaLinks s → r.regatta = s.dev.board.regatta → (r.origin, r.rseq) ∉ s.reg.seen → tenantOf r.tenant s = some e → shellOf e.shell s = some sh → keysFrom 0 s.cmds = true →
    ∃ t, exec (.retract l r) s = .next t ∧ (r.origin, r.rseq) ∈ t.reg.seen ∧ (∀ c ∈ t.cmds, c.2.cdom = e.shell → c.2.st = .queued) ∧ t.flt.shellRst.any (fun x => x.1 == e.shell) = true ∧ t.mem = s.mem) ∧
  (∀ l r s, (r.origin, r.rseq) ∈ s.reg.seen → exec (.retract l r) s = .next s)

/-- R406, R413, R423: messages between Coxes: a member takes a configuration and accepts it, a master's last member's acceptance completes STROKE.CONFIGURE, the master answers a request for the configuration, a partner's share is
reserved where the link can carry it. -/
def Obligations.CoxMessages : Prop :=
  (∀ l tgt c s, linkRuns l s = true → isMember s = true → s.stroke.pend = none → s.reg.wait = none → (∀ e ∈ s.shells, ∀ r, e.2.rebind = some r → r.step ≠ 0) →
    ∃ t, exec (.coxMessage l (.configure tgt c)) s = .next t ∧ t.stroke.pend = some (tgt, c) ∧ t.stroke.cfg = s.stroke.cfg ∧ .cox l (.accept s.dev.board.devId) ∈ t.out) ∧
  (∀ l k s w, linkRuns l s = true → s.dev.board.master = true → s.reg.wait = some w → k ∉ w.yes → s.dev.board.members ≤ w.yes.length + 1 →
    ∃ t, exec (.coxMessage l (.accept k)) s = .next t ∧ t.reg.wait = none ∧ t.stroke.pend = some (w.target, w.cfg)) ∧
  (∀ l k s w, linkRuns l s = true → s.dev.board.master = true → s.reg.wait = some w →
    ∃ t, exec (.coxMessage l (.refuse k)) s = .next t ∧ t.reg.wait = none ∧ t.stroke = s.stroke) ∧
  (∀ l k s, linkRuns l s = true → s.dev.board.master = true → exec (.coxMessage l (.configRequest k)) s = .next (emit (.cox l (.configAnswer s.stroke.cfg)) s)) ∧
  (∀ l g s, linkRuns l s = true → sameRegatta l s = true → shareTotal l s + g ≤ linkCap l s →
    ∃ t, exec (.coxMessage l (.shareRequest l g)) s = .next t ∧ (linkOf l t).reserved = g ∧ t.out = s.out ++ [.cox l (.shareAnswer l g true)]) ∧
  (∀ l g s, linkRuns l s = true → linkCap l s < shareTotal l s + g → exec (.coxMessage l (.shareRequest l g)) s = .next (emit (.cox l (.shareAnswer l g false)) s)) ∧
  (∀ l m s, linkRuns l s = false → exec (.coxMessage l m) s = .next s)

/-- R399, R400, R403..R405, R417: flits that are good and that are not, idle flits, retrains that begin, end and time out, a lane that is lost, a link that falls silent, a link that trains. -/
def Obligations.LinkRows : Prop :=
  (∀ l flit s, (linkOf l s).st = .up → s.flt.injs = [] → flit.length = 256 → leNat ((flit.drop 8).take 8) = crc64 (flit.take 8 ++ flit.drop 16) → bits (leNat (flit.take 8)) 63 62 = 0 →
    bit (leNat (flit.take 8)) 37 = false → bits (leNat (flit.take 8)) 61 50 = ((linkOf l s).aseq + 1) % 4096 →
    ∃ t, exec (.flitReceive l flit) s = .next t ∧ (linkOf l t).st = .up ∧ (linkOf l t).aseq = ((linkOf l s).aseq + 1) % 4096 ∧ (linkOf l t).gap = false ∧ (linkOf l t).lastGood = s.now ∧
      (∀ f ∈ (linkOf l t).replay, f ∈ (linkOf l s).replay) ∧ t.mem = s.mem) ∧
  (∀ l flit s, (linkOf l s).st = .up → s.flt.injs = [] → leNat ((flit.drop 8).take 8) ≠ crc64 (flit.take 8 ++ flit.drop 16) →
    ∃ t, exec (.flitReceive l flit) s = .next t ∧ (linkOf l t).nak = true ∧ (linkOf l t).gap = true ∧ (linkOf l t).aseq = (linkOf l s).aseq ∧ t.mem = s.mem) ∧
  (∀ l s, (linkOf l s).st = .up → s.flt.injs = [] → (linkOf l s).quiet = none →
    ∃ t, exec (.idleFlitSend l) s = .next t ∧ t.out = s.out ++ [.flit l true (linkOf l s).fseq true (linkOf l s).nak (linkOf l s).aseq] ∧ (linkOf l t).nak = false ∧ (linkOf l t).fseq = (linkOf l s).fseq) ∧
  (∀ l s, (linkOf l s).st = .up → 8 ≤ (linkOf l s).replays →
    ∃ t, exec (.replayLimit l) s = .next t ∧ (linkOf l t).st = .retraining ∧ (linkOf l t).retrainAt = some s.now ∧ (linkOf l t).replay = (linkOf l s).replay ∧ t.out = s.out ++ [.linkRetrain l (linkOf l s).width]) ∧
  (∀ l lane s, (linkOf l s).st = .up → lane < 4 → (linkOf l s).badLanes = [] →
    ∃ t, exec (.laneDegrade l lane) s = .next t ∧ (linkOf l t).st = .retraining ∧ (linkOf l t).badLanes = [lane] ∧ (linkOf l t).replay = (linkOf l s).replay) ∧
  (∀ l width p s, (linkOf l s).st = .retraining → (linkOf l s).startId = some p → 0 < width → soundWidth (linkOf l s).badLanes ≠ 0 →
    ∃ t, exec (.linkRetrainDone l width p) s = .next t ∧ (linkOf l t).st = .up ∧ (linkOf l t).width = min width (min 4 (soundWidth (linkOf l s).badLanes)) ∧ (linkOf l t).replay = (linkOf l s).replay ∧
      (linkOf l t).replays = 0) ∧
  (∀ l width p q s, (linkOf l s).st = .retraining → (linkOf l s).startId = some q → q ≠ p → ∃ t, exec (.linkRetrainDone l width p) s = .next t ∧ (linkOf l t).st = .out) ∧
  (∀ l s a, (linkOf l s).st = .retraining → (linkOf l s).retrainAt = some a →
    ∃ t, exec (.retrainTimeout l) s = .next t ∧ (linkOf l t).st = .down ∧ (linkOf l t).reserved = 0 ∧ t.now = max s.now (a + 5000)) ∧
  (∀ l s, (linkOf l s).st = .up → ∃ t, exec (.linkHeartbeat l) s = .next t ∧ (linkOf l t).st = .down ∧ (linkOf l t).reserved = 0 ∧ t.now = max s.now ((linkOf l s).lastGood + 1000)) ∧
  (∀ l width p g s, l < 18 → (linkOf l s).st = .untrained → s.dev.stage ∈ [Stage.cox, .memory, .filled, .tested, .released] → 0 < width → (∀ q, (linkOf l s).startId = some q → q = p) →
    ∃ t, exec (.linkTrainingDone l width p g) s = .next t ∧ (linkOf l t).st = .up ∧ (linkOf l t).width = min 4 width ∧ (linkOf l t).partner = p ∧ (linkOf l t).regatta = g ∧ (linkOf l t).startId = some p ∧ t.mem = s.mem)

/-- R218, R401, R407, R408, R416, R418: what a request of another device does here (a read answers with its home's bytes, at once or once the owner is snooped, a write merges at its home and is acknowledged, a counted sector also adds to its counter, an atomic joins its line's queue,
a place that is not there answers an error), messages for other devices pass on; a response reaches the request of its tag and frees the tag, and 200 µs without one end it. -/
def Obligations.RemoteRows : Prop :=
  (∀ l m s d dpa wr x, let line := dpa / 512
    let len := min m.len (512 - dpa % 512)
    let q := HMsg.rread m.vc m.tag m.src (dpa % 512) len d
    linkRuns l s = true → m.dst = s.dev.board.devId → servePlace m s = .inr (d, .mem dpa wr x) → d ∉ s.coh.failing → idleLine line s → readsOpen line q s = true →
    ((dirOf line s).dstate = .inv →
      exec (.remoteRead l m) s = .next (if (homeAt dpa len s).2.1 then answerRemote m.vc m.src m.tag kData 0 (homeAt dpa len s).1 (noteRead d line (sectorsOf (dpa % 512) len) [] (tick s))
        else answerRemote m.vc m.src m.tag kError 4 [] (noteRead d line (sectorsOf (dpa % 512) len) [] (tick s)))) ∧
    (∀ o, creditsUsed line q.creditClass s < creditCap q.creditClass → (dirOf line s).dstate = .owned → (dirOf line s).presence = 2 ^ o → o < 32 →
      ∃ t y, exec (.remoteRead l m) s = .next t ∧ tabFind line t.coh.open' = some y ∧ y.msg = q ∧ y.waits = [o] ∧ t.coh.net = s.coh.net ++ [.snpcur o line] ∧ t.mem = s.mem)) ∧
  (∀ l m s d dpa x, let line := dpa / 512
    let cells := ((writeParts m).flatMap (fun p => cellsOf (dpa % 512 + p.1 - m.offset) p.2)).filter (fun c => decide (c.1 < 512))
    let q := HMsg.rwrite m.vc m.tag m.src d cells
    linkRuns l s = true → m.dst = s.dev.board.devId → servePlace m s = .inr (d, .mem dpa true x) → d ∉ s.coh.failing → idleLine line s →
    ((dirOf line s).dstate = .inv →
      (∀ c ∈ [Instr.remoteWrite l m, .countedCopySector l m], exec c s = .next (answerRemote m.vc m.src m.tag kAck 0 [] (homeMerge true d line cells (setDir line (dirOf line s).toInv (tick s)))))) ∧
    (∀ o, creditsUsed line q.creditClass s < creditCap q.creditClass → (dirOf line s).dstate = .owned → (dirOf line s).presence = 2 ^ o → o < 32 →
      ∃ t y, exec (.remoteWrite l m) s = .next t ∧ tabFind line t.coh.open' = some y ∧ y.msg = q ∧ y.waits = [o] ∧ t.coh.net = s.coh.net ++ [.snpinv o line] ∧ t.mem = s.mem) ∧
    (m.sub = 0 → writeParts m = [(m.offset, m.data)])) ∧
  (∀ l m s d dpa x, linkRuns l s = true → m.dst = s.dev.board.devId → servePlace m s = .inr (d, .mem dpa false x) → exec (.remoteWrite l m) s = .next (answerRemote m.vc m.src m.tag kError 3 [] s)) ∧
  (∀ l m s d c o, linkRuns l s = true → m.dst = s.dev.board.devId → servePlace m s = .inr (d, .spad c o) → m.sub = 0 →
    exec (.countedCopySector l m) s = .next (answerRemote m.vc m.src m.tag kAck 0 [] (ctrAdd c m.ctr (spadWrite c o m.data s)))) ∧
  (∀ l m s d dpa x, linkRuns l s = true → m.dst = s.dev.board.devId → servePlace m s = .inr (d, .mem dpa true x) → d ∉ s.coh.failing →
    ∃ t q, exec (.remoteAtom l m) s = .next t ∧ tabGet [] (dpa / 512) t.coh.atoms = tabGet [] (dpa / 512) s.coh.atoms ++ [q] ∧ q.cdom = d ∧ q.dpa = dpa ∧ q.kind = 0 ∧ q.aop = m.sub.toNat % 16 ∧
      q.len = (if m.sub.getLsbD 4 then 8 else 4) ∧ q.s1 = leNat (m.data.take q.len) ∧ t.mem = s.mem) ∧
  (∀ l m s d dpa x, linkRuns l s = true → m.dst = s.dev.board.devId → servePlace m s = .inr (d, .mem dpa true x) → d ∉ s.coh.failing →
    ∃ t q, exec (.remoteAddx l m) s = .next t ∧ tabGet [] (dpa / 512) t.coh.atoms = tabGet [] (dpa / 512) s.coh.atoms ++ [q] ∧ q.cdom = d ∧ q.dpa = dpa ∧ q.kind = (if m.sub.getLsbD 15 then 2 else 1) ∧ t.mem = s.mem) ∧
  (∀ l m s e, linkRuns l s = true → m.dst = s.dev.board.devId → servePlace m s = .inl e →
    (∀ c ∈ [Instr.remoteRead l m, .remoteWrite l m, .countedCopySector l m, .remoteAtom l m, .remoteAddx l m], exec c s = .next (answerRemote m.vc m.src m.tag kError e [] s))) ∧
  (∀ l m s, linkRuns l s = true → m.dst ≠ s.dev.board.devId → exec (.remoteRead l m) s = .next (forwardMsg kRead m s) ∧ exec (.remoteWrite l m) s = .next (forwardMsg kWrite m s)) ∧
  (∀ m s r, m.dst = s.dev.board.devId → tabFind m.tag s.rreqs = some r → r.dev = m.src → r.inj = none → s.flt.injs = [] →
    exec (.remoteData m) s = .next (remoteOk r m.data (dropTag m.tag s)) ∧ exec (.remoteAck m) s = .next (remoteOk r [] (dropTag m.tag s)) ∧ exec (.remoteError m) s = .next (remoteFail r (dropTag m.tag s))) ∧
  (∀ m s r core slot pc g f it, m.dst = s.dev.board.devId → tabFind m.tag s.rreqs = some r → r.dev = m.src → r.inj = none → s.flt.injs = [] → keysFrom 0 s.rreqs = true → r.wait = .thread core slot pc 0 →
    groupOf core slot s = some g → g.far = [f] → f.pc = pc → f.items = [it] → it.got = none → it.err = false → it.loc = .peer r.dev r.off →
    ∃ t g', exec (.remoteData m) s = .next t ∧ tabFind m.tag t.rreqs = none ∧ groupOf core slot t = some g' ∧ g' = { g with far := [{ f with items := [{ it with got := some m.data }] }] }) ∧
  (∀ m s, m.dst = s.dev.board.devId → tabFind m.tag s.rreqs = none → exec (.remoteData m) s = .next s ∧ exec (.remoteAck m) s = .next s ∧ exec (.remoteError m) s = .next s) ∧
  (∀ tag s r, tabFind tag s.rreqs = some r → keysFrom 0 s.rreqs = true →
    ∃ t, exec (.remoteTimeout tag) s = .next t ∧ tabFind tag t.rreqs = none ∧ t.now = max s.now (r.at' + 20000))

/-! ### Faults (15) -/

/-- R430, R431, R444, R459: FAULT.READ writes the records from a number on that the requester may see to the host; FAULT.INJECT arms an injection under the next number; FAULT.CLEAR drops the records up to a number;
FAULT.TEST fences a core, scans a fenced channel and returns one; an injection that did not act for 65,536 strokes lapses. -/
def Obligations.FaultCommands : Prop :=
  (∀ m s r, reqOf 0x0801 (.mbx m) s = some r → let got := ((logFrom (r.field 0 31 0) s).filter (mayRead r s)).take (r.field 1 15 0);
    (r.byOwner = true → 32 ≤ r.params.length) → inHost (r.word 2) = true → inHost (r.word 2 + 64 * got.length) = true → s.host.lost = false → got ≠ [] →
    ∃ nx, exec (.faultRead m) s = .next (respond (.mbx m) 0 [got.length, nx] (emit (.hostWrite (if r.byOwner then r.field 3 19 0 else pasidOf r.tenant s) (r.word 2 - 0x400000000000) (got.flatMap FRec.bytes) false) s))) ∧
  (∀ m s r, reqOf 0x0801 (.mbx m) s = some r → r.byOwner = false → ∀ f ∈ (logFrom (r.field 0 31 0) s).filter (mayRead r s), f.cdom = r.cdom s ∨ f.tenant = some r.tenant) ∧
  (∀ m s r x, reqOf 0x0802 (.mbx m) s = some r → r.field 0 15 0 ∈ detectors → injAllowed r (r.field 0 15 0) (r.field 1 31 0) s = true → injTarget r (r.field 0 15 0) (r.field 1 31 0) (r.word 3) s = some x → s.flt.injs.length < 64 →
    ∃ t i, exec (.faultInject m) s = .next t ∧ t.flt.injs = s.flt.injs ++ [i] ∧ i.num = s.flt.nextInj ∧ i.det = r.field 0 15 0 ∧ i.target = x ∧ i.pat = r.word 3 ∧
      i.stroke = (if r.field 2 47 0 = 0 then (s.stroke.count + 1) % 2 ^ 48 else r.field 2 47 0) ∧ t.flt.nextInj = (s.flt.nextInj + 1) % 2 ^ 32 ∧ t.flt.log = s.flt.log) ∧
  (∀ m s r, reqOf 0x0803 (.mbx m) s = some r →
    ∃ t, exec (.faultClear m) s = .next t ∧ t.flt.log = s.flt.log.filter (fun f => decide (2 ^ 31 ≤ (r.field 0 31 0 + 2 ^ 32 - f.seq) % 2 ^ 32)) ∧ t.flt.next = s.flt.next ∧ t.flash = s.flash) ∧
  (∀ m s r, reqOf 0x0804 (.mbx m) s = some r → r.field 0 3 0 = 0 → r.field 0 19 8 < 368 → r.field 1 1 0 = 0 →
    ∃ t, exec (.faultTest m) s = .next t ∧ (coreOf (r.field 0 19 8) t).fenced = true ∧ t.mem = s.mem) ∧
  (∀ m s r, reqOf 0x0804 (.mbx m) s = some r → r.field 0 3 0 = 2 → r.field 0 19 8 < 88 → r.field 1 1 0 = 1 → (chanOf (r.field 0 19 8) s).fenced = true → s.flt.scans = [] →
    ∃ t, exec (.faultTest m) s = .next t ∧ t.flt.scans = [⟨2, r.field 0 19 8, some (.mbx m)⟩] ∧ t.mem = s.mem) ∧
  (∀ m s r, reqOf 0x0804 (.mbx m) s = some r → r.field 0 3 0 = 2 → r.field 0 19 8 < 88 → r.field 1 1 0 = 2 → (chanOf (r.field 0 19 8) s).fenced = true → (chanOf (r.field 0 19 8) s).usable = true →
    (chanOf (r.field 0 19 8) s).leaving = false → s.flt.scans = [] → keysFrom 0 s.mem.chans = true → ∃ t, exec (.faultTest m) s = .next t ∧ (chanOf (r.field 0 19 8) t).fenced = false) ∧
  (∀ n s i, s.flt.injs.find? (fun j => j.num == n) = some i → i.stroke + 65536 ≤ s.stroke.count →
    ∃ t, exec (.injectLapsed n) s = .next t ∧ t.flt.injs = s.flt.injs.filter (fun j => j.num != n) ∧ t.mem = s.mem)

/-- R427..R430, R448: probes, hung cores, parity errors, Cox disagreement, wire faults: a core, channel or die is fenced, the Cox's own errors trigger a warm reset. -/
def Obligations.DetectorActions : Prop :=
  (∀ c s, c < 368 → (coreOf c s).fenced = false → coreGone c s = false → s.flt.injs = [] → keysFrom 0 s.cores = true →
    (∃ t, exec (.coreProbe c true) s = .next t ∧ coreOf c t = { coreOf c s with probe := none }) ∧
    ((coreOf c s).probe = none → ∃ t, exec (.coreProbe c false) s = .next t ∧ coreOf c t = { coreOf c s with probe := some (s.now, none) })) ∧
  (∀ c s a inj, (coreOf c s).fenced = false → coreGone c s = false → (coreOf c s).probe = some (a, inj) →
    ∃ t, exec (.coreProgress c) s = .next t ∧ (coreOf c t).fenced = true ∧ t.now = max s.now (a + 1000) ∧ (∃ f ∈ t.flt.fences, f.dom = 2 ∧ f.unit = c ∧ f.reset = true) ∧ t.mem = s.mem) ∧
  (∀ u s, u < 88 → s.flt.injs = [] → (chanOf u s).fenced = false → ∃ t, exec (.ctrlParity 4 u) s = .next t ∧ (chanOf u t).fenced = true) ∧
  (∀ u s, u < 368 → s.flt.injs = [] → coreGone u s = false → ∃ t, exec (.ctrlParity 1 u) s = .next t ∧ (coreOf u t).fenced = true) ∧
  (∀ s, s.flt.injs = [] → s.dev.stage = .released → s.dev.state ≠ 4 →
    (∃ t, exec .coxLockstep s = .next t ∧ t.dev.state = 4 ∧ t.flt.warm = some none ∧ t.mem = s.mem) ∧
    (∃ t, exec .coxWatchdog s = .next t ∧ t.dev.state = 4 ∧ t.flt.warm = some none ∧ t.mem = s.mem)) ∧
  (∀ a line s x, tabFind line s.coh.open' = some x → a ∈ x.waits → s.coh.queue = [] → (dirOf line s).cdom ∉ s.coh.failing →
    ∃ t, exec (.snoopTimeout a line) s = .next t ∧ (dirOf line s).cdom ∈ t.coh.failing ∧ t.now = max s.now (x.at' + 400)) ∧
  (∀ h n rt s, h < 16 → s.flt.injs = [] → 0 < n → (n ≤ 8 ∨ rt = true) → exec (.ucieCrc h n rt) s = .next (logRec ((newRec 0x04 1 2 0).at 0x1FF 2 h) s)) ∧
  (∀ h n s, h < 16 → s.flt.injs = [] → 8 < n →
    ∃ t, exec (.ucieCrc h n false) s = .next t ∧ (∀ i, i < 46 → (coreOf (46 * (h / 2) + i) t).fenced = true) ∧ (∃ f ∈ t.flt.fences, f.dom = 3 ∧ f.unit = h / 2 ∧ f.stay = true))

/-- R434, R436, R437, R440, R441: the checks of Paired and Sampled shells: a match releases the oldest held item, a mismatch or 2 µs without the partner's signature drops what is held and fences the core; a sampled match only ends its check,
a mismatch fences both cores and retracts. -/
def Obligations.RedundantChecks : Prop :=
  (∀ c s h rest, (coreOf c s).held = h :: rest → s.flt.injs = [] → exec (.pairedSignature c h.sig) s = .next (releaseItem c h (setCore c { coreOf c s with held := rest } s))) ∧
  (∀ c sig s h rest, (coreOf c s).held = h :: rest → s.flt.injs = [] → sig ≠ h.sig → coreGone c s = false → keysFrom 0 s.cores = true →
    ∃ t, exec (.pairedSignature c sig) s = .next t ∧ (coreOf c t).held = [] ∧ (coreOf c t).fenced = true ∧ t.mem = s.mem) ∧
  (∀ c s h rest, (coreOf c s).held = h :: rest → coreGone c s = false → keysFrom 0 s.cores = true →
    ∃ t, exec (.pairedSignatureTimeout c) s = .next t ∧ (coreOf c t).held = [] ∧ (coreOf c t).fenced = true ∧ t.now = max s.now (h.at' + 200)) ∧
  (∀ c v s x, s.flt.sampled.find? (fun y => y.checker == c) = some x → s.flt.injs = [] → exec (.sampledCheck c v v) s = .next { s with flt := { s.flt with sampled := s.flt.sampled.erase x } }) ∧
  (∀ c v w s x, s.flt.sampled.find? (fun y => y.checker == c) = some x → s.flt.injs = [] → v ≠ w → coreGone c s = false → coreGone x.core s = false →
    ∃ t, exec (.sampledCheck c v w) s = .next t ∧ (coreOf c t).fenced = true ∧ (coreOf x.core t).fenced = true ∧ t.reg.rseq = (s.reg.rseq + 1) % 65536 ∧
      (∀ l ∈ regattaLinks s, .retract l ⟨s.dev.board.devId, s.reg.rseq, x.tenant, 1, s.dev.board.regatta, x.stroke⟩ ∈ t.out) ∧ t.mem = s.mem)

/-- R444..R446: scans: one that passes returns a core at the next stroke boundary, one that fails retires it; rolling tests take a free core and a way that no shell holds; a core that no scan reached for 24 h is recorded. -/
def Obligations.ScansAndTests : Prop :=
  (∀ s u, s.flt.scans = [⟨0, u, none⟩] → s.flt.injs = [] → coreGone u s = false → keysFrom 0 s.cores = true →
    ∃ t, exec (.scanDone true) s = .next t ∧ t.flt.scans = [] ∧ (coreOf u t).scanning = false ∧ (coreOf u t).lastScan = s.now ∧ (coreOf u t).returnAt = some ((s.stroke.count + 1) % 2 ^ 48) ∧
      (coreOf u t).groups = [] ∧ t.mem.dram = s.mem.dram) ∧
  (∀ s u, s.flt.scans = [⟨0, u, none⟩] → s.flt.injs = [] → u ∉ s.dev.devsec.coresRet → ∃ t, exec (.scanDone false) s = .next t ∧ u ∈ t.dev.devsec.coresRet ∧ (coreOf u t).retired = true) ∧
  (∀ s u passed, s.flt.scans = [⟨4, u, none⟩] → s.flt.injs = [] →
    ∃ t, exec (.scanDone passed) s = .next t ∧ t.flt.scans = [] ∧ (if passed = true ∨ u ∈ s.flt.badWays then t.flt.badWays = s.flt.badWays else t.flt.badWays = s.flt.badWays ++ [u])) ∧
  (∀ u s, s.flt.scans = [] → s.dev.state = 2 → s.dev.patOk = true → u < 368 → coreGone u s = false → (coreOf u s).fenced = false → shellsOn u s = [] →
    ∃ t, exec (.rollingTest false u) s = .next t ∧ (coreOf u t).fenced = true ∧ (coreOf u t).scanning = true ∧ t.flt.scans = [⟨0, u, none⟩] ∧ t.mem = s.mem) ∧
  (∀ h w s, s.flt.scans = [] → s.dev.state = 2 → h < 16 → w < 32 → wayHolder h w s = none → h * 256 + w ∉ s.flt.badWays →
    ∃ t, exec (.rollingTest true (h * 256 + w)) s = .next t ∧ t.flt.scans = [⟨4, h * 256 + w, none⟩] ∧ t.cores = s.cores) ∧
  (∀ c s, c < 368 → coreGone c s = false → (coreOf c s).latent = false →
    ∃ t, exec (.latentScanOverdue c) s = .next t ∧ (coreOf c t).latent = true ∧ t.now = max s.now ((coreOf c s).lastScan + 8640000000000) ∧ t.mem = s.mem)

/-- R448..R451, R458: fences that drain, and the resets of a core, a die, a shell, a coherent domain and the device: what each clears and what it leaves. -/
def Obligations.Resets : Prop :=
  (∀ c s f, fenceOf 2 c s = some f → (coreOf c s).fenced = true → keysFrom 0 s.rreqs = true →
    ∃ t, exec (.fenceDrainTimeout 2 c) s = .next t ∧ t.now = max s.now (f.at' + 10000) ∧ (∃ x ∈ t.flt.fences, x.dom = 2 ∧ x.unit = c ∧ x.drained = true) ∧ (∀ e ∈ t.rreqs, waitCore e.2.wait ≠ some c)) ∧
  (∀ c s f, fenceOf 2 c s = some f → f.reset = true → fenceOf 3 (dieOf c) s = none → coreWaits c s = false → coreGone c s = false → f.inj ≠ none → keysFrom 0 s.cores = true →
    ∃ t, exec (.coreReset c) s = .next t ∧ (coreOf c t).groups = [] ∧ (coreOf c t).saved = [] ∧ (coreOf c t).ctr = [] ∧ (coreOf c t).returnAt = some ((s.stroke.count + 1) % 2 ^ 48) ∧
      (∀ a, a < 2097152 → memGet t.mem.spad (spadIx c a) = 0) ∧ t.mem.dram = s.mem.dram) ∧
  (∀ d s f, fenceOf 3 d s = some f → f.reset = true → f.stay = false → f.inj ≠ none → (∀ i, i < 46 → coreWaits (46 * d + i) s = false) →
    ∃ t, exec (.dieReset d) s = .next t ∧ fenceOf 3 d t = none ∧ (∀ e ∈ t.coh.lines, e.1 / 2 ^ 40 ≠ 2 * d ∧ e.1 / 2 ^ 40 ≠ 2 * d + 1)) ∧
  (∀ d s inj, s.flt.shellRst = [(d, inj)] → keysFrom 0 s.cmds = true →
    ∃ t, exec (.shellReset d) s = .next (schedule t) ∧ t.flt.shellRst = [] ∧ (∀ c ∈ t.cmds, c.2.cdom = d → c.2.st = .queued) ∧ (∀ e ∈ t.coh.lines, e.1 / 2 ^ 40 < 32 → ¬ (e.2.st = .N ∧ e.2.cdom = d)) ∧ t.mem.dram = s.mem.dram) ∧
  (∀ d s, s.retiring.contains d = false → d ∈ s.coh.failing →
    ∃ t, exec (.domainReset d) s = .next (schedule t) ∧ d ∉ t.coh.failing ∧ (∀ e ∈ t.coh.lines, e.2.cdom ≠ d) ∧ (∀ sh, shellOf d s = some sh → ∃ sh', shellOf d t = some sh' ∧ sh'.failed = false)) ∧
  (∀ s inj, s.flt.warm = some inj → ∃ t, exec .deviceWarmReset s = .next t ∧ t.stroke.count = 0 ∧ t.stroke.running = false ∧ t.coh.lines = [] ∧ t.cmds = [] ∧ t.rreqs = [] ∧ t.flt.injs = [] ∧ t.mem.spad = [] ∧ t.fuse = s.fuse) ∧
  (∀ s, s.flash.faults.length ≤ 256 → ∃ t r, exec .deviceColdReset s = .next t ∧ t.flt.log = s.flash.faults ++ [r] ∧ r.det = 0x63 ∧ t.mem = State.reset.mem ∧ t.cores = [] ∧ t.cmds = [] ∧ t.shells = [] ∧ t.fuse = s.fuse ∧ t.flash = s.flash ∧ t.pending = s.pending)

/-! ### Power, supply and temperature (16, 18) -/

/-- R461, R462, R464, R468..R474, R481: POWER.CAP, POWER.STATUS and POWER.HINT, the filler raise, the clock switch at the right voltage, the weir's 10 µs rule (a bubble fraction of at most 15/16 that moves by at most 1/32 per µs),
the repeated CAP_FLOOR record, PMBus readings; PLDM's sensors, effecter 100 and PDRs. -/
def Obligations.PowerRows : Prop :=
  (∀ m s r, reqOf 0x0901 (.mbx m) s = some r → r.field 0 15 0 ≤ 2400 → ∃ t, exec (.powerCap m) s = .next t ∧ t.pwr.hostCap = r.field 0 15 0 ∧ t.pwr.boardCap = s.pwr.boardCap ∧ (mbxOf m t).done = true) ∧
  (∀ m s r, reqOf 0x0901 (.mbx m) s = some r → 2400 < r.field 0 15 0 → exec (.powerCap m) s = .next (respond (.mbx m) 0x0103 [] s)) ∧
  (∀ src s r, reqOf 0x0902 src s = some r → exec (.powerStatus src) s = .next (respond src 0 [s.pwr.power % 2 ^ 16 + unsigned 16 (tjOf s) * 2 ^ 16 + s.dev.op * 2 ^ 32] s)) ∧
  (∀ q s r sh, reqOf 0x0903 (.queue q) s = some r → shellOf (r.cdom s) s = some sh → r.field 1 12 8 ≤ 16 →
    ∃ t sh', exec (.powerHint q) s = .next t ∧ shellOf (r.cdom s) t = some sh' ∧ (r.field 2 15 0 = 0 → sh'.hint = none) ∧
      (r.field 2 15 0 ≠ 0 → ∃ h, sh'.hint = some h ∧ h.point = r.field 1 1 0 ∧ h.act = r.field 1 12 8 ∧ h.strokes = r.field 2 15 0)) ∧
  (∀ d s sh h, shellOf d s = some sh → sh.hint = some h → hintActive ((s.stroke.count + 1) % 2 ^ 48) h = true → d ∉ s.pwr.raised →
    exec (.hintFillerRaise d) s = .next { s with pwr := { s.pwr with raised := s.pwr.raised ++ [d] } }) ∧
  (∀ s p a, s.pwr.target = some (p, a) → ∃ t, exec .opClockSwitch s = .next t ∧ t.dev.op = p ∧ t.pwr.target = none ∧ t.pwr.volt = Config.coreVolt p ∧ t.now = max s.now (a + 100 * (Config.coreVolt p - s.pwr.volt))) ∧
  (∀ watts arith s, let w := wantedBubble watts arith (effectiveCap s)
    ∃ t, exec (.weirTick watts arith) s = .next t ∧ t.pwr.power = watts ∧ t.pwr.arith = arith ∧ t.pwr.bubble = (if s.pwr.bubble < w then min w (s.pwr.bubble + 2048) else max w (s.pwr.bubble - 2048)) ∧ w ≤ 61440 ∧ t.mem = s.mem) ∧
  (∀ s, s.pwr.atFloor = true → ∃ t, exec .capFloorRepeat s = .next t ∧ t.now = max s.now (s.pwr.floorAt + 100000000) ∧ t.pwr.floorAt = t.now) ∧
  (∀ l s, exec (.pmbusPoll l) s = .next { s with pwr := { s.pwr with pmbus := l } }) ∧
  (∀ id v s, s.dev.stage = .released → pldmSensor id s = some v → exec (.getSensorReading id) s = .next (emit (.pldm true [v]) s)) ∧
  (∀ s, pldmSensor 1 s = some s.pwr.power ∧ pldmSensor 2 s = some s.pwr.powerMs ∧ pldmSensor 7 s = some s.dev.op ∧ pldmSensor 20 s = some s.pwr.dipCount ∧ pldmSensor 21 s = none) ∧
  (∀ s, s.dev.stage = .released → exec (.getNumericEffecterValue 100) s = .next (emit (.pldm true [effectiveCap s]) s)) ∧
  (∀ v s, s.dev.stage = .released → v ≤ 2400 → ∃ t, exec (.setNumericEffecterValue 100 v) s = .next t ∧ t.pwr.boardCap = v ∧ t.pwr.hostCap = s.pwr.hostCap ∧ t.out.getLast? = some (.pldm true [])) ∧
  (∀ v s, s.dev.stage = .released → 2400 < v → exec (.setNumericEffecterValue 100 v) s = .next (emit (.pldm false []) s)) ∧
  (∀ h s, s.dev.stage = .released → exec (.getPdr h) s = .next (emit (.pldm true ((Config.pdr h).map (fun b => b.toNat))) s)) ∧
  (∀ id s, s.dev.stage = .loader → exec (.getSensorReading id) s = .next (emit (.pldm false []) s))

/-- R475..R480, R532..R534: VR_ALERT_N and the supply monitor force OPE at once and void or blame the open windows; both ends wait their time; a rail at −10 % and DEV_RESET_N low for 10 µs reset the device; the thermal levels throttle,
limit and shut down; DRAM temperatures set the refresh rate. -/
def Obligations.SupplyAndHeat : Prop :=
  (∀ g ns s, monitorsOn s = true → s.flt.injs = [] → 20 ≤ ns →
    ∃ t, exec (.vrAlert g ns) s = .next t ∧ t.dev.op = 4 ∧ t.pwr.alertOn = true ∧ g ∈ t.pwr.alerts ∧ (∀ e ∈ t.cmds, e.2.guarNow = true → e.2.void = true) ∧ t.mem = s.mem) ∧
  (∀ g ns s, s.flt.injs = [] → ns < 10 → exec (.vrAlert g ns) s = .next s) ∧
  (∀ g s, g ∈ s.pwr.alerts → exec (.vrAlertNDeassert g) s = .next { s with pwr := { s.pwr with alerts := s.pwr.alerts.filter (fun x => x != g), alertAt := s.now } }) ∧
  (∀ s, s.pwr.alertOn = true → s.pwr.alerts = [] → s.pwr.alertEnds = false → s.stroke.running = true →
    ∃ t, exec .vrAlertEnd s = .next t ∧ t.pwr.alertEnds = true ∧ t.pwr.alertOn = true ∧ t.dev.op = s.dev.op ∧ t.now = max s.now (s.pwr.alertAt + 10000)) ∧
  (∀ g s, monitorsOn s = true → s.flt.injs = [] →
    ∃ t, exec (.supplyWarn g) s = .next t ∧ t.dev.op = 4 ∧ t.pwr.holdOn = true ∧ g ∈ t.pwr.dips ∧ t.pwr.dipCount = s.pwr.dipCount + 1 ∧ (∀ e ∈ t.cmds, e.2.guarNow = true → e.2.cause ≠ 0) ∧ t.mem = s.mem) ∧
  (∀ g s, g ∈ s.pwr.dips → exec (.supplyReturn g) s = .next { s with pwr := { s.pwr with dips := s.pwr.dips.filter (fun x => x != g), dipAt := s.now } }) ∧
  (∀ s, s.pwr.holdOn = true → s.pwr.dips = [] → ∃ t, exec .supplyHoldEnd s = .next t ∧ t.pwr.holdOn = false ∧ t.dev.op = s.dev.op ∧ t.now = max s.now (s.pwr.dipAt + 5000)) ∧
  (∀ g s, monitorsOn s = true → s.flt.injs = [] → ∃ t, exec (.supplyReset g) s = .next t ∧ t.cmds = [] ∧ t.shells = [] ∧ t.cores = [] ∧ t.fuse = s.fuse) ∧
  (∀ i v s, i < 48 → s.flt.injs = [] → s.pwr.offsets = [] → keysFrom 0 s.pwr.sensors = true → (∀ j, j < 100 → sensorAt j s < 930) → v < 930 → s.pwr.throttle = false → s.pwr.limit = false →
    ∃ t, exec (.thermalSample i v) s = .next t ∧ tabGet 250 i t.pwr.sensors = v ∧ (∀ j, j ≠ i → tabGet 250 j t.pwr.sensors = tabGet 250 j s.pwr.sensors) ∧ t.pwr.throttle = false ∧ t.flt.log = s.flt.log) ∧
  (∀ i v s, i < 48 → s.flt.injs = [] → s.pwr.offsets = [] → (∀ j, j < 100 → sensorAt j s < 930) → 950 ≤ v → v < 1050 → s.pwr.throttle = false → s.pwr.limit = false →
    ∃ t, exec (.thermalSample i v) s = .next t ∧ t.pwr.throttle = true ∧ t.pwr.limit = false ∧ t.pwr.throttleAt = s.now) ∧
  (∀ i v s, i < 48 → s.flt.injs = [] → s.pwr.offsets = [] → 1150 ≤ v → monitorsOn s = true → s.dev.therm = false →
    ∃ t, exec (.thermalSample i v) s = .next t ∧ t.dev.therm = true ∧ t.dev.stage = .held ∧ t.cmds = [] ∧ t.out.getLast? = some (.pin "THERM_TRIP_N" false)) ∧
  (∀ s, s.pwr.throttle = true → ∃ t, exec .throttleStep s = .next t ∧ t.now = max s.now (s.pwr.throttleAt + 10000) ∧ t.pwr.throttleAt = t.now ∧ s.pwr.ceilT ≤ t.pwr.ceilT) ∧
  (∀ s, s.pwr.throttle = false → s.pwr.ceilT ≠ 0 → ∃ t, exec .throttleRise s = .next t ∧ t.pwr.ceilT = s.pwr.ceilT - 1 ∧ t.now = max s.now (s.pwr.throttleAt + 1000000) ∧ t.pwr.throttleAt = t.now) ∧
  (∀ ch v s, ch < 64 → s.flt.injs = [] → s.pwr.offsets = [] → (∀ j, j < 100 → sensorAt j s < 1100) → v < 1100 → keysFrom 0 s.mem.chans = true → keysFrom 0 s.pwr.sensors = true →
    ∃ t, exec (.dramTemperatureRead [(ch, v)]) s = .next t ∧ (chanOf ch t).temp = v ∧ (chanOf ch t).twice = decide ((850 : Int) < v) ∧ t.mem.dram = s.mem.dram) ∧
  (∀ ns s, 10000 ≤ ns → ∃ t, exec (.devResetNAssert ns) s = .next t ∧ t.dev.devRst = true ∧ t.dev.stage = .held ∧ t.cmds = [] ∧ t.shells = [] ∧ t.fuse = s.fuse) ∧
  (∀ ns s, ns < 1000 → exec (.devResetNAssert ns) s = .next s)

/-! ### Attestation, firmware, debug (13, 17) -/

/-- R386, R392, R497, R498..R502, 09 R272: quotes and certificates (FLASH_ERROR without a good identity block), the firmware commands, the loader's commands, DEBUG.READ and DEBUG.ATTR. -/
def Obligations.FirmwareAndDebug : Prop :=
  (∀ m s r, reqOf 0x0A01 (.mbx m) s = some r → s.flash.ident = true → r.field 4 7 0 < 64 →
    exec (.attestQuote m) s = .next (respondBytes (.mbx m) 0 0 0 (quoteBytes r.tenant (if r.byOwner then 0 else r.cdom s) (r.field 4 7 0) (r.params.take 32) s) s)) ∧
  (∀ m s r, reqOf 0x0A01 (.mbx m) s = some r → s.flash.ident = false → exec (.attestQuote m) s = .next (respond (.mbx m) stFlashError [] s)) ∧
  (∀ m s r, reqOf 0x0A02 (.mbx m) s = some r → s.flash.ident = false → exec (.attestCert m) s = .next (respond (.mbx m) stFlashError [] s)) ∧
  (∀ m s r, reqOf 0x0A02 (.mbx m) s = some r → s.flash.ident = true → exec (.attestCert m) s = .next (respondBytes (.mbx m) 0 0 0 (leBytes Config.certChain.length 8 ++ (Config.certChain.drop (r.field 0 31 0)).take 4056) s)) ∧
  (∀ src s r, reqOf 0x0B01 src s = some r → exec (.firmwareInfo src) s = .next (respond src 0 [s.dev.fwVer + (if s.dev.fwOk then 2 ^ 16 else 0), leNat (s.dev.fwDigest.take 8)] s)) ∧
  (∀ m s r, reqOf 0x0B02 (.mbx m) s = some r → pageArgs r 0x2000000 = true → r.field 0 31 0 ≠ 0 → tabFind (r.field 0 31 0 / 4096) s.flash.pages = none →
    ∃ t, exec (.firmwareWrite m true) s = .next t ∧ t.flash = programPage (r.field 0 31 0 / 4096) ((r.params.drop 8).take (r.field 0 47 32)) s.flash ∧ t.dev.fwVer = s.dev.fwVer ∧ (mbxOf m t).done = true) ∧
  (∀ m s r x, reqOf 0x0B02 (.mbx m) s = some r → pageArgs r 0x2000000 = true → r.field 0 31 0 ≠ 0 → tabFind (r.field 0 31 0 / 4096) s.flash.pages = some x →
    ∃ t, exec (.firmwareWrite m true) s = .next t ∧ t.flash = s.flash ∧ memRead (mbxOf m t).resp 4 2 = [0x02#8, 0x08#8]) ∧
  (∀ m s r k, reqOf 0x0B03 (.mbx m) s = some r → verifyImage s.fuse s.flash.image s.flash.pages 6 = .inl k → ∃ t, exec (.firmwareVerify m) s = .next t ∧ t.dev.fwOk = false ∧ t.flash = s.flash) ∧
  (∀ m s r i, reqOf 0x0B03 (.mbx m) s = some r → verifyImage s.fuse s.flash.image s.flash.pages 6 = .inr i →
    ∃ t, exec (.firmwareVerify m) s = .next t ∧ t.dev.fwOk = patternsMatch s.flash i.patLen i.patWant ∧ t.dev.fwVer = s.dev.fwVer ∧ t.flash = s.flash) ∧
  (∀ m ok s r, reqOf 0x0C01 (.mbx m) s = some r → pageArgs r 0x800000 = true → bit (r.word 0) 63 = false →
    ∃ t, exec (.recoveryLoad m ok) s = .next t ∧ tabFind (r.field 0 31 0 / 4096) t.dev.staged = some (r.field 0 47 32) ∧
      t.dev.staging = memWrite s.dev.staging (4096 * (r.field 0 31 0 / 4096)) ((r.params.drop 8).take (r.field 0 47 32)) ∧ t.dev.stage = s.dev.stage ∧ t.flash = s.flash) ∧
  (∀ m s r i, reqOf 0x0C01 (.mbx m) s = some r → pageArgs r 0x800000 = true → bit (r.word 0) 63 = true → bit (r.word 0) 62 = false →
    verifyImage s.fuse (memWrite s.dev.staging (4096 * (r.field 0 31 0 / 4096)) ((r.params.drop 8).take (r.field 0 47 32))) (tabPut (r.field 0 31 0 / 4096) ((r.params.drop 8).take (r.field 0 47 32)).length s.dev.staged) 8 = .inr i →
    ∃ t, exec (.recoveryLoad m true) s = .next t ∧ t.dev.stage = .image ∧ t.dev.state = 0 ∧ t.dev.fwVer = i.ver ∧ t.dev.fwDigest = i.digest ∧ t.flash = s.flash) ∧
  (∀ m s r, reqOf 0x0C02 (.mbx m) s = some r → exec (.recoveryStatus m) s = .next (respond (.mbx m) 0 [s.dev.cause + s.dev.staged.foldl (fun a e => a + e.2) 0 % 2 ^ 32 * 2 ^ 32] s)) ∧
  (∀ m s r, reqOf 0x0D01 (.mbx m) s = some r → r.byOwner = true → r.field 0 3 0 = 0 → dpaUsable s (r.word 1) = true → exec (.debugRead m) s = .next (respond (.mbx m) 0 (dirWords (r.word 1 / 512) s) s)) ∧
  (∀ m s r, reqOf 0x0D01 (.mbx m) s = some r → r.byOwner = false → r.field 0 3 0 = 4 → exec (.debugRead m) s = .next (respond (.mbx m) 0x0104 [] s)) ∧
  (∀ m s r sh g, reqOf 0x0D01 (.mbx m) s = some r → r.byOwner = true → r.field 0 3 0 = 3 → r.word 1 < 256 → shellOf (r.field 0 24 16) s = some sh → tabFind (bits (r.word 1) 7 0) sh.ranges = some g →
    exec (.debugRead m) s = .next (respond (.mbx m) 0 (rangeWords g) s)) ∧
  (∀ m s r sh, reqOf 0x0D02 (.mbx m) s = some r → r.byOwner = true → shellOf (r.field 0 8 0) s = some sh →
    exec (.debugAttr m) s = .next (respond (.mbx m) 0 [] (setShell (r.field 0 8 0) { sh with discardPoison := bit (r.word 0) 16 } s)))

/-! ### Start-up and management (17, 18) -/

/-- R283, R297, R484..R488, R491, R492, R496, R497: the steps of start-up in their order, each from the stage before it, and what halts it or sends it to the loader. -/
def Obligations.StartUpSteps : Prop :=
  (∀ s, s.dev.stage = .held → s.dev.tap = .none' → s.dev.therm = false → ∃ t, exec .powerGood s = .next t ∧ t.dev.stage = .powered ∧ t.dev.devRst = false ∧ t.mem = s.mem ∧ t.flash = s.flash) ∧
  (∀ s l, s.dev.stage = .powered →
    (∃ t, exec (.fuseLoad true true l) s = .next t ∧ t.dev.stage = .fuses ∧ t.fuse = s.fuse ∧ ∀ n ∈ t.dev.sliceBad, n ∈ l ∧ n < 88) ∧
    exec (.fuseLoad false true l) s = .next { s with dev := { s.dev with stage := .halted, halt := 1 } } ∧ exec (.fuseLoad true false l) s = .next { s with dev := { s.dev with stage := .halted, halt := 2 } }) ∧
  (∀ s c b, s.dev.stage = .fuses → boardInUse s.flash = some (c, b) →
    ∃ t, exec .configRead s = .next t ∧ t.dev.stage = .config ∧ t.dev.board = c.body ∧ t.pwr.boardCap = c.body.powerCap ∧ t.man.baud = c.body.baud ∧ t.dev.devLost = (bestCopy s.flash.dev0 s.flash.dev1).isNone) ∧
  (∀ s, s.dev.stage = .fuses → boardInUse s.flash = none → ∃ t, exec .configRead s = .next t ∧ t.dev.stage = .loader ∧ t.dev.cause = 7 ∧ t.dev.state = 1) ∧
  (∀ s i, s.dev.stage = .config → verifyImage s.fuse s.flash.image s.flash.pages 6 = .inr i →
    ∃ t, exec (.imageVerify true) s = .next t ∧ t.dev.stage = .image ∧ t.dev.fwVer = i.ver ∧ t.dev.fwSvn = i.svn ∧ t.dev.fwDigest = i.digest ∧ t.dev.fwOk = true) ∧
  (∀ s, s.dev.stage = .config → ∃ t, exec (.imageVerify false) s = .next t ∧ t.dev.stage = .loader ∧ t.dev.cause = 6 ∧ t.dev.fwVer = 0) ∧
  (∀ s, s.dev.stage = .image → exec .coxBoot s = .next { s with dev := { s.dev with stage := .cox } }) ∧
  (∀ okF okS s, s.dev.stage = .cox → s.dev.state ≠ 4 → keysFrom 0 s.mem.chans = true →
    ∃ t, exec (.memoryTraining okF okS) s = .next t ∧ t.dev.stage = .memory ∧ (∀ c, c < 64 → (chanOf c t).usable = (okF.getLsbD c && !chanDisabled c s)) ∧
      (∀ c, c < 24 → (chanOf (64 + c) t).usable = (okS.getLsbD c && !chanDisabled (64 + c) s)) ∧ t.mem.dram = s.mem.dram) ∧
  (∀ s, s.dev.stage = .memory → ∃ t, exec .hardwareFill s = .next t ∧ t.dev.stage = .filled ∧ (∀ a, memGet t.mem.dram a = 0 ∧ memGet t.mem.spad a = 0) ∧ t.mem.tags = [] ∧ t.coh = State.reset.coh) ∧
  (∀ l s, s.dev.stage = .filled → s.dev.board.selfTest = true → s.dev.patOk = true → (∀ c ∈ l, c < 368) →
    ∃ t, exec (.coreSelfTest l) s = .next t ∧ t.dev.stage = .tested ∧ t.dev.testRan = true ∧ ∀ c ∈ l, coreGone c t = true) ∧
  (∀ s, s.dev.state = 0 → s.dev.stage = .filled → s.dev.board.selfTest = false → s.dev.devsec.oos = false → s.dev.devsec.floor ≤ liveCores s →
    ∃ t, exec .release s = .next t ∧ t.dev.stage = .released ∧ t.stroke.count = 0 ∧ t.stroke.running = true ∧ t.stroke.cfg = strokeOf s.dev.board ∧ t.dev.unaligned = isMember s) ∧
  (∀ s, s.dev.state = 0 → s.dev.stage = .cox → exec .release s = .next s)

/-- R500, R501 (codes of DSP0274: log entry 54, the model's choice): SPDM's requests in their order on both transports, each refused before its turn; without a good identity block every one is answered Unspecified. -/
def Obligations.SpdmRequests : Prop :=
  (∀ b s, spdmReached b s = true → s.dev.stage = .released → s.flash.ident = false → ∀ i nonce,
    ∀ c ∈ [Instr.getVersion b, .getCapabilities b, .negotiateAlgorithms b true, .getDigests b, .getCertificate b 0 0 i, .challenge b 0 nonce, .getMeasurements b i true nonce], exec c s = .next (emit (.spdm b 0x7F [5#8]) s)) ∧
  ∀ b s, spdmReached b s = true → s.dev.stage = .released → s.flash.ident = true →
    exec (.getVersion b) s = .next (emit (.spdm b 0x04 (leBytes 0x1300 2)) (setSpdm b ⟨true, false, false⟩ s)) ∧
    ((spdmOf b s).ver = true → exec (.getCapabilities b) s = .next (emit (.spdm b 0x61 (leBytes 0x16 4)) (setSpdm b { spdmOf b s with caps := true } s))) ∧
    ((spdmOf b s).ver = false → exec (.getCapabilities b) s = .next (emit (.spdm b 0x7F [4#8]) s)) ∧
    (∀ o, (spdmOf b s).caps = true → exec (.negotiateAlgorithms b o) s = .next (emit (.spdm b 0x63 [BitVec.ofNat 8 (b2n o)]) (setSpdm b { spdmOf b s with algs := o } s))) ∧
    ((spdmOf b s).algs = true →
      exec (.getDigests b) s = .next (emit (.spdm b 0x01 (1#8 :: sha256 Config.certChain)) s) ∧
      (∀ off n, off < Config.certChain.length → ∃ part, part = (Config.certChain.drop off).take n ∧
        exec (.getCertificate b 0 off n) s = .next (emit (.spdm b 0x02 (leBytes part.length 2 ++ leBytes (Config.certChain.length - off - part.length) 2 ++ part)) s)) ∧
      (∀ off n, Config.certChain.length ≤ off → exec (.getCertificate b 0 off n) s = .next (emit (.spdm b 0x7F [1#8]) s)) ∧
      (∀ nonce, exec (.challenge b 0 nonce) s = .next (emit (.spdm b 0x03 (sha256 Config.certChain ++ Config.spdmBody 0x03 nonce)) s)) ∧
      (∀ i nonce, 1 ≤ i → i ≤ 6 → exec (.getMeasurements b i false nonce) s = .next (emit (.spdm b 0x60 (1#8 :: measBlock s i)) s)) ∧
      (∀ nonce, exec (.getMeasurements b 0 false nonce) s = .next (emit (.spdm b 0x60 [6#8]) s)))

/-- R459, R481, R489, R491, R492, R505..R508: Stolmon: every command restarts the level's 10 minutes; level-0 commands answer, level-1 and level-2 commands answer at their level and are refused below it; `unlock` and `prove` raise the level, `lock`
and 10 minutes of silence end it; `cfg set` writes the copy not in use; `debug open` sets `debug_open` and removes the tenants. -/
def Obligations.StolmonCommands : Prop :=
  (∀ s, stolOn s = true → s.now < s.man.lastIn + 60000000000 → let u := { s with man := { s.man with lastIn := s.now } }
    (∃ w, exec .stHelp s = .next (emit (.line "help" true ([0, 1, 2, 3] ++ w)) u)) ∧
    exec .stId s = .next (emit (.line "id" true [s.fuse.part, s.fuse.stepping, s.fuse.serial, s.dev.board.devId, s.dev.fwVer]) u) ∧
    (∃ w, exec .stStatus s = .next (emit (.line "status" true (s.dev.state :: s.dev.cause :: s.dev.halt :: s.dev.op :: s.stroke.count :: w)) u)) ∧
    (∀ c, c ≤ 5 → ∃ t, exec (.stBaud c) s = .next t ∧ t.man.baud = c ∧ t.out = s.out ++ [.line "baud" true []]) ∧
    (∀ c, 5 < c → exec (.stBaud c) s = .next (emit (.line "baud" false [0x0103]) u)) ∧
    (s.dev.stage = .released →
      (∀ l rnd, l = 1 ∨ l = 2 → s.dev.devsec.claimed = true → stLocked s = false → rnd.length = 32 → ∃ t, exec (.stUnlock l rnd) s = .next t ∧ t.man.chal = some (rnd, l, s.now) ∧ t.man.level = s.man.level) ∧
      (∀ n l a, s.man.chal = some (n, l, a) → s.now ≤ a + 6000000000 →
        ∃ t, exec (.stProve (hmac s.dev.devsec.secret (n ++ leBytes l 1 ++ leBytes s.fuse.serial 8))) s = .next t ∧ t.man.level = l ∧ t.man.chal = none) ∧
      (∃ t, exec .stLock s = .next t ∧ t.man.level = 0 ∧ t.out = s.out ++ [.line "lock" true []]) ∧
      (s.man.level = 0 → ∀ c ∈ [Instr.stFuses, .stSensors, .stShells, .stCfgShow], ∃ w, exec c s = .next (emit (.line w false [0x0104]) u)) ∧
      (1 ≤ s.man.level →
        exec .stFuses s = .next (emit (.line "fuses" true (fuseWords s.fuse)) u) ∧
        (∀ f n, n ≤ 64 → ∃ w, exec (.stLog f n) s = .next (emit (.line "log" true w) u)) ∧
        (∃ w, exec .stSensors s = .next (emit (.line "sensors" true (s.pwr.power :: s.pwr.powerMs :: w)) u)) ∧
        (∃ w, exec .stShells s = .next (emit (.line "shells" true w) u) ∧ w.length = 5 * s.shells.length) ∧
        (∃ w, exec .stCfgShow s = .next (emit (.line "cfg show" true (s.dev.board.stroke.period :: w)) u)) ∧
        (∀ f v w, fieldWidths[f]? = some w → v < 2 ^ w → f ≠ 11 → f ≠ 14 → ∃ t, exec (.stCfgSet f v) s = .next t ∧ t.dev = s.dev ∧ t.flash.image = s.flash.image ∧ (t.flash.board0 ≠ s.flash.board0 ∨ t.flash.board1 ≠ s.flash.board1) ∧
          (t.flash.board0 = s.flash.board0 ∨ t.flash.board1 = s.flash.board1)) ∧
        (∀ i w, i < 4096 → routeOk { s.dev.board with devId := 4096 } i w.toNat = true → ∃ t, exec (.stCfgRoute i w) s = .next t ∧ t.dev = s.dev ∧ (t.flash.board0 = s.flash.board0 ∨ t.flash.board1 = s.flash.board1))) ∧
      (2 ≤ s.man.level → s.fuse.jtagOff = false → keysFrom 0 s.tenants = true → ∃ t, exec .stDebugOpen s = .next t ∧ t.dev.debugOpen = true ∧ t.tenants = []) ∧
      (2 ≤ s.man.level → s.fuse.jtagOff = true → exec .stDebugOpen s = .next (emit (.line "debug open" false [0x0104]) u)))) ∧
  (∀ s, stolOn s = true → s.man.lastIn + 60000000000 ≤ s.now → ∀ c ∈ [Instr.stFuses, .stSensors, .stShells, .stCfgShow],
    ∃ w, exec c s = .next (emit (.line w false [0x0104]) { s with man := { s.man with level := 0, lastIn := s.now } })) ∧
  (∀ s, s.man.level ≠ 0 → exec .stLevelTimeout s = .next { s with now := max s.now (s.man.lastIn + 60000000000), man := { s.man with level := 0 } })

/-- R506, R526: EXTEST, CLAMP and HIGHZ hold the device as DEV_RESET_N does; another instruction starts it at step 1; private instructions answer only while `debug_open` is 1. -/
def Obligations.TapInstructions : Prop :=
  (∀ s, s.dev.tap = .none' →
    (∃ t, exec .extest s = .next t ∧ t.dev.tap = .extest ∧ t.dev.stage = .held ∧ t.cmds = [] ∧ t.fuse = s.fuse) ∧ (∃ t, exec .clamp s = .next t ∧ t.dev.tap = .clamp ∧ t.dev.stage = .held ∧ t.cmds = [] ∧ t.fuse = s.fuse) ∧
    (∃ t, exec .highz s = .next t ∧ t.dev.tap = .highz ∧ t.dev.stage = .held ∧ t.cmds = [] ∧ t.fuse = s.fuse)) ∧
  (∀ s, s.dev.tap ≠ .none' → s.dev.devRst = false → s.dev.therm = false → ∃ t, exec .jtagInstructionLoad s = .next t ∧ t.dev.tap = .none' ∧ t.dev.stage = .powered) ∧
  (∀ op a bs s, s.dev.debugOpen = false → exec (.jtagPrivateAccess op a bs) s = .next s) ∧
  (∀ a bs s, s.dev.debugOpen = true → exec (.jtagPrivateAccess 0 a bs) s = .next { s with dev := { s.dev with coxHalt := true } }) ∧
  (∀ a b s, s.dev.debugOpen = true → ∃ t, exec (.jtagPrivateAccess 2 a [b]) s = .next t ∧ tabFind a t.dev.keel = some b ∧ t.mem = s.mem) ∧
  (∀ a b s, s.dev.debugOpen = true → tabFind a s.dev.keel = some b → ∃ t, exec (.jtagPrivateAccess 1 a [0]) s = .next t ∧ t.out = s.out ++ [.readData [b]] ∧ t.dev = s.dev)

/-! ### The whole machine -/

/-- A step takes the front command of the queue and runs it on the state with the queue's rest; on an empty queue 10 ns pass (entries 1, 3): stall counts go on, and after an
injected fault the monitor follows what it did. -/
def Obligations.StepRunsFrontCommand : Prop :=
  (∀ c rest s, s.pending = c :: rest → step s = exec c { s with pending := rest }) ∧
  (∀ s, s.pending = [] → ∃ t, step s = .next t ∧ t.pending = [] ∧ t.now = s.now + 1 ∧ t.mem = s.mem ∧ t.coh = s.coh ∧ t.shells = s.shells ∧ t.fuse = s.fuse ∧ t.qps = s.qps ∧
    (s.flt.watch = false → t.cmds = s.cmds ∧ t.flt = s.flt ∧ t = passTime 1 s))

/-- Every command answers a next state in every state: no command of the table faults or is refused. -/
def Obligations.EveryCommandAnswers : Prop := ∀ c s, ∃ t, exec c s = .next t

/-- A command's effect leaves the queue as it stands and never takes time back (entries 1, 3). R485, R489, R503: fuses are only blown: no word of the fuse array changes but the claim
count, which never falls, and the minimum image version, which never falls. -/
def Obligations.QueueTimeAndFuses : Prop :=
  ∀ c s t, exec c s = .next t → t.pending = s.pending ∧ s.now ≤ t.now ∧
    t.fuse = { s.fuse with claims := t.fuse.claims, svnMin := t.fuse.svnMin } ∧ s.fuse.claims ≤ t.fuse.claims ∧ svnMin s.fuse ≤ svnMin t.fuse

/-- Every step keeps both byte memories in canonical form, from any state that has it. -/
def Obligations.MemoryStaysCanonical : Prop := ∀ s t, s.memWf → step s = .next t → t.memWf

/-- The reset state: both byte memories are in canonical form and read 0 everywhere (the model's choice: entry 14); R8 and the Reset columns of Tables 12-4 to 12-7, 12-9, 12-10, 12-18
and 12-21 for the registers of BAR0. -/
def Obligations.ResetState : Prop :=
  State.reset.memWf ∧ (∀ a, memGet State.reset.mem.dram a = 0 ∧ memGet State.reset.mem.spad a = 0) ∧
  (devIdWord State.reset / 2 ^ 48 = 0x4D38 ∧ devIdWord State.reset / 2 ^ 32 % 256 = 1 ∧ devIdWord State.reset / 2 ^ 16 % 65536 = 0) ∧
  devStatusWord State.reset = 0 ∧ hostCtrlWord State.reset = 0 ∧ hostStatusWord State.reset = 0 ∧
  (∀ m, mbxCtrlWord (mbxOf m State.reset) = 0 ∧ mbxStatusWord (mbxOf m State.reset) = 0xFFFF * 2 ^ 32) ∧ (∀ q, queStatusWord q State.reset = 0) ∧
  (∀ k, aptWords (aptOf k State.reset) = (0, 0))

/-! ### The words of thread code -/

/-- R184, R189, R190, R192: every thread instruction that meets the operand rules decodes from its own word, with every operand as it was. -/
def Obligations.ThreadCodeRoundTrip : Prop :=
  ∀ c : Instr, c.codeOk = true → decodeCode (issOf c).core (issOf c).slot (encodeCode c) = some c

/-! ### Single rules -/

/-- R261: an Evict that its home processes, from an agent that the line's entry names and from one that it does not. -/
def Obligations.EvictClearsPresence : Prop :=
  ∀ a line s, a < 32 → agentFenced a s = false → idleLine line s → keysFrom 0 s.coh.dir = true →
    ∃ t, exec (.evict a line) s = .next t ∧ t.mem = { s.mem with tags := t.mem.tags } ∧ t.coh.home = s.coh.home ∧ t.coh.net = s.coh.net ∧ t.flt = s.flt ∧ t.out = s.out ∧
      (a < 16 → t.coh.lines = s.coh.lines ∧ t.mem = s.mem) ∧ (∀ k, k ≠ lineKey a line → tabFind k t.coh.lines = tabFind k s.coh.lines) ∧
      (∀ c, 16 ≤ a → clineOf a line s = some c → c.st = .E → keysFrom 0 s.coh.lines = true → clineOf a line t = none) ∧
      (∀ k, k ≠ line → dirOf k t = dirOf k s) ∧
      ((dirOf line s).dstate = .inv ∨ bit (dirOf line s).presence a = false → t.coh.dir = s.coh.dir) ∧
      ((dirOf line s).dstate ≠ .inv → bit (dirOf line s).presence a = true →
        ((dirOf line s).presence ≠ 2 ^ a → dirOf line t = { dirOf line s with presence := (dirOf line s).presence - 2 ^ a, fwd := none }) ∧
        ((dirOf line s).presence = 2 ^ a → (dirOf line t).dstate = .inv ∧ (dirOf line t).presence = 0 ∧ (dirOf line t).fwd = none))
end

