-- ==== Sys2Proof/Laws/State.lean ====
section
/-! SUPPORT. What each setter of State leaves: one lemma per field per update, all true by unfolding. -/
set_option Elab.async false

namespace Sys2Proof.Machine

variable (s : State)

/-! ### emit -/

@[simp] theorem emit_pending (o : Out) : (emit o s).pending = s.pending := rfl
@[simp] theorem emit_now (o : Out) : (emit o s).now = s.now := rfl
@[simp] theorem emit_fresh (o : Out) : (emit o s).fresh = s.fresh := rfl
@[simp] theorem emit_stamp (o : Out) : (emit o s).stamp = s.stamp := rfl
@[simp] theorem emit_nextCmd (o : Out) : (emit o s).nextCmd = s.nextCmd := rfl
@[simp] theorem emit_dev (o : Out) : (emit o s).dev = s.dev := rfl
@[simp] theorem emit_fuse (o : Out) : (emit o s).fuse = s.fuse := rfl
@[simp] theorem emit_flash (o : Out) : (emit o s).flash = s.flash := rfl
@[simp] theorem emit_stroke (o : Out) : (emit o s).stroke = s.stroke := rfl
@[simp] theorem emit_host (o : Out) : (emit o s).host = s.host := rfl
@[simp] theorem emit_mbx (o : Out) : (emit o s).mbx = s.mbx := rfl
@[simp] theorem emit_qps (o : Out) : (emit o s).qps = s.qps := rfl
@[simp] theorem emit_tenants (o : Out) : (emit o s).tenants = s.tenants := rfl
@[simp] theorem emit_shells (o : Out) : (emit o s).shells = s.shells := rfl
@[simp] theorem emit_retiring (o : Out) : (emit o s).retiring = s.retiring := rfl
@[simp] theorem emit_released (o : Out) : (emit o s).released = s.released := rfl
@[simp] theorem emit_graphs (o : Out) : (emit o s).graphs = s.graphs := rfl
@[simp] theorem emit_cmds (o : Out) : (emit o s).cmds = s.cmds := rfl
@[simp] theorem emit_cores (o : Out) : (emit o s).cores = s.cores := rfl
@[simp] theorem emit_coh (o : Out) : (emit o s).coh = s.coh := rfl
@[simp] theorem emit_mem (o : Out) : (emit o s).mem = s.mem := rfl
@[simp] theorem emit_links (o : Out) : (emit o s).links = s.links := rfl
@[simp] theorem emit_rreqs (o : Out) : (emit o s).rreqs = s.rreqs := rfl
@[simp] theorem emit_freedTags (o : Out) : (emit o s).freedTags = s.freedTags := rfl
@[simp] theorem emit_reg (o : Out) : (emit o s).reg = s.reg := rfl
@[simp] theorem emit_flt (o : Out) : (emit o s).flt = s.flt := rfl
@[simp] theorem emit_pwr (o : Out) : (emit o s).pwr = s.pwr := rfl
@[simp] theorem emit_man (o : Out) : (emit o s).man = s.man := rfl

/-! ### emits -/

@[simp] theorem emits_pending (os : List Out) : (emits os s).pending = s.pending := rfl
@[simp] theorem emits_now (os : List Out) : (emits os s).now = s.now := rfl
@[simp] theorem emits_fresh (os : List Out) : (emits os s).fresh = s.fresh := rfl
@[simp] theorem emits_stamp (os : List Out) : (emits os s).stamp = s.stamp := rfl
@[simp] theorem emits_nextCmd (os : List Out) : (emits os s).nextCmd = s.nextCmd := rfl
@[simp] theorem emits_dev (os : List Out) : (emits os s).dev = s.dev := rfl
@[simp] theorem emits_fuse (os : List Out) : (emits os s).fuse = s.fuse := rfl
@[simp] theorem emits_flash (os : List Out) : (emits os s).flash = s.flash := rfl
@[simp] theorem emits_stroke (os : List Out) : (emits os s).stroke = s.stroke := rfl
@[simp] theorem emits_host (os : List Out) : (emits os s).host = s.host := rfl
@[simp] theorem emits_mbx (os : List Out) : (emits os s).mbx = s.mbx := rfl
@[simp] theorem emits_qps (os : List Out) : (emits os s).qps = s.qps := rfl
@[simp] theorem emits_tenants (os : List Out) : (emits os s).tenants = s.tenants := rfl
@[simp] theorem emits_shells (os : List Out) : (emits os s).shells = s.shells := rfl
@[simp] theorem emits_retiring (os : List Out) : (emits os s).retiring = s.retiring := rfl
@[simp] theorem emits_released (os : List Out) : (emits os s).released = s.released := rfl
@[simp] theorem emits_graphs (os : List Out) : (emits os s).graphs = s.graphs := rfl
@[simp] theorem emits_cmds (os : List Out) : (emits os s).cmds = s.cmds := rfl
@[simp] theorem emits_cores (os : List Out) : (emits os s).cores = s.cores := rfl
@[simp] theorem emits_coh (os : List Out) : (emits os s).coh = s.coh := rfl
@[simp] theorem emits_mem (os : List Out) : (emits os s).mem = s.mem := rfl
@[simp] theorem emits_links (os : List Out) : (emits os s).links = s.links := rfl
@[simp] theorem emits_rreqs (os : List Out) : (emits os s).rreqs = s.rreqs := rfl
@[simp] theorem emits_freedTags (os : List Out) : (emits os s).freedTags = s.freedTags := rfl
@[simp] theorem emits_reg (os : List Out) : (emits os s).reg = s.reg := rfl
@[simp] theorem emits_flt (os : List Out) : (emits os s).flt = s.flt := rfl
@[simp] theorem emits_pwr (os : List Out) : (emits os s).pwr = s.pwr := rfl
@[simp] theorem emits_man (os : List Out) : (emits os s).man = s.man := rfl

/-! ### bump -/

@[simp] theorem bump_pending : (bump s).pending = s.pending := rfl
@[simp] theorem bump_now : (bump s).now = s.now := rfl
@[simp] theorem bump_stamp : (bump s).stamp = s.stamp := rfl
@[simp] theorem bump_nextCmd : (bump s).nextCmd = s.nextCmd := rfl
@[simp] theorem bump_out : (bump s).out = s.out := rfl
@[simp] theorem bump_dev : (bump s).dev = s.dev := rfl
@[simp] theorem bump_fuse : (bump s).fuse = s.fuse := rfl
@[simp] theorem bump_flash : (bump s).flash = s.flash := rfl
@[simp] theorem bump_stroke : (bump s).stroke = s.stroke := rfl
@[simp] theorem bump_host : (bump s).host = s.host := rfl
@[simp] theorem bump_mbx : (bump s).mbx = s.mbx := rfl
@[simp] theorem bump_qps : (bump s).qps = s.qps := rfl
@[simp] theorem bump_tenants : (bump s).tenants = s.tenants := rfl
@[simp] theorem bump_shells : (bump s).shells = s.shells := rfl
@[simp] theorem bump_retiring : (bump s).retiring = s.retiring := rfl
@[simp] theorem bump_released : (bump s).released = s.released := rfl
@[simp] theorem bump_graphs : (bump s).graphs = s.graphs := rfl
@[simp] theorem bump_cmds : (bump s).cmds = s.cmds := rfl
@[simp] theorem bump_cores : (bump s).cores = s.cores := rfl
@[simp] theorem bump_coh : (bump s).coh = s.coh := rfl
@[simp] theorem bump_mem : (bump s).mem = s.mem := rfl
@[simp] theorem bump_links : (bump s).links = s.links := rfl
@[simp] theorem bump_rreqs : (bump s).rreqs = s.rreqs := rfl
@[simp] theorem bump_freedTags : (bump s).freedTags = s.freedTags := rfl
@[simp] theorem bump_reg : (bump s).reg = s.reg := rfl
@[simp] theorem bump_flt : (bump s).flt = s.flt := rfl
@[simp] theorem bump_pwr : (bump s).pwr = s.pwr := rfl
@[simp] theorem bump_man : (bump s).man = s.man := rfl

/-! ### tick -/

@[simp] theorem tick_pending : (tick s).pending = s.pending := rfl
@[simp] theorem tick_now : (tick s).now = s.now := rfl
@[simp] theorem tick_fresh : (tick s).fresh = s.fresh := rfl
@[simp] theorem tick_nextCmd : (tick s).nextCmd = s.nextCmd := rfl
@[simp] theorem tick_out : (tick s).out = s.out := rfl
@[simp] theorem tick_dev : (tick s).dev = s.dev := rfl
@[simp] theorem tick_fuse : (tick s).fuse = s.fuse := rfl
@[simp] theorem tick_flash : (tick s).flash = s.flash := rfl
@[simp] theorem tick_stroke : (tick s).stroke = s.stroke := rfl
@[simp] theorem tick_host : (tick s).host = s.host := rfl
@[simp] theorem tick_mbx : (tick s).mbx = s.mbx := rfl
@[simp] theorem tick_qps : (tick s).qps = s.qps := rfl
@[simp] theorem tick_tenants : (tick s).tenants = s.tenants := rfl
@[simp] theorem tick_shells : (tick s).shells = s.shells := rfl
@[simp] theorem tick_retiring : (tick s).retiring = s.retiring := rfl
@[simp] theorem tick_released : (tick s).released = s.released := rfl
@[simp] theorem tick_graphs : (tick s).graphs = s.graphs := rfl
@[simp] theorem tick_cmds : (tick s).cmds = s.cmds := rfl
@[simp] theorem tick_cores : (tick s).cores = s.cores := rfl
@[simp] theorem tick_coh : (tick s).coh = s.coh := rfl
@[simp] theorem tick_mem : (tick s).mem = s.mem := rfl
@[simp] theorem tick_links : (tick s).links = s.links := rfl
@[simp] theorem tick_rreqs : (tick s).rreqs = s.rreqs := rfl
@[simp] theorem tick_freedTags : (tick s).freedTags = s.freedTags := rfl
@[simp] theorem tick_reg : (tick s).reg = s.reg := rfl
@[simp] theorem tick_flt : (tick s).flt = s.flt := rfl
@[simp] theorem tick_pwr : (tick s).pwr = s.pwr := rfl
@[simp] theorem tick_man : (tick s).man = s.man := rfl

/-! ### passTime -/

@[simp] theorem passTime_pending (d : Nat) : (passTime d s).pending = s.pending := rfl
@[simp] theorem passTime_fresh (d : Nat) : (passTime d s).fresh = s.fresh := rfl
@[simp] theorem passTime_stamp (d : Nat) : (passTime d s).stamp = s.stamp := rfl
@[simp] theorem passTime_nextCmd (d : Nat) : (passTime d s).nextCmd = s.nextCmd := rfl
@[simp] theorem passTime_out (d : Nat) : (passTime d s).out = s.out := rfl
@[simp] theorem passTime_dev (d : Nat) : (passTime d s).dev = s.dev := rfl
@[simp] theorem passTime_fuse (d : Nat) : (passTime d s).fuse = s.fuse := rfl
@[simp] theorem passTime_flash (d : Nat) : (passTime d s).flash = s.flash := rfl
@[simp] theorem passTime_stroke (d : Nat) : (passTime d s).stroke = s.stroke := rfl
@[simp] theorem passTime_host (d : Nat) : (passTime d s).host = s.host := rfl
@[simp] theorem passTime_mbx (d : Nat) : (passTime d s).mbx = s.mbx := rfl
@[simp] theorem passTime_qps (d : Nat) : (passTime d s).qps = s.qps := rfl
@[simp] theorem passTime_tenants (d : Nat) : (passTime d s).tenants = s.tenants := rfl
@[simp] theorem passTime_shells (d : Nat) : (passTime d s).shells = s.shells := rfl
@[simp] theorem passTime_retiring (d : Nat) : (passTime d s).retiring = s.retiring := rfl
@[simp] theorem passTime_released (d : Nat) : (passTime d s).released = s.released := rfl
@[simp] theorem passTime_graphs (d : Nat) : (passTime d s).graphs = s.graphs := rfl
@[simp] theorem passTime_cmds (d : Nat) : (passTime d s).cmds = s.cmds := rfl
@[simp] theorem passTime_coh (d : Nat) : (passTime d s).coh = s.coh := rfl
@[simp] theorem passTime_mem (d : Nat) : (passTime d s).mem = s.mem := rfl
@[simp] theorem passTime_links (d : Nat) : (passTime d s).links = s.links := rfl
@[simp] theorem passTime_rreqs (d : Nat) : (passTime d s).rreqs = s.rreqs := rfl
@[simp] theorem passTime_freedTags (d : Nat) : (passTime d s).freedTags = s.freedTags := rfl
@[simp] theorem passTime_reg (d : Nat) : (passTime d s).reg = s.reg := rfl
@[simp] theorem passTime_flt (d : Nat) : (passTime d s).flt = s.flt := rfl
@[simp] theorem passTime_pwr (d : Nat) : (passTime d s).pwr = s.pwr := rfl
@[simp] theorem passTime_man (d : Nat) : (passTime d s).man = s.man := rfl
@[simp] theorem passTime_now (d : Nat) : (passTime d s).now = s.now + d := rfl

/-! ### idleStep -/

@[simp] theorem idleStep_pending : (idleStep s).pending = s.pending := rfl
@[simp] theorem idleStep_fresh : (idleStep s).fresh = s.fresh := rfl
@[simp] theorem idleStep_stamp : (idleStep s).stamp = s.stamp := rfl
@[simp] theorem idleStep_nextCmd : (idleStep s).nextCmd = s.nextCmd := rfl
@[simp] theorem idleStep_out : (idleStep s).out = s.out := rfl
@[simp] theorem idleStep_dev : (idleStep s).dev = s.dev := rfl
@[simp] theorem idleStep_fuse : (idleStep s).fuse = s.fuse := rfl
@[simp] theorem idleStep_flash : (idleStep s).flash = s.flash := rfl
@[simp] theorem idleStep_stroke : (idleStep s).stroke = s.stroke := rfl
@[simp] theorem idleStep_host : (idleStep s).host = s.host := rfl
@[simp] theorem idleStep_mbx : (idleStep s).mbx = s.mbx := rfl
@[simp] theorem idleStep_qps : (idleStep s).qps = s.qps := rfl
@[simp] theorem idleStep_tenants : (idleStep s).tenants = s.tenants := rfl
@[simp] theorem idleStep_shells : (idleStep s).shells = s.shells := rfl
@[simp] theorem idleStep_retiring : (idleStep s).retiring = s.retiring := rfl
@[simp] theorem idleStep_released : (idleStep s).released = s.released := rfl
@[simp] theorem idleStep_graphs : (idleStep s).graphs = s.graphs := rfl
@[simp] theorem idleStep_cmds : (idleStep s).cmds = s.cmds := rfl
@[simp] theorem idleStep_now : (idleStep s).now = s.now + 1 := rfl
@[simp] theorem idleStep_coh : (idleStep s).coh = s.coh := rfl
@[simp] theorem idleStep_mem : (idleStep s).mem = s.mem := rfl
@[simp] theorem idleStep_links : (idleStep s).links = s.links := rfl
@[simp] theorem idleStep_rreqs : (idleStep s).rreqs = s.rreqs := rfl
@[simp] theorem idleStep_freedTags : (idleStep s).freedTags = s.freedTags := rfl
@[simp] theorem idleStep_reg : (idleStep s).reg = s.reg := rfl
@[simp] theorem idleStep_flt : (idleStep s).flt = s.flt := rfl
@[simp] theorem idleStep_pwr : (idleStep s).pwr = s.pwr := rfl
@[simp] theorem idleStep_man : (idleStep s).man = s.man := rfl

/-! ### untilTime -/

@[simp] theorem untilTime_pending (t : Nat) : (untilTime t s).pending = s.pending := rfl
@[simp] theorem untilTime_fresh (t : Nat) : (untilTime t s).fresh = s.fresh := rfl
@[simp] theorem untilTime_stamp (t : Nat) : (untilTime t s).stamp = s.stamp := rfl
@[simp] theorem untilTime_nextCmd (t : Nat) : (untilTime t s).nextCmd = s.nextCmd := rfl
@[simp] theorem untilTime_out (t : Nat) : (untilTime t s).out = s.out := rfl
@[simp] theorem untilTime_dev (t : Nat) : (untilTime t s).dev = s.dev := rfl
@[simp] theorem untilTime_fuse (t : Nat) : (untilTime t s).fuse = s.fuse := rfl
@[simp] theorem untilTime_flash (t : Nat) : (untilTime t s).flash = s.flash := rfl
@[simp] theorem untilTime_stroke (t : Nat) : (untilTime t s).stroke = s.stroke := rfl
@[simp] theorem untilTime_host (t : Nat) : (untilTime t s).host = s.host := rfl
@[simp] theorem untilTime_mbx (t : Nat) : (untilTime t s).mbx = s.mbx := rfl
@[simp] theorem untilTime_qps (t : Nat) : (untilTime t s).qps = s.qps := rfl
@[simp] theorem untilTime_tenants (t : Nat) : (untilTime t s).tenants = s.tenants := rfl
@[simp] theorem untilTime_shells (t : Nat) : (untilTime t s).shells = s.shells := rfl
@[simp] theorem untilTime_retiring (t : Nat) : (untilTime t s).retiring = s.retiring := rfl
@[simp] theorem untilTime_released (t : Nat) : (untilTime t s).released = s.released := rfl
@[simp] theorem untilTime_graphs (t : Nat) : (untilTime t s).graphs = s.graphs := rfl
@[simp] theorem untilTime_cmds (t : Nat) : (untilTime t s).cmds = s.cmds := rfl
@[simp] theorem untilTime_coh (t : Nat) : (untilTime t s).coh = s.coh := rfl
@[simp] theorem untilTime_mem (t : Nat) : (untilTime t s).mem = s.mem := rfl
@[simp] theorem untilTime_links (t : Nat) : (untilTime t s).links = s.links := rfl
@[simp] theorem untilTime_rreqs (t : Nat) : (untilTime t s).rreqs = s.rreqs := rfl
@[simp] theorem untilTime_freedTags (t : Nat) : (untilTime t s).freedTags = s.freedTags := rfl
@[simp] theorem untilTime_reg (t : Nat) : (untilTime t s).reg = s.reg := rfl
@[simp] theorem untilTime_flt (t : Nat) : (untilTime t s).flt = s.flt := rfl
@[simp] theorem untilTime_pwr (t : Nat) : (untilTime t s).pwr = s.pwr := rfl
@[simp] theorem untilTime_man (t : Nat) : (untilTime t s).man = s.man := rfl

/-! ### setCore -/

@[simp] theorem setCore_pending (c : Nat) (k : Core) : (setCore c k s).pending = s.pending := rfl
@[simp] theorem setCore_now (c : Nat) (k : Core) : (setCore c k s).now = s.now := rfl
@[simp] theorem setCore_fresh (c : Nat) (k : Core) : (setCore c k s).fresh = s.fresh := rfl
@[simp] theorem setCore_stamp (c : Nat) (k : Core) : (setCore c k s).stamp = s.stamp := rfl
@[simp] theorem setCore_nextCmd (c : Nat) (k : Core) : (setCore c k s).nextCmd = s.nextCmd := rfl
@[simp] theorem setCore_out (c : Nat) (k : Core) : (setCore c k s).out = s.out := rfl
@[simp] theorem setCore_dev (c : Nat) (k : Core) : (setCore c k s).dev = s.dev := rfl
@[simp] theorem setCore_fuse (c : Nat) (k : Core) : (setCore c k s).fuse = s.fuse := rfl
@[simp] theorem setCore_flash (c : Nat) (k : Core) : (setCore c k s).flash = s.flash := rfl
@[simp] theorem setCore_stroke (c : Nat) (k : Core) : (setCore c k s).stroke = s.stroke := rfl
@[simp] theorem setCore_host (c : Nat) (k : Core) : (setCore c k s).host = s.host := rfl
@[simp] theorem setCore_mbx (c : Nat) (k : Core) : (setCore c k s).mbx = s.mbx := rfl
@[simp] theorem setCore_qps (c : Nat) (k : Core) : (setCore c k s).qps = s.qps := rfl
@[simp] theorem setCore_tenants (c : Nat) (k : Core) : (setCore c k s).tenants = s.tenants := rfl
@[simp] theorem setCore_shells (c : Nat) (k : Core) : (setCore c k s).shells = s.shells := rfl
@[simp] theorem setCore_retiring (c : Nat) (k : Core) : (setCore c k s).retiring = s.retiring := rfl
@[simp] theorem setCore_released (c : Nat) (k : Core) : (setCore c k s).released = s.released := rfl
@[simp] theorem setCore_graphs (c : Nat) (k : Core) : (setCore c k s).graphs = s.graphs := rfl
@[simp] theorem setCore_cmds (c : Nat) (k : Core) : (setCore c k s).cmds = s.cmds := rfl
@[simp] theorem setCore_coh (c : Nat) (k : Core) : (setCore c k s).coh = s.coh := rfl
@[simp] theorem setCore_mem (c : Nat) (k : Core) : (setCore c k s).mem = s.mem := rfl
@[simp] theorem setCore_links (c : Nat) (k : Core) : (setCore c k s).links = s.links := rfl
@[simp] theorem setCore_rreqs (c : Nat) (k : Core) : (setCore c k s).rreqs = s.rreqs := rfl
@[simp] theorem setCore_freedTags (c : Nat) (k : Core) : (setCore c k s).freedTags = s.freedTags := rfl
@[simp] theorem setCore_reg (c : Nat) (k : Core) : (setCore c k s).reg = s.reg := rfl
@[simp] theorem setCore_flt (c : Nat) (k : Core) : (setCore c k s).flt = s.flt := rfl
@[simp] theorem setCore_pwr (c : Nat) (k : Core) : (setCore c k s).pwr = s.pwr := rfl
@[simp] theorem setCore_man (c : Nat) (k : Core) : (setCore c k s).man = s.man := rfl

/-! ### setGroup -/

@[simp] theorem setGroup_pending (c k : Nat) (g : Group) : (setGroup c k g s).pending = s.pending := rfl
@[simp] theorem setGroup_now (c k : Nat) (g : Group) : (setGroup c k g s).now = s.now := rfl
@[simp] theorem setGroup_fresh (c k : Nat) (g : Group) : (setGroup c k g s).fresh = s.fresh := rfl
@[simp] theorem setGroup_stamp (c k : Nat) (g : Group) : (setGroup c k g s).stamp = s.stamp := rfl
@[simp] theorem setGroup_nextCmd (c k : Nat) (g : Group) : (setGroup c k g s).nextCmd = s.nextCmd := rfl
@[simp] theorem setGroup_out (c k : Nat) (g : Group) : (setGroup c k g s).out = s.out := rfl
@[simp] theorem setGroup_dev (c k : Nat) (g : Group) : (setGroup c k g s).dev = s.dev := rfl
@[simp] theorem setGroup_fuse (c k : Nat) (g : Group) : (setGroup c k g s).fuse = s.fuse := rfl
@[simp] theorem setGroup_flash (c k : Nat) (g : Group) : (setGroup c k g s).flash = s.flash := rfl
@[simp] theorem setGroup_stroke (c k : Nat) (g : Group) : (setGroup c k g s).stroke = s.stroke := rfl
@[simp] theorem setGroup_host (c k : Nat) (g : Group) : (setGroup c k g s).host = s.host := rfl
@[simp] theorem setGroup_mbx (c k : Nat) (g : Group) : (setGroup c k g s).mbx = s.mbx := rfl
@[simp] theorem setGroup_qps (c k : Nat) (g : Group) : (setGroup c k g s).qps = s.qps := rfl
@[simp] theorem setGroup_tenants (c k : Nat) (g : Group) : (setGroup c k g s).tenants = s.tenants := rfl
@[simp] theorem setGroup_shells (c k : Nat) (g : Group) : (setGroup c k g s).shells = s.shells := rfl
@[simp] theorem setGroup_retiring (c k : Nat) (g : Group) : (setGroup c k g s).retiring = s.retiring := rfl
@[simp] theorem setGroup_released (c k : Nat) (g : Group) : (setGroup c k g s).released = s.released := rfl
@[simp] theorem setGroup_graphs (c k : Nat) (g : Group) : (setGroup c k g s).graphs = s.graphs := rfl
@[simp] theorem setGroup_cmds (c k : Nat) (g : Group) : (setGroup c k g s).cmds = s.cmds := rfl
@[simp] theorem setGroup_coh (c k : Nat) (g : Group) : (setGroup c k g s).coh = s.coh := rfl
@[simp] theorem setGroup_mem (c k : Nat) (g : Group) : (setGroup c k g s).mem = s.mem := rfl
@[simp] theorem setGroup_links (c k : Nat) (g : Group) : (setGroup c k g s).links = s.links := rfl
@[simp] theorem setGroup_rreqs (c k : Nat) (g : Group) : (setGroup c k g s).rreqs = s.rreqs := rfl
@[simp] theorem setGroup_freedTags (c k : Nat) (g : Group) : (setGroup c k g s).freedTags = s.freedTags := rfl
@[simp] theorem setGroup_reg (c k : Nat) (g : Group) : (setGroup c k g s).reg = s.reg := rfl
@[simp] theorem setGroup_flt (c k : Nat) (g : Group) : (setGroup c k g s).flt = s.flt := rfl
@[simp] theorem setGroup_pwr (c k : Nat) (g : Group) : (setGroup c k g s).pwr = s.pwr := rfl
@[simp] theorem setGroup_man (c k : Nat) (g : Group) : (setGroup c k g s).man = s.man := rfl

/-! ### setCmd -/

@[simp] theorem setCmd_pending (n : Nat) (c : Cmd) : (setCmd n c s).pending = s.pending := rfl
@[simp] theorem setCmd_now (n : Nat) (c : Cmd) : (setCmd n c s).now = s.now := rfl
@[simp] theorem setCmd_fresh (n : Nat) (c : Cmd) : (setCmd n c s).fresh = s.fresh := rfl
@[simp] theorem setCmd_stamp (n : Nat) (c : Cmd) : (setCmd n c s).stamp = s.stamp := rfl
@[simp] theorem setCmd_nextCmd (n : Nat) (c : Cmd) : (setCmd n c s).nextCmd = s.nextCmd := rfl
@[simp] theorem setCmd_out (n : Nat) (c : Cmd) : (setCmd n c s).out = s.out := rfl
@[simp] theorem setCmd_dev (n : Nat) (c : Cmd) : (setCmd n c s).dev = s.dev := rfl
@[simp] theorem setCmd_fuse (n : Nat) (c : Cmd) : (setCmd n c s).fuse = s.fuse := rfl
@[simp] theorem setCmd_flash (n : Nat) (c : Cmd) : (setCmd n c s).flash = s.flash := rfl
@[simp] theorem setCmd_stroke (n : Nat) (c : Cmd) : (setCmd n c s).stroke = s.stroke := rfl
@[simp] theorem setCmd_host (n : Nat) (c : Cmd) : (setCmd n c s).host = s.host := rfl
@[simp] theorem setCmd_mbx (n : Nat) (c : Cmd) : (setCmd n c s).mbx = s.mbx := rfl
@[simp] theorem setCmd_qps (n : Nat) (c : Cmd) : (setCmd n c s).qps = s.qps := rfl
@[simp] theorem setCmd_tenants (n : Nat) (c : Cmd) : (setCmd n c s).tenants = s.tenants := rfl
@[simp] theorem setCmd_shells (n : Nat) (c : Cmd) : (setCmd n c s).shells = s.shells := rfl
@[simp] theorem setCmd_retiring (n : Nat) (c : Cmd) : (setCmd n c s).retiring = s.retiring := rfl
@[simp] theorem setCmd_released (n : Nat) (c : Cmd) : (setCmd n c s).released = s.released := rfl
@[simp] theorem setCmd_graphs (n : Nat) (c : Cmd) : (setCmd n c s).graphs = s.graphs := rfl
@[simp] theorem setCmd_cores (n : Nat) (c : Cmd) : (setCmd n c s).cores = s.cores := rfl
@[simp] theorem setCmd_coh (n : Nat) (c : Cmd) : (setCmd n c s).coh = s.coh := rfl
@[simp] theorem setCmd_mem (n : Nat) (c : Cmd) : (setCmd n c s).mem = s.mem := rfl
@[simp] theorem setCmd_links (n : Nat) (c : Cmd) : (setCmd n c s).links = s.links := rfl
@[simp] theorem setCmd_rreqs (n : Nat) (c : Cmd) : (setCmd n c s).rreqs = s.rreqs := rfl
@[simp] theorem setCmd_freedTags (n : Nat) (c : Cmd) : (setCmd n c s).freedTags = s.freedTags := rfl
@[simp] theorem setCmd_reg (n : Nat) (c : Cmd) : (setCmd n c s).reg = s.reg := rfl
@[simp] theorem setCmd_flt (n : Nat) (c : Cmd) : (setCmd n c s).flt = s.flt := rfl
@[simp] theorem setCmd_pwr (n : Nat) (c : Cmd) : (setCmd n c s).pwr = s.pwr := rfl
@[simp] theorem setCmd_man (n : Nat) (c : Cmd) : (setCmd n c s).man = s.man := rfl

/-! ### setShell -/

@[simp] theorem setShell_pending (d : Nat) (h : Shell) : (setShell d h s).pending = s.pending := rfl
@[simp] theorem setShell_now (d : Nat) (h : Shell) : (setShell d h s).now = s.now := rfl
@[simp] theorem setShell_fresh (d : Nat) (h : Shell) : (setShell d h s).fresh = s.fresh := rfl
@[simp] theorem setShell_stamp (d : Nat) (h : Shell) : (setShell d h s).stamp = s.stamp := rfl
@[simp] theorem setShell_nextCmd (d : Nat) (h : Shell) : (setShell d h s).nextCmd = s.nextCmd := rfl
@[simp] theorem setShell_out (d : Nat) (h : Shell) : (setShell d h s).out = s.out := rfl
@[simp] theorem setShell_dev (d : Nat) (h : Shell) : (setShell d h s).dev = s.dev := rfl
@[simp] theorem setShell_fuse (d : Nat) (h : Shell) : (setShell d h s).fuse = s.fuse := rfl
@[simp] theorem setShell_flash (d : Nat) (h : Shell) : (setShell d h s).flash = s.flash := rfl
@[simp] theorem setShell_stroke (d : Nat) (h : Shell) : (setShell d h s).stroke = s.stroke := rfl
@[simp] theorem setShell_host (d : Nat) (h : Shell) : (setShell d h s).host = s.host := rfl
@[simp] theorem setShell_mbx (d : Nat) (h : Shell) : (setShell d h s).mbx = s.mbx := rfl
@[simp] theorem setShell_qps (d : Nat) (h : Shell) : (setShell d h s).qps = s.qps := rfl
@[simp] theorem setShell_tenants (d : Nat) (h : Shell) : (setShell d h s).tenants = s.tenants := rfl
@[simp] theorem setShell_retiring (d : Nat) (h : Shell) : (setShell d h s).retiring = s.retiring := rfl
@[simp] theorem setShell_released (d : Nat) (h : Shell) : (setShell d h s).released = s.released := rfl
@[simp] theorem setShell_graphs (d : Nat) (h : Shell) : (setShell d h s).graphs = s.graphs := rfl
@[simp] theorem setShell_cmds (d : Nat) (h : Shell) : (setShell d h s).cmds = s.cmds := rfl
@[simp] theorem setShell_cores (d : Nat) (h : Shell) : (setShell d h s).cores = s.cores := rfl
@[simp] theorem setShell_coh (d : Nat) (h : Shell) : (setShell d h s).coh = s.coh := rfl
@[simp] theorem setShell_mem (d : Nat) (h : Shell) : (setShell d h s).mem = s.mem := rfl
@[simp] theorem setShell_links (d : Nat) (h : Shell) : (setShell d h s).links = s.links := rfl
@[simp] theorem setShell_rreqs (d : Nat) (h : Shell) : (setShell d h s).rreqs = s.rreqs := rfl
@[simp] theorem setShell_freedTags (d : Nat) (h : Shell) : (setShell d h s).freedTags = s.freedTags := rfl
@[simp] theorem setShell_reg (d : Nat) (h : Shell) : (setShell d h s).reg = s.reg := rfl
@[simp] theorem setShell_flt (d : Nat) (h : Shell) : (setShell d h s).flt = s.flt := rfl
@[simp] theorem setShell_pwr (d : Nat) (h : Shell) : (setShell d h s).pwr = s.pwr := rfl
@[simp] theorem setShell_man (d : Nat) (h : Shell) : (setShell d h s).man = s.man := rfl

/-! ### setChan -/

@[simp] theorem setChan_pending (n : Nat) (c : Chan) : (setChan n c s).pending = s.pending := rfl
@[simp] theorem setChan_now (n : Nat) (c : Chan) : (setChan n c s).now = s.now := rfl
@[simp] theorem setChan_fresh (n : Nat) (c : Chan) : (setChan n c s).fresh = s.fresh := rfl
@[simp] theorem setChan_stamp (n : Nat) (c : Chan) : (setChan n c s).stamp = s.stamp := rfl
@[simp] theorem setChan_nextCmd (n : Nat) (c : Chan) : (setChan n c s).nextCmd = s.nextCmd := rfl
@[simp] theorem setChan_out (n : Nat) (c : Chan) : (setChan n c s).out = s.out := rfl
@[simp] theorem setChan_dev (n : Nat) (c : Chan) : (setChan n c s).dev = s.dev := rfl
@[simp] theorem setChan_fuse (n : Nat) (c : Chan) : (setChan n c s).fuse = s.fuse := rfl
@[simp] theorem setChan_flash (n : Nat) (c : Chan) : (setChan n c s).flash = s.flash := rfl
@[simp] theorem setChan_stroke (n : Nat) (c : Chan) : (setChan n c s).stroke = s.stroke := rfl
@[simp] theorem setChan_host (n : Nat) (c : Chan) : (setChan n c s).host = s.host := rfl
@[simp] theorem setChan_mbx (n : Nat) (c : Chan) : (setChan n c s).mbx = s.mbx := rfl
@[simp] theorem setChan_qps (n : Nat) (c : Chan) : (setChan n c s).qps = s.qps := rfl
@[simp] theorem setChan_tenants (n : Nat) (c : Chan) : (setChan n c s).tenants = s.tenants := rfl
@[simp] theorem setChan_shells (n : Nat) (c : Chan) : (setChan n c s).shells = s.shells := rfl
@[simp] theorem setChan_retiring (n : Nat) (c : Chan) : (setChan n c s).retiring = s.retiring := rfl
@[simp] theorem setChan_released (n : Nat) (c : Chan) : (setChan n c s).released = s.released := rfl
@[simp] theorem setChan_graphs (n : Nat) (c : Chan) : (setChan n c s).graphs = s.graphs := rfl
@[simp] theorem setChan_cmds (n : Nat) (c : Chan) : (setChan n c s).cmds = s.cmds := rfl
@[simp] theorem setChan_cores (n : Nat) (c : Chan) : (setChan n c s).cores = s.cores := rfl
@[simp] theorem setChan_coh (n : Nat) (c : Chan) : (setChan n c s).coh = s.coh := rfl
@[simp] theorem setChan_links (n : Nat) (c : Chan) : (setChan n c s).links = s.links := rfl
@[simp] theorem setChan_rreqs (n : Nat) (c : Chan) : (setChan n c s).rreqs = s.rreqs := rfl
@[simp] theorem setChan_freedTags (n : Nat) (c : Chan) : (setChan n c s).freedTags = s.freedTags := rfl
@[simp] theorem setChan_reg (n : Nat) (c : Chan) : (setChan n c s).reg = s.reg := rfl
@[simp] theorem setChan_flt (n : Nat) (c : Chan) : (setChan n c s).flt = s.flt := rfl
@[simp] theorem setChan_pwr (n : Nat) (c : Chan) : (setChan n c s).pwr = s.pwr := rfl
@[simp] theorem setChan_man (n : Nat) (c : Chan) : (setChan n c s).man = s.man := rfl
@[simp] theorem setChan_mem_dram (n : Nat) (c : Chan) : (setChan n c s).mem.dram = s.mem.dram := rfl
@[simp] theorem setChan_mem_spad (n : Nat) (c : Chan) : (setChan n c s).mem.spad = s.mem.spad := rfl
@[simp] theorem setChan_mem_tags (n : Nat) (c : Chan) : (setChan n c s).mem.tags = s.mem.tags := rfl
@[simp] theorem setChan_mem_rmw (n : Nat) (c : Chan) : (setChan n c s).mem.rmw = s.mem.rmw := rfl
@[simp] theorem setChan_mem_held (n : Nat) (c : Chan) : (setChan n c s).mem.held = s.mem.held := rfl

/-! ### setTag -/

@[simp] theorem setTag_pending (k : Nat) (t : WTag) : (setTag k t s).pending = s.pending := rfl
@[simp] theorem setTag_now (k : Nat) (t : WTag) : (setTag k t s).now = s.now := rfl
@[simp] theorem setTag_fresh (k : Nat) (t : WTag) : (setTag k t s).fresh = s.fresh := rfl
@[simp] theorem setTag_stamp (k : Nat) (t : WTag) : (setTag k t s).stamp = s.stamp := rfl
@[simp] theorem setTag_nextCmd (k : Nat) (t : WTag) : (setTag k t s).nextCmd = s.nextCmd := rfl
@[simp] theorem setTag_out (k : Nat) (t : WTag) : (setTag k t s).out = s.out := rfl
@[simp] theorem setTag_dev (k : Nat) (t : WTag) : (setTag k t s).dev = s.dev := rfl
@[simp] theorem setTag_fuse (k : Nat) (t : WTag) : (setTag k t s).fuse = s.fuse := rfl
@[simp] theorem setTag_flash (k : Nat) (t : WTag) : (setTag k t s).flash = s.flash := rfl
@[simp] theorem setTag_stroke (k : Nat) (t : WTag) : (setTag k t s).stroke = s.stroke := rfl
@[simp] theorem setTag_host (k : Nat) (t : WTag) : (setTag k t s).host = s.host := rfl
@[simp] theorem setTag_mbx (k : Nat) (t : WTag) : (setTag k t s).mbx = s.mbx := rfl
@[simp] theorem setTag_qps (k : Nat) (t : WTag) : (setTag k t s).qps = s.qps := rfl
@[simp] theorem setTag_tenants (k : Nat) (t : WTag) : (setTag k t s).tenants = s.tenants := rfl
@[simp] theorem setTag_shells (k : Nat) (t : WTag) : (setTag k t s).shells = s.shells := rfl
@[simp] theorem setTag_retiring (k : Nat) (t : WTag) : (setTag k t s).retiring = s.retiring := rfl
@[simp] theorem setTag_released (k : Nat) (t : WTag) : (setTag k t s).released = s.released := rfl
@[simp] theorem setTag_graphs (k : Nat) (t : WTag) : (setTag k t s).graphs = s.graphs := rfl
@[simp] theorem setTag_cmds (k : Nat) (t : WTag) : (setTag k t s).cmds = s.cmds := rfl
@[simp] theorem setTag_cores (k : Nat) (t : WTag) : (setTag k t s).cores = s.cores := rfl
@[simp] theorem setTag_coh (k : Nat) (t : WTag) : (setTag k t s).coh = s.coh := rfl
@[simp] theorem setTag_links (k : Nat) (t : WTag) : (setTag k t s).links = s.links := rfl
@[simp] theorem setTag_rreqs (k : Nat) (t : WTag) : (setTag k t s).rreqs = s.rreqs := rfl
@[simp] theorem setTag_freedTags (k : Nat) (t : WTag) : (setTag k t s).freedTags = s.freedTags := rfl
@[simp] theorem setTag_reg (k : Nat) (t : WTag) : (setTag k t s).reg = s.reg := rfl
@[simp] theorem setTag_flt (k : Nat) (t : WTag) : (setTag k t s).flt = s.flt := rfl
@[simp] theorem setTag_pwr (k : Nat) (t : WTag) : (setTag k t s).pwr = s.pwr := rfl
@[simp] theorem setTag_man (k : Nat) (t : WTag) : (setTag k t s).man = s.man := rfl
@[simp] theorem setTag_mem_dram (k : Nat) (t : WTag) : (setTag k t s).mem.dram = s.mem.dram := rfl
@[simp] theorem setTag_mem_spad (k : Nat) (t : WTag) : (setTag k t s).mem.spad = s.mem.spad := rfl
@[simp] theorem setTag_mem_rmw (k : Nat) (t : WTag) : (setTag k t s).mem.rmw = s.mem.rmw := rfl
@[simp] theorem setTag_mem_chans (k : Nat) (t : WTag) : (setTag k t s).mem.chans = s.mem.chans := rfl
@[simp] theorem setTag_mem_held (k : Nat) (t : WTag) : (setTag k t s).mem.held = s.mem.held := rfl

/-! ### setCLine -/

@[simp] theorem setCLine_pending (a l : Nat) (c : CLine) : (setCLine a l c s).pending = s.pending := rfl
@[simp] theorem setCLine_now (a l : Nat) (c : CLine) : (setCLine a l c s).now = s.now := rfl
@[simp] theorem setCLine_fresh (a l : Nat) (c : CLine) : (setCLine a l c s).fresh = s.fresh := rfl
@[simp] theorem setCLine_stamp (a l : Nat) (c : CLine) : (setCLine a l c s).stamp = s.stamp := rfl
@[simp] theorem setCLine_nextCmd (a l : Nat) (c : CLine) : (setCLine a l c s).nextCmd = s.nextCmd := rfl
@[simp] theorem setCLine_out (a l : Nat) (c : CLine) : (setCLine a l c s).out = s.out := rfl
@[simp] theorem setCLine_dev (a l : Nat) (c : CLine) : (setCLine a l c s).dev = s.dev := rfl
@[simp] theorem setCLine_fuse (a l : Nat) (c : CLine) : (setCLine a l c s).fuse = s.fuse := rfl
@[simp] theorem setCLine_flash (a l : Nat) (c : CLine) : (setCLine a l c s).flash = s.flash := rfl
@[simp] theorem setCLine_stroke (a l : Nat) (c : CLine) : (setCLine a l c s).stroke = s.stroke := rfl
@[simp] theorem setCLine_host (a l : Nat) (c : CLine) : (setCLine a l c s).host = s.host := rfl
@[simp] theorem setCLine_mbx (a l : Nat) (c : CLine) : (setCLine a l c s).mbx = s.mbx := rfl
@[simp] theorem setCLine_qps (a l : Nat) (c : CLine) : (setCLine a l c s).qps = s.qps := rfl
@[simp] theorem setCLine_tenants (a l : Nat) (c : CLine) : (setCLine a l c s).tenants = s.tenants := rfl
@[simp] theorem setCLine_shells (a l : Nat) (c : CLine) : (setCLine a l c s).shells = s.shells := rfl
@[simp] theorem setCLine_retiring (a l : Nat) (c : CLine) : (setCLine a l c s).retiring = s.retiring := rfl
@[simp] theorem setCLine_released (a l : Nat) (c : CLine) : (setCLine a l c s).released = s.released := rfl
@[simp] theorem setCLine_graphs (a l : Nat) (c : CLine) : (setCLine a l c s).graphs = s.graphs := rfl
@[simp] theorem setCLine_cmds (a l : Nat) (c : CLine) : (setCLine a l c s).cmds = s.cmds := rfl
@[simp] theorem setCLine_cores (a l : Nat) (c : CLine) : (setCLine a l c s).cores = s.cores := rfl
@[simp] theorem setCLine_mem (a l : Nat) (c : CLine) : (setCLine a l c s).mem = s.mem := rfl
@[simp] theorem setCLine_links (a l : Nat) (c : CLine) : (setCLine a l c s).links = s.links := rfl
@[simp] theorem setCLine_rreqs (a l : Nat) (c : CLine) : (setCLine a l c s).rreqs = s.rreqs := rfl
@[simp] theorem setCLine_freedTags (a l : Nat) (c : CLine) : (setCLine a l c s).freedTags = s.freedTags := rfl
@[simp] theorem setCLine_reg (a l : Nat) (c : CLine) : (setCLine a l c s).reg = s.reg := rfl
@[simp] theorem setCLine_flt (a l : Nat) (c : CLine) : (setCLine a l c s).flt = s.flt := rfl
@[simp] theorem setCLine_pwr (a l : Nat) (c : CLine) : (setCLine a l c s).pwr = s.pwr := rfl
@[simp] theorem setCLine_man (a l : Nat) (c : CLine) : (setCLine a l c s).man = s.man := rfl
@[simp] theorem setCLine_coh_miss (a l : Nat) (c : CLine) : (setCLine a l c s).coh.miss = s.coh.miss := rfl
@[simp] theorem setCLine_coh_wbuf (a l : Nat) (c : CLine) : (setCLine a l c s).coh.wbuf = s.coh.wbuf := rfl
@[simp] theorem setCLine_coh_dir (a l : Nat) (c : CLine) : (setCLine a l c s).coh.dir = s.coh.dir := rfl
@[simp] theorem setCLine_coh_open (a l : Nat) (c : CLine) : (setCLine a l c s).coh.open' = s.coh.open' := rfl
@[simp] theorem setCLine_coh_queue (a l : Nat) (c : CLine) : (setCLine a l c s).coh.queue = s.coh.queue := rfl
@[simp] theorem setCLine_coh_home (a l : Nat) (c : CLine) : (setCLine a l c s).coh.home = s.coh.home := rfl
@[simp] theorem setCLine_coh_atoms (a l : Nat) (c : CLine) : (setCLine a l c s).coh.atoms = s.coh.atoms := rfl
@[simp] theorem setCLine_coh_net (a l : Nat) (c : CLine) : (setCLine a l c s).coh.net = s.coh.net := rfl
@[simp] theorem setCLine_coh_failing (a l : Nat) (c : CLine) : (setCLine a l c s).coh.failing = s.coh.failing := rfl
@[simp] theorem setCLine_coh_pins (a l : Nat) (c : CLine) : (setCLine a l c s).coh.pins = s.coh.pins := rfl
@[simp] theorem setCLine_coh_ways (a l : Nat) (c : CLine) : (setCLine a l c s).coh.ways = s.coh.ways := rfl
@[simp] theorem setCLine_coh_bar4 (a l : Nat) (c : CLine) : (setCLine a l c s).coh.bar4 = s.coh.bar4 := rfl

/-! ### delCLine -/

@[simp] theorem delCLine_pending (a l : Nat) : (delCLine a l s).pending = s.pending := rfl
@[simp] theorem delCLine_now (a l : Nat) : (delCLine a l s).now = s.now := rfl
@[simp] theorem delCLine_fresh (a l : Nat) : (delCLine a l s).fresh = s.fresh := rfl
@[simp] theorem delCLine_stamp (a l : Nat) : (delCLine a l s).stamp = s.stamp := rfl
@[simp] theorem delCLine_nextCmd (a l : Nat) : (delCLine a l s).nextCmd = s.nextCmd := rfl
@[simp] theorem delCLine_out (a l : Nat) : (delCLine a l s).out = s.out := rfl
@[simp] theorem delCLine_dev (a l : Nat) : (delCLine a l s).dev = s.dev := rfl
@[simp] theorem delCLine_fuse (a l : Nat) : (delCLine a l s).fuse = s.fuse := rfl
@[simp] theorem delCLine_flash (a l : Nat) : (delCLine a l s).flash = s.flash := rfl
@[simp] theorem delCLine_stroke (a l : Nat) : (delCLine a l s).stroke = s.stroke := rfl
@[simp] theorem delCLine_host (a l : Nat) : (delCLine a l s).host = s.host := rfl
@[simp] theorem delCLine_mbx (a l : Nat) : (delCLine a l s).mbx = s.mbx := rfl
@[simp] theorem delCLine_qps (a l : Nat) : (delCLine a l s).qps = s.qps := rfl
@[simp] theorem delCLine_tenants (a l : Nat) : (delCLine a l s).tenants = s.tenants := rfl
@[simp] theorem delCLine_shells (a l : Nat) : (delCLine a l s).shells = s.shells := rfl
@[simp] theorem delCLine_retiring (a l : Nat) : (delCLine a l s).retiring = s.retiring := rfl
@[simp] theorem delCLine_released (a l : Nat) : (delCLine a l s).released = s.released := rfl
@[simp] theorem delCLine_graphs (a l : Nat) : (delCLine a l s).graphs = s.graphs := rfl
@[simp] theorem delCLine_cmds (a l : Nat) : (delCLine a l s).cmds = s.cmds := rfl
@[simp] theorem delCLine_cores (a l : Nat) : (delCLine a l s).cores = s.cores := rfl
@[simp] theorem delCLine_mem_dram (a l : Nat) : (delCLine a l s).mem.dram = s.mem.dram := rfl
@[simp] theorem delCLine_mem_spad (a l : Nat) : (delCLine a l s).mem.spad = s.mem.spad := rfl
@[simp] theorem delCLine_links (a l : Nat) : (delCLine a l s).links = s.links := rfl
@[simp] theorem delCLine_rreqs (a l : Nat) : (delCLine a l s).rreqs = s.rreqs := rfl
@[simp] theorem delCLine_freedTags (a l : Nat) : (delCLine a l s).freedTags = s.freedTags := rfl
@[simp] theorem delCLine_reg (a l : Nat) : (delCLine a l s).reg = s.reg := rfl
@[simp] theorem delCLine_flt (a l : Nat) : (delCLine a l s).flt = s.flt := rfl
@[simp] theorem delCLine_pwr (a l : Nat) : (delCLine a l s).pwr = s.pwr := rfl
@[simp] theorem delCLine_man (a l : Nat) : (delCLine a l s).man = s.man := rfl
@[simp] theorem delCLine_coh_miss (a l : Nat) : (delCLine a l s).coh.miss = s.coh.miss := rfl
@[simp] theorem delCLine_coh_wbuf (a l : Nat) : (delCLine a l s).coh.wbuf = s.coh.wbuf := rfl
@[simp] theorem delCLine_coh_dir (a l : Nat) : (delCLine a l s).coh.dir = s.coh.dir := rfl
@[simp] theorem delCLine_coh_open (a l : Nat) : (delCLine a l s).coh.open' = s.coh.open' := rfl
@[simp] theorem delCLine_coh_queue (a l : Nat) : (delCLine a l s).coh.queue = s.coh.queue := rfl
@[simp] theorem delCLine_coh_home (a l : Nat) : (delCLine a l s).coh.home = s.coh.home := rfl
@[simp] theorem delCLine_coh_atoms (a l : Nat) : (delCLine a l s).coh.atoms = s.coh.atoms := rfl
@[simp] theorem delCLine_coh_net (a l : Nat) : (delCLine a l s).coh.net = s.coh.net := rfl
@[simp] theorem delCLine_coh_failing (a l : Nat) : (delCLine a l s).coh.failing = s.coh.failing := rfl
@[simp] theorem delCLine_coh_pins (a l : Nat) : (delCLine a l s).coh.pins = s.coh.pins := rfl
@[simp] theorem delCLine_coh_ways (a l : Nat) : (delCLine a l s).coh.ways = s.coh.ways := rfl
@[simp] theorem delCLine_coh_bar4 (a l : Nat) : (delCLine a l s).coh.bar4 = s.coh.bar4 := rfl

/-! ### setDir -/

@[simp] theorem setDir_pending (l : Nat) (e : DirEntry) : (setDir l e s).pending = s.pending := rfl
@[simp] theorem setDir_now (l : Nat) (e : DirEntry) : (setDir l e s).now = s.now := rfl
@[simp] theorem setDir_fresh (l : Nat) (e : DirEntry) : (setDir l e s).fresh = s.fresh := rfl
@[simp] theorem setDir_stamp (l : Nat) (e : DirEntry) : (setDir l e s).stamp = s.stamp := rfl
@[simp] theorem setDir_nextCmd (l : Nat) (e : DirEntry) : (setDir l e s).nextCmd = s.nextCmd := rfl
@[simp] theorem setDir_out (l : Nat) (e : DirEntry) : (setDir l e s).out = s.out := rfl
@[simp] theorem setDir_dev (l : Nat) (e : DirEntry) : (setDir l e s).dev = s.dev := rfl
@[simp] theorem setDir_fuse (l : Nat) (e : DirEntry) : (setDir l e s).fuse = s.fuse := rfl
@[simp] theorem setDir_flash (l : Nat) (e : DirEntry) : (setDir l e s).flash = s.flash := rfl
@[simp] theorem setDir_stroke (l : Nat) (e : DirEntry) : (setDir l e s).stroke = s.stroke := rfl
@[simp] theorem setDir_host (l : Nat) (e : DirEntry) : (setDir l e s).host = s.host := rfl
@[simp] theorem setDir_mbx (l : Nat) (e : DirEntry) : (setDir l e s).mbx = s.mbx := rfl
@[simp] theorem setDir_qps (l : Nat) (e : DirEntry) : (setDir l e s).qps = s.qps := rfl
@[simp] theorem setDir_tenants (l : Nat) (e : DirEntry) : (setDir l e s).tenants = s.tenants := rfl
@[simp] theorem setDir_shells (l : Nat) (e : DirEntry) : (setDir l e s).shells = s.shells := rfl
@[simp] theorem setDir_retiring (l : Nat) (e : DirEntry) : (setDir l e s).retiring = s.retiring := rfl
@[simp] theorem setDir_released (l : Nat) (e : DirEntry) : (setDir l e s).released = s.released := rfl
@[simp] theorem setDir_graphs (l : Nat) (e : DirEntry) : (setDir l e s).graphs = s.graphs := rfl
@[simp] theorem setDir_cmds (l : Nat) (e : DirEntry) : (setDir l e s).cmds = s.cmds := rfl
@[simp] theorem setDir_cores (l : Nat) (e : DirEntry) : (setDir l e s).cores = s.cores := rfl
@[simp] theorem setDir_mem (l : Nat) (e : DirEntry) : (setDir l e s).mem = s.mem := rfl
@[simp] theorem setDir_links (l : Nat) (e : DirEntry) : (setDir l e s).links = s.links := rfl
@[simp] theorem setDir_rreqs (l : Nat) (e : DirEntry) : (setDir l e s).rreqs = s.rreqs := rfl
@[simp] theorem setDir_freedTags (l : Nat) (e : DirEntry) : (setDir l e s).freedTags = s.freedTags := rfl
@[simp] theorem setDir_reg (l : Nat) (e : DirEntry) : (setDir l e s).reg = s.reg := rfl
@[simp] theorem setDir_flt (l : Nat) (e : DirEntry) : (setDir l e s).flt = s.flt := rfl
@[simp] theorem setDir_pwr (l : Nat) (e : DirEntry) : (setDir l e s).pwr = s.pwr := rfl
@[simp] theorem setDir_man (l : Nat) (e : DirEntry) : (setDir l e s).man = s.man := rfl
@[simp] theorem setDir_coh_lines (l : Nat) (e : DirEntry) : (setDir l e s).coh.lines = s.coh.lines := rfl
@[simp] theorem setDir_coh_miss (l : Nat) (e : DirEntry) : (setDir l e s).coh.miss = s.coh.miss := rfl
@[simp] theorem setDir_coh_wbuf (l : Nat) (e : DirEntry) : (setDir l e s).coh.wbuf = s.coh.wbuf := rfl
@[simp] theorem setDir_coh_open (l : Nat) (e : DirEntry) : (setDir l e s).coh.open' = s.coh.open' := rfl
@[simp] theorem setDir_coh_queue (l : Nat) (e : DirEntry) : (setDir l e s).coh.queue = s.coh.queue := rfl
@[simp] theorem setDir_coh_home (l : Nat) (e : DirEntry) : (setDir l e s).coh.home = s.coh.home := rfl
@[simp] theorem setDir_coh_atoms (l : Nat) (e : DirEntry) : (setDir l e s).coh.atoms = s.coh.atoms := rfl
@[simp] theorem setDir_coh_net (l : Nat) (e : DirEntry) : (setDir l e s).coh.net = s.coh.net := rfl
@[simp] theorem setDir_coh_failing (l : Nat) (e : DirEntry) : (setDir l e s).coh.failing = s.coh.failing := rfl
@[simp] theorem setDir_coh_pins (l : Nat) (e : DirEntry) : (setDir l e s).coh.pins = s.coh.pins := rfl
@[simp] theorem setDir_coh_ways (l : Nat) (e : DirEntry) : (setDir l e s).coh.ways = s.coh.ways := rfl
@[simp] theorem setDir_coh_bar4 (l : Nat) (e : DirEntry) : (setDir l e s).coh.bar4 = s.coh.bar4 := rfl

/-! ### setHLine -/

@[simp] theorem setHLine_pending (l : Nat) (h : HLine) : (setHLine l h s).pending = s.pending := rfl
@[simp] theorem setHLine_now (l : Nat) (h : HLine) : (setHLine l h s).now = s.now := rfl
@[simp] theorem setHLine_fresh (l : Nat) (h : HLine) : (setHLine l h s).fresh = s.fresh := rfl
@[simp] theorem setHLine_stamp (l : Nat) (h : HLine) : (setHLine l h s).stamp = s.stamp := rfl
@[simp] theorem setHLine_nextCmd (l : Nat) (h : HLine) : (setHLine l h s).nextCmd = s.nextCmd := rfl
@[simp] theorem setHLine_out (l : Nat) (h : HLine) : (setHLine l h s).out = s.out := rfl
@[simp] theorem setHLine_dev (l : Nat) (h : HLine) : (setHLine l h s).dev = s.dev := rfl
@[simp] theorem setHLine_fuse (l : Nat) (h : HLine) : (setHLine l h s).fuse = s.fuse := rfl
@[simp] theorem setHLine_flash (l : Nat) (h : HLine) : (setHLine l h s).flash = s.flash := rfl
@[simp] theorem setHLine_stroke (l : Nat) (h : HLine) : (setHLine l h s).stroke = s.stroke := rfl
@[simp] theorem setHLine_host (l : Nat) (h : HLine) : (setHLine l h s).host = s.host := rfl
@[simp] theorem setHLine_mbx (l : Nat) (h : HLine) : (setHLine l h s).mbx = s.mbx := rfl
@[simp] theorem setHLine_qps (l : Nat) (h : HLine) : (setHLine l h s).qps = s.qps := rfl
@[simp] theorem setHLine_tenants (l : Nat) (h : HLine) : (setHLine l h s).tenants = s.tenants := rfl
@[simp] theorem setHLine_shells (l : Nat) (h : HLine) : (setHLine l h s).shells = s.shells := rfl
@[simp] theorem setHLine_retiring (l : Nat) (h : HLine) : (setHLine l h s).retiring = s.retiring := rfl
@[simp] theorem setHLine_released (l : Nat) (h : HLine) : (setHLine l h s).released = s.released := rfl
@[simp] theorem setHLine_graphs (l : Nat) (h : HLine) : (setHLine l h s).graphs = s.graphs := rfl
@[simp] theorem setHLine_cmds (l : Nat) (h : HLine) : (setHLine l h s).cmds = s.cmds := rfl
@[simp] theorem setHLine_cores (l : Nat) (h : HLine) : (setHLine l h s).cores = s.cores := rfl
@[simp] theorem setHLine_mem (l : Nat) (h : HLine) : (setHLine l h s).mem = s.mem := rfl
@[simp] theorem setHLine_links (l : Nat) (h : HLine) : (setHLine l h s).links = s.links := rfl
@[simp] theorem setHLine_rreqs (l : Nat) (h : HLine) : (setHLine l h s).rreqs = s.rreqs := rfl
@[simp] theorem setHLine_freedTags (l : Nat) (h : HLine) : (setHLine l h s).freedTags = s.freedTags := rfl
@[simp] theorem setHLine_reg (l : Nat) (h : HLine) : (setHLine l h s).reg = s.reg := rfl
@[simp] theorem setHLine_flt (l : Nat) (h : HLine) : (setHLine l h s).flt = s.flt := rfl
@[simp] theorem setHLine_pwr (l : Nat) (h : HLine) : (setHLine l h s).pwr = s.pwr := rfl
@[simp] theorem setHLine_man (l : Nat) (h : HLine) : (setHLine l h s).man = s.man := rfl
@[simp] theorem setHLine_coh_lines (l : Nat) (h : HLine) : (setHLine l h s).coh.lines = s.coh.lines := rfl
@[simp] theorem setHLine_coh_miss (l : Nat) (h : HLine) : (setHLine l h s).coh.miss = s.coh.miss := rfl
@[simp] theorem setHLine_coh_wbuf (l : Nat) (h : HLine) : (setHLine l h s).coh.wbuf = s.coh.wbuf := rfl
@[simp] theorem setHLine_coh_dir (l : Nat) (h : HLine) : (setHLine l h s).coh.dir = s.coh.dir := rfl
@[simp] theorem setHLine_coh_open (l : Nat) (h : HLine) : (setHLine l h s).coh.open' = s.coh.open' := rfl
@[simp] theorem setHLine_coh_queue (l : Nat) (h : HLine) : (setHLine l h s).coh.queue = s.coh.queue := rfl
@[simp] theorem setHLine_coh_atoms (l : Nat) (h : HLine) : (setHLine l h s).coh.atoms = s.coh.atoms := rfl
@[simp] theorem setHLine_coh_net (l : Nat) (h : HLine) : (setHLine l h s).coh.net = s.coh.net := rfl
@[simp] theorem setHLine_coh_failing (l : Nat) (h : HLine) : (setHLine l h s).coh.failing = s.coh.failing := rfl
@[simp] theorem setHLine_coh_pins (l : Nat) (h : HLine) : (setHLine l h s).coh.pins = s.coh.pins := rfl
@[simp] theorem setHLine_coh_ways (l : Nat) (h : HLine) : (setHLine l h s).coh.ways = s.coh.ways := rfl
@[simp] theorem setHLine_coh_bar4 (l : Nat) (h : HLine) : (setHLine l h s).coh.bar4 = s.coh.bar4 := rfl

/-! ### send -/

@[simp] theorem send_pending (m : NMsg) : (send m s).pending = s.pending := rfl
@[simp] theorem send_now (m : NMsg) : (send m s).now = s.now := rfl
@[simp] theorem send_fresh (m : NMsg) : (send m s).fresh = s.fresh := rfl
@[simp] theorem send_stamp (m : NMsg) : (send m s).stamp = s.stamp := rfl
@[simp] theorem send_nextCmd (m : NMsg) : (send m s).nextCmd = s.nextCmd := rfl
@[simp] theorem send_out (m : NMsg) : (send m s).out = s.out := rfl
@[simp] theorem send_dev (m : NMsg) : (send m s).dev = s.dev := rfl
@[simp] theorem send_fuse (m : NMsg) : (send m s).fuse = s.fuse := rfl
@[simp] theorem send_flash (m : NMsg) : (send m s).flash = s.flash := rfl
@[simp] theorem send_stroke (m : NMsg) : (send m s).stroke = s.stroke := rfl
@[simp] theorem send_host (m : NMsg) : (send m s).host = s.host := rfl
@[simp] theorem send_mbx (m : NMsg) : (send m s).mbx = s.mbx := rfl
@[simp] theorem send_qps (m : NMsg) : (send m s).qps = s.qps := rfl
@[simp] theorem send_tenants (m : NMsg) : (send m s).tenants = s.tenants := rfl
@[simp] theorem send_shells (m : NMsg) : (send m s).shells = s.shells := rfl
@[simp] theorem send_retiring (m : NMsg) : (send m s).retiring = s.retiring := rfl
@[simp] theorem send_released (m : NMsg) : (send m s).released = s.released := rfl
@[simp] theorem send_graphs (m : NMsg) : (send m s).graphs = s.graphs := rfl
@[simp] theorem send_cmds (m : NMsg) : (send m s).cmds = s.cmds := rfl
@[simp] theorem send_cores (m : NMsg) : (send m s).cores = s.cores := rfl
@[simp] theorem send_mem (m : NMsg) : (send m s).mem = s.mem := rfl
@[simp] theorem send_links (m : NMsg) : (send m s).links = s.links := rfl
@[simp] theorem send_rreqs (m : NMsg) : (send m s).rreqs = s.rreqs := rfl
@[simp] theorem send_freedTags (m : NMsg) : (send m s).freedTags = s.freedTags := rfl
@[simp] theorem send_reg (m : NMsg) : (send m s).reg = s.reg := rfl
@[simp] theorem send_flt (m : NMsg) : (send m s).flt = s.flt := rfl
@[simp] theorem send_pwr (m : NMsg) : (send m s).pwr = s.pwr := rfl
@[simp] theorem send_man (m : NMsg) : (send m s).man = s.man := rfl
@[simp] theorem send_coh_lines (m : NMsg) : (send m s).coh.lines = s.coh.lines := rfl
@[simp] theorem send_coh_miss (m : NMsg) : (send m s).coh.miss = s.coh.miss := rfl
@[simp] theorem send_coh_wbuf (m : NMsg) : (send m s).coh.wbuf = s.coh.wbuf := rfl
@[simp] theorem send_coh_dir (m : NMsg) : (send m s).coh.dir = s.coh.dir := rfl
@[simp] theorem send_coh_open (m : NMsg) : (send m s).coh.open' = s.coh.open' := rfl
@[simp] theorem send_coh_queue (m : NMsg) : (send m s).coh.queue = s.coh.queue := rfl
@[simp] theorem send_coh_home (m : NMsg) : (send m s).coh.home = s.coh.home := rfl
@[simp] theorem send_coh_atoms (m : NMsg) : (send m s).coh.atoms = s.coh.atoms := rfl
@[simp] theorem send_coh_failing (m : NMsg) : (send m s).coh.failing = s.coh.failing := rfl
@[simp] theorem send_coh_pins (m : NMsg) : (send m s).coh.pins = s.coh.pins := rfl
@[simp] theorem send_coh_ways (m : NMsg) : (send m s).coh.ways = s.coh.ways := rfl
@[simp] theorem send_coh_bar4 (m : NMsg) : (send m s).coh.bar4 = s.coh.bar4 := rfl

/-! ### sends -/

@[simp] theorem sends_pending (ms : List NMsg) : (sends ms s).pending = s.pending := rfl
@[simp] theorem sends_now (ms : List NMsg) : (sends ms s).now = s.now := rfl
@[simp] theorem sends_fresh (ms : List NMsg) : (sends ms s).fresh = s.fresh := rfl
@[simp] theorem sends_stamp (ms : List NMsg) : (sends ms s).stamp = s.stamp := rfl
@[simp] theorem sends_nextCmd (ms : List NMsg) : (sends ms s).nextCmd = s.nextCmd := rfl
@[simp] theorem sends_out (ms : List NMsg) : (sends ms s).out = s.out := rfl
@[simp] theorem sends_dev (ms : List NMsg) : (sends ms s).dev = s.dev := rfl
@[simp] theorem sends_fuse (ms : List NMsg) : (sends ms s).fuse = s.fuse := rfl
@[simp] theorem sends_flash (ms : List NMsg) : (sends ms s).flash = s.flash := rfl
@[simp] theorem sends_stroke (ms : List NMsg) : (sends ms s).stroke = s.stroke := rfl
@[simp] theorem sends_host (ms : List NMsg) : (sends ms s).host = s.host := rfl
@[simp] theorem sends_mbx (ms : List NMsg) : (sends ms s).mbx = s.mbx := rfl
@[simp] theorem sends_qps (ms : List NMsg) : (sends ms s).qps = s.qps := rfl
@[simp] theorem sends_tenants (ms : List NMsg) : (sends ms s).tenants = s.tenants := rfl
@[simp] theorem sends_shells (ms : List NMsg) : (sends ms s).shells = s.shells := rfl
@[simp] theorem sends_retiring (ms : List NMsg) : (sends ms s).retiring = s.retiring := rfl
@[simp] theorem sends_released (ms : List NMsg) : (sends ms s).released = s.released := rfl
@[simp] theorem sends_graphs (ms : List NMsg) : (sends ms s).graphs = s.graphs := rfl
@[simp] theorem sends_cmds (ms : List NMsg) : (sends ms s).cmds = s.cmds := rfl
@[simp] theorem sends_cores (ms : List NMsg) : (sends ms s).cores = s.cores := rfl
@[simp] theorem sends_mem (ms : List NMsg) : (sends ms s).mem = s.mem := rfl
@[simp] theorem sends_links (ms : List NMsg) : (sends ms s).links = s.links := rfl
@[simp] theorem sends_rreqs (ms : List NMsg) : (sends ms s).rreqs = s.rreqs := rfl
@[simp] theorem sends_freedTags (ms : List NMsg) : (sends ms s).freedTags = s.freedTags := rfl
@[simp] theorem sends_reg (ms : List NMsg) : (sends ms s).reg = s.reg := rfl
@[simp] theorem sends_flt (ms : List NMsg) : (sends ms s).flt = s.flt := rfl
@[simp] theorem sends_pwr (ms : List NMsg) : (sends ms s).pwr = s.pwr := rfl
@[simp] theorem sends_man (ms : List NMsg) : (sends ms s).man = s.man := rfl
@[simp] theorem sends_coh_lines (ms : List NMsg) : (sends ms s).coh.lines = s.coh.lines := rfl
@[simp] theorem sends_coh_miss (ms : List NMsg) : (sends ms s).coh.miss = s.coh.miss := rfl
@[simp] theorem sends_coh_wbuf (ms : List NMsg) : (sends ms s).coh.wbuf = s.coh.wbuf := rfl
@[simp] theorem sends_coh_dir (ms : List NMsg) : (sends ms s).coh.dir = s.coh.dir := rfl
@[simp] theorem sends_coh_open (ms : List NMsg) : (sends ms s).coh.open' = s.coh.open' := rfl
@[simp] theorem sends_coh_queue (ms : List NMsg) : (sends ms s).coh.queue = s.coh.queue := rfl
@[simp] theorem sends_coh_home (ms : List NMsg) : (sends ms s).coh.home = s.coh.home := rfl
@[simp] theorem sends_coh_atoms (ms : List NMsg) : (sends ms s).coh.atoms = s.coh.atoms := rfl
@[simp] theorem sends_coh_failing (ms : List NMsg) : (sends ms s).coh.failing = s.coh.failing := rfl
@[simp] theorem sends_coh_pins (ms : List NMsg) : (sends ms s).coh.pins = s.coh.pins := rfl
@[simp] theorem sends_coh_ways (ms : List NMsg) : (sends ms s).coh.ways = s.coh.ways := rfl
@[simp] theorem sends_coh_bar4 (ms : List NMsg) : (sends ms s).coh.bar4 = s.coh.bar4 := rfl

/-! ### setMbx -/

@[simp] theorem setMbx_pending (m : Nat) (b : Mbx) : (setMbx m b s).pending = s.pending := rfl
@[simp] theorem setMbx_now (m : Nat) (b : Mbx) : (setMbx m b s).now = s.now := rfl
@[simp] theorem setMbx_fresh (m : Nat) (b : Mbx) : (setMbx m b s).fresh = s.fresh := rfl
@[simp] theorem setMbx_stamp (m : Nat) (b : Mbx) : (setMbx m b s).stamp = s.stamp := rfl
@[simp] theorem setMbx_nextCmd (m : Nat) (b : Mbx) : (setMbx m b s).nextCmd = s.nextCmd := rfl
@[simp] theorem setMbx_out (m : Nat) (b : Mbx) : (setMbx m b s).out = s.out := rfl
@[simp] theorem setMbx_dev (m : Nat) (b : Mbx) : (setMbx m b s).dev = s.dev := rfl
@[simp] theorem setMbx_fuse (m : Nat) (b : Mbx) : (setMbx m b s).fuse = s.fuse := rfl
@[simp] theorem setMbx_flash (m : Nat) (b : Mbx) : (setMbx m b s).flash = s.flash := rfl
@[simp] theorem setMbx_stroke (m : Nat) (b : Mbx) : (setMbx m b s).stroke = s.stroke := rfl
@[simp] theorem setMbx_host (m : Nat) (b : Mbx) : (setMbx m b s).host = s.host := rfl
@[simp] theorem setMbx_qps (m : Nat) (b : Mbx) : (setMbx m b s).qps = s.qps := rfl
@[simp] theorem setMbx_tenants (m : Nat) (b : Mbx) : (setMbx m b s).tenants = s.tenants := rfl
@[simp] theorem setMbx_shells (m : Nat) (b : Mbx) : (setMbx m b s).shells = s.shells := rfl
@[simp] theorem setMbx_retiring (m : Nat) (b : Mbx) : (setMbx m b s).retiring = s.retiring := rfl
@[simp] theorem setMbx_released (m : Nat) (b : Mbx) : (setMbx m b s).released = s.released := rfl
@[simp] theorem setMbx_graphs (m : Nat) (b : Mbx) : (setMbx m b s).graphs = s.graphs := rfl
@[simp] theorem setMbx_cmds (m : Nat) (b : Mbx) : (setMbx m b s).cmds = s.cmds := rfl
@[simp] theorem setMbx_cores (m : Nat) (b : Mbx) : (setMbx m b s).cores = s.cores := rfl
@[simp] theorem setMbx_coh (m : Nat) (b : Mbx) : (setMbx m b s).coh = s.coh := rfl
@[simp] theorem setMbx_mem (m : Nat) (b : Mbx) : (setMbx m b s).mem = s.mem := rfl
@[simp] theorem setMbx_links (m : Nat) (b : Mbx) : (setMbx m b s).links = s.links := rfl
@[simp] theorem setMbx_rreqs (m : Nat) (b : Mbx) : (setMbx m b s).rreqs = s.rreqs := rfl
@[simp] theorem setMbx_freedTags (m : Nat) (b : Mbx) : (setMbx m b s).freedTags = s.freedTags := rfl
@[simp] theorem setMbx_reg (m : Nat) (b : Mbx) : (setMbx m b s).reg = s.reg := rfl
@[simp] theorem setMbx_flt (m : Nat) (b : Mbx) : (setMbx m b s).flt = s.flt := rfl
@[simp] theorem setMbx_pwr (m : Nat) (b : Mbx) : (setMbx m b s).pwr = s.pwr := rfl
@[simp] theorem setMbx_man (m : Nat) (b : Mbx) : (setMbx m b s).man = s.man := rfl

/-! ### setTenant -/

@[simp] theorem setTenant_pending (t : Nat) (r : Tenant) : (setTenant t r s).pending = s.pending := rfl
@[simp] theorem setTenant_now (t : Nat) (r : Tenant) : (setTenant t r s).now = s.now := rfl
@[simp] theorem setTenant_fresh (t : Nat) (r : Tenant) : (setTenant t r s).fresh = s.fresh := rfl
@[simp] theorem setTenant_stamp (t : Nat) (r : Tenant) : (setTenant t r s).stamp = s.stamp := rfl
@[simp] theorem setTenant_nextCmd (t : Nat) (r : Tenant) : (setTenant t r s).nextCmd = s.nextCmd := rfl
@[simp] theorem setTenant_out (t : Nat) (r : Tenant) : (setTenant t r s).out = s.out := rfl
@[simp] theorem setTenant_dev (t : Nat) (r : Tenant) : (setTenant t r s).dev = s.dev := rfl
@[simp] theorem setTenant_fuse (t : Nat) (r : Tenant) : (setTenant t r s).fuse = s.fuse := rfl
@[simp] theorem setTenant_flash (t : Nat) (r : Tenant) : (setTenant t r s).flash = s.flash := rfl
@[simp] theorem setTenant_stroke (t : Nat) (r : Tenant) : (setTenant t r s).stroke = s.stroke := rfl
@[simp] theorem setTenant_host (t : Nat) (r : Tenant) : (setTenant t r s).host = s.host := rfl
@[simp] theorem setTenant_mbx (t : Nat) (r : Tenant) : (setTenant t r s).mbx = s.mbx := rfl
@[simp] theorem setTenant_qps (t : Nat) (r : Tenant) : (setTenant t r s).qps = s.qps := rfl
@[simp] theorem setTenant_shells (t : Nat) (r : Tenant) : (setTenant t r s).shells = s.shells := rfl
@[simp] theorem setTenant_retiring (t : Nat) (r : Tenant) : (setTenant t r s).retiring = s.retiring := rfl
@[simp] theorem setTenant_released (t : Nat) (r : Tenant) : (setTenant t r s).released = s.released := rfl
@[simp] theorem setTenant_graphs (t : Nat) (r : Tenant) : (setTenant t r s).graphs = s.graphs := rfl
@[simp] theorem setTenant_cmds (t : Nat) (r : Tenant) : (setTenant t r s).cmds = s.cmds := rfl
@[simp] theorem setTenant_cores (t : Nat) (r : Tenant) : (setTenant t r s).cores = s.cores := rfl
@[simp] theorem setTenant_coh (t : Nat) (r : Tenant) : (setTenant t r s).coh = s.coh := rfl
@[simp] theorem setTenant_mem (t : Nat) (r : Tenant) : (setTenant t r s).mem = s.mem := rfl
@[simp] theorem setTenant_links (t : Nat) (r : Tenant) : (setTenant t r s).links = s.links := rfl
@[simp] theorem setTenant_rreqs (t : Nat) (r : Tenant) : (setTenant t r s).rreqs = s.rreqs := rfl
@[simp] theorem setTenant_freedTags (t : Nat) (r : Tenant) : (setTenant t r s).freedTags = s.freedTags := rfl
@[simp] theorem setTenant_reg (t : Nat) (r : Tenant) : (setTenant t r s).reg = s.reg := rfl
@[simp] theorem setTenant_flt (t : Nat) (r : Tenant) : (setTenant t r s).flt = s.flt := rfl
@[simp] theorem setTenant_pwr (t : Nat) (r : Tenant) : (setTenant t r s).pwr = s.pwr := rfl
@[simp] theorem setTenant_man (t : Nat) (r : Tenant) : (setTenant t r s).man = s.man := rfl

/-! ### setQp -/

@[simp] theorem setQp_pending (q : Nat) (p : QPair) : (setQp q p s).pending = s.pending := rfl
@[simp] theorem setQp_now (q : Nat) (p : QPair) : (setQp q p s).now = s.now := rfl
@[simp] theorem setQp_fresh (q : Nat) (p : QPair) : (setQp q p s).fresh = s.fresh := rfl
@[simp] theorem setQp_stamp (q : Nat) (p : QPair) : (setQp q p s).stamp = s.stamp := rfl
@[simp] theorem setQp_nextCmd (q : Nat) (p : QPair) : (setQp q p s).nextCmd = s.nextCmd := rfl
@[simp] theorem setQp_out (q : Nat) (p : QPair) : (setQp q p s).out = s.out := rfl
@[simp] theorem setQp_dev (q : Nat) (p : QPair) : (setQp q p s).dev = s.dev := rfl
@[simp] theorem setQp_fuse (q : Nat) (p : QPair) : (setQp q p s).fuse = s.fuse := rfl
@[simp] theorem setQp_flash (q : Nat) (p : QPair) : (setQp q p s).flash = s.flash := rfl
@[simp] theorem setQp_stroke (q : Nat) (p : QPair) : (setQp q p s).stroke = s.stroke := rfl
@[simp] theorem setQp_host (q : Nat) (p : QPair) : (setQp q p s).host = s.host := rfl
@[simp] theorem setQp_mbx (q : Nat) (p : QPair) : (setQp q p s).mbx = s.mbx := rfl
@[simp] theorem setQp_tenants (q : Nat) (p : QPair) : (setQp q p s).tenants = s.tenants := rfl
@[simp] theorem setQp_shells (q : Nat) (p : QPair) : (setQp q p s).shells = s.shells := rfl
@[simp] theorem setQp_retiring (q : Nat) (p : QPair) : (setQp q p s).retiring = s.retiring := rfl
@[simp] theorem setQp_released (q : Nat) (p : QPair) : (setQp q p s).released = s.released := rfl
@[simp] theorem setQp_graphs (q : Nat) (p : QPair) : (setQp q p s).graphs = s.graphs := rfl
@[simp] theorem setQp_cmds (q : Nat) (p : QPair) : (setQp q p s).cmds = s.cmds := rfl
@[simp] theorem setQp_cores (q : Nat) (p : QPair) : (setQp q p s).cores = s.cores := rfl
@[simp] theorem setQp_coh (q : Nat) (p : QPair) : (setQp q p s).coh = s.coh := rfl
@[simp] theorem setQp_mem (q : Nat) (p : QPair) : (setQp q p s).mem = s.mem := rfl
@[simp] theorem setQp_links (q : Nat) (p : QPair) : (setQp q p s).links = s.links := rfl
@[simp] theorem setQp_rreqs (q : Nat) (p : QPair) : (setQp q p s).rreqs = s.rreqs := rfl
@[simp] theorem setQp_freedTags (q : Nat) (p : QPair) : (setQp q p s).freedTags = s.freedTags := rfl
@[simp] theorem setQp_reg (q : Nat) (p : QPair) : (setQp q p s).reg = s.reg := rfl
@[simp] theorem setQp_flt (q : Nat) (p : QPair) : (setQp q p s).flt = s.flt := rfl
@[simp] theorem setQp_pwr (q : Nat) (p : QPair) : (setQp q p s).pwr = s.pwr := rfl
@[simp] theorem setQp_man (q : Nat) (p : QPair) : (setQp q p s).man = s.man := rfl

/-! ### setLink -/

@[simp] theorem setLink_pending (l : Nat) (k : Link) : (setLink l k s).pending = s.pending := rfl
@[simp] theorem setLink_now (l : Nat) (k : Link) : (setLink l k s).now = s.now := rfl
@[simp] theorem setLink_fresh (l : Nat) (k : Link) : (setLink l k s).fresh = s.fresh := rfl
@[simp] theorem setLink_stamp (l : Nat) (k : Link) : (setLink l k s).stamp = s.stamp := rfl
@[simp] theorem setLink_nextCmd (l : Nat) (k : Link) : (setLink l k s).nextCmd = s.nextCmd := rfl
@[simp] theorem setLink_out (l : Nat) (k : Link) : (setLink l k s).out = s.out := rfl
@[simp] theorem setLink_dev (l : Nat) (k : Link) : (setLink l k s).dev = s.dev := rfl
@[simp] theorem setLink_fuse (l : Nat) (k : Link) : (setLink l k s).fuse = s.fuse := rfl
@[simp] theorem setLink_flash (l : Nat) (k : Link) : (setLink l k s).flash = s.flash := rfl
@[simp] theorem setLink_stroke (l : Nat) (k : Link) : (setLink l k s).stroke = s.stroke := rfl
@[simp] theorem setLink_host (l : Nat) (k : Link) : (setLink l k s).host = s.host := rfl
@[simp] theorem setLink_mbx (l : Nat) (k : Link) : (setLink l k s).mbx = s.mbx := rfl
@[simp] theorem setLink_qps (l : Nat) (k : Link) : (setLink l k s).qps = s.qps := rfl
@[simp] theorem setLink_tenants (l : Nat) (k : Link) : (setLink l k s).tenants = s.tenants := rfl
@[simp] theorem setLink_shells (l : Nat) (k : Link) : (setLink l k s).shells = s.shells := rfl
@[simp] theorem setLink_retiring (l : Nat) (k : Link) : (setLink l k s).retiring = s.retiring := rfl
@[simp] theorem setLink_released (l : Nat) (k : Link) : (setLink l k s).released = s.released := rfl
@[simp] theorem setLink_graphs (l : Nat) (k : Link) : (setLink l k s).graphs = s.graphs := rfl
@[simp] theorem setLink_cmds (l : Nat) (k : Link) : (setLink l k s).cmds = s.cmds := rfl
@[simp] theorem setLink_cores (l : Nat) (k : Link) : (setLink l k s).cores = s.cores := rfl
@[simp] theorem setLink_coh (l : Nat) (k : Link) : (setLink l k s).coh = s.coh := rfl
@[simp] theorem setLink_mem (l : Nat) (k : Link) : (setLink l k s).mem = s.mem := rfl
@[simp] theorem setLink_rreqs (l : Nat) (k : Link) : (setLink l k s).rreqs = s.rreqs := rfl
@[simp] theorem setLink_freedTags (l : Nat) (k : Link) : (setLink l k s).freedTags = s.freedTags := rfl
@[simp] theorem setLink_reg (l : Nat) (k : Link) : (setLink l k s).reg = s.reg := rfl
@[simp] theorem setLink_flt (l : Nat) (k : Link) : (setLink l k s).flt = s.flt := rfl
@[simp] theorem setLink_pwr (l : Nat) (k : Link) : (setLink l k s).pwr = s.pwr := rfl
@[simp] theorem setLink_man (l : Nat) (k : Link) : (setLink l k s).man = s.man := rfl

/-! ### setApt -/

@[simp] theorem setApt_pending (k : Nat) (a : Apt) : (setApt k a s).pending = s.pending := rfl
@[simp] theorem setApt_now (k : Nat) (a : Apt) : (setApt k a s).now = s.now := rfl
@[simp] theorem setApt_fresh (k : Nat) (a : Apt) : (setApt k a s).fresh = s.fresh := rfl
@[simp] theorem setApt_stamp (k : Nat) (a : Apt) : (setApt k a s).stamp = s.stamp := rfl
@[simp] theorem setApt_nextCmd (k : Nat) (a : Apt) : (setApt k a s).nextCmd = s.nextCmd := rfl
@[simp] theorem setApt_out (k : Nat) (a : Apt) : (setApt k a s).out = s.out := rfl
@[simp] theorem setApt_dev (k : Nat) (a : Apt) : (setApt k a s).dev = s.dev := rfl
@[simp] theorem setApt_fuse (k : Nat) (a : Apt) : (setApt k a s).fuse = s.fuse := rfl
@[simp] theorem setApt_flash (k : Nat) (a : Apt) : (setApt k a s).flash = s.flash := rfl
@[simp] theorem setApt_stroke (k : Nat) (a : Apt) : (setApt k a s).stroke = s.stroke := rfl
@[simp] theorem setApt_mbx (k : Nat) (a : Apt) : (setApt k a s).mbx = s.mbx := rfl
@[simp] theorem setApt_qps (k : Nat) (a : Apt) : (setApt k a s).qps = s.qps := rfl
@[simp] theorem setApt_tenants (k : Nat) (a : Apt) : (setApt k a s).tenants = s.tenants := rfl
@[simp] theorem setApt_shells (k : Nat) (a : Apt) : (setApt k a s).shells = s.shells := rfl
@[simp] theorem setApt_retiring (k : Nat) (a : Apt) : (setApt k a s).retiring = s.retiring := rfl
@[simp] theorem setApt_released (k : Nat) (a : Apt) : (setApt k a s).released = s.released := rfl
@[simp] theorem setApt_graphs (k : Nat) (a : Apt) : (setApt k a s).graphs = s.graphs := rfl
@[simp] theorem setApt_cmds (k : Nat) (a : Apt) : (setApt k a s).cmds = s.cmds := rfl
@[simp] theorem setApt_cores (k : Nat) (a : Apt) : (setApt k a s).cores = s.cores := rfl
@[simp] theorem setApt_coh (k : Nat) (a : Apt) : (setApt k a s).coh = s.coh := rfl
@[simp] theorem setApt_mem (k : Nat) (a : Apt) : (setApt k a s).mem = s.mem := rfl
@[simp] theorem setApt_links (k : Nat) (a : Apt) : (setApt k a s).links = s.links := rfl
@[simp] theorem setApt_rreqs (k : Nat) (a : Apt) : (setApt k a s).rreqs = s.rreqs := rfl
@[simp] theorem setApt_freedTags (k : Nat) (a : Apt) : (setApt k a s).freedTags = s.freedTags := rfl
@[simp] theorem setApt_reg (k : Nat) (a : Apt) : (setApt k a s).reg = s.reg := rfl
@[simp] theorem setApt_flt (k : Nat) (a : Apt) : (setApt k a s).flt = s.flt := rfl
@[simp] theorem setApt_pwr (k : Nat) (a : Apt) : (setApt k a s).pwr = s.pwr := rfl
@[simp] theorem setApt_man (k : Nat) (a : Apt) : (setApt k a s).man = s.man := rfl

/-! ### setSpdm -/

@[simp] theorem setSpdm_pending (b : Bool) (p : Spdm) : (setSpdm b p s).pending = s.pending := rfl
@[simp] theorem setSpdm_now (b : Bool) (p : Spdm) : (setSpdm b p s).now = s.now := rfl
@[simp] theorem setSpdm_fresh (b : Bool) (p : Spdm) : (setSpdm b p s).fresh = s.fresh := rfl
@[simp] theorem setSpdm_stamp (b : Bool) (p : Spdm) : (setSpdm b p s).stamp = s.stamp := rfl
@[simp] theorem setSpdm_nextCmd (b : Bool) (p : Spdm) : (setSpdm b p s).nextCmd = s.nextCmd := rfl
@[simp] theorem setSpdm_out (b : Bool) (p : Spdm) : (setSpdm b p s).out = s.out := rfl
@[simp] theorem setSpdm_dev (b : Bool) (p : Spdm) : (setSpdm b p s).dev = s.dev := rfl
@[simp] theorem setSpdm_fuse (b : Bool) (p : Spdm) : (setSpdm b p s).fuse = s.fuse := rfl
@[simp] theorem setSpdm_flash (b : Bool) (p : Spdm) : (setSpdm b p s).flash = s.flash := rfl
@[simp] theorem setSpdm_stroke (b : Bool) (p : Spdm) : (setSpdm b p s).stroke = s.stroke := rfl
@[simp] theorem setSpdm_host (b : Bool) (p : Spdm) : (setSpdm b p s).host = s.host := rfl
@[simp] theorem setSpdm_mbx (b : Bool) (p : Spdm) : (setSpdm b p s).mbx = s.mbx := rfl
@[simp] theorem setSpdm_qps (b : Bool) (p : Spdm) : (setSpdm b p s).qps = s.qps := rfl
@[simp] theorem setSpdm_tenants (b : Bool) (p : Spdm) : (setSpdm b p s).tenants = s.tenants := rfl
@[simp] theorem setSpdm_shells (b : Bool) (p : Spdm) : (setSpdm b p s).shells = s.shells := rfl
@[simp] theorem setSpdm_retiring (b : Bool) (p : Spdm) : (setSpdm b p s).retiring = s.retiring := rfl
@[simp] theorem setSpdm_released (b : Bool) (p : Spdm) : (setSpdm b p s).released = s.released := rfl
@[simp] theorem setSpdm_graphs (b : Bool) (p : Spdm) : (setSpdm b p s).graphs = s.graphs := rfl
@[simp] theorem setSpdm_cmds (b : Bool) (p : Spdm) : (setSpdm b p s).cmds = s.cmds := rfl
@[simp] theorem setSpdm_cores (b : Bool) (p : Spdm) : (setSpdm b p s).cores = s.cores := rfl
@[simp] theorem setSpdm_coh (b : Bool) (p : Spdm) : (setSpdm b p s).coh = s.coh := rfl
@[simp] theorem setSpdm_mem (b : Bool) (p : Spdm) : (setSpdm b p s).mem = s.mem := rfl
@[simp] theorem setSpdm_links (b : Bool) (p : Spdm) : (setSpdm b p s).links = s.links := rfl
@[simp] theorem setSpdm_rreqs (b : Bool) (p : Spdm) : (setSpdm b p s).rreqs = s.rreqs := rfl
@[simp] theorem setSpdm_freedTags (b : Bool) (p : Spdm) : (setSpdm b p s).freedTags = s.freedTags := rfl
@[simp] theorem setSpdm_reg (b : Bool) (p : Spdm) : (setSpdm b p s).reg = s.reg := rfl
@[simp] theorem setSpdm_flt (b : Bool) (p : Spdm) : (setSpdm b p s).flt = s.flt := rfl
@[simp] theorem setSpdm_pwr (b : Bool) (p : Spdm) : (setSpdm b p s).pwr = s.pwr := rfl

end Sys2Proof.Machine
end

