-- ==== Sys2Proof/Laws/Tables.lean ====
section
/-! SUPPORT. Laws of the sparse tables and byte memories: a read after a write, and that every operation keeps the canonical form. -/
set_option Elab.async false

namespace Sys2Proof.Machine

variable {α : Type}

/-! ### Finding -/

@[simp] theorem tabFind_nil (k : Nat) : tabFind k ([] : Tab α) = none := rfl

@[simp] theorem tabFind_put_same (k : Nat) (v : α) (t : Tab α) : tabFind k (tabPut k v t) = some v := by
  induction t with
  | nil => simp [tabPut, tabFind]
  | cons e t ih =>
    unfold tabPut
    split
    · simp [tabFind]
    · split
      · simp [tabFind]
      · rename_i h
        simp [tabFind, Ne.symm h, ih]

theorem tabFind_put_other {j k : Nat} (h : j ≠ k) (v : α) (t : Tab α) : tabFind j (tabPut k v t) = tabFind j t := by
  induction t with
  | nil => simp [tabPut, tabFind, Ne.symm h]
  | cons e t ih =>
    unfold tabPut
    split
    · simp [tabFind, Ne.symm h]
    · split
      · rename_i h2
        subst h2
        simp [tabFind, Ne.symm h]
      · simp [tabFind, ih]

theorem tabFind_del_other {j k : Nat} (h : j ≠ k) (t : Tab α) : tabFind j (tabDel k t) = tabFind j t := by
  induction t with
  | nil => rfl
  | cons e t ih =>
    unfold tabDel
    split
    · rename_i h2
      subst h2
      simp [tabFind, Ne.symm h]
    · simp [tabFind, ih]

/-- In a table whose keys rise from above `k`, `k` is not found. -/
theorem tabFind_below {k lo : Nat} (h : k < lo) (t : Tab α) (w : keysFrom lo t = true) : tabFind k t = none := by
  induction t generalizing lo with
  | nil => rfl
  | cons e t ih =>
    simp only [keysFrom, Bool.and_eq_true, decide_eq_true_eq] at w
    have hne : e.1 ≠ k := by omega
    simp only [tabFind, if_neg hne]
    exact ih (by omega) w.2

theorem tabFind_del_same (k lo : Nat) (t : Tab α) (w : keysFrom lo t = true) : tabFind k (tabDel k t) = none := by
  induction t generalizing lo with
  | nil => rfl
  | cons e t ih =>
    simp only [keysFrom, Bool.and_eq_true, decide_eq_true_eq] at w
    unfold tabDel
    split
    · rename_i h
      subst h
      exact tabFind_below (Nat.lt_succ_self _) t w.2
    · rename_i h
      simp only [tabFind, if_neg h]
      exact ih _ w.2

/-! ### Order of keys -/

theorem keysFrom_mono {lo lo' : Nat} (h : lo' ≤ lo) (t : Tab α) (w : keysFrom lo t = true) : keysFrom lo' t = true := by
  cases t with
  | nil => rfl
  | cons e t =>
    simp only [keysFrom, Bool.and_eq_true, decide_eq_true_eq] at w ⊢
    exact ⟨by omega, w.2⟩

theorem keysFrom_put {k lo : Nat} (v : α) (t : Tab α) (h : lo ≤ k) (w : keysFrom lo t = true) : keysFrom lo (tabPut k v t) = true := by
  induction t generalizing lo with
  | nil => simp [tabPut, keysFrom, h]
  | cons e t ih =>
    simp only [keysFrom, Bool.and_eq_true, decide_eq_true_eq] at w
    unfold tabPut
    split
    · rename_i h2
      simp [keysFrom, h, w.2]
      omega
    · split
      · rename_i h2
        subst h2
        simp [keysFrom, h, w.2]
      · simp only [keysFrom, Bool.and_eq_true, decide_eq_true_eq]
        exact ⟨w.1, ih (by omega) w.2⟩

theorem keysFrom_del {lo : Nat} (k : Nat) (t : Tab α) (w : keysFrom lo t = true) : keysFrom lo (tabDel k t) = true := by
  induction t generalizing lo with
  | nil => rfl
  | cons e t ih =>
    simp only [keysFrom, Bool.and_eq_true, decide_eq_true_eq] at w
    unfold tabDel
    split
    · exact keysFrom_mono (by omega) t w.2
    · simp only [keysFrom, Bool.and_eq_true, decide_eq_true_eq]
      exact ⟨w.1, ih w.2⟩

theorem keysFrom_filter {lo : Nat} (p : Nat × α → Bool) (t : Tab α) (w : keysFrom lo t = true) : keysFrom lo (t.filter p) = true := by
  induction t generalizing lo with
  | nil => rfl
  | cons e t ih =>
    simp only [keysFrom, Bool.and_eq_true, decide_eq_true_eq] at w
    by_cases hp : p e = true
    · simp only [List.filter_cons_of_pos hp, keysFrom, Bool.and_eq_true, decide_eq_true_eq]
      exact ⟨w.1, ih w.2⟩
    · simp only [List.filter_cons_of_neg hp]
      exact keysFrom_mono (by omega) _ (ih w.2)

/-! ### Membership -/

theorem mem_put {k : Nat} {v : α} {t : Tab α} {e : Nat × α} (h : e ∈ tabPut k v t) : e = (k, v) ∨ e ∈ t := by
  induction t with
  | nil => simpa [tabPut] using h
  | cons x t ih =>
    unfold tabPut at h
    split at h
    · simpa using h
    · split at h
      · rcases List.mem_cons.mp h with h | h
        · exact Or.inl h
        · exact Or.inr (List.mem_cons_of_mem _ h)
      · rcases List.mem_cons.mp h with h | h
        · exact Or.inr (by simp [h])
        · exact (ih h).imp id (List.mem_cons_of_mem _)

theorem mem_del {k : Nat} {t : Tab α} {e : Nat × α} (h : e ∈ tabDel k t) : e ∈ t := by
  induction t with
  | nil => simp [tabDel] at h
  | cons x t ih =>
    unfold tabDel at h
    split at h
    · exact List.mem_cons_of_mem _ h
    · rcases List.mem_cons.mp h with h | h
      · simp [h]
      · exact List.mem_cons_of_mem _ (ih h)

/-! ### Tables with a default -/

variable [DecidableEq α] (d : α)

theorem tabWf_iff (t : Tab α) : tabWf d t = true ↔ keysFrom 0 t = true ∧ ∀ e ∈ t, e.2 ≠ d := by
  simp [tabWf]

@[simp] theorem tabWf_nil : tabWf d ([] : Tab α) = true := rfl

/-- Setting an entry keeps the canonical form. -/
theorem tabWf_set (k : Nat) (v : α) (t : Tab α) (w : tabWf d t = true) : tabWf d (tabSet d k v t) = true := by
  rw [tabWf_iff] at w ⊢
  unfold tabSet
  split
  · exact ⟨keysFrom_del k t w.1, fun e h => w.2 e (mem_del h)⟩
  · rename_i hv
    refine ⟨keysFrom_put v t (Nat.zero_le k) w.1, fun e h => ?_⟩
    rcases mem_put h with h | h
    · simpa [h] using hv
    · exact w.2 e h

theorem tabWf_filter (p : Nat × α → Bool) (t : Tab α) (w : tabWf d t = true) : tabWf d (t.filter p) = true := by
  rw [tabWf_iff] at w ⊢
  exact ⟨keysFrom_filter p t w.1, fun e h => w.2 e (List.mem_filter.mp h).1⟩

theorem keysFrom_set {lo k : Nat} (v : α) (t : Tab α) (h : lo ≤ k) (w : keysFrom lo t = true) : keysFrom lo (tabSet d k v t) = true := by
  unfold tabSet
  split
  · exact keysFrom_del k t w
  · exact keysFrom_put v t h w

/-- A read after a write of the same entry. -/
theorem tabGet_set_same (k : Nat) (v : α) (t : Tab α) (w : keysFrom 0 t = true) : tabGet d k (tabSet d k v t) = v := by
  unfold tabGet tabSet
  split
  · rename_i h
    rw [tabFind_del_same k 0 t w, h]
    rfl
  · simp

/-- A write leaves every other entry. -/
theorem tabGet_set_other {j k : Nat} (h : j ≠ k) (v : α) (t : Tab α) : tabGet d j (tabSet d k v t) = tabGet d j t := by
  unfold tabGet tabSet
  split
  · rw [tabFind_del_other h]
  · rw [tabFind_put_other h]

/-! ### Byte memories -/

theorem memWf_keys (m : Tab Byte) (w : Memory.wf m = true) : keysFrom 0 m = true := ((tabWf_iff 0 m).mp w).1

@[simp] theorem memWf_nil : Memory.wf [] = true := rfl

/-- Writing a byte keeps the canonical form. -/
theorem memWf_set (m : Tab Byte) (a : Nat) (b : Byte) (w : Memory.wf m = true) : Memory.wf (memSet m a b) = true := tabWf_set 0 a b m w

/-- Writing bytes in a row keeps the canonical form. -/
theorem memWf_write (bs : List Byte) (m : Tab Byte) (a : Nat) (w : Memory.wf m = true) : Memory.wf (memWrite m a bs) = true := by
  induction bs generalizing m a with
  | nil => exact w
  | cons b bs ih => exact ih _ _ (memWf_set m a b w)

/-- Writing cells keeps the canonical form. -/
theorem memWf_cells (cs : List Cell) (m : Tab Byte) (base : Nat) (w : Memory.wf m = true) : Memory.wf (memCells m base cs) = true := by
  induction cs generalizing m with
  | nil => exact w
  | cons c cs ih => exact ih _ (memWf_set m (base + c.1) c.2 w)

/-- Clearing a range keeps the canonical form. -/
theorem memWf_clear (m : Tab Byte) (lo hi : Nat) (w : Memory.wf m = true) : Memory.wf (memClear m lo hi) = true := tabWf_filter 0 _ m w

/-- Writing the bytes of another memory keeps the canonical form. -/
theorem memWf_foldl (x : Tab Byte) (lo : Nat) (m : Tab Byte) (w : Memory.wf m = true) :
    Memory.wf (x.foldl (fun m e => memSet m (lo + e.1) e.2) m) = true := by
  induction x generalizing m with
  | nil => exact w
  | cons e x ih => exact ih _ (memWf_set m _ _ w)

theorem memGet_set_same (m : Tab Byte) (a : Nat) (b : Byte) (w : Memory.wf m = true) : memGet (memSet m a b) a = b :=
  tabGet_set_same 0 a b m (memWf_keys m w)

theorem memGet_set_other (m : Tab Byte) {a x : Nat} (h : x ≠ a) (b : Byte) : memGet (memSet m a b) x = memGet m x := tabGet_set_other 0 h b m

/-- A byte outside the written ones reads as before. -/
theorem memGet_write_out (bs : List Byte) (m : Tab Byte) (a x : Nat) (h : x < a ∨ a + bs.length ≤ x) : memGet (memWrite m a bs) x = memGet m x := by
  induction bs generalizing m a with
  | nil => rfl
  | cons b bs ih =>
    simp only [List.length_cons] at h
    have h1 : x ≠ a := by omega
    rw [memWrite, ih _ (a + 1) (by omega), memGet_set_other m h1]

/-- A written byte reads as written. -/
theorem memGet_write_in (bs : List Byte) (m : Tab Byte) (a i : Nat) (h : i < bs.length) (w : Memory.wf m = true) :
    memGet (memWrite m a bs) (a + i) = bs[i] := by
  induction bs generalizing m a i with
  | nil => exact absurd h (Nat.not_lt_zero i)
  | cons b bs ih =>
    cases i with
    | zero => rw [memWrite, memGet_write_out bs _ _ _ (by omega), Nat.add_zero, memGet_set_same m a b w]; rfl
    | succ i =>
      have h2 : i < bs.length := by simpa using h
      have e : a + (i + 1) = a + 1 + i := by omega
      rw [memWrite, e, ih _ _ i h2 (memWf_set m a b w)]
      rfl

@[simp] theorem memRead_length (m : Tab Byte) (a n : Nat) : (memRead m a n).length = n := by
  induction n generalizing a with
  | zero => rfl
  | succ n ih => simp [memRead, ih]

/-- Reading back what was written. -/
theorem memRead_write (bs : List Byte) (m : Tab Byte) (a : Nat) (w : Memory.wf m = true) : memRead (memWrite m a bs) a bs.length = bs := by
  induction bs generalizing m a with
  | nil => rfl
  | cons b bs ih =>
    rw [memWrite, List.length_cons, memRead, ih _ _ (memWf_set m a b w), memGet_write_out bs _ _ _ (by omega), memGet_set_same m a b w]

/-- A cleared byte reads 0, another as before. -/
theorem memGet_clear (m : Tab Byte) (lo hi x : Nat) : memGet (memClear m lo hi) x = if lo ≤ x ∧ x < hi then 0 else memGet m x := by
  unfold memGet tabGet memClear
  induction m with
  | nil => simp [tabFind]
  | cons e m ih =>
    by_cases hk : e.1 = x
    · subst hk
      by_cases hr : lo ≤ e.1 ∧ e.1 < hi
      · rw [List.filter_cons_of_neg (by simp [hr]), ih, if_pos hr, if_pos hr]
      · rw [List.filter_cons_of_pos (by simp; omega), if_neg hr]
        simp [tabFind]
    · by_cases hr : lo ≤ e.1 ∧ e.1 < hi
      · rw [List.filter_cons_of_neg (by simp [hr]), ih]
        simp [tabFind, hk]
      · rw [List.filter_cons_of_pos (by simp; omega)]
        simp only [tabFind, if_neg hk]
        exact ih

end Sys2Proof.Machine
end

