-- ==== Sys2Proof/Laws/Ops.lean ====
section
/-! SUPPORT. Laws of the shared operations: what a read gives after a write of State, what each operation leaves, that each operation over the
byte memories keeps their canonical form, when a thread instruction or a control command acts. -/
set_option Elab.async false

namespace Sys2Proof.Machine

/-! ### Reads after writes -/

theorem coreOf_setCore_same (c : Nat) (k : Core) (s : State) (w : keysFrom 0 s.cores = true) : coreOf c (setCore c k s) = k :=
  tabGet_set_same Core.zero c k s.cores w

theorem coreOf_setCore_other {c x : Nat} (h : x ≠ c) (k : Core) (s : State) : coreOf x (setCore c k s) = coreOf x s :=
  tabGet_set_other Core.zero h k s.cores

theorem groupOf_setGroup_same (c n : Nat) (g : Group) (s : State) (w : keysFrom 0 s.cores = true) : groupOf c n (setGroup c n g s) = some g := by
  unfold groupOf setGroup
  rw [coreOf_setCore_same _ _ _ w]
  simp

theorem groupOf_setGroup_slot {c n x : Nat} (h : x ≠ n) (g : Group) (s : State) (w : keysFrom 0 s.cores = true) :
    groupOf c x (setGroup c n g s) = groupOf c x s := by
  unfold groupOf setGroup
  rw [coreOf_setCore_same _ _ _ w]
  exact tabFind_put_other h _ _

theorem groupOf_setGroup_core {c y : Nat} (h : y ≠ c) (n x : Nat) (g : Group) (s : State) : groupOf y x (setGroup c n g s) = groupOf y x s := by
  unfold groupOf setGroup
  rw [coreOf_setCore_other h]

theorem cmdOf_setCmd_same (n : Nat) (c : Cmd) (s : State) : cmdOf n (setCmd n c s) = some c := tabFind_put_same n c s.cmds

theorem cmdOf_setCmd_other {n x : Nat} (h : x ≠ n) (c : Cmd) (s : State) : cmdOf x (setCmd n c s) = cmdOf x s := tabFind_put_other h c s.cmds

theorem shellOf_setShell_same (d : Nat) (h : Shell) (s : State) : shellOf d (setShell d h s) = some h := tabFind_put_same d h s.shells

theorem shellOf_setShell_other {d x : Nat} (h : x ≠ d) (sh : Shell) (s : State) : shellOf x (setShell d sh s) = shellOf x s :=
  tabFind_put_other h sh s.shells

theorem tenantOf_setTenant_same (n : Nat) (r : Tenant) (s : State) : tenantOf n (setTenant n r s) = some r := tabFind_put_same n r s.tenants

theorem dirOf_setDir_same (l : Nat) (e : DirEntry) (s : State) (w : keysFrom 0 s.coh.dir = true) : dirOf l (setDir l e s) = e :=
  tabGet_set_same DirEntry.zero l e s.coh.dir w

theorem dirOf_setDir_other {l x : Nat} (h : x ≠ l) (e : DirEntry) (s : State) : dirOf x (setDir l e s) = dirOf x s :=
  tabGet_set_other DirEntry.zero h e s.coh.dir

theorem clineOf_setCLine_same (a l : Nat) (c : CLine) (s : State) : clineOf a l (setCLine a l c s) = some c := tabFind_put_same _ c s.coh.lines

theorem mbxOf_setMbx_same (m : Nat) (b : Mbx) (s : State) (w : keysFrom 0 s.mbx = true) : mbxOf m (setMbx m b s) = b :=
  tabGet_set_same Mbx.zero m b s.mbx w

theorem mbxOf_setMbx_other {m x : Nat} (h : x ≠ m) (b : Mbx) (s : State) : mbxOf x (setMbx m b s) = mbxOf x s := tabGet_set_other Mbx.zero h b s.mbx

theorem linkOf_setLink_same (l : Nat) (k : Link) (s : State) (w : keysFrom 0 s.links = true) : linkOf l (setLink l k s) = k :=
  tabGet_set_same Link.zero l k s.links w

theorem linkOf_setLink_other {l x : Nat} (h : x ≠ l) (k : Link) (s : State) : linkOf x (setLink l k s) = linkOf x s :=
  tabGet_set_other Link.zero h k s.links

theorem chanOf_setChan_same (n : Nat) (c : Chan) (s : State) (w : keysFrom 0 s.mem.chans = true) : chanOf n (setChan n c s) = c :=
  tabGet_set_same Chan.zero n c s.mem.chans w

theorem chanOf_setChan_other {n x : Nat} (h : x ≠ n) (c : Chan) (s : State) : chanOf x (setChan n c s) = chanOf x s :=
  tabGet_set_other Chan.zero h c s.mem.chans

/-! ### Registers of a group -/

theorem rdR_wrR_g_same (l n : Nat) (v : W32) (g : Group) (w : keysFrom 0 g.g = true) : rdR (wrR l (.g n) v g) l (.g n) = v :=
  tabGet_set_same 0 (n * 32 + l) v g.g w

theorem rdR_wrR_u_same (l k n : Nat) (v : W32) (g : Group) (w : keysFrom 0 g.u = true) : rdR (wrR l (.u n) v g) k (.u n) = v :=
  tabGet_set_same 0 n v g.u w

/-- A write of one lane's register leaves every other lane and register. -/
theorem rdR_wrR_g_other {l n k m : Nat} (hl : l < 32) (hk : k < 32) (h : k ≠ l ∨ m ≠ n) (v : W32) (g : Group) :
    rdR (wrR l (.g n) v g) k (.g m) = rdR g k (.g m) := by
  have e : m * 32 + k ≠ n * 32 + l := by omega
  exact tabGet_set_other 0 e v g.g

theorem rdR_wrR_u_other {n m : Nat} (h : m ≠ n) (l k : Nat) (v : W32) (g : Group) : rdR (wrR l (.u n) v g) k (.u m) = rdR g k (.u m) :=
  tabGet_set_other 0 h v g.u

@[simp] theorem wrR_zero (l : Nat) (v : W32) (g : Group) : wrR l .zero v g = g := rfl
@[simp] theorem rdR_zero (l : Nat) (g : Group) : rdR g l .zero = 0 := rfl
@[simp] theorem rdP_seven (l : Nat) (g : Group) : rdP g l (.p 7) = true := rfl
@[simp] theorem wrP_seven (l : Nat) (b : Bool) (g : Group) : wrP l (.p 7) b g = g := rfl

/-- Writing a register keeps a group's tables in canonical form. -/
theorem wrR_wf (l : Nat) (d : Sel) (v : W32) (g : Group) (w : g.wf) : (wrR l d v g).wf := by
  cases d with
  | g n => exact ⟨tabWf_set 0 _ v g.g w.1, w.2⟩
  | u n => exact ⟨w.1, tabWf_set 0 _ v g.u w.2.1, w.2.2⟩
  | zero => exact w
  | p n => exact w

/-- Writing a predicate keeps a group's tables in canonical form. -/
theorem wrP_wf (l : Nat) (d : Sel) (b : Bool) (g : Group) (w : g.wf) : (wrP l d b g).wf := by
  cases d with
  | p n =>
    unfold wrP
    by_cases h : n = 7
    · simpa [h] using w
    · simp only [h, if_false]
      exact ⟨w.1, w.2.1, tabWf_set 0 n _ g.p w.2.2⟩
  | g n => exact w
  | u n => exact w
  | zero => exact w

/-! ### Messages and fault records -/

/-- A vector's message changes the host interface and what is sent, nothing else. -/
theorem signal_frame (loc : Bool) (v : Nat) (s : State) : ∃ h o, signal loc v s = { s with host := h, out := o } := by
  unfold signal setVec emit
  cases loc <;> simp only [if_true, if_false, Bool.false_eq_true] <;> (repeat' split) <;> exact ⟨_, _, rfl⟩

/-- A record's place changes the log's part of State, nothing else. -/
theorem logPut_frame (r : FRec) (s : State) : ∃ f, logPut r s = { s with flt := f } := by
  unfold logPut
  repeat' split
  all_goals exact ⟨_, rfl⟩

/-- A record changes the log, its copy in flash, the host interface and what is sent, nothing else. -/
theorem logRec_frame (r : NewRec) (s : State) : ∃ f fl h o, logRec r s = { s with flt := f, flash := fl, host := h, out := o } := by
  unfold logRec
  dsimp only
  generalize FRec.mk .. = rec
  obtain ⟨f, e⟩ := logPut_frame rec s
  rw [e]
  split
  · exact ⟨_, _, _, _, rfl⟩
  split
  · obtain ⟨h, o, e2⟩ := signal_frame false 0 (if rec.persists then { { s with flt := f } with flash := { s.flash with faults := (s.flash.faults ++ [rec]).drop (s.flash.faults.length + 1 - 256) } } else { s with flt := f })
    rw [e2]
    split <;> exact ⟨_, _, _, _, rfl⟩
  · split <;> exact ⟨_, _, _, _, rfl⟩

@[simp] theorem logRec_mem (r : NewRec) (s : State) : (logRec r s).mem = s.mem := by
  obtain ⟨_, _, _, _, e⟩ := logRec_frame r s
  rw [e]

@[simp] theorem logRec_cores (r : NewRec) (s : State) : (logRec r s).cores = s.cores := by
  obtain ⟨_, _, _, _, e⟩ := logRec_frame r s
  rw [e]

@[simp] theorem logRec_coh (r : NewRec) (s : State) : (logRec r s).coh = s.coh := by
  obtain ⟨_, _, _, _, e⟩ := logRec_frame r s
  rw [e]

@[simp] theorem logRec_cmds (r : NewRec) (s : State) : (logRec r s).cmds = s.cmds := by
  obtain ⟨_, _, _, _, e⟩ := logRec_frame r s
  rw [e]

@[simp] theorem logRec_qps (r : NewRec) (s : State) : (logRec r s).qps = s.qps := by
  obtain ⟨_, _, _, _, e⟩ := logRec_frame r s
  rw [e]

@[simp] theorem logRec_mbx (r : NewRec) (s : State) : (logRec r s).mbx = s.mbx := by
  obtain ⟨_, _, _, _, e⟩ := logRec_frame r s
  rw [e]

@[simp] theorem logRec_shells (r : NewRec) (s : State) : (logRec r s).shells = s.shells := by
  obtain ⟨_, _, _, _, e⟩ := logRec_frame r s
  rw [e]

@[simp] theorem logRec_tenants (r : NewRec) (s : State) : (logRec r s).tenants = s.tenants := by
  obtain ⟨_, _, _, _, e⟩ := logRec_frame r s
  rw [e]

@[simp] theorem logRec_graphs (r : NewRec) (s : State) : (logRec r s).graphs = s.graphs := by
  obtain ⟨_, _, _, _, e⟩ := logRec_frame r s
  rw [e]

@[simp] theorem logRec_stroke (r : NewRec) (s : State) : (logRec r s).stroke = s.stroke := by
  obtain ⟨_, _, _, _, e⟩ := logRec_frame r s
  rw [e]

@[simp] theorem logRec_links (r : NewRec) (s : State) : (logRec r s).links = s.links := by
  obtain ⟨_, _, _, _, e⟩ := logRec_frame r s
  rw [e]

@[simp] theorem logRec_dev (r : NewRec) (s : State) : (logRec r s).dev = s.dev := by
  obtain ⟨_, _, _, _, e⟩ := logRec_frame r s
  rw [e]

@[simp] theorem logRec_pwr (r : NewRec) (s : State) : (logRec r s).pwr = s.pwr := by
  obtain ⟨_, _, _, _, e⟩ := logRec_frame r s
  rw [e]

@[simp] theorem logRec_reg (r : NewRec) (s : State) : (logRec r s).reg = s.reg := by
  obtain ⟨_, _, _, _, e⟩ := logRec_frame r s
  rw [e]

@[simp] theorem logRec_pending (r : NewRec) (s : State) : (logRec r s).pending = s.pending := by
  obtain ⟨_, _, _, _, e⟩ := logRec_frame r s
  rw [e]

@[simp] theorem logRec_now (r : NewRec) (s : State) : (logRec r s).now = s.now := by
  obtain ⟨_, _, _, _, e⟩ := logRec_frame r s
  rw [e]

@[simp] theorem logRec_fresh (r : NewRec) (s : State) : (logRec r s).fresh = s.fresh := by
  obtain ⟨_, _, _, _, e⟩ := logRec_frame r s
  rw [e]

@[simp] theorem logRec_fuse (r : NewRec) (s : State) : (logRec r s).fuse = s.fuse := by
  obtain ⟨_, _, _, _, e⟩ := logRec_frame r s
  rw [e]

@[simp] theorem signal_mem (loc : Bool) (v : Nat) (s : State) : (signal loc v s).mem = s.mem := by
  obtain ⟨_, _, e⟩ := signal_frame loc v s
  rw [e]

@[simp] theorem signal_cores (loc : Bool) (v : Nat) (s : State) : (signal loc v s).cores = s.cores := by
  obtain ⟨_, _, e⟩ := signal_frame loc v s
  rw [e]

@[simp] theorem signal_coh (loc : Bool) (v : Nat) (s : State) : (signal loc v s).coh = s.coh := by
  obtain ⟨_, _, e⟩ := signal_frame loc v s
  rw [e]

@[simp] theorem signal_cmds (loc : Bool) (v : Nat) (s : State) : (signal loc v s).cmds = s.cmds := by
  obtain ⟨_, _, e⟩ := signal_frame loc v s
  rw [e]

@[simp] theorem signal_qps (loc : Bool) (v : Nat) (s : State) : (signal loc v s).qps = s.qps := by
  obtain ⟨_, _, e⟩ := signal_frame loc v s
  rw [e]

@[simp] theorem signal_mbx (loc : Bool) (v : Nat) (s : State) : (signal loc v s).mbx = s.mbx := by
  obtain ⟨_, _, e⟩ := signal_frame loc v s
  rw [e]

@[simp] theorem signal_shells (loc : Bool) (v : Nat) (s : State) : (signal loc v s).shells = s.shells := by
  obtain ⟨_, _, e⟩ := signal_frame loc v s
  rw [e]

@[simp] theorem signal_tenants (loc : Bool) (v : Nat) (s : State) : (signal loc v s).tenants = s.tenants := by
  obtain ⟨_, _, e⟩ := signal_frame loc v s
  rw [e]

@[simp] theorem signal_graphs (loc : Bool) (v : Nat) (s : State) : (signal loc v s).graphs = s.graphs := by
  obtain ⟨_, _, e⟩ := signal_frame loc v s
  rw [e]

@[simp] theorem signal_stroke (loc : Bool) (v : Nat) (s : State) : (signal loc v s).stroke = s.stroke := by
  obtain ⟨_, _, e⟩ := signal_frame loc v s
  rw [e]

@[simp] theorem signal_links (loc : Bool) (v : Nat) (s : State) : (signal loc v s).links = s.links := by
  obtain ⟨_, _, e⟩ := signal_frame loc v s
  rw [e]

@[simp] theorem signal_dev (loc : Bool) (v : Nat) (s : State) : (signal loc v s).dev = s.dev := by
  obtain ⟨_, _, e⟩ := signal_frame loc v s
  rw [e]

@[simp] theorem signal_flt (loc : Bool) (v : Nat) (s : State) : (signal loc v s).flt = s.flt := by
  obtain ⟨_, _, e⟩ := signal_frame loc v s
  rw [e]

@[simp] theorem signal_pending (loc : Bool) (v : Nat) (s : State) : (signal loc v s).pending = s.pending := by
  obtain ⟨_, _, e⟩ := signal_frame loc v s
  rw [e]

@[simp] theorem signal_now (loc : Bool) (v : Nat) (s : State) : (signal loc v s).now = s.now := by
  obtain ⟨_, _, e⟩ := signal_frame loc v s
  rw [e]

@[simp] theorem signal_fuse (loc : Bool) (v : Nat) (s : State) : (signal loc v s).fuse = s.fuse := by
  obtain ⟨_, _, e⟩ := signal_frame loc v s
  rw [e]

/-- Taking an injection changes the list of armed ones and tells the deadline monitor, nothing else. -/
theorem takeInj_frame (det target : Nat) (s : State) :
    (takeInj det target s).2 = { s with flt := { s.flt with injs := (takeInj det target s).2.flt.injs, watch := (takeInj det target s).2.flt.watch } } := by
  unfold takeInj
  split <;> rfl

/-- With no armed injection nothing is taken. -/
theorem takeInj_none (det target : Nat) (s : State) (h : s.flt.injs = []) : takeInj det target s = (none, s) := by
  unfold takeInj
  simp [h]

theorem injectWord_frame (det target key : Nat) (s : State) :
    injectWord det target key s = { s with mem := { s.mem with tags := (injectWord det target key s).mem.tags }, flt := (injectWord det target key s).flt } := by
  unfold injectWord
  split
  · rfl
  · split
    · rfl
    · rename_i s' h
      have e : s' = { s with flt := { s.flt with injs := s'.flt.injs, watch := s'.flt.watch } } := by
        have := takeInj_frame det target s
        rw [h] at this
        exact this
      rw [e]
      rfl

theorem injectWord_none (det target key : Nat) (s : State) (h : s.flt.injs = []) : injectWord det target key s = s := by
  unfold injectWord
  simp [h]

/-- The deadline monitor has nothing to follow until an injection acts. -/
theorem watchInj_quiet (s : State) (h : s.flt.watch = false) : watchInj s = s := by
  unfold watchInj
  rw [h]
  rfl

/-- A step without a command lets 10 ns pass, and nothing else while no injection acted. -/
theorem idleNow_quiet (s : State) (h : s.flt.watch = false) : idleNow s = idleStep s := watchInj_quiet (idleStep s) h

/-! ### The byte memories stay in canonical form -/

@[simp] theorem injectWord_memWf (det target key : Nat) (s : State) : (injectWord det target key s).memWf ↔ s.memWf := by
  rw [injectWord_frame]

@[simp] theorem setTag_memWf (k : Nat) (t : WTag) (s : State) : (setTag k t s).memWf ↔ s.memWf := Iff.rfl

/-- Storing a word in memory keeps the canonical form. -/
theorem memPutWord_memWf (w v : Nat) (p : Bool) (s : State) (h : s.memWf) : (memPutWord w v p s).memWf := by
  unfold memPutWord
  rw [injectWord_memWf, setTag_memWf]
  exact ⟨memWf_write _ _ _ h.1, h.2⟩

/-- A fold of steps that each keep the canonical form keeps it. -/
theorem foldl_memWf {α : Type} (f : State → α → State) (hf : ∀ s a, s.memWf → (f s a).memWf) (l : List α) (s : State) (h : s.memWf) :
    (l.foldl f s).memWf := by
  induction l generalizing s with
  | nil => exact h
  | cons a l ih => exact ih _ (hf s a h)

/-- Zeroing a core keeps the canonical form. -/
theorem zeroCore_memWf (core : Nat) (s : State) (h : s.memWf) : (zeroCore core s).memWf := ⟨h.1, memWf_clear _ _ _ h.2⟩

/-- Zeroing a channel keeps the canonical form. -/
theorem zeroChan_memWf (ch : Nat) (s : State) (h : s.memWf) : (zeroChan ch s).memWf := ⟨memWf_clear _ _ _ h.1, h.2⟩

/-! ### When a command acts -/

/-- A thread instruction acts on the group of its slot, whose word at its pc is the instruction's own, on a core that a seat holds and that is
not fenced or scanned; the group runs, it is its turn, a port is free, and its operands are there (03 R80; 06 R152). -/
theorem ready_some {c : Instr} {s : State} {g : Group} (h : ready c s = some g) :
    groupOf (issOf c).core (issOf c).slot s = some g ∧ (coreOf (issOf c).core s).holder.isSome = true ∧ (coreOf (issOf c).core s).fenced = false ∧
    (coreOf (issOf c).core s).scanning = false ∧ turnOf (coreOf (issOf c).core s) (issOf c).slot = true ∧ portsClaimed (issOf c).core s < 8 ∧
    unheld g = true ∧ operandsReady c g = true ∧ ∃ p rest, g.paths = p :: rest ∧ g.code[p.pc]? = some (encodeCode c) := by
  unfold ready at h
  dsimp only at h
  split at h
  · cases h
  · rename_i g0 hg
    split at h
    · cases h
    · rename_i hn
      split at h
      · cases h
      · rename_i p rest hp
        split at h
        · rename_i hc
          cases h
          simp only [Bool.or_eq_true, not_or, Bool.not_eq_true, Bool.not_eq_eq_eq_not, Bool.not_true, Option.isNone_eq_false_iff, Bool.and_eq_true, beq_iff_eq,
            decide_eq_false_iff_not, Nat.not_le] at hn hc
          obtain ⟨⟨⟨⟨⟨hf, hs⟩, hh⟩, hu⟩, ht⟩, hpt⟩ := hn
          exact ⟨hg, hh, hf, hs, by simpa using ht, hpt, by simpa using hu, hc.2, p, rest, hp, hc.1⟩
        · cases h

/-- The state is what it was but for the group, and for the slot that issued last (06 R152). -/
theorem setIssued_eq (i : Iss) (g : Group) (s : State) :
    setIssued i g s = setCore i.core { coreOf i.core s with groups := tabPut i.slot g (coreOf i.core s).groups, last := i.slot } s := rfl

theorem groupOf_setIssued_same (i : Iss) (g : Group) (s : State) (w : keysFrom 0 s.cores = true) : groupOf i.core i.slot (setIssued i g s) = some g := by
  unfold groupOf setIssued
  rw [coreOf_setCore_same _ _ _ w]
  simp

/-- A register instruction that may issue writes its group and nothing else of the machine. -/
theorem regOp_ready {c : Instr} {s : State} {g : Group} (f : List Nat → Group → Group) (h : ready c s = some g) :
    regOp c f s = .next (setIssued (issOf c) (advance1 (f (votingLanes g (issOf c)) g)) s) := by
  unfold regOp
  rw [h]

/-- One that may not issue changes nothing. -/
theorem regOp_idle {c : Instr} {s : State} (f : List Nat → Group → Group) (h : ready c s = none) : regOp c f s = .next s := by
  unfold regOp
  rw [h]

/-- A control command runs its body on its request. -/
theorem onReq_some {code : Nat} {src : Src} {s : State} {r : Req} (f : Req → State) (h : reqOf code src s = some r) : onReq code src s f = .next (f r) := by
  unfold onReq
  rw [h]

/-- Without a request nothing happens. -/
theorem onReq_none {code : Nat} {src : Src} {s : State} (f : Req → State) (h : reqOf code src s = none) : onReq code src s f = .next s := by
  unfold onReq
  rw [h]

/-- A control command always answers a next state. -/
theorem onReq_next (code : Nat) (src : Src) (s : State) (f : Req → State) : ∃ t, onReq code src s f = .next t := by
  unfold onReq
  split <;> exact ⟨_, rfl⟩

end Sys2Proof.Machine
end

