-- ==== Sys2Proof/Laws/Commands.lean ====
section
/-! SUPPORT. Laws of what commands share: completions, the end and the park of a command, answers, memory records, merged writes at the home. -/
set_option Elab.async false

namespace Sys2Proof.Machine

/-! ### Completions and parks -/

/-- A completion is recorded with its queue pair, nothing else changes. -/
theorem owe_frame (q : Nat) (c : Compl) (s : State) : ∃ x, owe q c s = { s with qps := x } := by
  unfold owe
  split <;> exact ⟨_, rfl⟩

/-- An owed completion stands last with its queue pair. -/
theorem owe_same {q : Nat} {p : QPair} {s : State} (c : Compl) (h : tabFind q s.qps = some p) :
    tabFind q (owe q c s).qps = some { p with owed := p.owed ++ [c], awaiting := p.awaiting - 1 } := by
  unfold owe
  rw [h]
  exact tabFind_put_same _ _ _

theorem reapGraphs_frame (s : State) : ∃ x, reapGraphs s = { s with graphs := x } := by
  unfold reapGraphs
  dsimp only
  split <;> exact ⟨_, rfl⟩

/-- The end of a command changes queue pairs, cores, commands and graphs, nothing else. -/
theorem finishWith_frame (n st o0 o1 : Nat) (s : State) :
    ∃ q k c g, finishWith n st o0 o1 s = { s with qps := q, cores := k, cmds := c, graphs := g } := by
  unfold finishWith
  split
  · exact ⟨_, _, _, _, rfl⟩
  · dsimp only
    generalize Compl.mk .. = rec
    obtain ⟨x, e⟩ := owe_frame _ rec s
    rw [e]
    obtain ⟨y, e2⟩ := reapGraphs_frame { clearCores n { s with qps := x } with cmds := tabDel n { s with qps := x }.cmds }
    rw [e2]
    exact ⟨_, _, _, _, rfl⟩

theorem finishCmd_frame (n st : Nat) (s : State) : ∃ q k c g, finishCmd n st s = { s with qps := q, cores := k, cmds := c, graphs := g } := by
  unfold finishCmd
  split
  · exact ⟨_, _, _, _, rfl⟩
  · exact finishWith_frame _ _ _ _ _

/-- A park of a group of a command that is gone changes the groups of cores and the record in the slot area, nothing else. -/
theorem parkOf_gone {n : Nat} {s : State} (core slot : Nat) (r : ParkRec)
    (h : cmdOf n (spadWrite core (slotBase slot + 0x1E00) (parkBytes slot (parkSeat n core slot s) (some r))
      (stopGroups n true (mapGroup n core slot (fun g => { g with park := some r }) s))) = none) :
    parkOf n core slot r s = spadWrite core (slotBase slot + 0x1E00) (parkBytes slot (parkSeat n core slot s) (some r))
      (stopGroups n true (mapGroup n core slot (fun g => { g with park := some r }) s)) := by
  unfold parkOf
  dsimp only
  rw [h]

@[simp] theorem finishCmd_mem (n st : Nat) (s : State) : (finishCmd n st s).mem = s.mem := by
  obtain ⟨_, _, _, _, e⟩ := finishCmd_frame n st s
  rw [e]

/-! ### Answers -/

/-- A mailbox's answer changes the mailboxes, the host interface and what is sent. -/
theorem answer_frame (m code seq : Nat) (key : List Byte) (st detail off : Nat) (res : List Byte) (s : State) :
    ∃ b h o, answer m code seq key st detail off res s = { s with mbx := b, host := h, out := o } := by
  have key2 : ∀ (b : Mbx) (c : Bool) (v : Nat), ∃ x h o, (if c then signal (decide (64 ≤ m)) v (setMbx m b s) else setMbx m b s) = { s with mbx := x, host := h, out := o } := by
    intro b c v
    split
    · obtain ⟨h, o, e⟩ := signal_frame (decide (64 ≤ m)) v (setMbx m b s)
      rw [e]
      exact ⟨_, _, _, rfl⟩
    · exact ⟨_, _, _, rfl⟩
  exact key2 _ _ _

/-! ### Memory records and merged writes -/

theorem logRec_merge_frame (r : NewRec) (s : State) (m : Tab Nat) :
    ∃ f fl h o, ({ logRec r s with flt := { (logRec r s).flt with merges := m } } : State) = { s with flt := f, flash := fl, host := h, out := o } := by
  obtain ⟨f, fl, h, o, e⟩ := logRec_frame r s
  rw [e]
  exact ⟨_, _, _, _, rfl⟩

/-- A memory record changes the log's part, its copy in flash, the host interface and what is sent. -/
theorem logMem_frame (src cls unit index cdom addr syn a b : Nat) (w : Bool) (inj : Option Nat) (s : State) :
    ∃ f fl h o, logMem src cls unit index cdom addr syn a b w inj s = { s with flt := f, flash := fl, host := h, out := o } := by
  unfold logMem
  dsimp only
  split <;> split
  all_goals first | exact logRec_merge_frame _ s _ | exact ⟨_, _, _, _, rfl⟩

theorem logDec_frame (src unit index cdom addr : Nat) (d : Dec) (s : State) :
    ∃ f fl h o, logDec src unit index cdom addr d s = { s with flt := f, flash := fl, host := h, out := o } := by
  unfold logDec
  split
  · exact ⟨_, _, _, _, rfl⟩
  · exact logMem_frame ..

@[simp] theorem logDec_mem (src unit index cdom addr : Nat) (d : Dec) (s : State) : (logDec src unit index cdom addr d s).mem = s.mem := by
  obtain ⟨_, _, _, _, e⟩ := logDec_frame src unit index cdom addr d s
  rw [e]

theorem logDec_memWf (src unit index cdom addr : Nat) (d : Dec) (s : State) (h : s.memWf) : (logDec src unit index cdom addr d s).memWf := by
  unfold State.memWf
  rw [logDec_mem]
  exact h

/-- Storing bytes in scratchpad keeps the canonical form. -/
theorem spadWriteWord_memWf (core w : Nat) (cells : List Cell) (s : State) (h : s.memWf) : (spadWriteWord core w cells s).memWf := by
  unfold spadWriteWord
  dsimp only
  split
  · rw [setTag_memWf]
    exact ⟨h.1, memWf_cells _ _ _ h.2⟩
  · have h2 := fun d => logDec_memWf 5 (dieOf core) core (match (coreOf core s).holder with | some (c, _) => c | none => 0) (8 * w) d s h
    split
    all_goals
      rw [setTag_memWf]
      generalize hd : Dec.moved _ = d
      have h3 := h2 d
      generalize logDec .. = s1 at h3 ⊢
    · exact ⟨h3.1, memWf_write _ _ _ h3.2⟩
    · exact ⟨h3.1, memWf_cells _ _ _ (memWf_write _ _ _ h3.2)⟩

theorem spadWrite_memWf (core off : Nat) (bytes : List Byte) (s : State) (h : s.memWf) : (spadWrite core off bytes s).memWf := by
  unfold spadWrite
  rw [injectWord_memWf]
  split
  · exact foldl_memWf _ (fun s i hs => spadWriteWord_memWf core _ _ s hs) _ s h
  · exact ⟨h.1, memWf_write _ _ _ h.2⟩

/-- Evicting a line keeps the canonical form. -/
theorem homeEvict_memWf (line : Nat) (s : State) (h : s.memWf) : (homeEvict line s).memWf := by
  unfold homeEvict
  dsimp only
  refine foldl_memWf _ (fun s i hs => ?_) _ _ h
  exact foldl_memWf _ (fun s m hs => memPutWord_memWf _ _ _ s hs) _ _ (memPutWord_memWf _ _ _ _ (logDec_memWf _ _ _ _ _ _ s hs))

theorem homePlace_memWf (direct : Bool) (line : Nat) (s : State) (h : s.memWf) : (homePlace direct line s).2.memWf := by
  unfold homePlace
  dsimp only
  repeat' split
  all_goals first | exact h | exact homeEvict_memWf _ s h

theorem homePutWord_memWf (direct : Bool) (w v : Nat) (p : Bool) (s : State) (h : s.memWf) : (homePutWord direct w v p s).memWf := by
  unfold homePutWord
  dsimp only
  split
  · exact memPutWord_memWf _ _ _ s h
  · rw [injectWord_memWf, setTag_memWf]
    exact homePlace_memWf direct _ s h

/-- Marking words of a line as poison keeps the canonical form. -/
theorem homePoison_memWf (line mask : Nat) (s : State) (h : s.memWf) : (homePoison line mask s).memWf :=
  foldl_memWf _ (fun s _ hs => homePutWord_memWf _ _ _ _ s hs) _ s h

/-- Merging a write of one word at its home keeps the canonical form. -/
theorem homeMergeWord_memWf (direct : Bool) (cdom w : Nat) (cells : List Cell) (s : State) (h : s.memWf) : (homeMergeWord direct cdom w cells s).memWf := by
  unfold homeMergeWord
  dsimp only
  repeat' split
  · exact homePutWord_memWf _ _ _ _ s h
  all_goals first | exact homePutWord_memWf _ _ _ _ _ (logDec_memWf _ _ _ _ _ _ s h) | exact h

/-- Merging a write at its home keeps the canonical form. -/
theorem homeMerge_memWf (direct : Bool) (cdom line : Nat) (cells : List Cell) (s : State) (h : s.memWf) : (homeMerge direct cdom line cells s).memWf := by
  unfold homeMerge
  split
  · exact h
  · refine foldl_memWf _ (fun s i hs => ?_) _ _ h
    refine foldl_memWf _ (fun s m hs => ?_) _ _ (homeMergeWord_memWf _ _ _ _ s hs)
    dsimp only
    split
    · exact memPutWord_memWf _ _ _ s hs
    · exact hs

/-- An owner's bytes coming home keep the canonical form. -/
theorem homeTake_memWf (cdom line : Nat) (cells : List Cell) (pois : Nat) (s : State) (h : s.memWf) : (homeTake cdom line cells pois s).memWf := by
  unfold homeTake
  exact homePoison_memWf line pois (homeMerge false cdom line cells s) (homeMerge_memWf false cdom line cells s h)

theorem logMem_memWf (src cls unit index cdom addr syn a b : Nat) (w : Bool) (inj : Option Nat) (s : State) (h : s.memWf) :
    (logMem src cls unit index cdom addr syn a b w inj s).memWf := by
  obtain ⟨_, _, _, _, e⟩ := logMem_frame src cls unit index cdom addr syn a b w inj s
  rw [e]
  exact h

/-- Noting a word that a read found keeps the canonical form. -/
theorem noteWord_memWf (cdom w : Nat) (s : State) (h : s.memWf) : (noteWord cdom w s).memWf := by
  unfold noteWord
  extract_lets r ch unit ix fen s1
  split
  · exact logDec_memWf r.1 unit ix cdom (8 * w) r.2 s h
  split
  · have h1 : s1.memWf := logMem_memWf r.1 8 unit ix cdom (8 * w) r.2.syn 0x7F 0x7F false none s h
    split
    · exact h1
    · exact memPutWord_memWf w _ false s1 h1
  split
  · exact h
  · exact homePutWord_memWf false w 0 true _ (logDec_memWf r.1 unit ix cdom (8 * w) r.2 s h)

/-- Taking a context out of its area leaves memory but for what its reads record. -/
theorem pullCtx_memWf (core key : Nat) (s : State) (h : s.memWf) : (pullCtx core key s).memWf := by
  unfold pullCtx
  split
  · exact h
  · split
    · exact foldl_memWf _ (fun s i hs => noteWord_memWf _ _ s hs) _ s h
    · exact h

/-- Writing a context to its area keeps the canonical form. -/
theorem writeCtx_memWf (p : CtxPlace) (m : Tab Byte) (tags : Tab WTag) (s : State) (h : s.memWf) : (writeCtx p m tags s).memWf := by
  unfold writeCtx
  refine foldl_memWf _ (fun s i hs => memPutWord_memWf _ _ _ s hs) _ _ ?_
  refine foldl_memWf _ (fun s i hs => memPutWord_memWf _ _ _ s hs) _ _ ?_
  exact foldl_memWf _ (fun s l hs => homeEvict_memWf l s hs) _ _ h

theorem pushCtx_memWf (core key : Nat) (s : State) (h : s.memWf) : (pushCtx core key s).memWf := by
  unfold pushCtx
  split
  · exact h
  · split
    · exact writeCtx_memWf _ _ _ s h
    · exact h

/-- Restoring a context keeps the canonical form. -/
theorem restoreContext_memWf (core d seat : Nat) (s : State) (h : s.memWf) : (restoreContext core d seat s).memWf := by
  unfold restoreContext
  have h2 := pullCtx_memWf core (ctxKey d seat) s h
  dsimp only
  split
  · exact h2
  · exact ⟨h2.1, memWf_foldl _ _ _ h2.2⟩

end Sys2Proof.Machine
end

