-- ==== Sys2Proof/Laws/Coherence.lean ====
section
/-! SUPPORT. Laws of the coherence operations: queues that are empty drain to nothing, and every operation of a home keeps both byte memories in
canonical form. -/
set_option Elab.async false

namespace Sys2Proof.Machine

/-! ### Empty queues -/

theorem drainLine_nil (line : Nat) (s : State) (h : tabGet [] line s.coh.queue = []) : drainLine line s = s := by
  unfold drainLine
  rw [h]
  rfl

/-- BAR4 requests that do not wait change nothing. -/
theorem bar4Go_nil (n : Nat) (s : State) (h : s.coh.bar4 = []) : bar4Go n s = s := by
  cases n with
  | zero => rfl
  | succ n =>
    unfold bar4Go
    rw [h]

theorem drainAll_nil (s : State) (h : s.coh.queue = []) (h2 : s.coh.bar4 = []) : drainAll s = s := by
  unfold drainAll
  rw [h]
  exact bar4Go_nil _ s h2

/-- No message of the set waits, so a credit that comes back wakes nothing. -/
theorem drainSet_none (line : Nat) (s : State) (h : s.coh.queue.all (fun e => !sameDirSet e.1 line) = true) (h2 : s.coh.bar4 = []) : drainSet line s = s := by
  have own : sameDirSet line line = true := by simp [sameDirSet]
  have hq : tabGet [] line s.coh.queue = [] := by
    have hf : tabFind line s.coh.queue = none := by
      have aux : ∀ q : Tab (List HMsg), q.all (fun e => !sameDirSet e.1 line) = true → tabFind line q = none := by
        intro q
        induction q with
        | nil => intro _; rfl
        | cons e t ih =>
          intro hq
          simp only [List.all_cons, Bool.and_eq_true] at hq
          have hne : e.1 ≠ line := by
            intro he
            rw [he, own] at hq
            exact absurd hq.1 (by decide)
          obtain ⟨k, v⟩ := e
          simp only [tabFind] at ih ⊢
          split
          · exact absurd (by simp_all) hne
          · exact ih hq.2
      exact aux _ h
    simp [tabGet, hf]
  have hn : s.coh.queue.filter (fun e => e.1 != line && sameDirSet e.1 line) = [] := by
    rw [List.filter_eq_nil_iff]
    intro e he
    have := List.all_eq_true.mp h e he
    simp_all
  unfold drainSet
  rw [drainLine_nil line s hq]
  dsimp only
  rw [hn]
  exact bar4Go_nil _ s h2

/-! ### The byte memories stay in canonical form -/

theorem logRec_memWf (r : NewRec) (s : State) (h : s.memWf) : (logRec r s).memWf := by
  unfold State.memWf
  rw [logRec_mem]
  exact h

@[simp] theorem setDir_memWf (l : Nat) (e : DirEntry) (s : State) : (setDir l e s).memWf ↔ s.memWf := Iff.rfl
@[simp] theorem send_memWf (m : NMsg) (s : State) : (send m s).memWf ↔ s.memWf := Iff.rfl
@[simp] theorem sends_memWf (ms : List NMsg) (s : State) : (sends ms s).memWf ↔ s.memWf := Iff.rfl
@[simp] theorem emit_memWf (o : Out) (s : State) : (emit o s).memWf ↔ s.memWf := Iff.rfl
@[simp] theorem emits_memWf (os : List Out) (s : State) : (emits os s).memWf ↔ s.memWf := Iff.rfl
@[simp] theorem setGroup_memWf (c n : Nat) (g : Group) (s : State) : (setGroup c n g s).memWf ↔ s.memWf := Iff.rfl
@[simp] theorem delCLine_memWf (a l : Nat) (s : State) : (delCLine a l s).memWf ↔ s.memWf := Iff.rfl

/-- Flits sent on a link change the links and what the device sends, nothing else. -/
theorem sendFlits_frame (l n : Nat) (bs : List Byte) (s : State) : ∃ k o, sendFlits l n bs s = { s with links := k, out := o } := by
  induction n generalizing bs s with
  | zero => exact ⟨_, _, rfl⟩
  | succ n ih =>
    unfold sendFlits
    dsimp only
    generalize Link.mk .. = k'
    obtain ⟨k, o, e⟩ := ih (bs.drop 240) (emit (.flit l false (linkOf l s).fseq true (linkOf l s).nak (linkOf l s).aseq) (setLink l k' s))
    rw [e]
    exact ⟨_, _, rfl⟩

theorem answerRemote_memWf (vc src tag op fl : Nat) (bs : List Byte) (s : State) (h : s.memWf) : (answerRemote vc src tag op fl bs s).memWf := by
  unfold answerRemote
  split
  · unfold sendMsg
    dsimp only
    generalize Link.mk .. = k'
    generalize RemoteMsg.mk .. = m
    obtain ⟨_, _, e⟩ := sendFlits_frame _ (ceilDiv (msgBytes op m).length 240) (msgBytes op m) (emit (.remote _ op m) (setLink _ k' s))
    rw [e]
    exact h
  · exact h

theorem failOut_memWf (m : HMsg) (s : State) (h : s.memWf) : (failOut m s).memWf := by
  unfold failOut
  split
  · exact answerRemote_memWf _ _ _ _ _ _ s h
  · exact answerRemote_memWf _ _ _ _ _ _ s h
  · exact h

/-- An atomic's answer leaves both byte memories. -/
theorem atomAnswer_memWf (a : AtomReq) (r : Option (List Byte)) (s : State) (h : s.memWf) : (atomAnswer a r s).memWf := by
  unfold atomAnswer
  split
  · split
    · exact h
    · dsimp only
      split
      · exact h
      · exact h
  · split
    · exact answerRemote_memWf _ _ _ _ _ _ s h
    · exact answerRemote_memWf _ _ _ _ _ _ s h

theorem failAtomsIf_memWf (pick : Nat → AtomReq → Bool) (s : State) (h : s.memWf) : (failAtomsIf pick s).memWf :=
  foldl_memWf _ (fun s a hs => atomAnswer_memWf a none s hs) _ _ h

theorem recallAll_memWf (line : Nat) (s : State) (h : s.memWf) : (recallAll line s).memWf := by
  unfold recallAll
  dsimp only
  split
  · exact h
  · rw [setDir_memWf]
    refine foldl_memWf _ (fun s a hs => ?_) _ _ h
    split
    · split
      · exact homeTake_memWf _ _ _ _ _ hs
      · exact hs
    · split
      · exact hs
      · split
        · exact homeTake_memWf _ _ _ _ _ hs
        · exact hs

theorem takedownBody_memWf (cdom : Nat) (s : State) (h : s.memWf) : (takedownBody cdom s).memWf := by
  unfold takedownBody
  extract_lets mine opened queued told net s1 s2
  have h1 : s1.memWf := failAtomsIf_memWf _ _ (foldl_memWf _ (fun s x hs => failOut_memWf _ s hs) _ _ h)
  clear_value s1
  refine foldl_memWf _ (fun s l hs => ?_) _ _ h1
  dsimp only
  rw [setDir_memWf]
  split
  · exact homePoison_memWf l _ (tick s) hs
  · exact hs

theorem takedownBy_memWf (inj : Option Nat) (det k u cdom : Nat) (s : State) (h : s.memWf) : (takedownBy inj det k u cdom s).memWf := by
  unfold takedownBy
  split
  · exact h
  · refine logRec_memWf _ _ ?_
    have h1 := takedownBody_memWf cdom s h
    generalize takedownBody cdom s = t at h1 ⊢
    dsimp only
    repeat' split
    all_goals exact h1

/-- Recording what a read found keeps the canonical form. -/
theorem homeNote_memWf (cdom dpa n : Nat) (s : State) (h : s.memWf) : (homeNote cdom dpa n s).memWf := by
  unfold homeNote
  exact foldl_memWf _ (fun s _ hs => noteWord_memWf _ _ s hs) _ s h

theorem noteSectors_memWf (cdom line mask : Nat) (s : State) (h : s.memWf) : (noteSectors cdom line mask s).memWf := by
  unfold noteSectors
  exact foldl_memWf _ (fun s _ hs => homeNote_memWf _ _ _ s hs) _ s h

theorem noteRead_memWf (cdom line mask : Nat) (fwd : List Cell) (s : State) (h : s.memWf) : (noteRead cdom line mask fwd s).memWf :=
  noteSectors_memWf _ _ _ s h

theorem ackWrite_memWf (who : DirectAgent) (s : State) (h : s.memWf) : (ackWrite who s).memWf := by
  unfold ackWrite
  split
  · exact h
  · exact h

theorem serve_memWf (line : Nat) (m : HMsg) (fwd : List Cell) (s : State) (h : s.memWf) : (serve line m fwd s).memWf := by
  unfold serve
  generalize hs1 : tick _ = s1
  have h1 : s1.memWf := by rw [← hs1]; exact h
  have hd : ∀ d c b cells, (homeMerge d c line cells (setDir line b s1)).memWf := fun d c b cells => homeMerge_memWf d c line cells (setDir line b s1) h1
  clear hs1
  split
  · dsimp only
    have hn : ∀ x b, (noteRead x line b fwd s1).memWf := fun x b => noteRead_memWf x line b fwd s1 h1
    split
    · exact hn _ _
    split
    · exact noteRead_memWf _ _ _ _ (setDir line _ s1) h1
    split
    · exact noteRead_memWf _ _ _ _ (setDir line _ s1) h1
    · exact noteRead_memWf _ _ _ _ (setDir line _ s1) h1
  · exact noteRead_memWf _ _ _ _ s1 h1
  · exact h1
  · exact hd _ _ _ _
  · exact hd _ _ _ _
  · exact ackWrite_memWf _ _ (hd _ _ _ _)
  · exact noteRead_memWf _ _ _ _ s1 h1
  · exact answerRemote_memWf _ _ _ _ _ _ _ (hd _ _ _ _)
  · dsimp only
    split
    · exact answerRemote_memWf _ _ _ _ _ _ _ (noteRead_memWf _ _ _ _ s1 h1)
    · exact answerRemote_memWf _ _ _ _ _ _ _ (noteRead_memWf _ _ _ _ s1 h1)
  · dsimp only
    split
    · exact homeTake_memWf _ _ _ _ _ h1
    · exact h1
  · dsimp only
    split
    · split
      · exact h1
      · exact h1
    · exact h1
  · exact h1

theorem openTxn_memWf (line : Nat) (t : Txn) (s : State) (h : s.memWf) : (openTxn line t s).memWf := h

theorem begin_memWf (line : Nat) (m : HMsg) (s : State) (h : s.memWf) : (begin' line m s).memWf := by
  unfold begin'
  split
  · exact failOut_memWf m s h
  split
  · exact takedownBy_memWf _ _ _ _ _ _ h
  dsimp only
  split
  · exact openTxn_memWf line _ _ h
  split
  · split
    · exact serve_memWf line m [] s h
    · split
      · exact serve_memWf line m [] (setDir _ _ s) h
      · exact openTxn_memWf _ _ _ h
  · exact serve_memWf line m [] s h

theorem drain_memWf (line fuel : Nat) (s : State) (h : s.memWf) : (drain line fuel s).memWf := by
  induction fuel generalizing s with
  | zero => exact h
  | succ n ih =>
    unfold drain
    split
    · exact h
    split
    · exact h
    · rename_i m rest _
      split
      · exact ih _ (begin_memWf line m (unqueue line rest s) h)
      · exact h

theorem drainLine_memWf (line : Nat) (s : State) (h : s.memWf) : (drainLine line s).memWf := drain_memWf _ _ s h

/-- A request that reaches its home keeps the canonical form. -/
theorem arriveHome_memWf (line : Nat) (m : HMsg) (s : State) (h : s.memWf) : (arriveHome line m s).memWf := by
  unfold arriveHome
  split
  · split
    · split
      · exact h
      · exact h
    · exact h
  split
  · exact h
  · exact begin_memWf line m s h

theorem bar4Go_memWf (n : Nat) (s : State) (h : s.memWf) : (bar4Go n s).memWf := by
  induction n generalizing s with
  | zero => exact h
  | succ n ih =>
    unfold bar4Go
    split
    · exact h
    · rename_i l m rest _
      refine iteInduction (motive := State.memWf) (fun _ => h) (fun _ => ?_)
      exact ih _ (arriveHome_memWf l m { s with coh := { s.coh with bar4 := rest } } h)

theorem drainAll_memWf (s : State) (h : s.memWf) : (drainAll s).memWf :=
  bar4Go_memWf _ _ (foldl_memWf _ (fun s l hs => drainLine_memWf l s hs) _ s h)

theorem drainSet_memWf (line : Nat) (s : State) (h : s.memWf) : (drainSet line s).memWf :=
  bar4Go_memWf _ _ (foldl_memWf _ (fun s l hs => drainLine_memWf l s hs) _ _ (drainLine_memWf line s h))

theorem takeDown_memWf (inj : Option Nat) (det k u cdom : Nat) (s : State) (h : s.memWf) : (takeDown inj det k u cdom s).memWf :=
  drainAll_memWf _ (takedownBy_memWf inj det k u cdom s h)

/-- What arrives at a home keeps the canonical form. -/
theorem arrive_memWf (line : Nat) (m : HMsg) (s : State) (h : s.memWf) : (arrive line m s).memWf := by
  unfold arrive
  dsimp only
  split
  · exact arriveHome_memWf line m s h
  · exact drainAll_memWf _ (arriveHome_memWf line m s h)

end Sys2Proof.Machine
end

