-- ==== Sys2Proof/Laws/Crypto.lean ====
section
/-! SUPPORT. The key wrap that `keyUnwrap` undoes (RFC 3394 over AES-256), for any key of 32 bytes, and the length of a MAC. -/
set_option Elab.async false

namespace Sys2Proof.Machine

/-! ### Lengths of SHA-256 -/

theorem shaRound_length (v : List Nat) (k : Nat) (h : v.length = 8) : (shaRound v k).length = 8 := by
  match v, h with
  | [_, _, _, _, _, _, _, _], _ => rfl

theorem shaBlock_length (h : List Nat) (b : List Byte) (hh : h.length = 8) : (shaBlock h b).length = 8 := by
  have go : ∀ (l : List (Nat × Nat)) (v : List Nat), v.length = 8 → (l.foldl (fun v x => shaRound v (x.1 + x.2)) v).length = 8 := by
    intro l
    induction l with
    | nil => exact fun v h => h
    | cons x l ih => exact fun v h => ih _ (shaRound_length _ _ h)
  simp [shaBlock, go _ h hh, hh]

theorem shaGo_length (n : Nat) (p : List Byte) (h : List Nat) (hh : h.length = 8) : (shaGo n p h).length = 8 := by
  induction n generalizing p h with
  | zero => exact hh
  | succ n ih => exact ih _ _ (shaBlock_length _ _ hh)

theorem leBytes_length (v n : Nat) : (leBytes v n).length = n := by
  induction n generalizing v with
  | zero => rfl
  | succ n ih => simp [leBytes, ih]

theorem hmac_length (k m : List Byte) : (hmac k m).length = 32 := by
  have h : ∀ l : List Nat, (l.flatMap (fun w => beBytes w 4)).length = 4 * l.length := by
    intro l
    induction l with
    | nil => rfl
    | cons x l ih => rw [List.flatMap_cons, List.length_append, ih]; simp [beBytes, leBytes_length]; omega
  simp only [hmac, sha256, h, shaGo_length _ _ _ (show shaInit.length = 8 from rfl)]

/-! ### The columns of AES -/

/-- Times x in GF(2^8). -/
def xt (a : Nat) : Nat := if 128 ≤ a then (2 * a) % 256 ^^^ 0x1B else 2 * a

theorem xor_lt {a b : Nat} (ha : a < 256) (hb : b < 256) : a ^^^ b < 256 := Nat.xor_lt_two_pow (n := 8) ha hb

theorem xor_left (a b c : Nat) : a ^^^ (b ^^^ c) = b ^^^ (a ^^^ c) := by rw [← Nat.xor_assoc, Nat.xor_comm a b, Nat.xor_assoc]

theorem xor_cancel (a b : Nat) : a ^^^ (a ^^^ b) = b := by rw [← Nat.xor_assoc, Nat.xor_self, Nat.zero_xor]

theorem xt_lt {a : Nat} (h : a < 256) : xt a < 256 := by
  have : ∀ a : Fin 256, xt a < 256 := by decide +kernel
  exact this ⟨a, h⟩

theorem xt_bits {a : Nat} (h : a < 256) : xt a = ((a <<< 1) &&& 255) ^^^ (if a.testBit 7 then 27 else 0) := by
  have : ∀ a : Fin 256, xt a = ((a.val <<< 1) &&& 255) ^^^ (if a.val.testBit 7 then 27 else 0) := by decide +kernel
  exact this ⟨a, h⟩

theorem xt_xor {a b : Nat} (ha : a < 256) (hb : b < 256) : xt (a ^^^ b) = xt a ^^^ xt b := by
  rw [xt_bits (xor_lt ha hb), xt_bits ha, xt_bits hb, Nat.shiftLeft_xor_distrib, Nat.and_xor_distrib_right, Nat.testBit_xor]
  cases a.testBit 7 <;> cases b.testBit 7 <;> simp [Nat.xor_comm, xor_left, xor_cancel]

theorem gmulGo_zero (a b acc : Nat) : gmulGo 0 a b acc = acc := rfl

theorem gmulGo_succ (n a b acc : Nat) : gmulGo (n + 1) a b acc = gmulGo n (xt a) (b / 2) (if b % 2 = 1 then acc ^^^ a else acc) := rfl

theorem gmulGo_xor (n b : Nat) {x y : Nat} (hx : x < 256) (hy : y < 256) (p q : Nat) : gmulGo n (x ^^^ y) b (p ^^^ q) = gmulGo n x b p ^^^ gmulGo n y b q := by
  induction n generalizing x y b p q with
  | zero => rfl
  | succ n ih =>
    rw [gmulGo_succ, gmulGo_succ, gmulGo_succ, xt_xor hx hy]
    by_cases h : b % 2 = 1
    · rw [if_pos h, if_pos h, if_pos h, ← ih _ (xt_lt hx) (xt_lt hy), Nat.xor_assoc, xor_left q, ← Nat.xor_assoc p]
    · rw [if_neg h, if_neg h, if_neg h, ih _ (xt_lt hx) (xt_lt hy)]

theorem gmul_xor {x y : Nat} (c : Nat) (hx : x < 256) (hy : y < 256) : gmul (x ^^^ y) c = gmul x c ^^^ gmul y c := gmulGo_xor 8 c hx hy 0 0

/-- MixColumns of one column (FIPS 197). -/
def mixCol (c : List Nat) : List Nat :=
  match c with
  | [a, b, d, e] => [xt a ^^^ (xt b ^^^ (b ^^^ (d ^^^ e))), a ^^^ (xt b ^^^ (xt d ^^^ (d ^^^ e))), a ^^^ (b ^^^ (xt d ^^^ (xt e ^^^ e))), xt a ^^^ (a ^^^ (b ^^^ (d ^^^ xt e)))]
  | x => x

theorem gmul_xor5 (c : Nat) {p q r u v : Nat} (hp : p < 256) (hq : q < 256) (hr : r < 256) (hu : u < 256) (hv : v < 256) :
    gmul (p ^^^ (q ^^^ (r ^^^ (u ^^^ v)))) c = gmul p c ^^^ (gmul q c ^^^ (gmul r c ^^^ (gmul u c ^^^ gmul v c))) := by
  rw [gmul_xor c hp (xor_lt hq (xor_lt hr (xor_lt hu hv))), gmul_xor c hq (xor_lt hr (xor_lt hu hv)), gmul_xor c hr (xor_lt hu hv), gmul_xor c hu hv]

theorem mix0a {x : Nat} (h : x < 256) : gmul (xt x) 14 ^^^ (gmul x 11 ^^^ (gmul x 13 ^^^ (gmul (xt x) 9 ^^^ (gmul x 9)))) = x := by
  have : ∀ x : Fin 256, gmul (xt x.val) 14 ^^^ (gmul x.val 11 ^^^ (gmul x.val 13 ^^^ (gmul (xt x.val) 9 ^^^ (gmul x.val 9)))) = x.val := by decide +kernel
  exact this ⟨x, h⟩

theorem mix0b {x : Nat} (h : x < 256) : gmul (xt x) 14 ^^^ (gmul x 14 ^^^ (gmul (xt x) 11 ^^^ (gmul x 13 ^^^ (gmul x 9)))) = 0 := by
  have : ∀ x : Fin 256, gmul (xt x.val) 14 ^^^ (gmul x.val 14 ^^^ (gmul (xt x.val) 11 ^^^ (gmul x.val 13 ^^^ (gmul x.val 9)))) = 0 := by decide +kernel
  exact this ⟨x, h⟩

theorem mix0d {x : Nat} (h : x < 256) : gmul x 14 ^^^ (gmul (xt x) 11 ^^^ (gmul x 11 ^^^ (gmul (xt x) 13 ^^^ (gmul x 9)))) = 0 := by
  have : ∀ x : Fin 256, gmul x.val 14 ^^^ (gmul (xt x.val) 11 ^^^ (gmul x.val 11 ^^^ (gmul (xt x.val) 13 ^^^ (gmul x.val 9)))) = 0 := by decide +kernel
  exact this ⟨x, h⟩

theorem mix0e {x : Nat} (h : x < 256) : gmul x 14 ^^^ (gmul x 11 ^^^ (gmul (xt x) 13 ^^^ (gmul x 13 ^^^ (gmul (xt x) 9)))) = 0 := by
  have : ∀ x : Fin 256, gmul x.val 14 ^^^ (gmul x.val 11 ^^^ (gmul (xt x.val) 13 ^^^ (gmul x.val 13 ^^^ (gmul (xt x.val) 9)))) = 0 := by decide +kernel
  exact this ⟨x, h⟩

theorem mix1a {x : Nat} (h : x < 256) : gmul (xt x) 9 ^^^ (gmul x 14 ^^^ (gmul x 11 ^^^ (gmul (xt x) 13 ^^^ (gmul x 13)))) = 0 := by
  have : ∀ x : Fin 256, gmul (xt x.val) 9 ^^^ (gmul x.val 14 ^^^ (gmul x.val 11 ^^^ (gmul (xt x.val) 13 ^^^ (gmul x.val 13)))) = 0 := by decide +kernel
  exact this ⟨x, h⟩

theorem mix1b {x : Nat} (h : x < 256) : gmul (xt x) 9 ^^^ (gmul x 9 ^^^ (gmul (xt x) 14 ^^^ (gmul x 11 ^^^ (gmul x 13)))) = x := by
  have : ∀ x : Fin 256, gmul (xt x.val) 9 ^^^ (gmul x.val 9 ^^^ (gmul (xt x.val) 14 ^^^ (gmul x.val 11 ^^^ (gmul x.val 13)))) = x.val := by decide +kernel
  exact this ⟨x, h⟩

theorem mix1d {x : Nat} (h : x < 256) : gmul x 9 ^^^ (gmul (xt x) 14 ^^^ (gmul x 14 ^^^ (gmul (xt x) 11 ^^^ (gmul x 13)))) = 0 := by
  have : ∀ x : Fin 256, gmul x.val 9 ^^^ (gmul (xt x.val) 14 ^^^ (gmul x.val 14 ^^^ (gmul (xt x.val) 11 ^^^ (gmul x.val 13)))) = 0 := by decide +kernel
  exact this ⟨x, h⟩

theorem mix1e {x : Nat} (h : x < 256) : gmul x 9 ^^^ (gmul x 14 ^^^ (gmul (xt x) 11 ^^^ (gmul x 11 ^^^ (gmul (xt x) 13)))) = 0 := by
  have : ∀ x : Fin 256, gmul x.val 9 ^^^ (gmul x.val 14 ^^^ (gmul (xt x.val) 11 ^^^ (gmul x.val 11 ^^^ (gmul (xt x.val) 13)))) = 0 := by decide +kernel
  exact this ⟨x, h⟩

theorem mix2a {x : Nat} (h : x < 256) : gmul (xt x) 13 ^^^ (gmul x 9 ^^^ (gmul x 14 ^^^ (gmul (xt x) 11 ^^^ (gmul x 11)))) = 0 := by
  have : ∀ x : Fin 256, gmul (xt x.val) 13 ^^^ (gmul x.val 9 ^^^ (gmul x.val 14 ^^^ (gmul (xt x.val) 11 ^^^ (gmul x.val 11)))) = 0 := by decide +kernel
  exact this ⟨x, h⟩

theorem mix2b {x : Nat} (h : x < 256) : gmul (xt x) 13 ^^^ (gmul x 13 ^^^ (gmul (xt x) 9 ^^^ (gmul x 14 ^^^ (gmul x 11)))) = 0 := by
  have : ∀ x : Fin 256, gmul (xt x.val) 13 ^^^ (gmul x.val 13 ^^^ (gmul (xt x.val) 9 ^^^ (gmul x.val 14 ^^^ (gmul x.val 11)))) = 0 := by decide +kernel
  exact this ⟨x, h⟩

theorem mix2d {x : Nat} (h : x < 256) : gmul x 13 ^^^ (gmul (xt x) 9 ^^^ (gmul x 9 ^^^ (gmul (xt x) 14 ^^^ (gmul x 11)))) = x := by
  have : ∀ x : Fin 256, gmul x.val 13 ^^^ (gmul (xt x.val) 9 ^^^ (gmul x.val 9 ^^^ (gmul (xt x.val) 14 ^^^ (gmul x.val 11)))) = x.val := by decide +kernel
  exact this ⟨x, h⟩

theorem mix2e {x : Nat} (h : x < 256) : gmul x 13 ^^^ (gmul x 9 ^^^ (gmul (xt x) 14 ^^^ (gmul x 14 ^^^ (gmul (xt x) 11)))) = 0 := by
  have : ∀ x : Fin 256, gmul x.val 13 ^^^ (gmul x.val 9 ^^^ (gmul (xt x.val) 14 ^^^ (gmul x.val 14 ^^^ (gmul (xt x.val) 11)))) = 0 := by decide +kernel
  exact this ⟨x, h⟩

theorem mix3a {x : Nat} (h : x < 256) : gmul (xt x) 11 ^^^ (gmul x 13 ^^^ (gmul x 9 ^^^ (gmul (xt x) 14 ^^^ (gmul x 14)))) = 0 := by
  have : ∀ x : Fin 256, gmul (xt x.val) 11 ^^^ (gmul x.val 13 ^^^ (gmul x.val 9 ^^^ (gmul (xt x.val) 14 ^^^ (gmul x.val 14)))) = 0 := by decide +kernel
  exact this ⟨x, h⟩

theorem mix3b {x : Nat} (h : x < 256) : gmul (xt x) 11 ^^^ (gmul x 11 ^^^ (gmul (xt x) 13 ^^^ (gmul x 9 ^^^ (gmul x 14)))) = 0 := by
  have : ∀ x : Fin 256, gmul (xt x.val) 11 ^^^ (gmul x.val 11 ^^^ (gmul (xt x.val) 13 ^^^ (gmul x.val 9 ^^^ (gmul x.val 14)))) = 0 := by decide +kernel
  exact this ⟨x, h⟩

theorem mix3d {x : Nat} (h : x < 256) : gmul x 11 ^^^ (gmul (xt x) 13 ^^^ (gmul x 13 ^^^ (gmul (xt x) 9 ^^^ (gmul x 14)))) = 0 := by
  have : ∀ x : Fin 256, gmul x.val 11 ^^^ (gmul (xt x.val) 13 ^^^ (gmul x.val 13 ^^^ (gmul (xt x.val) 9 ^^^ (gmul x.val 14)))) = 0 := by decide +kernel
  exact this ⟨x, h⟩

theorem mix3e {x : Nat} (h : x < 256) : gmul x 11 ^^^ (gmul x 13 ^^^ (gmul (xt x) 9 ^^^ (gmul x 9 ^^^ (gmul (xt x) 14)))) = x := by
  have : ∀ x : Fin 256, gmul x.val 11 ^^^ (gmul x.val 13 ^^^ (gmul (xt x.val) 9 ^^^ (gmul x.val 9 ^^^ (gmul (xt x.val) 14)))) = x.val := by decide +kernel
  exact this ⟨x, h⟩

theorem invMixCol_mixCol (a b d e : Nat) (ha : a < 256) (hb : b < 256) (hd : d < 256) (he : e < 256) : invMixCol (mixCol [a, b, d, e]) = [a, b, d, e] := by
  simp only [mixCol, invMixCol, gmul_xor5, xt_lt, ha, hb, hd, he, List.cons.injEq, and_true]
  refine ⟨?_, ?_, ?_, ?_⟩
  · calc _ = (gmul (xt a) 14 ^^^ (gmul a 11 ^^^ (gmul a 13 ^^^ (gmul (xt a) 9 ^^^ (gmul a 9))))) ^^^ ((gmul (xt b) 14 ^^^ (gmul b 14 ^^^ (gmul (xt b) 11 ^^^ (gmul b 13 ^^^ (gmul b 9))))) ^^^ ((gmul d 14 ^^^ (gmul (xt d) 11 ^^^ (gmul d 11 ^^^ (gmul (xt d) 13 ^^^ (gmul d 9))))) ^^^ ((gmul e 14 ^^^ (gmul e 11 ^^^ (gmul (xt e) 13 ^^^ (gmul e 13 ^^^ (gmul (xt e) 9)))))))) := by ac_rfl
      _ = a := by rw [mix0a ha, mix0b hb, mix0d hd, mix0e he]; simp
  · calc _ = (gmul (xt a) 9 ^^^ (gmul a 14 ^^^ (gmul a 11 ^^^ (gmul (xt a) 13 ^^^ (gmul a 13))))) ^^^ ((gmul (xt b) 9 ^^^ (gmul b 9 ^^^ (gmul (xt b) 14 ^^^ (gmul b 11 ^^^ (gmul b 13))))) ^^^ ((gmul d 9 ^^^ (gmul (xt d) 14 ^^^ (gmul d 14 ^^^ (gmul (xt d) 11 ^^^ (gmul d 13))))) ^^^ ((gmul e 9 ^^^ (gmul e 14 ^^^ (gmul (xt e) 11 ^^^ (gmul e 11 ^^^ (gmul (xt e) 13)))))))) := by ac_rfl
      _ = b := by rw [mix1a ha, mix1b hb, mix1d hd, mix1e he]; simp
  · calc _ = (gmul (xt a) 13 ^^^ (gmul a 9 ^^^ (gmul a 14 ^^^ (gmul (xt a) 11 ^^^ (gmul a 11))))) ^^^ ((gmul (xt b) 13 ^^^ (gmul b 13 ^^^ (gmul (xt b) 9 ^^^ (gmul b 14 ^^^ (gmul b 11))))) ^^^ ((gmul d 13 ^^^ (gmul (xt d) 9 ^^^ (gmul d 9 ^^^ (gmul (xt d) 14 ^^^ (gmul d 11))))) ^^^ ((gmul e 13 ^^^ (gmul e 9 ^^^ (gmul (xt e) 14 ^^^ (gmul e 14 ^^^ (gmul (xt e) 11)))))))) := by ac_rfl
      _ = d := by rw [mix2a ha, mix2b hb, mix2d hd, mix2e he]; simp
  · calc _ = (gmul (xt a) 11 ^^^ (gmul a 13 ^^^ (gmul a 9 ^^^ (gmul (xt a) 14 ^^^ (gmul a 14))))) ^^^ ((gmul (xt b) 11 ^^^ (gmul b 11 ^^^ (gmul (xt b) 13 ^^^ (gmul b 9 ^^^ (gmul b 14))))) ^^^ ((gmul d 11 ^^^ (gmul (xt d) 13 ^^^ (gmul d 13 ^^^ (gmul (xt d) 9 ^^^ (gmul d 14))))) ^^^ ((gmul e 11 ^^^ (gmul e 13 ^^^ (gmul (xt e) 9 ^^^ (gmul e 9 ^^^ (gmul (xt e) 14)))))))) := by ac_rfl
      _ = e := by rw [mix3a ha, mix3b hb, mix3d hd, mix3e he]; simp

/-! ### Rounds of AES -/

/-- A list of `n` numbers below 256. -/
def isB (n : Nat) (s : List Nat) : Prop := s.length = n ∧ ∀ x ∈ s, x < 256

theorem getD_mem {α : Type} {l : List α} {i : Nat} (d : α) (h : i < l.length) : l.getD i d ∈ l := by
  have e : l.getD i d = l[i] := by simp [List.getD, List.getElem?_eq_getElem h]
  exact e ▸ List.getElem_mem h

theorem isB16 {s : List Nat} (h : isB 16 s) : ∃ a0 a1 a2 a3 a4 a5 a6 a7 a8 a9 b0 b1 b2 b3 b4 b5, s = [a0, a1, a2, a3, a4, a5, a6, a7, a8, a9, b0, b1, b2, b3, b4, b5] := by
  match s, h.1 with
  | [_, _, _, _, _, _, _, _, _, _, _, _, _, _, _, _], _ => exact ⟨_, _, _, _, _, _, _, _, _, _, _, _, _, _, _, _, rfl⟩

theorem isB_xorL {n : Nat} {s k : List Nat} (hs : isB n s) (hk : isB n k) : isB n (xorL s k) := by
  refine ⟨by simp [xorL, hs.1, hk.1], fun x hx => ?_⟩
  simp only [xorL, List.mem_map, Prod.exists] at hx
  obtain ⟨a, b, hab, rfl⟩ := hx
  exact xor_lt (hs.2 _ (List.of_mem_zip hab).1) (hk.2 _ (List.of_mem_zip hab).2)

theorem xorL_xorL {s k : List Nat} (h : s.length = k.length) : xorL (xorL s k) k = s := by
  induction s generalizing k with
  | nil => cases k with | nil => rfl | cons => simp at h
  | cons a s ih =>
    cases k with
    | nil => simp at h
    | cons b k =>
      simp only [xorL, List.zip_cons_cons, List.map_cons, List.cons.injEq]
      exact ⟨by rw [Nat.xor_assoc, Nat.xor_self, Nat.xor_zero], ih (by simpa using h)⟩

theorem sbox_all : ∀ x : Fin 256, sbox x < 256 ∧ sboxInv (sbox x) = x := by decide +kernel

theorem sbox_lt {x : Nat} (h : x < 256) : sbox x < 256 := (sbox_all ⟨x, h⟩).1

theorem sboxInv_sbox {x : Nat} (h : x < 256) : sboxInv (sbox x) = x := (sbox_all ⟨x, h⟩).2

/-- Row shift of a column-major state. -/
def shiftR (s : List Nat) : List Nat := (List.range 16).map (fun i => s.getD ((i + 4 * (i % 4)) % 16) 0)
def mixAll (s : List Nat) : List Nat := (List.range 4).flatMap (fun i => mixCol ((s.drop (4 * i)).take 4))

theorem invShift_shiftR {s : List Nat} (h : isB 16 s) : invShift (shiftR s) = s := by
  obtain ⟨_, _, _, _, _, _, _, _, _, _, _, _, _, _, _, _, rfl⟩ := isB16 h
  rfl

theorem isB_shiftR {s : List Nat} (h : isB 16 s) : isB 16 (shiftR s) := by
  refine ⟨by simp [shiftR], fun x hx => ?_⟩
  simp only [shiftR, List.mem_map, List.mem_range] at hx
  obtain ⟨i, _, rfl⟩ := hx
  have hb : (i + 4 * (i % 4)) % 16 < s.length := by rw [h.1]; omega
  exact h.2 _ (getD_mem 0 hb)

theorem isB_sub {s : List Nat} (h : isB 16 s) : isB 16 (s.map sbox) :=
  ⟨by simp [h.1], fun x hx => by obtain ⟨y, hy, rfl⟩ := List.mem_map.mp hx; exact sbox_lt (h.2 _ hy)⟩

theorem sub_inv {s : List Nat} (h : ∀ x ∈ s, x < 256) : (s.map sbox).map sboxInv = s := by
  induction s with
  | nil => rfl
  | cons x s ih => simp only [List.map_cons, sboxInv_sbox (h x (by simp)), ih (fun y hy => h y (by simp [hy]))]

theorem mixCol_lt {a b d e : Nat} (ha : a < 256) (hb : b < 256) (hd : d < 256) (he : e < 256) : ∀ x ∈ mixCol [a, b, d, e], x < 256 := by
  intro x hx
  simp only [mixCol, List.mem_cons, List.not_mem_nil, or_false] at hx
  have xa := xt_lt ha; have xb := xt_lt hb; have xd := xt_lt hd; have xe := xt_lt he
  rcases hx with rfl | rfl | rfl | rfl
  · exact xor_lt xa (xor_lt xb (xor_lt hb (xor_lt hd he)))
  · exact xor_lt ha (xor_lt xb (xor_lt xd (xor_lt hd he)))
  · exact xor_lt ha (xor_lt hb (xor_lt xd (xor_lt xe he)))
  · exact xor_lt xa (xor_lt ha (xor_lt hb (xor_lt hd xe)))

theorem mixAll_16 (a0 a1 a2 a3 a4 a5 a6 a7 a8 a9 b0 b1 b2 b3 b4 b5 : Nat) :
    mixAll [a0, a1, a2, a3, a4, a5, a6, a7, a8, a9, b0, b1, b2, b3, b4, b5] =
      mixCol [a0, a1, a2, a3] ++ (mixCol [a4, a5, a6, a7] ++ (mixCol [a8, a9, b0, b1] ++ mixCol [b2, b3, b4, b5])) := rfl

theorem isB_mix {s : List Nat} (h : isB 16 s) : isB 16 (mixAll s) := by
  obtain ⟨a0, a1, a2, a3, a4, a5, a6, a7, a8, a9, b0, b1, b2, b3, b4, b5, rfl⟩ := isB16 h
  have m := h.2
  refine ⟨rfl, fun x hx => ?_⟩
  rw [mixAll_16] at hx
  rcases List.mem_append.mp hx with hx | hx
  · exact mixCol_lt (m _ (by simp)) (m _ (by simp)) (m _ (by simp)) (m _ (by simp)) x hx
  rcases List.mem_append.mp hx with hx | hx
  · exact mixCol_lt (m _ (by simp)) (m _ (by simp)) (m _ (by simp)) (m _ (by simp)) x hx
  rcases List.mem_append.mp hx with hx | hx
  · exact mixCol_lt (m _ (by simp)) (m _ (by simp)) (m _ (by simp)) (m _ (by simp)) x hx
  · exact mixCol_lt (m _ (by simp)) (m _ (by simp)) (m _ (by simp)) (m _ (by simp)) x hx

theorem invMix_mixAll {s : List Nat} (h : isB 16 s) : invMix (mixAll s) = s := by
  obtain ⟨a0, a1, a2, a3, a4, a5, a6, a7, a8, a9, b0, b1, b2, b3, b4, b5, rfl⟩ := isB16 h
  have m := h.2
  have e : ∀ p0 p1 p2 p3 q0 q1 q2 q3 r0 r1 r2 r3 t0 t1 t2 t3 : Nat, invMix (mixAll [p0, p1, p2, p3, q0, q1, q2, q3, r0, r1, r2, r3, t0, t1, t2, t3]) =
      invMixCol (mixCol [p0, p1, p2, p3]) ++ (invMixCol (mixCol [q0, q1, q2, q3]) ++ (invMixCol (mixCol [r0, r1, r2, r3]) ++ (invMixCol (mixCol [t0, t1, t2, t3]) ++ []))) := by
    intros; rfl
  rw [e, invMixCol_mixCol _ _ _ _ (m _ (by simp)) (m _ (by simp)) (m _ (by simp)) (m _ (by simp)),
    invMixCol_mixCol _ _ _ _ (m _ (by simp)) (m _ (by simp)) (m _ (by simp)) (m _ (by simp)),
    invMixCol_mixCol _ _ _ _ (m _ (by simp)) (m _ (by simp)) (m _ (by simp)) (m _ (by simp)),
    invMixCol_mixCol _ _ _ _ (m _ (by simp)) (m _ (by simp)) (m _ (by simp)) (m _ (by simp))]
  rfl

/-- One round of the decryption, and the round that it undoes. -/
def decRound (s : List Nat) (k : List Nat × Nat) : List Nat :=
  let t := xorL ((invShift s).map sboxInv) k.1
  if k.2 = 13 then t else invMix t
def encRound (k : List Nat × Nat) (u : List Nat) : List Nat := shiftR ((xorL (if k.2 = 13 then u else mixAll u) k.1).map sbox)

theorem isB_encRound {k : List Nat × Nat} {u : List Nat} (hk : isB 16 k.1) (hu : isB 16 u) : isB 16 (encRound k u) := by
  refine isB_shiftR (isB_sub (isB_xorL ?_ hk))
  split
  · exact hu
  · exact isB_mix hu

theorem decRound_encRound {k : List Nat × Nat} {u : List Nat} (hk : isB 16 k.1) (hu : isB 16 u) : decRound (encRound k u) k = u := by
  have hm : isB 16 (if k.2 = 13 then u else mixAll u) := by
    split
    · exact hu
    · exact isB_mix hu
  have hx := isB_xorL hm hk
  simp only [decRound, encRound]
  rw [invShift_shiftR (isB_sub hx), sub_inv hx.2, xorL_xorL (by rw [hm.1, hk.1])]
  split
  · rfl
  · exact invMix_mixAll hu

theorem rounds_inv {l : List (List Nat × Nat)} (hl : ∀ k ∈ l, isB 16 k.1) {u : List Nat} (hu : isB 16 u) :
    isB 16 (l.foldr encRound u) ∧ l.foldl decRound (l.foldr encRound u) = u := by
  induction l with
  | nil => exact ⟨hu, rfl⟩
  | cons k l ih =>
    have ih' := ih (fun x hx => hl x (by simp [hx]))
    have hk := hl k (by simp)
    exact ⟨isB_encRound hk ih'.1, by simp only [List.foldr_cons, List.foldl_cons, decRound_encRound hk ih'.1, ih'.2]⟩

/-! ### Round keys -/

theorem aesKeyGo_isB (n i rc : Nat) (w : List (List Nat)) (hr : rc < 256) (h8 : 8 ≤ w.length) (hw : ∀ x ∈ w, isB 4 x) :
    (aesKeyGo n i rc w).length = n + w.length ∧ ∀ x ∈ aesKeyGo n i rc w, isB 4 x := by
  induction n generalizing i rc w with
  | zero => exact ⟨by simp [aesKeyGo], hw⟩
  | succ n ih =>
    have g2 : gmul rc 2 < 256 := by
      have : ∀ x : Fin 256, gmul x 2 < 256 := by decide +kernel
      exact this ⟨rc, hr⟩
    have hh : isB 4 (w.headD []) := by
      cases w with
      | nil => simp at h8
      | cons a l => exact hw a (by simp)
    have ho : isB 4 (w.getD 7 []) := hw _ (getD_mem [] (by omega))
    have ht : ∀ t, isB 4 t → isB 4 ((t.zip (w.getD 7 [])).map (fun x => x.1 ^^^ x.2)) := fun t h => isB_xorL h ho
    have h4 : ∀ t, isB 4 t → ∃ a b c d, t = [a, b, c, d] := by
      intro t h
      match t, h.1 with
      | [_, _, _, _], _ => exact ⟨_, _, _, _, rfl⟩
    have hn : isB 4 (if i % 8 = 0 then (match w.headD [] with | [a, b, c, d] => [sbox b ^^^ rc, sbox c, sbox d, sbox a] | x => x)
        else if i % 8 = 4 then (w.headD []).map sbox else w.headD []) := by
      obtain ⟨a, b, c, d, e⟩ := h4 _ hh
      have hm := hh.2
      rw [e] at hm ⊢
      have sa := sbox_lt (hm a (by simp)); have sb := sbox_lt (hm b (by simp)); have sc := sbox_lt (hm c (by simp)); have sd := sbox_lt (hm d (by simp))
      split
      · refine ⟨rfl, fun x hx => ?_⟩
        simp only [List.mem_cons, List.not_mem_nil, or_false] at hx
        rcases hx with rfl | rfl | rfl | rfl
        · exact xor_lt sb hr
        · exact sc
        · exact sd
        · exact sa
      · split
        · exact ⟨rfl, fun x hx => by obtain ⟨y, hy, rfl⟩ := List.mem_map.mp hx; exact sbox_lt (hm _ hy)⟩
        · exact ⟨rfl, hm⟩
    have r := ih (i + 1) (if i % 8 = 0 then gmul rc 2 else rc) (_ :: w) (by split <;> assumption) (by simp; omega)
      (fun x hx => by rcases List.mem_cons.mp hx with rfl | hx; exact ht _ hn; exact hw x hx)
    exact ⟨Eq.trans r.1 (by simp only [List.length_cons]; omega), r.2⟩

theorem flatten_isB {l : List (List Nat)} (h : ∀ x ∈ l, isB 4 x) : isB (4 * l.length) l.flatten := by
  induction l with
  | nil => exact ⟨rfl, by simp⟩
  | cons a l ih =>
    have i := ih (fun x hx => h x (by simp [hx]))
    have ha := h a (by simp)
    refine ⟨by rw [List.flatten_cons, List.length_append, ha.1, i.1, List.length_cons]; omega, fun x hx => ?_⟩
    rcases List.mem_append.mp (by simpa using hx : x ∈ a ++ l.flatten) with hx | hx
    · exact ha.2 x hx
    · exact i.2 x hx

theorem aesKeys_isB (key : List Byte) (hk : key.length = 32) : (aesKeys key).length = 15 ∧ ∀ x ∈ aesKeys key, isB 16 x := by
  refine ⟨by simp [aesKeys], fun x hx => ?_⟩
  have hw : ∀ y ∈ ((List.range 8).map (fun i => ((key.map (fun b => b.toNat)).drop (4 * i)).take 4)).reverse, isB 4 y := by
    intro y hy
    simp only [List.mem_reverse, List.mem_map, List.mem_range] at hy
    obtain ⟨i, hi, rfl⟩ := hy
    refine ⟨by simp [hk]; omega, fun z hz => ?_⟩
    have := List.mem_of_mem_drop (List.mem_of_mem_take hz)
    obtain ⟨b, _, rfl⟩ := List.mem_map.mp this
    exact b.isLt
  have g := aesKeyGo_isB 52 8 1 _ (by decide) (by simp) hw
  simp only [aesKeys, List.mem_map, List.mem_range] at hx
  obtain ⟨r, hr, rfl⟩ := hx
  have f := flatten_isB (l := (((aesKeyGo 52 8 1 ((List.range 8).map (fun i => ((key.map (fun b => b.toNat)).drop (4 * i)).take 4)).reverse).reverse).drop (4 * r)).take 4)
    (fun x hx => g.2 x (by simpa using List.mem_of_mem_drop (List.mem_of_mem_take hx)))
  have hl : ((((aesKeyGo 52 8 1 ((List.range 8).map (fun i => ((key.map (fun b => b.toNat)).drop (4 * i)).take 4)).reverse).reverse).drop (4 * r)).take 4).length = 4 := by
    rw [List.length_take, List.length_drop, List.length_reverse, g.1]
    simp
    omega
  rw [hl] at f
  exact f

/-! ### The key wrap -/

/-- Encrypts a block that `aesDec` decrypts. -/
def aesEnc (key blk : List Byte) : List Byte :=
  let ks := (aesKeys key).reverse
  (xorL (ks.tail.zipIdx.foldr encRound (blk.map (fun b => b.toNat))) (ks.headD [])).map (fun b => BitVec.ofNat 8 b)

theorem bytes_back {n : Nat} {s : List Nat} (h : isB n s) : (s.map (fun b => BitVec.ofNat 8 b)).map (fun b => b.toNat) = s := by
  rw [List.map_map]
  exact (List.map_congr_left (fun x hx => by simp [Nat.mod_eq_of_lt (h.2 x hx)])).trans (List.map_id s)

theorem isB_bytes (l : List Byte) : isB l.length (l.map (fun b => b.toNat)) :=
  ⟨by simp, fun x hx => by obtain ⟨b, _, rfl⟩ := List.mem_map.mp hx; exact b.isLt⟩

theorem aesDec_aesEnc {key blk : List Byte} (hk : key.length = 32) (hb : blk.length = 16) :
    (aesEnc key blk).length = 16 ∧ aesDec key (aesEnc key blk) = blk := by
  have k := aesKeys_isB key hk
  have hr : ∀ x ∈ (aesKeys key).reverse, isB 16 x := fun x hx => k.2 x (by simpa using hx)
  have hne : (aesKeys key).reverse ≠ [] := fun e => by have := congrArg List.length e; simp [k.1] at this
  have hh : isB 16 ((aesKeys key).reverse.headD []) := by
    cases e : (aesKeys key).reverse with
    | nil => exact absurd e hne
    | cons a l => exact hr a (by rw [e]; simp)
  have ht : ∀ x ∈ (aesKeys key).reverse.tail.zipIdx, isB 16 x.1 := fun x hx =>
    hr _ (List.mem_of_mem_tail (List.fst_mem_of_mem_zipIdx hx))
  have r := rounds_inv ht (show isB 16 (blk.map (fun b => b.toNat)) from hb ▸ isB_bytes blk)
  have hx := isB_xorL r.1 hh
  refine ⟨by rw [aesEnc, List.length_map]; exact hx.1, ?_⟩
  simp only [aesDec, aesEnc]
  rw [bytes_back hx, xorL_xorL (by rw [r.1.1, hh.1])]
  refine (congrArg (List.map (fun b => BitVec.ofNat 8 b)) r.2).trans ?_
  rw [List.map_map]
  exact (List.map_congr_left (fun b _ => by simp)).trans (List.map_id blk)

/-- Steps of the key wrap, up to `t`. -/
def wrapGo (key : List Byte) (n : Nat) : Nat → List Byte → List (List Byte) → List Byte × List (List Byte)
  | 0, a, rs => (a, rs)
  | t + 1, a, rs =>
    let r := wrapGo key n t a rs
    let b := aesEnc key (r.1 ++ r.2.getD (t % n) [])
    (beBytes (beNat (b.take 8) ^^^ (t + 1)) 8, r.2.set (t % n) (b.drop 8))

theorem beNat_snoc (l : List Byte) (b : Byte) : beNat (l ++ [b]) = 256 * beNat l + b.toNat := by simp [beNat]

theorem beNat_lt (l : List Byte) : beNat l < 256 ^ l.length := by
  have h : ∀ m : List Byte, beNat m.reverse < 256 ^ m.reverse.length := by
    intro m
    induction m with
    | nil => simp [beNat]
    | cons b l ih =>
      have := b.isLt
      rw [List.reverse_cons, beNat_snoc, List.length_append, List.length_singleton, Nat.pow_succ]
      omega
  simpa using h l.reverse

theorem beNat_beBytes (v n : Nat) : beNat (beBytes v n) = v % 256 ^ n := by
  induction n generalizing v with
  | zero => simp [beBytes, leBytes, beNat, Nat.mod_one]
  | succ n ih =>
    have h := ih (v / 256)
    simp only [beBytes] at h
    rw [beBytes, leBytes, List.reverse_cons, beNat_snoc, h, Nat.pow_succ, Nat.mul_comm (256 ^ n), Nat.mod_mul]
    simp
    omega

theorem beBytes_beNat (l : List Byte) : beBytes (beNat l) l.length = l := by
  have h : ∀ m : List Byte, beBytes (beNat m.reverse) m.reverse.length = m.reverse := by
    intro m
    induction m with
    | nil => rfl
    | cons b l ih =>
      have hb := b.isLt
      have e1 : (256 * beNat l.reverse + b.toNat) / 256 = beNat l.reverse := by omega
      have e2 : BitVec.ofNat 8 (256 * beNat l.reverse + b.toNat) = b := by
        apply BitVec.eq_of_toNat_eq
        simp only [BitVec.toNat_ofNat]
        omega
      rw [List.reverse_cons, beNat_snoc, List.length_append, List.length_singleton, beBytes, leBytes, e1, e2, List.reverse_cons]
      exact congrArg (· ++ [b]) ih
  simpa using h l.reverse

theorem wrapGo_shape (key : List Byte) (n t : Nat) (a : List Byte) (rs : List (List Byte)) (hk : key.length = 32) (ha : a.length = 8) (hn : 0 < n)
    (hl : rs.length = n) (hr : ∀ x ∈ rs, x.length = 8) (ht : t < 2 ^ 63) :
    (wrapGo key n t a rs).1.length = 8 ∧ (wrapGo key n t a rs).2.length = n ∧ (∀ x ∈ (wrapGo key n t a rs).2, x.length = 8) ∧
      unwrapGo key n t (wrapGo key n t a rs).1 (wrapGo key n t a rs).2 = (a, rs) := by
  induction t with
  | zero => exact ⟨ha, hl, hr, rfl⟩
  | succ t ih =>
    obtain ⟨h1, h2, h3, h4⟩ := ih (by omega)
    simp only [wrapGo, unwrapGo]
    generalize wrapGo key n t a rs = r at h1 h2 h3 h4 ⊢
    have hi : t % n < r.2.length := by rw [h2]; exact Nat.mod_lt _ hn
    have hg := h3 _ (getD_mem [] hi)
    have e := aesDec_aesEnc hk (show (r.1 ++ r.2.getD (t % n) []).length = 16 by simp only [List.length_append, h1, hg])
    generalize hb : aesEnc key (r.1 ++ r.2.getD (t % n) []) = b at e ⊢
    have t8 : (b.take 8).length = 8 := by simp [e.1]
    have d8 : (b.drop 8).length = 8 := by simp [e.1]
    have hx : beBytes (beNat (beBytes (beNat (b.take 8) ^^^ (t + 1)) 8) ^^^ (t + 1)) 8 = b.take 8 := by
      have hlt : beNat (b.take 8) ^^^ (t + 1) < 2 ^ 64 :=
        Nat.xor_lt_two_pow (by have := beNat_lt (b.take 8); rw [t8] at this; exact this) (by omega)
      rw [beNat_beBytes, Nat.mod_eq_of_lt (show _ < 256 ^ 8 from hlt), Nat.xor_assoc, Nat.xor_self, Nat.xor_zero]
      have := beBytes_beNat (b.take 8)
      rwa [t8] at this
    refine ⟨by simp [beBytes, leBytes_length], by simp [h2], fun x hx' => ?_, ?_⟩
    · rcases List.mem_or_eq_of_mem_set hx' with h | rfl
      · exact h3 x h
      · exact d8
    · have hs : (r.2.set (t % n) (b.drop 8)).getD (t % n) [] = b.drop 8 := by simp [List.getD, hi]
      rw [hx, hs, List.take_append_drop, e.2, List.take_left' h1, List.drop_left' h1, List.set_set]
      have hq : r.2.set (t % n) (r.2.getD (t % n) []) = r.2 := by simp [List.getD, List.getElem?_eq_getElem hi]
      rw [hq]
      exact h4

/-- The wrap of a 32-byte secret. -/
def keyWrap (kek sec : List Byte) : List Byte :=
  let r := wrapGo kek 4 24 (List.replicate 8 0xA6) [sec.take 8, (sec.drop 8).take 8, (sec.drop 16).take 8, sec.drop 24]
  r.1 ++ r.2.flatten

theorem keyUnwrap_parts (kek r1 p q u v : List Byte) (h1 : r1.length = 8) (hp : p.length = 8) (hq : q.length = 8) (hu : u.length = 8) (hv : v.length = 8) :
    (r1 ++ [p, q, u, v].flatten).length = 40 ∧ keyUnwrap kek (r1 ++ [p, q, u, v].flatten) =
      if (unwrapGo kek 4 24 r1 [p, q, u, v]).1 = List.replicate 8 0xA6 then some (unwrapGo kek 4 24 r1 [p, q, u, v]).2.flatten else none := by
  have hlen : (r1 ++ [p, q, u, v].flatten).length = 40 := by simp [h1, hp, hq, hu, hv]
  refine ⟨hlen, ?_⟩
  have ht : (r1 ++ [p, q, u, v].flatten).take 8 = r1 := List.take_left' h1
  have hd : ∀ i, (r1 ++ [p, q, u, v].flatten).drop (8 + i) = ([p, q, u, v].flatten).drop i := fun i => by
    rw [← List.drop_drop, List.drop_left' h1]
  have hr : (List.range 4).map (fun i => ((r1 ++ [p, q, u, v].flatten).drop (8 + 8 * i)).take 8) = [p, q, u, v] := by
    simp only [hd]
    have f : [p, q, u, v].flatten = p ++ (q ++ (u ++ v)) := by simp
    have d1 : (p ++ (q ++ (u ++ v))).drop 8 = q ++ (u ++ v) := List.drop_left' hp
    have d2 : (p ++ (q ++ (u ++ v))).drop 16 = u ++ v := by
      rw [show 16 = 8 + 8 from rfl, ← List.drop_drop, d1, List.drop_left' hq]
    have d3 : (p ++ (q ++ (u ++ v))).drop 24 = v := by
      rw [show 24 = 16 + 8 from rfl, ← List.drop_drop, d2, List.drop_left' hu]
    rw [f, show List.range 4 = [0, 1, 2, 3] from rfl]
    simp only [List.map_cons, List.map_nil, List.drop_zero, Nat.mul_zero, Nat.mul_one, show 8 * 2 = 16 from rfl, show 8 * 3 = 24 from rfl, d1, d2, d3,
      List.take_left' hp, List.take_left' hq, List.take_left' hu]
    rw [List.take_of_length_le (by omega)]
  simp only [keyUnwrap, hlen, ht, show 40 / 8 - 1 = 4 from rfl, show 6 * 4 = 24 from rfl, hr]

theorem four_parts (sec : List Byte) : [sec.take 8, (sec.drop 8).take 8, (sec.drop 16).take 8, sec.drop 24].flatten = sec := by
  have s1 : (sec.drop 16).take 8 ++ sec.drop 24 = sec.drop 16 := by
    rw [show sec.drop 24 = (sec.drop 16).drop 8 by rw [List.drop_drop], List.take_append_drop]
  have s2 : (sec.drop 8).take 8 ++ sec.drop 16 = sec.drop 8 := by
    rw [show sec.drop 16 = (sec.drop 8).drop 8 by rw [List.drop_drop], List.take_append_drop]
  simp only [List.flatten_cons, List.flatten_nil, List.append_nil]
  rw [s1, s2, List.take_append_drop]

theorem keyUnwrap_of (kek sec r1 p q u v : List Byte) (h1 : r1.length = 8) (h3 : ∀ x ∈ [p, q, u, v], x.length = 8)
    (h4 : unwrapGo kek 4 24 r1 [p, q, u, v] = (List.replicate 8 0xA6, [sec.take 8, (sec.drop 8).take 8, (sec.drop 16).take 8, sec.drop 24])) :
    (r1 ++ [p, q, u, v].flatten).length = 40 ∧ keyUnwrap kek (r1 ++ [p, q, u, v].flatten) = some sec := by
  have k := keyUnwrap_parts kek r1 p q u v h1 (h3 p (by simp)) (h3 q (by simp)) (h3 u (by simp)) (h3 v (by simp))
  generalize unwrapGo kek 4 24 r1 [p, q, u, v] = y at k h4
  subst h4
  simp only [if_true, four_parts] at k
  exact k

theorem length_four {α : Type} {l : List α} (h : l.length = 4) : ∃ p q u v, l = [p, q, u, v] := by
  match l, h with
  | [_, _, _, _], _ => exact ⟨_, _, _, _, rfl⟩

theorem keyUnwrap_keyWrap (kek sec : List Byte) (hk : kek.length = 32) (hs : sec.length = 32) :
    (keyWrap kek sec).length = 40 ∧ keyUnwrap kek (keyWrap kek sec) = some sec := by
  have hl : ∀ x ∈ [sec.take 8, (sec.drop 8).take 8, (sec.drop 16).take 8, sec.drop 24], x.length = 8 := by simp [hs]
  have w := wrapGo_shape kek 4 24 (List.replicate 8 0xA6) _ hk (List.length_replicate ..) (by decide) (by simp) hl (by decide)
  rw [keyWrap]
  revert w
  generalize wrapGo kek 4 24 (List.replicate 8 0xA6) [sec.take 8, (sec.drop 8).take 8, (sec.drop 16).take 8, sec.drop 24] = r
  intro w
  obtain ⟨p, q, u, v, e⟩ := length_four w.2.1
  have h3 := w.2.2.1
  have h4 := w.2.2.2
  rw [e] at h3 h4
  simp only [e]
  exact keyUnwrap_of kek sec r.1 p q u v w.1 h3 h4

end Sys2Proof.Machine
end

