-- ==== Sys2Proof/Tests/Base.lean ====
section
/-! SUPPORT. Small states for the tests: a released device, a core with one group, a command on it. -/
set_option Elab.async false

namespace Sys2Proof.Tests
open Sys2Proof Sys2Proof.Machine

/-- A group of one path at instruction 0 of the code of `c`. -/
def grp (c : Instr) : Group :=
  { cdom := 1, cmd := 1, seat := 0, idx := 0, n := 1, d := 4, strict := false, code := [encodeCode c], loopTab := [], loops := [],
    paths := [⟨3, 0, [], [], .run⟩], g := [], p := [], u := [], issued := 0, stall := 0, part := [], idle := false, ctrWait := none, copyWait := false,
    far := [], park := none, stopped := false }

/-- A core that runs seat 0 of shell 1 with group `g` in slot 0. -/
def coreWith (g : Group) : Core := { Core.zero with holder := some (1, 0), groups := [(0, g)] }

/-- The reset state with group `g` in slot 0 of core 0. -/
def withGroup (g : Group) : State := { State.reset with cores := [(0, coreWith g)] }

/-- A command may issue in its small state: the hypotheses of a row of a thread instruction. -/
def issues (c : Instr) : Bool := ready c (withGroup (grp c)) == some (grp c) && c.codeOk

theorem issues_spec {c : Instr} (h : issues c = true) : ∃ s g, ready c s = some g ∧ g.wf ∧ c.codeOk = true := by
  simp only [issues, Bool.and_eq_true, beq_iff_eq] at h
  exact ⟨_, _, h.1, ⟨rfl, rfl, rfl⟩, h.2⟩

/-- The instruction's group: core 0, slot 0, unguarded. -/
def i0 : Iss := ⟨0, 0, false, 7⟩

/-- What holds of the value holds of every value that an option has. -/
theorem opt_all {α : Type} {o : Option α} {v : α} {P : α → Prop} (h : o = some v) (hp : P v) : ∀ x, o = some x → P x := by
  intro x hx
  rw [h] at hx
  cases hx
  exact hp

theorem opt_none {α : Type} {o : Option α} {P : α → Prop} (h : o = none) : ∀ x, o = some x → P x := by
  intro x hx
  rw [h] at hx
  cases hx

end Sys2Proof.Tests
end

