-- ==== Sys2Proof/Tests/Wit1.lean ====
section
/-! SUPPORT. States and operands that meet the hypotheses of the statements about thread groups, coherence and memory. -/
set_option Elab.async false

namespace Sys2Proof.Tests
open Sys2Proof Sys2Proof.Machine

/-! ### Thread groups -/

def g4 : Sel := .g 4
def r1 : Sel := .g 1
def r2 : Sel := .g 2

theorem test_wit_IntegerResults : ∀ c ∈ [Instr.iadd i0 g4 r1 r2, .isub i0 g4 r1 r2, .imul i0 g4 r1 r2, .imacc i0 g4 r1 r2 r1, .shl i0 g4 r1 r2,
    .shr i0 g4 r1 r2, .sar i0 g4 r1 r2, .shli i0 g4 r1 32, .shri i0 g4 r1 31, .sari i0 g4 r1 32, .clz i0 (.u 4) (.u 31), .iaddi i0 g4 r1 5,
    .andi i0 g4 r1 5, .ori i0 g4 r1 5, .xori i0 g4 r1 5, .iadd64 i0 (.g 46) r2 r1], ∃ s g, ready c s = some g ∧ g.wf ∧ c.codeOk = true :=
  fun c h => issues_spec (List.all_eq_true.mp (show List.all _ issues = true by decide +kernel) c h)

theorem test_wit_WordResults : ∀ c ∈ [Instr.imulhs i0 g4 r1 r2, .imulhu i0 g4 r1 r2, .imin i0 g4 r1 r2, .imax i0 g4 r1 r2, .umin i0 g4 r1 r2,
    .umax i0 g4 r1 r2, .andR i0 g4 r1 r2, .orR i0 g4 r1 r2, .xorR i0 g4 r1 r2, .bcnt i0 g4 r1, .mov i0 g4 r1, .movi i0 (.u 31) 7,
    .selP i0 g4 r1 r2 (.p 7), .ctrRd i0 g4 31, .vf i0 g4 r1 r2 .zero 0 5 5, .rngP i0 (.g 44) g4 (.g 46), .nop i0,
    .rdspec i0 g4 0, .rdspec i0 (.u 4) 3], ∃ s g, ready c s = some g ∧ g.wf ∧ c.codeOk = true :=
  fun c h => issues_spec (List.all_eq_true.mp (show List.all _ issues = true by decide +kernel) c h)

theorem test_wit_PredicateResults : ∀ c ∈ [Instr.icmp i0 (.p 0) r1 r2 .zero 0 9, .icmp i0 (.p 7) r1 r2 (.p 1) 3 0, .icmpi i0 (.p 1) r1 9 4,
    .fcmp i0 (.p 1) r1 r2 (.p 2) 1 11 5, .pcomb i0 (.p 0) (.p 1) (.p 7) 3], ∃ s g, ready c s = some g ∧ g.wf ∧ c.codeOk = true :=
  fun c h => issues_spec (List.all_eq_true.mp (show List.all _ issues = true by decide +kernel) c h)

theorem test_wit_LaneVotes : ∀ c ∈ [Instr.lvote i0 (.p 1) (.p 0) 0, .lvote i0 (.p 1) (.p 0) 1, .lvote i0 g4 (.p 0) 2, .xlane i0 g4 r1 .zero 31 3,
    .xlane i0 g4 r1 r2 0 0], ∃ s g, ready c s = some g ∧ g.wf ∧ c.codeOk = true :=
  fun c h => issues_spec (List.all_eq_true.mp (show List.all _ issues = true by decide +kernel) c h)

/-- Guard p0. -/
def ip : Iss := ⟨0, 0, false, 0⟩
/-- The running path of `grp`. -/
def path0 : Path := ⟨3, 0, [], [], .run⟩

/-- The small state of an instruction. -/
abbrev wg (c : Instr) : State := withGroup (grp c)
/-- A group whose predicate p0 holds in lane 0. -/
abbrev gp0 (c : Instr) (d : Nat) : Group := { grp c with p := [(0, 1)], d := d }

/-- BRI to instruction 1 of two. -/
def gBri : Group := { grp (.bri i0 (.u 4) 9) with u := [(4, 1)], code := [encodeCode (.bri i0 (.u 4) 9), 0] }
/-- A group whose path has a call stack. -/
def gStack (c : Instr) (l : List Nat) : Group := { grp c with paths := [{ path0 with stack := l }] }

theorem test_wit_ControlFlow :
    (∃ i : Iss, ∃ target : Nat, ∃ reconv : Nat, ∃ s : State, ∃ g : Group, ∃ p : Path, ∃ rest : List Path, ready (.bra i target reconv) s = some g ∧ g.paths = p :: rest ∧ votingLanes g i = [] ∧ noMeet p (p.pc + 1)) ∧
    (∃ i : Iss, ∃ target : Nat, ∃ reconv : Nat, ∃ s : State, ∃ g : Group, ∃ p : Path, ∃ rest : List Path, ready (.bra i target reconv) s = some g ∧ g.paths = p :: rest ∧ votingLanes g i ≠ [] ∧ votingLanes g i = lanesOf p.mask ∧ p.pc < target ∧ noMeet p target) ∧
    (∃ i : Iss, ∃ target : Nat, ∃ reconv : Nat, ∃ s : State, ∃ g : Group, ∃ p : Path, ∃ rest : List Path, ready (.bra i target reconv) s = some g ∧ g.paths = p :: rest ∧ votingLanes g i ≠ [] ∧ votingLanes g i ≠ lanesOf p.mask ∧ p.pc < target ∧ reconv ≠ target ∧ reconv ≠ p.pc + 1 ∧ rest.length + 2 ≤ g.d ∧ p.reconv.head? ≠ some reconv) ∧
    (∃ i : Iss, ∃ r : Sel, ∃ reconv : Nat, ∃ s : State, ∃ g : Group, ∃ p : Path, ∃ rest : List Path, ready (.bri i r reconv) s = some g ∧ g.paths = p :: rest ∧ (rdR g 0 r).toNat % 4096 < g.code.length ∧ p.pc < (rdR g 0 r).toNat % 4096 ∧ reconv ≠ (rdR g 0 r).toNat % 4096 ∧ p.reconv.head? ≠ some reconv) ∧
    (∃ i : Iss, ∃ target : Nat, ∃ s : State, ∃ g : Group, ∃ p : Path, ∃ rest : List Path, ready (.call i target) s = some g ∧ g.paths = p :: rest ∧ p.stack.length < 8 ∧ noMeet p target) ∧
    (∃ i : Iss, ∃ s : State, ∃ g : Group, ∃ p : Path, ∃ rest : List Path, ∃ r : Nat, ∃ rs : List Nat, ready (.ret i) s = some g ∧ g.paths = p :: rest ∧ p.stack = r :: rs ∧ noMeet p r) ∧
    (∃ i : Iss, ∃ s : State, ∃ g : Group, ∃ p : Path, ∃ rest : List Path, ready (.exitT i) s = some g ∧ g.paths = p :: rest ∧ p.mask &&& ~~~(laneMask (votingLanes g i)) ≠ 0 ∧ noMeet p (p.pc + 1)) ∧
    (∃ i : Iss, ∃ s : State, ∃ g : Group, ∃ p : Path, ready (.exitT i) s = some g ∧ g.paths = [p] ∧ votingLanes g i = lanesOf p.mask ∧ keysFrom 0 s.cores = true ∧ keysFrom 0 (coreOf i.core s).groups = true) :=
  ⟨⟨ip, 5, 9, wg (.bra ip 5 9), grp (.bra ip 5 9), path0, [], by (repeat' apply And.intro) <;> decide +kernel⟩,
   ⟨i0, 5, 9, wg (.bra i0 5 9), grp (.bra i0 5 9), path0, [], by (repeat' apply And.intro) <;> decide +kernel⟩,
   ⟨ip, 5, 9, withGroup (gp0 (.bra ip 5 9) 2), gp0 (.bra ip 5 9) 2, path0, [], by (repeat' apply And.intro) <;> decide +kernel⟩,
   ⟨i0, .u 4, 9, withGroup gBri, gBri, path0, [], by (repeat' apply And.intro) <;> decide +kernel⟩,
   ⟨i0, 5, withGroup (gStack (.call i0 5) [1, 2, 3, 4, 5, 6, 7]), gStack (.call i0 5) [1, 2, 3, 4, 5, 6, 7], { path0 with stack := [1, 2, 3, 4, 5, 6, 7] }, [], by (repeat' apply And.intro) <;> decide +kernel⟩,
   ⟨i0, withGroup (gStack (.ret i0) [5]), gStack (.ret i0) [5], { path0 with stack := [5] }, [], 5, [], by (repeat' apply And.intro) <;> decide +kernel⟩,
   ⟨ip, withGroup (gp0 (.exitT ip) 4), gp0 (.exitT ip) 4, path0, [], by (repeat' apply And.intro) <;> decide +kernel⟩,
   ⟨i0, wg (.exitT i0), grp (.exitT i0), path0, by (repeat' apply And.intro) <;> decide +kernel⟩⟩

/-! A shell with two seats, one Tier F channel, one range, and a command on its seat. -/

def set0 : ChSet := ⟨[0], 0, 4, 0⟩
def comp1 : Comp :=
  { k := 1, o := 0, gop := 0, redund := 0, sampleN := 0, slots := 4, words := [], seats := [⟨0, false, 0, true⟩, ⟨1, false, 0, true⟩],
    sets := [(0, set0)], halves := [⟨0, 4, 1, 8, 10, 10, 10⟩], links := [] }
def range0 : Range := ⟨0, 4, 0, 0, false, false, false, false, false, true, 0⟩
def shell1 : Shell :=
  { comp := comp1, ranges := [(0, range0)], owns := [], epoch := 0, oldEpoch := false, olds := [], flips := [], owed := [], rebind := none, arriving := [],
    asks := [], seals := [], mirrors := [], discardPoison := false, hint := none, failed := false, rrQueue := 0, windowEnd := 0, created := none }

def seg1 : Segment := ⟨1, 1, 4, 1, 0, [], []⟩
def node0 : Node := ⟨0x41, 0, 0, 0, 0xFFFF, 1, 0, 0, 0, 0⟩
def gather1 : Node := ⟨0x20, 0, 0, 0, 0xFFFF, 1, 0, 0, 0, 0⟩
def graph1 : Graph := ⟨[], [], [node0, gather1], [⟨0, 1, 0, 0, some 0⟩, ⟨1, 1, 0, 0, none⟩], [seg1], 1, 0⟩
def rgraph1 : RegGraph := ⟨graph1, false, false, none, none, [0], [0, 0, 0, 0, 0], false, 0, false⟩
def cmd1 : Cmd :=
  { q := 0, tenant := 1, cdom := 1, cid := 9, irq := false, be := true, defer := false, late := false, handle := 1, inl := [], inlDst := 0, status := 0,
    runArgs := none, seatLost := false, fbSeats := none, st := .running, order := 0, winEnd := 0, guarNow := false, subst := false, substPending := false, void := false,
    cause := 0, step := 0, inSeg := true, segDone := false, started := true, startAt := 0, seats := [(0, SeatRun.zero)], skips := [], miles := 0,
    flagged := 0, stop := 0, park := none, parkOwed := false }

/-- The state with group `g`, its shell and its command. -/
def live (g : Group) : State :=
  { withGroup g with shells := [(1, shell1)], graphs := [(65537, rgraph1)], cmds := [(1, cmd1)] }

abbrev rdy (c : Instr) (g : Group) : Prop := ready c (live g) = some g

def path1 : Path := ⟨12, 7, [], [], .run⟩
/-- A group with a second runnable path. -/
def grp2 (c : Instr) : Group := { grp c with paths := [path0, path1] }
def qp0 : QPair :=
  { local' := false, tenant := 1, lost := false, torn := false, cause := 0, depth := 16, slot256 := false, vec := 3, hold := 5, sqBase := 0, cqBase := 0,
    token := 1, nonce := [], key := [], n := 0, tail := 0, w := 0, h := 0, rereads := 0, rereadAt := none, entries := [], ctlBusy := false,
    awaiting := 1, owed := [], sigDue := false, deferred := false, closing := none }

/-- The state with group `g` of a guaranteed command. -/
def guarded (g : Group) : State := { live g with cmds := [(1, { cmd1 with guarNow := true })], qps := [(0, qp0)] }

theorem test_wit_BadTargetsPark :
    (∃ i : Iss, ∃ target : Nat, ∃ s : State, ∃ g : Group, ∃ p : Path, ∃ rest : List Path, ready (.call i target) s = some g ∧ g.paths = p :: rest ∧ 8 ≤ p.stack.length) ∧
    (∃ i : Iss, ∃ s : State, ∃ g : Group, ∃ p : Path, ∃ rest : List Path, ready (.ret i) s = some g ∧ g.paths = p :: rest ∧ p.stack = []) ∧
    (∃ i : Iss, ∃ r : Sel, ∃ reconv : Nat, ∃ s : State, ∃ g : Group, ∃ p : Path, ∃ rest : List Path, ready (.bri i r reconv) s = some g ∧ g.paths = p :: rest ∧ g.code.length ≤ (rdR g 0 r).toNat % 4096) ∧
    (∃ i : Iss, ∃ target : Nat, ∃ reconv : Nat, ∃ s : State, ∃ g : Group, ∃ p : Path, ∃ rest : List Path, ready (.bra i target reconv) s = some g ∧ g.paths = p :: rest ∧ votingLanes g i ≠ [] ∧ votingLanes g i ≠ lanesOf p.mask ∧ p.pc < target ∧ reconv ≠ target ∧ reconv ≠ p.pc + 1 ∧ g.d < rest.length + 2) ∧
    (∃ i : Iss, ∃ s : State, ∃ g : Group, ∃ c : Cmd, groupOf i.core i.slot s = some g ∧ cmdOf g.cmd s = some c ∧ c.guarNow = false ∧ c.park = none ∧ s.flawless ∧ Memory.wf s.mem.spad = true) ∧
    (∃ i : Iss, ∃ s : State, ∃ g : Group, ∃ c : Cmd, ∃ p : QPair, groupOf i.core i.slot s = some g ∧ cmdOf g.cmd s = some c ∧ c.guarNow = true ∧ tabFind c.q s.qps = some p ∧ keysFrom 0 s.cmds = true) :=
  ⟨⟨i0, 5, withGroup (gStack (.call i0 5) [1, 2, 3, 4, 5, 6, 7, 8]), gStack (.call i0 5) [1, 2, 3, 4, 5, 6, 7, 8], { path0 with stack := [1, 2, 3, 4, 5, 6, 7, 8] }, [], by (repeat' apply And.intro) <;> decide +kernel⟩,
   ⟨i0, wg (.ret i0), grp (.ret i0), path0, [], by (repeat' apply And.intro) <;> decide +kernel⟩,
   ⟨i0, .u 4, 9, withGroup { gBri with code := [encodeCode (.bri i0 (.u 4) 9)] }, { gBri with code := [encodeCode (.bri i0 (.u 4) 9)] }, path0, [], by (repeat' apply And.intro) <;> decide +kernel⟩,
   ⟨ip, 5, 9, withGroup (gp0 (.bra ip 5 9) 1), gp0 (.bra ip 5 9) 1, path0, [], by (repeat' apply And.intro) <;> decide +kernel⟩,
   ⟨i0, live (grp (.ret i0)), grp (.ret i0), cmd1, by (repeat' apply And.intro) <;> decide +kernel⟩,
   ⟨i0, guarded (grp (.ret i0)), grp (.ret i0), { cmd1 with guarNow := true }, qp0, by (repeat' apply And.intro) <;> decide +kernel⟩⟩

/-- An outstanding load of one lane that has its data. -/
def far1 : FarReq := ⟨0, 0, .g 44, 4, 16, false, true, 7, 7, 0, 0, [⟨31, 0x40, .mem 0x40 true false, 16, some (List.replicate 16 0xAB), false⟩]⟩
def gFar (c : Instr) : Group := { grp c with far := [far1] }

theorem test_wit_GroupSteering :
    (∃ i : Iss, ∃ s : State, ∃ g : Group, ∃ p : Path, ready (.barG i) s = some g ∧ i.ok = true ∧ relHeld i 0 g s = false ∧ g.paths = [p] ∧ p.reconv = [] ∧ votingLanes g i ≠ [] ∧ (votingLanes g i = lanesOf p.mask)) ∧
    (∃ i : Iss, ∃ s : State, ∃ g : Group, ∃ p : Path, ∃ q : Path, ready (.barG i) s = some g ∧ relHeld i 0 g s = false ∧ g.paths = [p, q] ∧ q.wait = .run ∧ votingLanes g i ≠ []) ∧
    (∃ i : Iss, ∃ b : Nat, ∃ n : Nat, ∃ s : State, ∃ g : Group, ∃ p : Path, ∃ q : Path, ready (.barB i b n) s = some g ∧ relHeld i 1 g s = false ∧ g.paths = [p, q] ∧ q.wait = .run ∧ votingLanes g i ≠ []) ∧
    (∃ i : Iss, ∃ s : State, ∃ g : Group, ∃ p : Path, ∃ q : Path, ready (.spin i) s = some g ∧ g.paths = [p, q] ∧ q.wait = .run ∧ votingLanes g i ≠ [] ∧ noMeet p (p.pc + 1)) ∧
    (∃ i : Iss, ∃ s : State, ∃ g : Group, ∃ p : Path, ready (.spin i) s = some g ∧ g.paths = [p] ∧ votingLanes g i ≠ [] ∧ noMeet p (p.pc + 1)) ∧
    (∃ i : Iss, ∃ a : Sel, ∃ ctr : Nat, ∃ v : Nat, ∃ s : State, ∃ g : Group, ready (.ctrSet i a ctr v) s = some g ∧ votingLanes g i ≠ [] ∧ tabWf 0 (coreOf i.core s).ctr = true) ∧
    (∃ i : Iss, ∃ a : Sel, ∃ ctr : Nat, ∃ v : Nat, ∃ s : State, ∃ g : Group, let x := if a = .zero then BitVec.ofNat 32 v else rdR g 0 a; ∃ p : Path, ∃ rest : List Path, ready (.ctrWait i a ctr v) s = some g ∧ votingLanes g i ≠ [] ∧ 0 ≤ (tabGet 0 ctr (coreOf i.core s).ctr - x).toInt ∧ g.paths = p :: rest ∧ noMeet p (p.pc + 1)) ∧
    (∃ i : Iss, ∃ a : Sel, ∃ ctr : Nat, ∃ v : Nat, ∃ s : State, ∃ g : Group, let x := if a = .zero then BitVec.ofNat 32 v else rdR g 0 a; ready (.ctrWait i a ctr v) s = some g ∧ votingLanes g i ≠ [] ∧ (tabGet 0 ctr (coreOf i.core s).ctr - x).toInt < 0) ∧
    (∃ i : Iss, ∃ a : Sel, ∃ node : Nat, ∃ field : Nat, ∃ s : State, ∃ g : Group, ∃ c : Cmd, ∃ rg : RegGraph, ∃ q : SeatRun, let v := if field = 0 then (rdR g 0 a).toNat % 2 ^ 24 else if field = 1 then (rdR g 0 a).toNat else rdWide g 0 a 2; ready (.stPatch i a node field) s = some g ∧ votingLanes g i ≠ [] ∧ cmdOf g.cmd s = some c ∧ cmdGraph c s = some rg ∧ tabFind g.seat c.seats = some q ∧ patchOk g c rg.graph node field v s = true) ∧
    (∃ i : Iss, ∃ a : Sel, ∃ node : Nat, ∃ field : Nat, ∃ s : State, ∃ g : Group, ∃ c : Cmd, ∃ rg : RegGraph, ∃ q : SeatRun, let v := if field = 0 then (rdR g 0 a).toNat % 2 ^ 24 else if field = 1 then (rdR g 0 a).toNat else rdWide g 0 a 2; ready (.stPatch i a node field) s = some g ∧ votingLanes g i ≠ [] ∧ cmdOf g.cmd s = some c ∧ cmdGraph c s = some rg ∧ tabFind g.seat c.seats = some q ∧ patchOk g c rg.graph node field v s = false) ∧
    (∃ i : Iss, ∃ st : Nat, ∃ s : State, ∃ g : Group, ∃ c : Cmd, ready (.stSkip i st) s = some g ∧ votingLanes g i ≠ [] ∧ cmdOf g.cmd s = some c ∧ c.step < st) ∧
    (∃ i : Iss, ∃ st : Nat, ∃ s : State, ∃ g : Group, ∃ c : Cmd, ready (.stSkip i st) s = some g ∧ votingLanes g i ≠ [] ∧ cmdOf g.cmd s = some c ∧ st ≤ c.step) ∧
    (∃ i : Iss, ∃ code : BitVec 16, ∃ s : State, ∃ g : Group, ∃ c : Cmd, ready (.bkpt i code) s = some g ∧ votingLanes g i ≠ [] ∧ cmdOf g.cmd s = some c ∧ c.guarNow = false ∧ c.park = none) ∧
    (∃ core : Nat, ∃ slot : Nat, ∃ s : State, ∃ g : Group, groupOf core slot s = some g ∧ 1024 ≤ g.issued) ∧
    (∃ core : Nat, ∃ slot : Nat, ∃ s : State, ∃ g : Group, groupOf core slot s = some g) ∧
    (∃ core : Nat, ∃ slot : Nat, ∃ s : State, ∃ g : Group, ∃ c : Cmd, groupOf core slot s = some g ∧ g.park = none ∧ g.stopped = false ∧ 100 * 2 ^ 20 ≤ g.stall ∧ cmdOf g.cmd s = some c ∧ c.guarNow = false ∧ c.park = none ∧ s.flt.injs = []) ∧
    (∃ core : Nat, ∃ slot : Nat, ∃ s : State, ∃ g : Group, groupOf core slot s = some g ∧ g.stall < 100 * 2 ^ 20 ∧ s.flt.injs = []) ∧
    (∃ i : Iss, ∃ s : State, ∃ g : Group, ready (.barG i) s = some g ∧ votingLanes g i ≠ [] ∧ g.far ≠ []) :=
  ⟨⟨i0, wg (.barG i0), grp (.barG i0), path0, by (repeat' apply And.intro) <;> decide +kernel⟩,
   ⟨i0, withGroup (grp2 (.barG i0)), grp2 (.barG i0), path0, path1, by (repeat' apply And.intro) <;> decide +kernel⟩,
   ⟨i0, 15, 32, withGroup (grp2 (.barB i0 15 32)), grp2 (.barB i0 15 32), path0, path1, by (repeat' apply And.intro) <;> decide +kernel⟩,
   ⟨i0, withGroup (grp2 (.spin i0)), grp2 (.spin i0), path0, path1, by (repeat' apply And.intro) <;> decide +kernel⟩,
   ⟨i0, wg (.spin i0), grp (.spin i0), path0, by (repeat' apply And.intro) <;> decide +kernel⟩,
   ⟨i0, .zero, 31, 65535, wg (.ctrSet i0 .zero 31 65535), grp (.ctrSet i0 .zero 31 65535), by (repeat' apply And.intro) <;> decide +kernel⟩,
   ⟨i0, .zero, 31, 0, wg (.ctrWait i0 .zero 31 0), grp (.ctrWait i0 .zero 31 0), path0, [], by (repeat' apply And.intro) <;> decide +kernel⟩,
   ⟨i0, .zero, 31, 1, wg (.ctrWait i0 .zero 31 1), grp (.ctrWait i0 .zero 31 1), by (repeat' apply And.intro) <;> decide +kernel⟩,
   ⟨i0, .zero, 1, 1, live (grp (.stPatch i0 .zero 1 1)), grp (.stPatch i0 .zero 1 1), cmd1, rgraph1, SeatRun.zero, by (repeat' apply And.intro) <;> decide +kernel⟩,
   ⟨i0, .zero, 0, 1, live (grp (.stPatch i0 .zero 0 1)), grp (.stPatch i0 .zero 0 1), cmd1, rgraph1, SeatRun.zero, by (repeat' apply And.intro) <;> decide +kernel⟩,
   ⟨i0, 1, live (grp (.stSkip i0 1)), grp (.stSkip i0 1), cmd1, by (repeat' apply And.intro) <;> decide +kernel⟩,
   ⟨i0, 0, live (grp (.stSkip i0 0)), grp (.stSkip i0 0), cmd1, by (repeat' apply And.intro) <;> decide +kernel⟩,
   ⟨i0, 0xFFFF, live (grp (.bkpt i0 0xFFFF)), grp (.bkpt i0 0xFFFF), cmd1, by (repeat' apply And.intro) <;> decide +kernel⟩,
   ⟨0, 0, withGroup { grp (.nop i0) with issued := 1024 }, { grp (.nop i0) with issued := 1024 }, by (repeat' apply And.intro) <;> decide +kernel⟩,
   ⟨0, 0, wg (.nop i0), grp (.nop i0), by (repeat' apply And.intro) <;> decide +kernel⟩,
   ⟨0, 0, live { grp (.nop i0) with stall := 104857600 }, { grp (.nop i0) with stall := 104857600 }, cmd1, by (repeat' apply And.intro) <;> decide +kernel⟩,
   ⟨0, 0, live { grp (.nop i0) with stall := 104857599 }, { grp (.nop i0) with stall := 104857599 }, by (repeat' apply And.intro) <;> decide +kernel⟩,
   ⟨i0, withGroup (gFar (.barG i0)), gFar (.barG i0), by (repeat' apply And.intro) <;> decide +kernel⟩⟩

end Sys2Proof.Tests
end

