-- ==== Sys2Proof/Tests/Wit2.lean ====
section
/-! SUPPORT. States and operands that meet the hypotheses of the statements about memory instructions, coherence and memory controllers. -/
set_option Elab.async false

namespace Sys2Proof.Tests
open Sys2Proof Sys2Proof.Machine

/-! ### Memory instructions -/

/-- A local access of 16 bytes at 0x1BFFF0, the last of the local area. -/
def loc16 : MemOp := ⟨.u 4, .zero, false, 0, false, 4, false, 0, 0, 0⟩
def gl (c : Instr) : Group := { grp c with u := [(4, 0x1BFFF0), (6, 0x40)] }
/-- A global access at the pair u6. -/
def glob4 : MemOp := ⟨.u 6, .zero, false, 0, true, 2, false, 0, 0, 0⟩

theorem test_wit_LocalAccesses :
    (∃ i : Iss, ∃ d : Sel, ∃ m : MemOp, ∃ s : State, ∃ g : Group, ready (.ld i d m) s = some g ∧ g.wf ∧ Instr.codeOk (.ld i d m) = true ∧ m.glob = false ∧ g.far = [] ∧ s.flawless ∧ (∀ l ∈ votingLanes g i, memAddr g l m % 2 ^ m.width = 0 ∧ memAddr g l m < 0x1C0000)) ∧
    (∃ i : Iss, ∃ d : Sel, ∃ m : MemOp, ∃ s : State, ∃ g : Group, ready (.st i d m) s = some g ∧ Instr.codeOk (.st i d m) = true ∧ m.glob = false ∧ acqHeld g = false ∧ g.part = [] ∧ s.flawless ∧ Memory.wf s.mem.spad = true ∧ votingLanes g i ≠ [] ∧ (m.order = 2 → relHeld i m.scope g s = false) ∧ (∀ l ∈ votingLanes g i, memAddr g l m % 2 ^ m.width = 0 ∧ memAddr g l m < 0x1C0000)) :=
  ⟨⟨i0, .g 44, loc16, live (gl (.ld i0 (.g 44) loc16)), gl (.ld i0 (.g 44) loc16), by (repeat' apply And.intro) <;> decide +kernel⟩,
   ⟨i0, .g 44, loc16, live (gl (.st i0 (.g 44) loc16)), gl (.st i0 (.g 44) loc16), by (repeat' apply And.intro) <;> decide +kernel⟩⟩

/-- Every voting lane of an ATOM, ADDX.I, ADDX.F of one lane at the pair u6. -/
def at1 : AtomOp := ⟨.zero, .u 6, .u 8, .zero, 0, 0, false⟩
def ga (c : Instr) : Group := { grp c with u := [(6, 0x40)] }
/-- The same at an address that is not mapped. -/
def gm (c : Instr) : Group := { grp c with u := [(6, 0x800000)] }
def locOut : MemOp := { loc16 with width := 0, off := 0x10 }
def locOdd : MemOp := { loc16 with width := 2, off := 1 }

theorem test_wit_MemoryChecks :
    (∃ guar : Bool, ∃ kind : Nat, ∃ align : Nat, ∃ loc : Bool, ∃ as : List Machine.Acc, ∃ c : Nat, (∃ a ∈ as, accFail guar kind align loc c a = true) ∧ c ∈ checkOrder ∧ (∀ c' ∈ checkOrder.takeWhile (fun x => x != c), ∀ a ∈ as, accFail guar kind align loc c' a = false)) ∧
    (∃ i : Iss, ∃ d : Sel, ∃ m : MemOp, ∃ s : State, ∃ g : Group, ∃ code : Nat, ∃ lane : Nat, ∃ addr : Nat, ready (.ld i d m) s = some g ∧ acqHeld g = false ∧ firstFail (groupGuar g s) 0 (2 ^ m.width) (!m.glob) ((effLanes [d, m.base, m.idx] (votingLanes g i)).map (fun l =>
      ⟨l, memAddr g l m, if m.glob then groupLoc g (memAddr g l m) s else .spad i.core (memAddr g l m)⟩)) checkOrder = some (code, lane, addr)) ∧
    (∃ i : Iss, ∃ d : Sel, ∃ m : MemOp, ∃ s : State, ∃ g : Group, ∃ code : Nat, ∃ lane : Nat, ∃ addr : Nat, ready (.st i d m) s = some g ∧ acqHeld g = false ∧ g.part = [] ∧ firstFail (groupGuar g s) 1 (2 ^ m.width) (!m.glob) ((effLanes [d, m.base, m.idx] (votingLanes g i)).map (fun l =>
      ⟨l, memAddr g l m, if m.glob then groupLoc g (memAddr g l m) s else .spad i.core (memAddr g l m)⟩)) checkOrder = some (code, lane, addr)) ∧
    (∃ i : Iss, ∃ a : AtomOp, ∃ w64 : Bool, ∃ aop : Nat, ∃ s : State, ∃ g : Group, ∃ code : Nat, ∃ lane : Nat, ∃ addr : Nat, ready (.atom i a w64 aop) s = some g ∧ acqHeld g = false ∧ firstFail (groupGuar g s) 2 (if w64 then 8 else 4) false ((effLanes [a.d, a.base, a.s1, a.s2] (votingLanes g i)).map (fun l =>
      ⟨l, rdWide g l a.base 2, groupLoc g (rdWide g l a.base 2) s⟩)) checkOrder = some (code, lane, addr)) ∧
    (∃ i : Iss, ∃ a : AtomOp, ∃ pst : Nat, ∃ psa : Nat, ∃ s : State, ∃ g : Group, ∃ code : Nat, ∃ lane : Nat, ∃ addr : Nat, ready (.addxI i a pst psa) s = some g ∧ acqHeld g = false ∧ firstFail (groupGuar g s) 2 16 false ((effLanes ([a.d, a.base, a.s1] ++ predSels pst psa) (votingLanes g i)).map (fun l =>
      ⟨l, rdWide g l a.base 2, groupLoc g (rdWide g l a.base 2) s⟩)) checkOrder = some (code, lane, addr)) ∧
    (∃ i : Iss, ∃ a : AtomOp, ∃ pst : Nat, ∃ psa : Nat, ∃ s : State, ∃ g : Group, ∃ code : Nat, ∃ lane : Nat, ∃ addr : Nat, ready (.addxF i a pst psa) s = some g ∧ acqHeld g = false ∧ firstFail (groupGuar g s) 2 16 false ((effLanes ([a.d, a.base, a.s1, a.s2] ++ predSels pst psa) (votingLanes g i)).map (fun l =>
      ⟨l, rdWide g l a.base 2, groupLoc g (rdWide g l a.base 2) s⟩)) checkOrder = some (code, lane, addr)) :=
  ⟨⟨false, 0, 4, false, [⟨0, 4, .unmapped⟩], 0x06, by (repeat' apply And.intro) <;> decide +kernel⟩,
   ⟨i0, g4, locOut, live (gl (.ld i0 g4 locOut)), gl (.ld i0 g4 locOut), 0x11, 0, 0x1C0000, by (repeat' apply And.intro) <;> decide +kernel⟩,
   ⟨i0, g4, locOdd, live (gl (.st i0 g4 locOdd)), gl (.st i0 g4 locOdd), 0x07, 0, 0x1BFFF1, by (repeat' apply And.intro) <;> decide +kernel⟩,
   ⟨i0, at1, true, 0, live (gm (.atom i0 at1 true 0)), gm (.atom i0 at1 true 0), 0x06, 0, 0x800000, by (repeat' apply And.intro) <;> decide +kernel⟩,
   ⟨i0, at1, 7, 7, live (gm (.addxI i0 at1 7 7)), gm (.addxI i0 at1 7 7), 0x06, 0, 0x800000, by (repeat' apply And.intro) <;> decide +kernel⟩,
   ⟨i0, at1, 7, 7, live (gm (.addxF i0 at1 7 7)), gm (.addxF i0 at1 7 7), 0x06, 0, 0x800000, by (repeat' apply And.intro) <;> decide +kernel⟩⟩

def atF : AtomOp := { at1 with s2 := .u 9 }
def gaF : Group := { ga (.addxF i0 atF 0 1) with paths := [{ path0 with mask := 2 }] }

theorem test_wit_AtomicsIssue :
    (∃ i : Iss, ∃ a : AtomOp, ∃ aop : Nat, ∃ w64 : Bool, ∃ s : State, ∃ g : Group, ∃ l : Nat, ∃ dpa : Nat, ∃ st : Bool, ready (.atom i a w64 aop) s = some g ∧ acqHeld g = false ∧ a.order = 0 ∧ effLanes [a.d, a.base, a.s1, a.s2] (votingLanes g i) = [l] ∧ groupLoc g (rdWide g l a.base 2) s = .mem dpa true st ∧ rdWide g l a.base 2 % (if w64 then 8 else 4) = 0 ∧ g.cdom ∉ s.coh.failing ∧ isPrimary i.core s = false ∧ unitHeld i g 2 ⟨l, rdWide g l a.base 2, .mem dpa true st⟩ s = false) ∧
    (∃ i : Iss, ∃ a : AtomOp, ∃ pst : Nat, ∃ psa : Nat, ∃ s : State, ∃ g : Group, ∃ l : Nat, ∃ dpa : Nat, ∃ st : Bool, ready (.addxI i a pst psa) s = some g ∧ acqHeld g = false ∧ a.order = 0 ∧ effLanes ([a.d, a.base, a.s1] ++ predSels pst psa) (votingLanes g i) = [l] ∧ groupLoc g (rdWide g l a.base 2) s = .mem dpa true st ∧ rdWide g l a.base 2 % 16 = 0 ∧ g.cdom ∉ s.coh.failing ∧ isPrimary i.core s = false ∧ unitHeld i g 2 ⟨l, rdWide g l a.base 2, .mem dpa true st⟩ s = false) ∧
    (∃ i : Iss, ∃ a : AtomOp, ∃ pst : Nat, ∃ psa : Nat, ∃ s : State, ∃ g : Group, ∃ l : Nat, ∃ dpa : Nat, ∃ st : Bool, ready (.addxF i a pst psa) s = some g ∧ acqHeld g = false ∧ a.order = 0 ∧ effLanes ([a.d, a.base, a.s1, a.s2] ++ predSels pst psa) (votingLanes g i) = [l] ∧ groupLoc g (rdWide g l a.base 2) s = .mem dpa true st ∧ rdWide g l a.base 2 % 16 = 0 ∧ g.cdom ∉ s.coh.failing ∧ isPrimary i.core s = false ∧ unitHeld i g 2 ⟨l, rdWide g l a.base 2, .mem dpa true st⟩ s = false) :=
  ⟨⟨i0, at1, 9, true, live (ga (.atom i0 at1 true 9)), ga (.atom i0 at1 true 9), 0, 0x40, false, by (repeat' apply And.intro) <;> decide +kernel⟩,
   ⟨i0, at1, 7, 7, live (ga (.addxI i0 at1 7 7)), ga (.addxI i0 at1 7 7), 0, 0x40, false, by (repeat' apply And.intro) <;> decide +kernel⟩,
   ⟨i0, atF, 0, 1, live gaF, gaF, 1, 0x40, false, by (repeat' apply And.intro) <;> decide +kernel⟩⟩

def copy1 : Copy := { src := 0x400000000000, dst := 0x100000000000, len := 128, ctr := 31, done := [0], slot := 0, cdom := 1, cmd := 1, seat := 0, stopped := false }
def copyState : State := let s := live (grp (.nop i0)); setCore 0 { coreOf 0 s with copies := [(0, copy1)] } s
def gCp : Group := { grp (.cpAsync i0 (.u 6) (.u 8) .zero 32768 0) with u := [(6, 0x40), (9, 0x1000)] }
def farNop : Group := gFar (.nop i0)

theorem test_wit_FarAccesses :
    (∃ i : Iss, ∃ scope : Nat, ∃ kind : Nat, ∃ s : State, ∃ g : Group, ∃ p : Path, ∃ rest : List Path, ready (.memfence i scope kind) s = some g ∧ g.paths = p :: rest ∧ votingLanes g i ≠ [] ∧ g.far = [] ∧ scope < 2 ∧ (2 ≤ kind → relHeld i scope g s = false) ∧ noMeet p (p.pc + 1)) ∧
    (∃ i : Iss, ∃ a : Sel, ∃ b : Sel, ∃ c : Sel, ∃ sectors : Nat, ∃ ctr : Nat, ∃ s : State, ∃ g : Group, let len := if c = .zero then 64 * sectors else (rdR g 0 c).toNat; ready (.cpAsync i a b c sectors ctr) s = some g ∧ votingLanes g i ≠ [] ∧ acqHeld g = false ∧ rdWide g 0 a 2 % 64 = 0 ∧ rdWide g 0 b 2 % 64 = 0 ∧ (windowCore g (rdWide g 0 a 2) s = some i.core ↔ windowCore g (rdWide g 0 b 2) s ≠ some i.core) ∧ len % 64 = 0 ∧ 64 ≤ len ∧ len ≤ 2097152 ∧ (coreOf i.core s).copies.length < 64) ∧
    (∃ core : Nat, ∃ slot : Nat, ∃ s : State, ∃ g : Group, ∃ f : FarReq, ∃ it : FarItem, ∃ bs : List Byte, ∃ rest : List FarReq, groupOf core slot s = some g ∧ g.wf ∧ g.far = f :: rest ∧ f.items = [it] ∧ it.got = some bs ∧ it.err = false ∧ f.acq ≠ 2 ∧ it.lane < 32 ∧ f.ret = true ∧ (∃ n, f.dst = .g n ∧ n + f.words ≤ 48) ∧ f.kind < 2) ∧
    (∃ core : Nat, ∃ id : Nat, ∃ sector : Nat, ∃ ext : Ext, ∃ s : State, ∃ cp : Copy, ∃ h : Nat, ∃ off : Nat, tabFind id (coreOf core s).copies = some cp ∧ cp.stopped = false ∧ (coreOf core s).fenced = false ∧ s.rreqs = [] ∧ (coreOf core s).held = [] ∧ sector ∉ cp.done ∧ sector < cp.len / 64 ∧ s.flawless ∧ Memory.wf s.mem.spad = true ∧ tabWf 0 (coreOf core s).ctr = true ∧ keysFrom 0 s.cores = true ∧ cp.src + 64 * sector < 2 ^ 48 ∧ cp.dst + 64 * sector < 2 ^ 48 ∧ locate cp.cdom (seatMapOf cp.cmd s) (cp.src + 64 * sector) s = .host h ∧ locate cp.cdom (seatMapOf cp.cmd s) (cp.dst + 64 * sector) s = .spad core off ∧ (∀ (c : Cmd), cmdOf cp.cmd s = some c → c.guarNow = false) ∧ s.host.lost = false ∧ ext.err = 0 ∧ ext.data.length = 64) :=
  ⟨⟨i0, 1, 3, live (grp (.memfence i0 1 3)), grp (.memfence i0 1 3), path0, [], by (repeat' apply And.intro) <;> decide +kernel⟩,
   ⟨i0, .u 6, .u 8, .zero, 32768, 0, live gCp, gCp, by (repeat' apply And.intro) <;> decide +kernel⟩,
   ⟨0, 0, live farNop, farNop, far1, ⟨31, 0x40, .mem 0x40 true false, 16, some (List.replicate 16 0xAB), false⟩, List.replicate 16 0xAB, [], by (repeat' apply And.intro) <;> first | exact ⟨44, rfl, by decide⟩ | decide +kernel⟩,
   ⟨0, 0, 1, ⟨List.replicate 64 7, 0⟩, copyState, copy1, 64, 64, by (repeat' apply And.intro) <;> first | exact opt_all (v := cmd1) (by decide +kernel) rfl | decide +kernel⟩⟩

/-! ### Coherence -/

/-- The device in service. -/
def on : State := { State.reset with dev := { State.reset.dev with state := 2, stage := .released } }
/-- The device in service with these entries of line 5. -/
def cohState (f : Coh → Coh) : State := { on with coh := f on.coh }
def dirShared : DirEntry := ⟨0, .shared, false, 3, some 1, 6, 0⟩
def dirOwned : DirEntry := ⟨0, .owned, false, 3, none, 2, 0⟩
def withDir (e : DirEntry) : State := cohState (fun c => { c with dir := [(5, e)] })
/-- Line 5 is shared and its first sector is in the home cache. -/
def sharedHome : State := cohState (fun c => { c with dir := [(5, dirShared)], home := [(5, { HLine.zero with valid := 255 })] })
def txn (m : HMsg) (w : List Nat) (g : Option Nat) : Txn := ⟨m, w, g, none, [], 0⟩
/-- Two transactions of host cores in the directory set of line 5. -/
def fullSet : Tab Txn := [(5 + 2048, txn (.own 17 0) [1] none), (5 + 2 * 2048, txn (.own 18 0) [1] none)]
/-- Sixteen other lines in the directory set of line 5. -/
def fullDir : State := cohState (fun c => { c with dir := (List.range 16).map (fun k => (5 + 2048 * (k + 1), { dirOwned with used := 20 - k })) })
/-- A Push of line 5 that waits for its owner's snoop. -/
def pushOpen : State := cohState (fun c => { c with open' := [(5, txn (.push 3 0 []) [1] none)] })
def wbuf1 : WBuf := ⟨0, 3, 1, 0, [(0, 9)]⟩
/-- Agent 1's writeback of line 5 meets this entry. -/
def wbState (e : DirEntry) : State := cohState (fun c => { c with dir := [(5, e)], wbuf := [(lineKey 1 5, wbuf1)] })
/-- Domain 0 is failing. -/
def failing0 : State := cohState (fun c => { c with failing := [0] })

theorem test_wit_HomeReadsAndOwn :
    (∃ a : Nat, ∃ line : Nat, ∃ mask : BitVec 8, ∃ c : Nat, ∃ s : State, served a line c s ∧ readsOpen line (.rds a mask.toNat c) s = true ∧ (dirOf line s).dstate = .inv ∧ victimOf line s = none) ∧
    (∃ a : Nat, ∃ line : Nat, ∃ mask : BitVec 8, ∃ c : Nat, ∃ s : State, ∃ v : Nat, served a line c s ∧ readsOpen line (.rds a mask.toNat c) s = true ∧ (dirOf line s).dstate = .inv ∧ victimOf line s = some v ∧ holders (dirOf v s) ≠ [] ∧ v ≠ line) ∧
    (∃ a : Nat, ∃ line : Nat, ∃ mask : BitVec 8, ∃ c : Nat, ∃ s : State, ∃ o : Nat, served a line c s ∧ readsOpen line (.rds a mask.toNat c) s = true ∧ (dirOf line s).dstate = .owned ∧ (dirOf line s).cdom = c ∧ (dirOf line s).presence = 2 ^ o ∧ o < 32 ∧ o ≠ a ∧ a < 32) ∧
    (∃ a : Nat, ∃ line : Nat, ∃ mask : BitVec 8, ∃ c : Nat, ∃ s : State, served a line c s ∧ readsOpen line (.rds a mask.toNat c) s = true ∧ (dirOf line s).dstate = .owned ∧ (dirOf line s).cdom = c ∧ (dirOf line s).presence = 2 ^ a ∧ a < 32) ∧
    (∃ a : Nat, ∃ line : Nat, ∃ mask : BitVec 8, ∃ c : Nat, ∃ s : State, ∃ f : Nat, served a line c s ∧ readsOpen line (.rds a mask.toNat c) s = true ∧ (dirOf line s).dstate = .shared ∧ (dirOf line s).cdom = c ∧ (dirOf line s).fwd = some f ∧ f ≠ a ∧ absent line mask.toNat s = 0) ∧
    (∃ a : Nat, ∃ line : Nat, ∃ mask : BitVec 8, ∃ c : Nat, ∃ s : State, served a line c s ∧ readsOpen line (.rds a mask.toNat c) s = true ∧ (dirOf line s).dstate = .shared ∧ (dirOf line s).cdom = c ∧ (dirOf line s).fwd = none ∧ a < 16) ∧
    (∃ a : Nat, ∃ line : Nat, ∃ mask : BitVec 8, ∃ c : Nat, ∃ s : State, ∃ f : Nat, served a line c s ∧ readsOpen line (.rds a mask.toNat c) s = true ∧ (dirOf line s).dstate = .shared ∧ (dirOf line s).cdom = c ∧ (dirOf line s).fwd = some f ∧ f ≠ a ∧ absent line mask.toNat s ≠ 0) ∧
    (∃ a : Nat, ∃ line : Nat, ∃ mask : BitVec 8, ∃ c : Nat, ∃ s : State, served a line c s ∧ readsOpen line (.rdn a mask.toNat c) s = true ∧ (dirOf line s).dstate = .inv) ∧
    (∃ a : Nat, ∃ line : Nat, ∃ mask : BitVec 8, ∃ c : Nat, ∃ s : State, ∃ o : Nat, served a line c s ∧ readsOpen line (.rdn a mask.toNat c) s = true ∧ (dirOf line s).dstate = .owned ∧ (dirOf line s).cdom = c ∧ (dirOf line s).presence = 2 ^ o ∧ o < 32) ∧
    (∃ a : Nat, ∃ line : Nat, ∃ c : Nat, ∃ s : State, served a line c s ∧ (dirOf line s).dstate = .shared ∧ (dirOf line s).cdom = c ∧ (∃ b, b < 32 ∧ b ≠ a ∧ bit (dirOf line s).presence b = true)) ∧
    (∃ a : Nat, ∃ line : Nat, ∃ c : Nat, ∃ s : State, served a line c s ∧ ((dirOf line s).dstate = .inv ∧ victimOf line s = none ∨
      (dirOf line s).dstate ≠ .inv ∧ (dirOf line s).cdom = c ∧ ∀ (b : Nat), b < 32 → bit (dirOf line s).presence b = true → b = a)) ∧
    (∃ a : Nat, ∃ line : Nat, ∃ s : State, ∃ x : Txn, agentFenced a s = false ∧ tabFind line s.coh.open' = some x) ∧
    (∃ a : Nat, ∃ line : Nat, ∃ c : Nat, ∃ s : State, agentFenced a s = false ∧ c ∉ s.coh.failing ∧ hasCredit line c s = true ∧ idleLine line s ∧ (dirOf line s).dstate = .inv ∧ creditsUsed line (agentClass a) s = creditCap (agentClass a)) ∧
    (∃ a : Nat, ∃ b : Nat, ∃ line : Nat, ∃ c : Nat, ∃ s : State, ∃ x : Txn, ∃ cells : List Cell, agentFenced a s = false ∧ tabFind line s.coh.open' = some x ∧ x.msg = .push b c cells ∧ b ≠ a) :=
  ⟨⟨1, 5, 1, 0, on, by (repeat' apply And.intro) <;> decide +kernel⟩,
   ⟨2, 5, 1, 0, fullDir, 32773, by (repeat' apply And.intro) <;> decide +kernel⟩,
   ⟨2, 5, 1, 0, withDir dirOwned, 1, by (repeat' apply And.intro) <;> decide +kernel⟩,
   ⟨1, 5, 1, 0, withDir dirOwned, by (repeat' apply And.intro) <;> decide +kernel⟩,
   ⟨3, 5, 1, 0, sharedHome, 1, by (repeat' apply And.intro) <;> decide +kernel⟩,
   ⟨3, 5, 1, 0, withDir { dirShared with fwd := none }, by (repeat' apply And.intro) <;> decide +kernel⟩,
   ⟨3, 5, 0x80, 0, withDir dirShared, 1, by (repeat' apply And.intro) <;> decide +kernel⟩,
   ⟨1, 5, 1, 0, on, by (repeat' apply And.intro) <;> decide +kernel⟩,
   ⟨1, 5, 1, 0, withDir dirOwned, 1, by (repeat' apply And.intro) <;> decide +kernel⟩,
   ⟨0, 5, 0, withDir dirShared, by (repeat' apply And.intro) <;> decide +kernel⟩,
   ⟨1, 5, 0, withDir dirOwned, by (repeat' apply And.intro) <;> decide +kernel⟩,
   ⟨0, 5, pushOpen, txn (.push 3 0 []) [1] none, by (repeat' apply And.intro) <;> decide +kernel⟩,
   ⟨16, 5, 0, cohState (fun c => { c with open' := fullSet }), by (repeat' apply And.intro) <;> decide +kernel⟩,
   ⟨0, 3, 5, 0, pushOpen, txn (.push 3 0 []) [1] none, [], by (repeat' apply And.intro) <;> decide +kernel⟩⟩

theorem test_wit_HomeWrites :
    (∃ a : Nat, ∃ line : Nat, ∃ c : Nat, ∃ s : State, served a line c s ∧ (dirOf line s).dstate = .inv ∧ keysFrom 0 s.coh.dir = true) ∧
    (∃ a : Nat, ∃ line : Nat, ∃ c : Nat, ∃ s : State, ∃ o : Nat, served a line c s ∧ (dirOf line s).dstate = .owned ∧ (dirOf line s).presence = 2 ^ o ∧ o < 32) ∧
    (∃ a : Nat, ∃ line : Nat, ∃ s : State, ∃ w : WBuf, agentFenced a s = false ∧ idleLine line s ∧ tabFind (lineKey a line) s.coh.wbuf = some w ∧ w.cdom ∉ s.coh.failing ∧ (dirOf line s).dstate = .owned ∧ (dirOf line s).presence = 2 ^ a ∧ a < 32 ∧ (dirOf line s).otag = w.otag ∧ keysFrom 0 s.coh.dir = true) ∧
    (∃ a : Nat, ∃ line : Nat, ∃ s : State, ∃ w : WBuf, agentFenced a s = false ∧ idleLine line s ∧ tabFind (lineKey a line) s.coh.wbuf = some w ∧ w.cdom ∉ s.coh.failing ∧ ((dirOf line s).dstate ≠ .owned ∨ bit (dirOf line s).presence a = false ∨ (dirOf line s).otag ≠ w.otag)) ∧
    (∃ a : Nat, ∃ line : Nat, ∃ s : State, agentFenced a s = false ∧ idleLine line s ∧ (dirOf line s).dstate ≠ .inv ∧ (dirOf line s).presence = 2 ^ a ∧ a < 32 ∧ keysFrom 0 s.coh.dir = true) ∧
    (∃ a : Nat, ∃ b : Nat, ∃ line : Nat, ∃ s : State, agentFenced a s = false ∧ idleLine line s ∧ (dirOf line s).dstate = .shared ∧ (dirOf line s).presence = 2 ^ a + 2 ^ b ∧ a ≠ b ∧ a < 32 ∧ b < 32 ∧ (dirOf line s).fwd = some a) ∧
    (∃ da : DirectAgent, ∃ addr : Nat, ∃ len : Nat, ∃ c : Nat, ∃ s : State, let line := addr / 512; let n := min len (512 - addr % 512); c ∉ s.coh.failing ∧ idleLine line s ∧ readsOpen line (.dread da (addr % 512) n c addr) s = true ∧ (dirOf line s).dstate ∈ [DState.inv, .shared] ∧ ((dirOf line s).dstate = .shared → (dirOf line s).fwd = none ∨ absent line (sectorsOf (addr % 512) n) s = 0)) ∧
    (∃ da : DirectAgent, ∃ addr : Nat, ∃ len : Nat, ∃ c : Nat, ∃ s : State, ∃ o : Nat, let line := addr / 512; let n := min len (512 - addr % 512); let m := HMsg.dread da (addr % 512) n c addr; c ∉ s.coh.failing ∧ idleLine line s ∧ readsOpen line m s = true ∧ creditsUsed line m.creditClass s < creditCap m.creditClass ∧ (dirOf line s).dstate = .owned ∧ (dirOf line s).presence = 2 ^ o ∧ o < 32) ∧
    (∃ c : Nat, ∃ s : State, c ∈ s.coh.failing) ∧
    (∃ addr : Nat, ∃ c : Nat, ∃ s : State, c ∉ s.coh.failing ∧ idleLine (addr / 512) s ∧ (dirOf (addr / 512) s).dstate = .inv ∧ keysFrom 0 s.coh.dir = true) ∧
    (∃ da : DirectAgent, ∃ addr : Nat, ∃ c : Nat, ∃ bytes : List Byte, ∃ s : State, ∃ o : Nat, let line := addr / 512; let m := HMsg.dwrite da c ((cellsOf (addr % 512) bytes).filter (fun x => decide (x.1 < 512))); c ∉ s.coh.failing ∧ idleLine line s ∧ creditsUsed line m.creditClass s < creditCap m.creditClass ∧ (dirOf line s).dstate = .owned ∧ (dirOf line s).presence = 2 ^ o ∧ o < 32) :=
  ⟨⟨31, 5, 0, on, by (repeat' apply And.intro) <;> decide +kernel⟩,
   ⟨31, 5, 0, withDir dirOwned, 1, by (repeat' apply And.intro) <;> decide +kernel⟩,
   ⟨1, 5, wbState dirOwned, wbuf1, by (repeat' apply And.intro) <;> decide +kernel⟩,
   ⟨1, 5, wbState dirShared, wbuf1, by (repeat' apply And.intro) <;> decide +kernel⟩,
   ⟨1, 5, withDir dirOwned, by (repeat' apply And.intro) <;> decide +kernel⟩,
   ⟨1, 2, 5, withDir dirShared, by (repeat' apply And.intro) <;> decide +kernel⟩,
   ⟨.link 17, 2600, 100, 0, on, by (repeat' apply And.intro) <;> decide +kernel⟩,
   ⟨.link 17, 2600, 100, 0, withDir dirOwned, 1, by (repeat' apply And.intro) <;> decide +kernel⟩,
   ⟨0, failing0, by (repeat' apply And.intro) <;> decide +kernel⟩,
   ⟨2600, 0, on, by (repeat' apply And.intro) <;> decide +kernel⟩,
   ⟨.link 17, 2600, 0, List.replicate 8 7, withDir dirOwned, 1, by (repeat' apply And.intro) <;> decide +kernel⟩⟩

/-- A half's register of line 5, with a Tier F read on its way. -/
def miss1 : Miss := ⟨0, 1, 0, false, false, 1, false, false, [], []⟩
/-- A register whose store waits for its grant. -/
def missW : Miss := ⟨0, 0, 0, true, false, 0, false, false, [(0, 7)], []⟩
def missP : Miss := ⟨0, 0, 0, false, true, 0, false, false, [], []⟩
def cline1 (st : LState) : CLine := ⟨st, 0, 0, 3, 255, 1, 0, [(0, 9)], 0⟩
def netState (m : NMsg) (f : Coh → Coh) : State := cohState (fun c => f { c with net := [m] })
def withMiss (m : NMsg) (x : Miss) : State := netState m (fun c => { c with miss := [(lineKey 1 5, x)] })
def withLine (m : NMsg) (a : Nat) (x : CLine) : State := netState m (fun c => { c with lines := [(lineKey a 5, x)] })

theorem test_wit_AgentMessages :
    (∃ a : Nat, ∃ line : Nat, ∃ mask : Nat, ∃ tag : Nat, ∃ cells : List Cell, ∃ p : Nat, ∃ rest : List NMsg, ∃ s : State, ∃ m : Miss, s.coh.net = .data a line mask (some .E) tag cells p :: rest ∧ missOf a line s = some m ∧ m.fill ≠ 0 ∧ m.own = false ∧ m.push = false ∧ m.cells = [] ∧ clineOf a line s = none ∧ mayRequest a line s = true ∧ (roomFor a line m.cdom false s).isSome = true ∧ (m.mask ||| m.nmask) &&& mask = m.mask ||| m.nmask ∧ m.mask < 256 ∧ m.nmask < 256 ∧ keysFrom 0 s.coh.miss = true) ∧
    (∃ a : Nat, ∃ line : Nat, ∃ mask : Nat, ∃ tag : Nat, ∃ cells : List Cell, ∃ p : Nat, ∃ rest : List NMsg, ∃ s : State, ∃ m : Miss, ∃ c : CLine, s.coh.net = .data a line mask none tag cells p :: rest ∧ missOf a line s = some m ∧ m.fill ≠ 0 ∧ m.own = false ∧ m.push = false ∧ m.cells = [] ∧ clineOf a line s = some c ∧ c.cdom = m.cdom ∧ c.st ≠ .N ∧ mayRequest a line s = true ∧ s.mem.tags = []) ∧
    (∃ a : Nat, ∃ line : Nat, ∃ tag : Nat, ∃ rest : List NMsg, ∃ s : State, ∃ m : Miss, s.coh.net = .grant a line tag :: rest ∧ missOf a line s = some m ∧ m.own = true ∧ m.push = false ∧ m.fill = 0 ∧ m.cells ≠ [] ∧ clineOf a line s = none ∧ mayRequest a line s = true ∧ (roomFor a line m.cdom false s).isSome = true ∧ s.flawless ∧ keysFrom 0 s.coh.miss = true) ∧
    (∃ a : Nat, ∃ line : Nat, ∃ rest : List NMsg, ∃ s : State, ∃ m : Miss, s.coh.net = .pushreq a line :: rest ∧ missOf a line s = some m ∧ keysFrom 0 s.coh.lines = true) ∧
    (∃ a : Nat, ∃ line : Nat, ∃ rest : List NMsg, ∃ s : State, ∃ m : Miss, s.coh.net = .pushack a line :: rest ∧ missOf a line s = some m ∧ m.push = true ∧ m.own = false ∧ m.fill = 0 ∧ m.mask = 0 ∧ m.nmask = 0 ∧ clineOf a line s = none ∧ mayRequest a line s = true ∧ keysFrom 0 s.coh.miss = true) ∧
    (∃ a : Nat, ∃ line : Nat, ∃ rest : List NMsg, ∃ s : State, ∃ c : CLine, s.coh.net = .snpinv a line :: rest ∧ clineOf a line s = some c ∧ c.st = .M ∧ s.flawless ∧ keysFrom 0 s.coh.lines = true) ∧
    (∃ a : Nat, ∃ line : Nat, ∃ rest : List NMsg, ∃ s : State, ∃ c : CLine, s.coh.net = .snpinv a line :: rest ∧ clineOf a line s = some c ∧ c.st ≠ .M ∧ c.st ≠ .N ∧ s.flt.injs = [] ∧ keysFrom 0 s.coh.lines = true) ∧
    (∃ a : Nat, ∃ line : Nat, ∃ rest : List NMsg, ∃ s : State, ∃ w : WBuf, s.coh.net = .snpinv a line :: rest ∧ clineOf a line s = none ∧ tabFind (lineKey a line) s.coh.wbuf = some w ∧ s.flt.injs = []) ∧
    (∃ a : Nat, ∃ line : Nat, ∃ rest : List NMsg, ∃ s : State, ∃ c : CLine, s.coh.net = .snpshr a line :: rest ∧ clineOf a line s = some c ∧ c.st = .M ∧ s.flawless) ∧
    (∃ a : Nat, ∃ line : Nat, ∃ rest : List NMsg, ∃ s : State, ∃ c : CLine, s.coh.net = .snpcur a line :: rest ∧ clineOf a line s = some c ∧ c.st = .M ∧ s.flawless) ∧
    (∃ a : Nat, ∃ line : Nat, ∃ mask : Nat, ∃ rest : List NMsg, ∃ s : State, ∃ c : CLine, s.coh.net = .snpfwd a line mask :: rest ∧ clineOf a line s = some c ∧ c.st = .F ∧ c.pois = 0 ∧ s.flawless) ∧
    (∃ a : Nat, ∃ line : Nat, ∃ ok : Bool, ∃ rest : List NMsg, ∃ s : State, s.coh.net = .wback a line ok :: rest ∧ missOf a line s = none ∧ keysFrom 0 s.coh.wbuf = true) :=
  ⟨⟨1, 5, 1, 4, [], 0, [], withMiss (.data 1 5 1 (some .E) 4 [] 0) miss1, miss1, by (repeat' apply And.intro) <;> decide +kernel⟩,
   ⟨1, 5, 1, 4, [], 0, [], netState (.data 1 5 1 none 4 [] 0) (fun c => { c with miss := [(lineKey 1 5, miss1)], lines := [(lineKey 1 5, cline1 .M)] }), miss1, cline1 .M, by (repeat' apply And.intro) <;> decide +kernel⟩,
   ⟨1, 5, 4, [], withMiss (.grant 1 5 4) missW, missW, by (repeat' apply And.intro) <;> decide +kernel⟩,
   ⟨1, 5, [], withMiss (.pushreq 1 5) missW, missW, by (repeat' apply And.intro) <;> decide +kernel⟩,
   ⟨1, 5, [], withMiss (.pushack 1 5) missP, missP, by (repeat' apply And.intro) <;> decide +kernel⟩,
   ⟨16, 5, [], withLine (.snpinv 16 5) 16 (cline1 .M), cline1 .M, by (repeat' apply And.intro) <;> decide +kernel⟩,
   ⟨16, 5, [], withLine (.snpinv 16 5) 16 (cline1 .S), cline1 .S, by (repeat' apply And.intro) <;> decide +kernel⟩,
   ⟨1, 5, [], netState (.snpinv 1 5) (fun c => { c with wbuf := [(lineKey 1 5, wbuf1)] }), wbuf1, by (repeat' apply And.intro) <;> decide +kernel⟩,
   ⟨15, 5, [], withLine (.snpshr 15 5) 15 (cline1 .M), cline1 .M, by (repeat' apply And.intro) <;> decide +kernel⟩,
   ⟨15, 5, [], withLine (.snpcur 15 5) 15 (cline1 .M), cline1 .M, by (repeat' apply And.intro) <;> decide +kernel⟩,
   ⟨15, 5, 255, [], withLine (.snpfwd 15 5 255) 15 (cline1 .F), cline1 .F, by (repeat' apply And.intro) <;> decide +kernel⟩,
   ⟨1, 5, true, [], netState (.wback 1 5 true) (fun c => { c with wbuf := [(lineKey 1 5, wbuf1)] }), by (repeat' apply And.intro) <;> decide +kernel⟩⟩

def atom1 : AtomReq := ⟨.thread 0 0 0 0, 0, 0xA00, 0, 0, 8, 1, 0, 0, 0⟩
def atomState (q : AtomReq) : State := cohState (fun c => { c with atoms := [(5, [q])], home := [(5, { HLine.zero with valid := 1, dirty := 1, data := [(0, 9)] })] })
def ownTxn : Txn := txn (.own 3 0) [1, 2] none
def rdsTxn : Txn := txn (.rds 3 1 0) [1] none
def grantTxn : Txn := txn (.own 1 0) [] (some 1)
/-- A store of core 0's slot 0 waits in agent 1's register. -/
def storeMiss : Miss := { missW with by' := [(0, 0, 0, 0, 0x40)] }
def errState : State := { live (grp (.nop i0)) with coh := { on.coh with net := [.error 1 5], miss := [(lineKey 1 5, storeMiss)] } }

theorem test_wit_HomeMessages :
    (∃ a : Nat, ∃ b : Nat, ∃ line : Nat, ∃ rest : List NMsg, ∃ s : State, ∃ x : Txn, s.coh.net = .sresp a line 0 0 [] 0 false :: rest ∧ tabFind line s.coh.open' = some x ∧ x.waits = [a, b]) ∧
    (∃ a : Nat, ∃ r : Nat, ∃ line : Nat, ∃ mask : Nat, ∃ c : Nat, ∃ rest : List NMsg, ∃ s : State, ∃ x : Txn, s.coh.net = .sresp a line 0 0 [] 0 false :: rest ∧ tabFind line s.coh.open' = some x ∧ x.waits = [a] ∧ x.msg = .rds r mask c ∧ x.evictFor = none ∧ x.fwd = [] ∧ (dirOf line s).dstate = .owned ∧ (dirOf line s).cdom = c ∧ (dirOf line s).presence = 2 ^ a ∧ a < 16 ∧ r ≠ a ∧ r < 32 ∧ s.coh.queue.all (fun e => !sameDirSet e.1 line) = true ∧ s.coh.bar4 = []) ∧
    (∃ a : Nat, ∃ line : Nat, ∃ rest : List NMsg, ∃ s : State, ∃ x : Txn, s.coh.net = .grantack a line :: rest ∧ tabFind line s.coh.open' = some x ∧ x.grantee = some a ∧ s.coh.queue.all (fun e => !sameDirSet e.1 line) = true ∧ s.coh.bar4 = [] ∧ s.flt.injs = [] ∧ keysFrom 0 s.coh.open' = true ∧ (dirOf line s).dstate = .owned) ∧
    (∃ a : Nat, ∃ line : Nat, ∃ rest : List NMsg, ∃ s : State, s.coh.net = .grantack a line :: rest ∧ tabFind line s.coh.open' = none ∧ s.coh.queue = [] ∧ s.coh.bar4 = [] ∧ s.flt.injs = [] ∧ (dirOf line s).dstate ≠ .inv ∧ (dirOf line s).cdom ∉ s.coh.failing) ∧
    (∃ a : Nat, ∃ line : Nat, ∃ mask : BitVec 8, ∃ c : Nat, ∃ bytes : List Cell, ∃ s : State, agentFenced a s = false ∧ idleLine line s ∧ c ∈ s.coh.failing) ∧
    (∃ a : Nat, ∃ line : Nat, ∃ rest : List NMsg, ∃ s : State, s.coh.net = .error a line :: rest ∧ (∀ (m : Miss), missOf a line s = some m → m.by' = []) ∧ keysFrom 0 s.coh.miss = true ∧ keysFrom 0 s.coh.wbuf = true) ∧
    (∃ a : Nat, ∃ line : Nat, ∃ rest : List NMsg, ∃ s : State, ∃ m : Miss, ∃ core : Nat, ∃ slot : Nat, ∃ pc : Nat, ∃ lane : Nat, ∃ addr : Nat, ∃ g : Group, ∃ c : Cmd, s.coh.net = .error a line :: rest ∧ missOf a line s = some m ∧ m.by' = [(core, slot, pc, lane, addr)] ∧ groupOf core slot s = some g ∧ g.park = none ∧ cmdOf g.cmd s = some c ∧ c.guarNow = false ∧ c.park = none) ∧
    (∃ line : Nat, ∃ s : State, ∃ q : AtomReq, tabGet [] line s.coh.atoms = [q] ∧ atomOpen line q s = true ∧ s.coh.queue.all (fun e => !sameDirSet e.1 line) = true ∧ s.coh.bar4 = [] ∧ q.cdom ∉ s.coh.failing ∧ q.kind = 0 ∧ q.aop = 0 ∧ q.len = 8 ∧ q.dpa / 512 = line ∧ q.dpa % 8 = 0 ∧ (dirOf line s).dstate = .inv ∧ s.flawless ∧ fencedAt q.dpa s = false ∧ (homeAt q.dpa 8 s).2.1 = true ∧ keysFrom 0 s.coh.atoms = true ∧ Memory.wf s.mem.dram = true ∧ Memory.wf (hlineOf line s).data = true) ∧
    (∃ line : Nat, ∃ s : State, ∃ q : AtomReq, ∃ rest : List AtomReq, tabGet [] line s.coh.atoms = q :: rest ∧ 0 < q.after) :=
  ⟨⟨1, 2, 5, [], netState (.sresp 1 5 0 0 [] 0 false) (fun c => { c with open' := [(5, ownTxn)] }), ownTxn, by (repeat' apply And.intro) <;> decide +kernel⟩,
   ⟨1, 3, 5, 1, 0, [], netState (.sresp 1 5 0 0 [] 0 false) (fun c => { c with open' := [(5, rdsTxn)], dir := [(5, dirOwned)] }), rdsTxn, by (repeat' apply And.intro) <;> decide +kernel⟩,
   ⟨1, 5, [], netState (.grantack 1 5) (fun c => { c with open' := [(5, grantTxn)], dir := [(5, dirOwned)] }), grantTxn, by (repeat' apply And.intro) <;> decide +kernel⟩,
   ⟨1, 5, [], netState (.grantack 1 5) (fun c => { c with dir := [(5, dirOwned)] }), by (repeat' apply And.intro) <;> decide +kernel⟩,
   ⟨1, 5, 1, 0, [], failing0, by (repeat' apply And.intro) <;> decide +kernel⟩,
   ⟨1, 5, [], netState (.error 1 5) id, by (repeat' apply And.intro) <;> first | exact opt_none (by decide +kernel) | decide +kernel⟩,
   ⟨1, 5, [], errState, storeMiss, 0, 0, 0, 0, 0x40, grp (.nop i0), cmd1, by (repeat' apply And.intro) <;> decide +kernel⟩,
   ⟨5, atomState atom1, atom1, by (repeat' apply And.intro) <;> decide +kernel⟩,
   ⟨5, atomState { atom1 with after := 1 }, { atom1 with after := 1 }, [], by (repeat' apply And.intro) <;> decide +kernel⟩⟩

def dirE : State := cohState (fun c => { c with dir := [(5, { dirOwned with presence := 2 ^ 16 })], lines := [(lineKey 16 5, cline1 .E)] })

theorem test_wit_EvictClearsPresence :
    (∃ a : Nat, ∃ line : Nat, ∃ s : State, a < 32 ∧ agentFenced a s = false ∧ idleLine line s ∧ keysFrom 0 s.coh.dir = true) ∧
    (∃ a : Nat, ∃ line : Nat, ∃ s : State, a < 32 ∧ agentFenced a s = false ∧ idleLine line s ∧ keysFrom 0 s.coh.dir = true) :=
  ⟨⟨1, 5, withDir dirShared, by (repeat' apply And.intro) <;> decide +kernel⟩,
   ⟨16, 5, dirE, by (repeat' apply And.intro) <;> decide +kernel⟩⟩

/-! ### Memory controllers -/

def memState (f : Mem → Mem) : State := { on with mem := f on.mem }
def calib40 : State := setChan (dpaChan 40) { Chan.zero with calib := true } on
/-- A word whose check bits no double error explains. -/
def lost40 : State := setTag (dramKey 40) ⟨false, 7⟩ on
def flip64 : State := setTag (dramKey 64) ⟨false, 1⟩ on
def home320 : State := setTag (homeKey 320) ⟨false, 3⟩ (cohState (fun c => { c with home := [(5, { HLine.zero with valid := 1, dirty := 1, data := [(0, 9)] })] }))

theorem test_wit_ReadReturns :
    (∃ word : Nat, ∃ s : State, (chanOf (dpaChan (8 * word)) s).calib = false ∧ bit (hlineOf (word / 64) s).valid (word % 64) = false ∧ fencedAt (8 * word) s = false ∧ 8 * word < 0x4000000000 ∧ tagOf (dramKey (8 * word)) s = ⟨false, 0⟩) ∧
    (∃ src : Nat, ∃ word : Nat, ∃ s : State, (src = 1 ∨ src = 2) ∧ memFilled s = true ∧ (chanOf (dpaChan (8 * word)) s).calib = true) ∧
    (∃ word : Nat, ∃ s : State, memFilled s = true ∧ (chanOf (dpaChan (8 * word)) s).calib = false ∧ bit (hlineOf (word / 64) s).valid (word % 64) = false ∧ fencedAt (8 * word) s = false ∧ (∀ e ∈ homeSet (word / 64) s, e.2.dirty = 0) ∧ 8 * word < 0x4000000000 ∧ (rawWord (8 * word) s).n = 3 ∧ rescue word s = none ∧ s.flt.merges = [] ∧ logCount s.flt.log < 4095 ∧ s.flt.injs = []) ∧
    (∃ src : Nat, ∃ s : State, src ≤ 3 ∧ memFilled s = false) :=
  ⟨⟨5, on, by (repeat' apply And.intro) <;> decide +kernel⟩,
   ⟨1, 5, calib40, by (repeat' apply And.intro) <;> decide +kernel⟩,
   ⟨5, lost40, by (repeat' apply And.intro) <;> decide +kernel⟩,
   ⟨1, State.reset, by (repeat' apply And.intro) <;> decide +kernel⟩⟩

theorem test_wit_ControllerWrites :
    (∃ w : Nat, ∃ cells : List Cell, ∃ rest : List (Nat × List Cell), ∃ s : State, s.mem.rmw = (w, cells) :: rest ∧ 8 * w < 0xA000000000 ∧ (chanOf (dpaChan (8 * w)) s).calib = false ∧ tagOf (dramKey (8 * w)) s = ⟨false, 0⟩ ∧ s.flt.injs = [] ∧ Memory.wf s.mem.dram = true) ∧
    (∃ dpa : Nat, ∃ s : State, s.flt.injs = [] ∧ (chanOf (dpaChan dpa) s).calib = false ∧ (chanOf (dpaChan dpa) s).retries = [] ∧ s.flt.merges = [] ∧ logCount s.flt.log < 4095) ∧
    (∃ dpa : Nat, ∃ s : State, s.flt.injs = [] ∧ (chanOf (dpaChan dpa) s).calib = false ∧ rescue (dpa / 8) s = none) ∧
    (∃ dpa : Nat, ∃ s : State, dpa < 0xA000000000 ∧ (∀ (i : Nat), i < 8 → (rawWord (8 * (dpa / 64 * 8 + i)) s).n = 0)) ∧
    (∃ dpa : Nat, ∃ i : Nat, ∃ s : State, dpa < 0xA000000000 ∧ (chanOf (dpaChan dpa) s).calib = false ∧ i < 8 ∧ ((rawWord (8 * (dpa / 64 * 8 + i)) s).n = 1 ∨ (rawWord (8 * (dpa / 64 * 8 + i)) s).n = 2) ∧ (∀ (j : Nat), j < 8 → j ≠ i → (rawWord (8 * (dpa / 64 * 8 + j)) s).n = 0) ∧ s.flt.injs = [] ∧ Memory.wf s.mem.dram = true ∧ tabWf ⟨false, 0⟩ s.mem.tags = true ∧ (rawWord (8 * (dpa / 64 * 8 + i)) s).p = false ∧ (rawWord (8 * (dpa / 64 * 8 + i)) s).data < 2 ^ 64) ∧
    (∃ word : Nat, ∃ s : State, let d := decodeEcc (leNat (memRead (hlineOf (word / 64) s).data (word % 64 * 8) 8)) (tagOf (homeKey word) s); bit (hlineOf (word / 64) s).valid (word % 64) = true ∧ (d.n = 1 ∨ d.n = 2) ∧ d.p = false ∧ d.data < 2 ^ 64 ∧ Memory.wf (hlineOf (word / 64) s).data = true ∧ tabWf ⟨false, 0⟩ s.mem.tags = true) :=
  ⟨⟨5, [(0, 9)], [], memState (fun m => { m with rmw := [(5, [(0, 9)])] }), by (repeat' apply And.intro) <;> decide +kernel⟩,
   ⟨40, on, by (repeat' apply And.intro) <;> decide +kernel⟩,
   ⟨40, on, by (repeat' apply And.intro) <;> decide +kernel⟩,
   ⟨64, on, by (repeat' apply And.intro) <;> decide +kernel⟩,
   ⟨64, 0, flip64, by (repeat' apply And.intro) <;> decide +kernel⟩,
   ⟨320, home320, by (repeat' apply And.intro) <;> decide +kernel⟩⟩

/-- A shell whose range 0 is mirrored from channel 0 to channel 1. -/
def mirrorRange : Range := { range0 with mset := 1, frames := 1 }
def set1 : ChSet := ⟨[1], 0, 4, 0⟩
def mirrorShell : Shell := { shell1 with comp := { comp1 with sets := [(0, set0), (1, set1)] }, ranges := [(0, mirrorRange)], mirrors := [⟨0, [], none⟩] }
def mirrorState : State := { on with shells := [(1, mirrorShell)] }
def clear87 : State := setChan 87 { Chan.zero with clearing := true } on
def hcl : HLine := { HLine.zero with valid := 1, data := [(0, 9)] }

theorem test_wit_MemoryJobs :
    (∃ cdom : Nat, ∃ range : Nat, ∃ line : Nat, ∃ s : State, ∃ sh : Shell, ∃ b : MirrorBuild, ∃ r : Range, ∃ st : ChSet, ∃ ms : ChSet, shellOf cdom s = some sh ∧ sh.mirrors = [b] ∧ b.range = range ∧ tabFind range sh.ranges = some r ∧ r.mirrorLost = false ∧ r.mirror = false ∧ r.frame0 * 4096 ≤ line ∧ line < r.frame0 * 4096 + r.frames * 4096 ∧ b.done = [] ∧ 1 ≤ r.frames ∧ (∀ (st ms : ChSet), setOf sh r.set = some st → setOf sh r.mset = some ms → (chanOf (dpaChan (setLineDpa st line)) s).calib = false ∧ (chanOf (dpaChan (setLineDpa ms line)) s).calib = false) ∧ setOf sh r.set = some st ∧ setOf sh r.mset = some ms ∧ s.flawless ∧ Memory.wf s.mem.dram = true ∧ (∀ (i : Nat), i < 64 → (homeRead (setLineDpa st line + 8 * i) 8 s).2.1 = true) ∧ (∀ (i : Nat), i < 64 → (homeDec (setLineDpa st line / 8 + i) s).2.good = true) ∧ (∀ (i : Nat), i < 64 → fencedAt (8 * (setLineDpa st line / 8 + i)) s = false) ∧ setLineDpa st line / 512 ≠ setLineDpa ms line / 512) ∧
    (∃ ch : Nat, ∃ s : State, ch < 88 ∧ (chanOf ch s).clearing = true ∧ s.shells = [] ∧ keysFrom 0 s.mem.chans = true) ∧
    (∃ line : Nat, ∃ h : HLine, ∃ s : State, s.coh.home = [(line, h)] ∧ h.dirty = 0 ∧ pinned line s = false) ∧
    (∃ h : Nat, ∃ line : Nat, ∃ c : CLine, ∃ s : State, line < 2 ^ 40 ∧ s.coh.lines = [(lineKey h line, c)] ∧ c.st = .S) ∧
    (∃ c : Nat, ∃ s : State, s.dev.cals = [.trainF c] ∧ s.mem.held = [] ∧ s.coh.queue = [] ∧ s.coh.bar4 = [] ∧ keysFrom 0 s.mem.chans = true) ∧
    (∃ core : Nat, ∃ slot : Nat, ∃ s : State, ∃ g : Group, groupOf core slot s = some g) :=
  ⟨⟨1, 0, 4095, mirrorState, mirrorShell, ⟨0, [], none⟩, mirrorRange, set0, set1, by (repeat' apply And.intro) <;> first | exact fun st ms h1 h2 => by cases h1; cases h2; decide +kernel | decide +kernel⟩,
   ⟨87, clear87, by (repeat' apply And.intro) <;> decide +kernel⟩,
   ⟨5, hcl, cohState (fun c => { c with home := [(5, hcl)] }), by (repeat' apply And.intro) <;> decide +kernel⟩,
   ⟨1, 5, cline1 .S, cohState (fun c => { c with lines := [(lineKey 1 5, cline1 .S)] }), by (repeat' apply And.intro) <;> decide +kernel⟩,
   ⟨63, { on with dev := { on.dev with cals := [.trainF 63] } }, by (repeat' apply And.intro) <;> decide +kernel⟩,
   ⟨0, 0, live (grp (.nop i0)), grp (.nop i0), by (repeat' apply And.intro) <;> decide +kernel⟩⟩

end Sys2Proof.Tests
end

