-- ==== Sys2Proof/Tests/Wit3.lean ====
section
/-! SUPPORT. States and operands that meet the hypotheses of the statements about strokes, commands and stations. -/
set_option Elab.async false

namespace Sys2Proof.Tests
open Sys2Proof Sys2Proof.Machine

/-! ### Strokes and commands -/

/-- The reset state with the stroke timer running in a phase. -/
def inPhase (p : Phase) (s : State) : State := { s with stroke := { s.stroke with running := true, phase := p, count := 2 ^ 48 - 1 } }

theorem test_wit_StrokePhases :
    (∃ s : State, s.stroke.running = true ∧ s.stroke.phase = .recovery) ∧
    (∃ s : State, s.stroke.running = true ∧ s.stroke.phase = .catch') ∧
    (∃ s : State, s.stroke.running = true ∧ s.stroke.phase = .drive) ∧
    (∃ s : State, s.stroke.running = true ∧ s.stroke.phase = .finish) ∧
    (∃ s : State, (s.stroke.running = false ∨ s.stroke.phase ≠ .recovery)) ∧
    (∃ s : State, (s.stroke.running = false ∨ s.stroke.phase ≠ .recovery)) ∧
    (∃ s : State, (s.stroke.running = false ∨ s.stroke.phase ≠ .catch')) ∧
    (∃ s : State, (s.stroke.running = false ∨ s.stroke.phase ≠ .drive)) ∧
    (∃ s : State, (s.stroke.running = false ∨ s.stroke.phase ≠ .finish)) :=
  ⟨⟨inPhase .recovery State.reset, by (repeat' apply And.intro) <;> decide +kernel⟩,
   ⟨inPhase .catch' State.reset, by (repeat' apply And.intro) <;> decide +kernel⟩,
   ⟨inPhase .drive State.reset, by (repeat' apply And.intro) <;> decide +kernel⟩,
   ⟨inPhase .finish State.reset, by (repeat' apply And.intro) <;> decide +kernel⟩,
   ⟨State.reset, by (repeat' apply And.intro) <;> decide +kernel⟩,
   ⟨inPhase .drive State.reset, by (repeat' apply And.intro) <;> decide +kernel⟩,
   ⟨inPhase .drive State.reset, by (repeat' apply And.intro) <;> decide +kernel⟩,
   ⟨inPhase .catch' State.reset, by (repeat' apply And.intro) <;> decide +kernel⟩,
   ⟨inPhase .recovery State.reset, by (repeat' apply And.intro) <;> decide +kernel⟩⟩

/-- A guaranteed command whose window ends at the last stroke count. -/
def missed : Cmd := { cmd1 with guarNow := true, be := false, started := false, winEnd := 2 ^ 48 - 1 }
def missedState : State := { inPhase .drive State.reset with cmds := [(1, missed)], qps := [(0, qp0)] }
def ctx1 : Ctx := ⟨[(2 ^ 21 - 1, 7)], [], [(3, 9)], [(0, grp (.nop i0))], [], false⟩
/-- Core 5 awaits the context of seat 2 of shell 1. -/
def ctxState (x : Ctx) : State := { on with cores := [(5, { Core.zero with incoming := some (1, 2), ctxs := [(ctxKey 1 2, x)] })] }
/-- Shell 1 with three sliced seats, whose contexts lie in set 0. -/
def slicedShell : Shell := { shell1 with comp := { comp1 with seats := [⟨0, true, 4, true⟩, ⟨1, true, 4, true⟩, ⟨5, true, 4, true⟩] } }
def ctxMem : State := { ctxState { ctx1 with inMem := true, spad := [] } with shells := [(1, slicedShell)] }
def outNode : Node := ⟨0x51, 0, 0, 0, 0xFFFF, 1, 0, 0, 0, 0⟩
def outRg : RegGraph := { rgraph1 with graph := { graph1 with nodes := [outNode], steps := [⟨0, 1, 0, 0, none⟩] } }
def outCmd : Cmd := { cmd1 with inSeg := false, seats := [(0, { SeatRun.zero with part := [(0, 1)] })] }
def outState : State := { live (grp (.nop i0)) with cmds := [(1, outCmd)], graphs := [(65537, outRg)] }
/-- A command with one seat in this state. -/
def seatCmd (c : Cmd) (q : SeatRun) : Cmd := { c with seats := [(0, q)] }
def fbCmd : Cmd := seatCmd { cmd1 with substPending := true } { SeatRun.zero with held := true }
def stopCmd : Cmd := seatCmd { cmd1 with stop := 1 } { SeatRun.zero with stopped := true }
def withCmd (c : Cmd) : State := { live (grp (.nop i0)) with cmds := [(1, c)] }
def oneStep : RegGraph := { rgraph1 with graph := { graph1 with nodes := [], steps := [⟨0, 0, 0, 0, none⟩] } }
def stepCmd : Cmd := { cmd1 with inSeg := false }
def stepState : State := { withCmd stepCmd with graphs := [(65537, oneStep)], qps := [(0, qp0)] }
def segState : State := { live (grp (.nop i0)) with cores := [(0, { Core.zero with holder := some (1, 0) })] }

theorem test_wit_CommandLives :
    (∃ s : State, ∃ n : Nat, ∃ c : Cmd, ∃ p : QPair, s.stroke.running = true ∧ s.stroke.phase = .drive ∧ s.cmds = [(n, c)] ∧ c.guarNow = true ∧ c.winEnd = s.stroke.count ∧ c.started = false ∧ c.late = false ∧ tabFind c.q s.qps = some p ∧ s.flt.injs = [] ∧ s.flt.sampled = []) ∧
    (∃ core : Nat, ∃ d : Nat, ∃ seat : Nat, ∃ x : Ctx, ∃ s : State, (coreOf core s).incoming = some (d, seat) ∧ (coreOf core s).saving = false ∧ tabFind (ctxKey d seat) (coreOf core s).ctxs = some x ∧ (∀ e ∈ s.cmds, e.2.st = .queued) ∧ s.flt.watch = false ∧ s.flt.injs = [] ∧ s.flt.sampled = [] ∧ Memory.wf s.mem.spad = true ∧ (∀ (off : Nat), off < 2 ^ 21 → memGet s.mem.spad (spadIx core off) = 0) ∧ x.inMem = false ∧ Memory.wf x.spad = true ∧ (∀ e ∈ x.spad, e.1 < 2 ^ 21)) ∧
    (∃ core : Nat, ∃ d : Nat, ∃ seat : Nat, ∃ x : Ctx, ∃ s : State, ∃ p : CtxPlace, (coreOf core s).incoming = some (d, seat) ∧ (coreOf core s).saving = false ∧ tabFind (ctxKey d seat) (coreOf core s).ctxs = some x ∧ (∀ e ∈ s.cmds, e.2.st = .queued) ∧ s.flt.watch = false ∧ s.flt.injs = [] ∧ s.flt.sampled = [] ∧ Memory.wf s.mem.spad = true ∧ (∀ (off : Nat), off < 2 ^ 21 → memGet s.mem.spad (spadIx core off) = 0) ∧ x.inMem = true ∧ seat < 1024 ∧ ctxPlace d seat s = some p) ∧
    (∃ core : Nat, ∃ s : State, ((coreOf core s).incoming = none ∨ (coreOf core s).saving = true)) ∧
    (∃ s : State, ∃ n : Nat, ∃ c : Cmd, ∃ rg : RegGraph, ∃ st : StepRec, ∃ r : Rep, s.cmds = [(n, c)] ∧ cmdGraph c s = some rg ∧ rg.graph.steps[c.step]? = some st ∧ st.n = 1 ∧ rg.graph.nodes[st.first]? = some r.nd ∧ r = ⟨n, c, rg, r.nd.seat, r.core, st.first, r.nd⟩ ∧ hasStatus r.nd.op = true ∧ cmdCore c r.nd.seat s = some r.core ∧ r.part ≠ 0 ∧ (coreOf r.core s).fenced = false) ∧
    (∃ s : State, ∃ n : Nat, ∃ c : Cmd, s.cmds = [(n, c)] ∧ c.substPending = true ∧ allHeld c s = true ∧ c.inl = [] ∧ (∀ e ∈ c.seats, e.2.part = [])) ∧
    (∃ s : State, ∃ n : Nat, ∃ c : Cmd, ∃ core : Nat, ∃ seat : Nat, ∃ q : SeatRun, s.cmds = [(n, c)] ∧ placesOf c s = [(0, seat, core)] ∧ tabFind 0 c.seats = some q ∧ q.stopped = true ∧ q.held = false ∧ q.part = [] ∧ c.stop = 1) ∧
    (∃ s : State, ∃ n : Nat, ∃ c : Cmd, ∃ rg : RegGraph, ∃ st : StepRec, ∃ p : QPair, s.cmds = [(n, c)] ∧ cmdGraph c s = some rg ∧ c.st = .running ∧ c.started = true ∧ c.inSeg = false ∧ c.guarNow = false ∧ c.be = true ∧ rg.graph.steps[c.step]? = some st ∧ st.seg = none ∧ rg.graph.steps.length = c.step + 1 ∧ stepDone n c rg s = true ∧ tabFind c.q s.qps = some p) ∧
    (∃ s : State, ∃ n : Nat, ∃ c : Cmd, ∃ rg : RegGraph, ∃ st : StepRec, ∃ k : Nat, ∃ sg : Segment, ∃ seat : Nat, ∃ core : Nat, ∃ code : List Word, cmdOf n s = some c ∧ cmdGraph c s = some rg ∧ rg.graph.steps[c.step]? = some st ∧ st.seg = some k ∧ rg.graph.segs[k]? = some sg ∧ placesOf c s = [(0, seat, core)] ∧ bit sg.mask 0 = true ∧ liveRun c 0 = true ∧ seatHeld c.cdom seat core s = true ∧ (runOf c 0).stopped = false ∧ c.inSeg = true ∧ c.segDone = false ∧ c.st = .running ∧ (coreOf core s).groups = [] ∧ (coreOf core s).saved = [] ∧ sg.n = 1 ∧ loadCode c.cdom sg s = some code) :=
  ⟨⟨missedState, 1, missed, qp0, by (repeat' apply And.intro) <;> decide +kernel⟩,
   ⟨5, 1, 2, ctx1, ctxState ctx1, by (repeat' apply And.intro) <;> first | exact fun _ _ => rfl | decide +kernel⟩,
   ⟨5, 1, 2, { ctx1 with inMem := true, spad := [] }, ctxMem, ⟨1, set0, (setFrames ctxMem set0 - contextFrames slicedShell.comp) * Config.frameBytes + 2 * Config.contextBytes⟩, by (repeat' apply And.intro) <;> first | exact fun _ _ => rfl | rfl | decide +kernel⟩,
   ⟨5, on, by (repeat' apply And.intro) <;> decide +kernel⟩,
   ⟨outState, 1, outCmd, outRg, ⟨0, 1, 0, 0, none⟩, ⟨1, outCmd, outRg, 0, 0, 0, outNode⟩, by (repeat' apply And.intro) <;> decide +kernel⟩,
   ⟨withCmd fbCmd, 1, fbCmd, by (repeat' apply And.intro) <;> decide +kernel⟩,
   ⟨withCmd stopCmd, 1, stopCmd, 0, 0, { SeatRun.zero with stopped := true }, by (repeat' apply And.intro) <;> decide +kernel⟩,
   ⟨stepState, 1, stepCmd, oneStep, ⟨0, 0, 0, 0, none⟩, qp0, by (repeat' apply And.intro) <;> decide +kernel⟩,
   ⟨segState, 1, cmd1, rgraph1, ⟨0, 1, 0, 0, some 0⟩, 0, seg1, 0, 0, [0], by (repeat' apply And.intro) <;> decide +kernel⟩⟩

/-! ### Stations -/

/-- A 2 × 2 tile in the seat's own scratchpad. -/
def tile2 (addr fmt stride : Nat) : Tile := ⟨0, addr, fmt, false, 2, 2, stride, false, false, 0, 0, 0x3F800000, 0, 0⟩
/-- A tile in pond 0. -/
def pondTile (fmt stride : Nat) : Tile := { tile2 0 fmt stride with space := 2 }
def node (op : Nat) (param : Nat) : Node := ⟨op, 0, 2, 0, 1, 4, param, 0, 0, 0⟩
def run1 : SeatRun := SeatRun.zero
/-- A device that runs one node of tiles src0, src1, dst on core 0. -/
def stS (op param : Nat) (t0 t1 td : Tile) (q : SeatRun) : State :=
  let s := live (grp (.nop i0))
  { s with cmds := [(1, { cmd1 with inSeg := false, seats := [(0, q)] })],
           graphs := [(65537, { rgraph1 with graph := ⟨[t0, t1, td], [⟨0, 0, 4, 32, 0x1000⟩], [node op param], [⟨0, 1, 0, 0, none⟩], [], 1, 0⟩ })] }

/-- The open repetition of an operation on core 0, and its operands. -/
def rp (op : Nat) (s : State) : Rep := (findRep 0 op s).getD ⟨0, cmd1, rgraph1, 0, 0, 0, node0⟩
def noPlace : Place := ⟨false, 0, 0, 0, tile2 0 0 0, none, PondSlot.zero⟩
def pa (op : Nat) (s : State) : Place := (inPlace (rp op s) (rp op s).nd.src0 3 ((rp op s).at' (rp op s).nd.adv0) s).getD noPlace
def pb (op : Nat) (s : State) : Place := (inPlace1 (rp op s) ((rp op s).at' (rp op s).nd.adv1) s).getD noPlace
def pt (op : Nat) (s : State) : Place := (inPlace (rp op s) (rp op s).nd.src1 4 0 s).getD noPlace
def pd (op : Nat) (s : State) : Place := (outPlace (rp op s) (rp op s).nd.dst 2 ((rp op s).at' (rp op s).nd.advD) s).getD noPlace
def x0 : Ext := ⟨[], 1⟩

def e8 : Tile := tile2 0x40 0x05 64
def f32 (a : Nat) : Tile := tile2 a 0x0A 64
def s10 : State := stS 0x10 0 e8 e8 (tile2 0x400 0x05 64) run1
def s11p : State := stS 0x11 0 e8 e8 (pondTile 0x05 16) run1
def s11 : State := stS 0x11 0 e8 e8 (tile2 0x400 0x05 64) run1
def s60 : State := stS 0x60 0 e8 e8 (tile2 0x400 0x05 64) run1
def s61 : State := stS 0x61 0 e8 e8 (tile2 0x400 0x05 64) run1
def s62 : State := stS 0x62 (2 ^ 63) e8 e8 (tile2 0x400 0x05 64) run1
def s63 : State := stS 0x63 7 e8 e8 (tile2 0x400 0x05 64) run1
/-- Gather: a table of one-word entries in tile 1, rows of one line in tile 0. -/
def row1 : Tile := { e8 with rows := 1 }
def s20 : State := stS 0x20 1 row1 (tile2 0x80 0x0B 64) (tile2 0x400 0x05 64) run1
def s21 : State := stS 0x21 (6 * 2 ^ 59 + 1) row1 (tile2 0x80 0x0B 64) (tile2 0x400 0x05 64) run1
def s20w : State := stS 0x20 4 e8 (tile2 0x80 0x0B 64) (tile2 0x400 0x05 64) run1
def s21w : State := stS 0x21 (7 * 2 ^ 59 + 4) e8 (tile2 0x80 0x0B 64) (tile2 0x400 0x05 64) run1
def slot1 : PondSlot := { PondSlot.zero with landed := false }
def sFill : State := stS 0x10 0 e8 e8 (pondTile 0x05 16) { run1 with ponds := [(0, slot1)] }
def fillCmd : Cmd := { cmd1 with inSeg := false, seats := [(0, { run1 with ponds := [(0, slot1)] })] }

theorem test_wit_MovingStations :
    (∃ core : Nat, ∃ ext : Ext, ∃ s : State, ∃ r : Rep, ∃ a : Place, ∃ dst : Place, let d := readTile r a ext s; findRep core 0x10 s = some r ∧ inPlace r r.nd.src0 3 (r.at' r.nd.adv0) s = some a ∧ outPlace r r.nd.dst 2 (r.at' r.nd.advD) s = some dst ∧ d.1.bad = 0) ∧
    (∃ core : Nat, ∃ ext : Ext, ∃ s : State, ∃ r : Rep, ∃ a : Place, ∃ dst : Place, let d := readTile r a ext s; findRep core 0x11 s = some r ∧ inPlace r r.nd.src0 3 (r.at' r.nd.adv0) s = some a ∧ outPlace r r.nd.dst 2 (r.at' r.nd.advD) s = some dst ∧ dst.pond.isSome = true ∧ d.1.bad = 0) ∧
    (∃ core : Nat, ∃ ext : Ext, ∃ s : State, ∃ r : Rep, ∃ a : Place, ∃ dst : Place, let d := readTile r a ext s; let w := writeTile r dst d.1.rows d.1.scales d.1.idx d.1.ecc (if dst.t.amode = 2 then inAnchor a else dst.t.anchor) (surveyOf dst.t d.1.scales) (freeSlot r a d.2.2); findRep core 0x11 s = some r ∧ inPlace r r.nd.src0 3 (r.at' r.nd.adv0) s = some a ∧ outPlace r r.nd.dst 2 (r.at' r.nd.advD) s = some dst ∧ dst.pond = none ∧ d.1.bad = 0 ∧ w.1 = 0) ∧
    (∃ core : Nat, ∃ s : State, ∃ r : Rep, ∃ a : Place, ∃ dst : Place, let d := readHere r a s; findRep core 0x60 s = some r ∧ inPlace r r.nd.src0 3 (r.at' r.nd.adv0) s = some a ∧ outPlace r r.nd.dst 2 (r.at' r.nd.advD) s = some dst ∧ d.1.bad = 0) ∧
    (∃ core : Nat, ∃ s : State, ∃ r : Rep, ∃ a : Place, ∃ dst : Place, let d := readHere r a s; findRep core 0x61 s = some r ∧ inPlace r r.nd.src0 3 (r.at' r.nd.adv0) s = some a ∧ outPlace r r.nd.dst 2 (r.at' r.nd.advD) s = some dst ∧ 0 < a.t.cols ∧ d.1.bad = 0) ∧
    (∃ core : Nat, ∃ s : State, ∃ r : Rep, ∃ a : Place, ∃ dst : Place, let d := readHere r a s; findRep core 0x62 s = some r ∧ inPlace r r.nd.src0 3 (r.at' r.nd.adv0) s = some a ∧ outPlace r r.nd.dst 2 (r.at' r.nd.advD) s = some dst ∧ d.1.bad = 0) ∧
    (∃ core : Nat, ∃ s : State, ∃ r : Rep, ∃ a : Place, ∃ dst : Place, let d := readHere r a s; findRep core 0x63 s = some r ∧ inPlace r r.nd.src0 3 (r.at' r.nd.adv0) s = some a ∧ outPlace r r.nd.dst 2 (r.at' r.nd.advD) s = some dst ∧ d.1.bad = 0) ∧
    (∃ core : Nat, ∃ ext : Ext, ∃ s : State, ∃ r : Rep, ∃ t : Tile, ∃ tab : Place, ∃ dst : Place, ∃ v : Nat, ∃ x : RdAcc × Bool, findRep core 0x20 s = some r ∧ tileOf r r.nd.src0 = some t ∧ inPlace r r.nd.src1 4 0 s = some tab ∧ outPlace r r.nd.dst 2 (r.at' r.nd.advD) s = some dst ∧ (readHere r tab s).1.bad = 0 ∧ t.rows = 1 ∧ t.mx = false ∧ ((readHere r tab s).1.rows.flatMap (fun l => l))[r.num]? = some v ∧ v ≠ 0xFFFFFFFF ∧ v < gatherField r 1 (bits r.nd.param 31 0) ∧ gatherRow r t ((v * t.stride : Nat) : Int) ⟨[], 0, false, ext, (readHere r tab s).2⟩ = x ∧ x.1.bad = 0) ∧
    (∃ core : Nat, ∃ ext : Ext, ∃ s : State, ∃ r : Rep, ∃ t : Tile, ∃ tab : Place, ∃ dst : Place, ∃ v : Nat, ∃ x : RdAcc × Bool, let ps := bits r.nd.param 63 59; let p := gatherField r 0 (bits r.nd.param 55 32) + r.num; let rpp := max 1 (2 ^ ps / max 1 t.stride); findRep core 0x21 s = some r ∧ tileOf r r.nd.src0 = some t ∧ inPlace r r.nd.src1 4 0 s = some tab ∧ outPlace r r.nd.dst 2 (r.at' r.nd.advD) s = some dst ∧ (readHere r tab s).1.bad = 0 ∧ t.rows = 1 ∧ t.mx = false ∧ ((readHere r tab s).1.rows.flatMap (fun l => l))[p / rpp]? = some v ∧ v ≠ 0xFFFFFFFF ∧ v < gatherField r 1 (bits r.nd.param 31 0) ∧ gatherRow r t ((v * 2 ^ ps + p % rpp * t.stride : Nat) : Int) ⟨[], 0, false, ext, (readHere r tab s).2⟩ = x ∧ x.1.bad = 0) ∧
    (∃ core : Nat, ∃ ext : Ext, ∃ s : State, ∃ r : Rep, ∃ t : Tile, ∃ tab : Place, ∃ dst : Place, let d := readHere r tab s; let es := (List.range t.rows).map (fun j => (d.1.rows.flatMap (fun l => l))[r.num * t.rows + j]?); let g := gatherAll r t (gatherField r 1 (bits r.nd.param 31 0)) (fun e _ => (e * t.stride : Nat)) es ext d.2; findRep core 0x20 s = some r ∧ tileOf r r.nd.src0 = some t ∧ inPlace r r.nd.src1 4 0 s = some tab ∧ outPlace r r.nd.dst 2 (r.at' r.nd.advD) s = some dst ∧ (readHere r tab s).1.bad = 0 ∧ g.2.bad = 0) ∧
    (∃ core : Nat, ∃ ext : Ext, ∃ s : State, ∃ r : Rep, ∃ t : Tile, ∃ tab : Place, ∃ dst : Place, let d := readHere r tab s; let p := fun (j : Nat) => gatherField r 0 (bits r.nd.param 55 32) + r.num * t.rows + j; let rpp := max 1 (2 ^ bits r.nd.param 63 59 / max 1 t.stride); let es := (List.range t.rows).map (fun j => (d.1.rows.flatMap (fun l => l))[p j / rpp]?); let g := gatherAll r t (gatherField r 1 (bits r.nd.param 31 0)) (fun e j => (e * 2 ^ bits r.nd.param 63 59 + p j % rpp * t.stride : Nat)) es ext d.2; findRep core 0x21 s = some r ∧ tileOf r r.nd.src0 = some t ∧ inPlace r r.nd.src1 4 0 s = some tab ∧ outPlace r r.nd.dst 2 (r.at' r.nd.advD) s = some dst ∧ (readHere r tab s).1.bad = 0 ∧ g.2.bad = 0) ∧
    (∃ cmd : Nat, ∃ pond : Nat, ∃ s : State, ∃ c : Cmd, ∃ rg : RegGraph, ∃ k : Nat, ∃ sl : PondSlot, cmdOf cmd s = some c ∧ cmdGraph c s = some rg ∧ (runOf c (pondSeat rg.graph pond)).ponds = [(k, sl)] ∧ k / 2 ^ 32 = pond ∧ sl.landed = false ∧ sl.survey = none) :=
  ⟨⟨0, x0, s10, rp 0x10 s10, pa 0x10 s10, pd 0x10 s10, by (repeat' apply And.intro) <;> decide +kernel⟩,
   ⟨0, x0, s11p, rp 0x11 s11p, pa 0x11 s11p, pd 0x11 s11p, by (repeat' apply And.intro) <;> decide +kernel⟩,
   ⟨0, x0, s11, rp 0x11 s11, pa 0x11 s11, pd 0x11 s11, by (repeat' apply And.intro) <;> decide +kernel⟩,
   ⟨0, s60, rp 0x60 s60, pa 0x60 s60, pd 0x60 s60, by (repeat' apply And.intro) <;> decide +kernel⟩,
   ⟨0, s61, rp 0x61 s61, pa 0x61 s61, pd 0x61 s61, by (repeat' apply And.intro) <;> decide +kernel⟩,
   ⟨0, s62, rp 0x62 s62, pa 0x62 s62, pd 0x62 s62, by (repeat' apply And.intro) <;> decide +kernel⟩,
   ⟨0, s63, rp 0x63 s63, pa 0x63 s63, pd 0x63 s63, by (repeat' apply And.intro) <;> decide +kernel⟩,
   ⟨0, x0, s20, rp 0x20 s20, row1, pt 0x20 s20, pd 0x20 s20, 0, gatherRow (rp 0x20 s20) row1 ((0 * row1.stride : Nat) : Int) ⟨[], 0, false, x0, (readHere (rp 0x20 s20) (pt 0x20 s20) s20).2⟩, by (repeat' apply And.intro) <;> first | decide +kernel | exact rfl⟩,
   ⟨0, x0, s21, rp 0x21 s21, row1, pt 0x21 s21, pd 0x21 s21, 0, gatherRow (rp 0x21 s21) row1 ((0 * 2 ^ 6 + 0 * row1.stride : Nat) : Int) ⟨[], 0, false, x0, (readHere (rp 0x21 s21) (pt 0x21 s21) s21).2⟩, by (repeat' apply And.intro) <;> first | decide +kernel | exact rfl⟩,
   ⟨0, x0, s20w, rp 0x20 s20w, e8, pt 0x20 s20w, pd 0x20 s20w, by (repeat' apply And.intro) <;> decide +kernel⟩,
   ⟨0, x0, s21w, rp 0x21 s21w, e8, pt 0x21 s21w, pd 0x21 s21w, by (repeat' apply And.intro) <;> decide +kernel⟩,
   ⟨1, 0, sFill, fillCmd, { rgraph1 with graph := ⟨[e8, e8, pondTile 0x05 16], [⟨0, 0, 4, 32, 0x1000⟩], [node 0x10 0], [⟨0, 1, 0, 0, none⟩], [], 1, 0⟩ }, 0, slot1, by (repeat' apply And.intro) <;> decide +kernel⟩⟩

/-- The rows of a Gather: no entry, the skip entry, an entry past the limit. -/
theorem test_wit_MovingStations_rows :
    ∀ es ∈ [[none], [some 0xFFFFFFFF], [some 5]], ∃ x, (gatherAll (rp 0x20 s20) row1 2 (fun e _ => e) es x0 s20).1[0]? = some x := by
  intro es h
  simp only [List.mem_cons, List.not_mem_nil, or_false] at h
  rcases h with rfl | rfl | rfl <;> exact ⟨_, rfl⟩

/-- An accumulator slot that its producer has passed. -/
def acc1 : AccSlot := { AccSlot.zero with full := true, contrib := 1, cells := [(0, { Cell128.zero with sum := 5 })] }
def accTile : Tile := { tile2 0 0x0C 2048 with space := 3 }
def fullRun : SeatRun := { run1 with acc := [(0, acc1)] }
def s30 : State := stS 0x30 (2 ^ 56) e8 (tile2 0x80 0x05 64) accTile run1
def s50 : State := stS 0x50 (2 ^ 56) (tile2 0x40 0x0C 64) e8 accTile fullRun
def s50n : State := stS 0x50 (2 ^ 56) (tile2 0x40 0x0C 64) e8 accTile run1
def s51 : State := stS 0x51 (2 * 2 ^ 56) e8 e8 (tile2 0x400 0x05 64) { run1 with part := [(0, 1)], logic := [(0, ⟨[[1, 2], [3, 4]], false, false⟩)] }
def s40b : State := stS 0x40 (7 * 2 ^ 56) (f32 0x40) (f32 0x100) (f32 0x400) run1
def s40 : State := stS 0x40 (16 * 2 ^ 56) (f32 0x40) (f32 0x100) (f32 0x400) run1
def s41 : State := stS 0x41 0 (f32 0x40) (f32 0x100) (f32 0x400) run1
def s42 : State := stS 0x42 0x3F800000 (f32 0x40) (f32 0x100) (f32 0x400) run1
/-- A span of three tiles whose first is read and whose second waits in its pond. -/
def s42p : State := stS 0x42 (2 * 2 ^ 60 + 0x3F800000) (pondTile 0x0A 8) (f32 0x100) (f32 0x400)
  { run1 with part := [(0, 1)], logic := [(0, ⟨[[1, 2], [3, 4]], false, false⟩)], ponds := [(1, { PondSlot.zero with landed := true })] }
def s70 : State := stS 0x70 0 e8 e8 (f32 0x400) fullRun
def s71 : State := stS 0x71 (2 ^ 60) e8 (f32 0x40) (f32 0x400) fullRun
def s72 : State := stS 0x72 0 e8 e8 { tile2 0x400 0x0C 64 with amode := 2 } fullRun
def s72a : State := stS 0x72 0 e8 e8 { tile2 0x400 0x0C 64 with anchor := 3 } fullRun
def st1 : StepRec := ⟨0, 1, 0, 0, none⟩

theorem test_wit_ComputingStations :
    (∃ core : Nat, ∃ s : State, ∃ r : Rep, ∃ pa : Place, ∃ pb : Place, let da := readHere r pa s; let db := readHere r pb da.2; let B := valueRows pb.t db.1; findRep core 0x30 s = some r ∧ cmdOf r.cmd s = some r.c ∧ bits r.nd.param 63 56 = 1 ∧ bits r.nd.param 55 48 ≤ 1 ∧ bit r.nd.param 47 = false ∧ bit r.nd.param 46 = false ∧ joined r = false ∧ r.rg.accFp32 = false ∧ (runOf r.c r.seat).acc = [] ∧ (runOf r.c r.seat).part = [] ∧ (∀ (st : StepRec), r.rg.graph.steps[r.c.step]? = some st → st.msInt = 0) ∧ inPlace r r.nd.src0 3 (r.at' r.nd.adv0) s = some pa ∧ inPlace1 r (r.at' r.nd.adv1) s = some pb ∧ da.1.bad = 0 ∧ db.1.bad = 0 ∧ (∀ row ∈ B, row.length ≤ 128)) ∧
    (∃ core : Nat, ∃ s : State, ∃ r : Rep, ∃ pa : Place, ∃ a : AccSlot, let d := readHere r pa s; findRep core 0x50 s = some r ∧ cmdOf r.cmd s = some r.c ∧ r.part + 1 = bits r.nd.param 63 56 ∧ r.rg.accFp32 = false ∧ (∀ (st : StepRec), r.rg.graph.steps[r.c.step]? = some st → st.msInt = 0) ∧ inPlace r r.nd.src0 3 0 s = some pa ∧ tabWf Cell128.zero a.cells = true ∧ ((accOf r r.num s = some a ∧ (bit r.nd.param 55 = true → a.contrib = pairChain r)) ∨
      (accOf r r.num s = none ∧ bit r.nd.param 55 = false ∧ (runOf r.c r.seat).acc.length < 2 ∧ ∃ d, tileOf r r.nd.dst = some d ∧ a = { AccSlot.zero with anchor := if d.amode = 2 then inAnchor pa else d.anchor })) ∧ d.1.bad = 0 ∧ (∀ row ∈ d.1.rows, row.length ≤ 128)) ∧
    (∃ core : Nat, ∃ s : State, ∃ r : Rep, ∃ pa : Place, ∃ a : AccSlot, let d := readHere r pa s; findRep core 0x50 s = some r ∧ cmdOf r.cmd s = some r.c ∧ r.part + 1 = bits r.nd.param 63 56 ∧ r.rg.accFp32 = false ∧ (∀ (st : StepRec), r.rg.graph.steps[r.c.step]? = some st → st.msInt = 0) ∧ inPlace r r.nd.src0 3 0 s = some pa ∧ tabWf Cell128.zero a.cells = true ∧ ((accOf r r.num s = some a ∧ (bit r.nd.param 55 = true → a.contrib = pairChain r)) ∨
      (accOf r r.num s = none ∧ bit r.nd.param 55 = false ∧ (runOf r.c r.seat).acc.length < 2 ∧ ∃ d, tileOf r r.nd.dst = some d ∧ a = { AccSlot.zero with anchor := if d.amode = 2 then inAnchor pa else d.anchor })) ∧ d.1.bad = 0 ∧ (∀ row ∈ d.1.rows, row.length ≤ 128)) ∧
    (∃ core : Nat, ∃ s : State, ∃ r : Rep, ∃ pa : Place, ∃ dst : Place, let d := readHere r pa s; let p := partOf r s; let rows := if r.part = 0 then d.1.rows else List.zipWith (fun x y => List.zipWith (logicElt (bits r.nd.param 55 52) (fmtBits pa.t.fmt)) x y) p.rows d.1.rows; let w := writeTile r dst rows [] (p.idx || d.1.idx) (p.ecc || d.1.ecc) 0 none (freeSlot r pa d.2); findRep core 0x51 s = some r ∧ cmdOf r.cmd s = some r.c ∧ r.part + 1 = bits r.nd.param 63 56 ∧ inPlace r r.nd.src0 3 0 s = some pa ∧ outPlace r r.nd.dst 2 (r.at' r.nd.advD) s = some dst ∧ d.1.bad = 0 ∧ w.1 = 0) ∧
    (∃ core : Nat, ∃ s : State, ∃ r : Rep, ∃ a : Place, ∃ b : Place, ∃ dst : Place, let da := readHere r a s; let db := readHere r b da.2; findRep core 0x40 s = some r ∧ inPlace r r.nd.src0 3 (r.at' r.nd.adv0) s = some a ∧ inPlace1 r (r.at' r.nd.adv1) s = some b ∧ outPlace r r.nd.dst 2 (r.at' r.nd.advD) s = some dst ∧ vfUsesB (bits r.nd.param 63 56) = true ∧ da.1.bad = 0 ∧ db.1.bad = 0) ∧
    (∃ core : Nat, ∃ s : State, ∃ r : Rep, ∃ a : Place, ∃ dst : Place, let d := readHere r a s; findRep core 0x40 s = some r ∧ inPlace r r.nd.src0 3 (r.at' r.nd.adv0) s = some a ∧ outPlace r r.nd.dst 2 (r.at' r.nd.advD) s = some dst ∧ vfUsesB (bits r.nd.param 63 56) = false ∧ d.1.bad = 0) ∧
    (∃ core : Nat, ∃ s : State, ∃ r : Rep, ∃ a : Place, ∃ dst : Place, let d := readHere r a s; findRep core 0x41 s = some r ∧ inPlace r r.nd.src0 3 (r.at' r.nd.adv0) s = some a ∧ outPlace r r.nd.dst 2 (r.at' r.nd.advD) s = some dst ∧ d.1.bad = 0) ∧
    (∃ core : Nat, ∃ s : State, ∃ r : Rep, ∃ a : Place, ∃ a' : Place, ∃ dst : Place, let d := readHere r a s; let p : PartTile := ⟨d.1.rows.map (fun row => row.map (fun x => (vNum a.t x).toNat)), d.1.idx, d.1.ecc⟩; let s1 := addPart r (setPart r p d.2); let soft := d.1.rows.map (fun row => softRow (BitVec.ofNat 32 r.nd.param) (row.map (vNum a.t))); let s2 := ((tileBytes a' (soft.map (fun o => o.1.map (fun v => v.toNat))) []).foldl (writeSpan r a') (0, s1)).2; let mid := setPart r { p with rows := soft.map (fun o => o.2.map (fun v => v.toNat)) } (freeSlot r a' s2); findRep core 0x42 s = some r ∧ cmdOf r.cmd s = some r.c ∧ bits r.nd.param 63 60 = 0 ∧ r.part = 0 ∧ partOf r s = ⟨[], false, false⟩ ∧ spanHolds r = true ∧ inPlace r r.nd.src0 3 (spanAt r 0 r.nd.adv0) s = some a ∧ inPlaceN r r.nd.src0 3 (spanAt r 0 r.nd.adv0) 0 s1 = some a' ∧ a'.t.cols = a.t.cols ∧ d.1.bad = 0 ∧ (∀ row ∈ d.1.rows, row.length = a.t.cols) ∧ outPlace r r.nd.dst 2 (spanAt r 0 r.nd.advD) mid = some dst) ∧
    (∃ core : Nat, ∃ s : State, ∃ r : Rep, ∃ a : Place, let d := readHere r a s; let p := partOf r s; let t := addPart r (setPart r ⟨List.zipWith (fun x y => x ++ y) p.rows (d.1.rows.map (fun row => row.map (fun x => (vNum a.t x).toNat))), p.idx || d.1.idx, p.ecc || d.1.ecc⟩ d.2); findRep core 0x42 s = some r ∧ cmdOf r.cmd s = some r.c ∧ 0 < r.part ∧ r.part < bits r.nd.param 63 60 ∧ spanHolds r = true ∧ inPlaceN r r.nd.src0 3 (spanAt r r.part r.nd.adv0) r.part s = some a ∧ d.1.bad = 0 ∧ cmdOf r.cmd d.2 = some r.c ∧ inPlaceN r r.nd.src0 3 (spanAt r (r.part + 1) r.nd.adv0) (r.part + 1) t = none) ∧
    (∃ core : Nat, ∃ s : State, ∃ r : Rep, ∃ a : AccSlot, ∃ dst : Place, findRep core 0x70 s = some r ∧ outSlot r s = some a ∧ outHere r s = some dst) ∧
    (∃ core : Nat, ∃ s : State, ∃ r : Rep, ∃ a : AccSlot, ∃ b : Place, ∃ dst : Place, let d := readHere r b s; findRep core 0x71 s = some r ∧ outSlot r s = some a ∧ inPlace1 r (r.at' r.nd.adv1) s = some b ∧ outHere r s = some dst ∧ d.1.bad = 0) ∧
    (∃ core : Nat, ∃ s : State, ∃ r : Rep, ∃ a : AccSlot, ∃ dst : Place, findRep core 0x72 s = some r ∧ outSlot r s = some a ∧ outHere r s = some dst ∧ dst.t.amode = 2) ∧
    (∃ core : Nat, ∃ s : State, ∃ r : Rep, ∃ a : AccSlot, ∃ dst : Place, findRep core 0x72 s = some r ∧ outSlot r s = some a ∧ outHere r s = some dst ∧ dst.t.amode ≠ 2) ∧
    (∃ core : Nat, ∃ s : State, findRep core 0x30 s = none) :=
  ⟨⟨0, s30, rp 0x30 s30, pa 0x30 s30, pb 0x30 s30, by (repeat' apply And.intro) <;> first | exact opt_all (v := st1) (by decide +kernel) rfl | decide +kernel⟩,
   ⟨0, s50, rp 0x50 s50, pa 0x50 s50, acc1, by (repeat' apply And.intro) <;> first | exact opt_all (v := st1) (by decide +kernel) rfl | exact Or.inl (by decide +kernel) | decide +kernel⟩,
   ⟨0, s50n, rp 0x50 s50n, pa 0x50 s50n, AccSlot.zero, by (repeat' apply And.intro) <;> first | exact opt_all (v := st1) (by decide +kernel) rfl | exact Or.inr ⟨by decide +kernel, by decide +kernel, by decide +kernel, accTile, by decide +kernel, by decide +kernel⟩ | decide +kernel⟩,
   ⟨0, s51, rp 0x51 s51, pa 0x51 s51, pd 0x51 s51, by (repeat' apply And.intro) <;> decide +kernel⟩,
   ⟨0, s40b, rp 0x40 s40b, pa 0x40 s40b, pb 0x40 s40b, pd 0x40 s40b, by (repeat' apply And.intro) <;> decide +kernel⟩,
   ⟨0, s40, rp 0x40 s40, pa 0x40 s40, pd 0x40 s40, by (repeat' apply And.intro) <;> decide +kernel⟩,
   ⟨0, s41, rp 0x41 s41, pa 0x41 s41, pd 0x41 s41, by (repeat' apply And.intro) <;> decide +kernel⟩,
   ⟨0, s42, rp 0x42 s42, pa 0x42 s42, pa 0x42 s42, pd 0x42 s42, by (repeat' apply And.intro) <;> decide +kernel⟩,
   ⟨0, s42p, rp 0x42 s42p, (inPlaceN (rp 0x42 s42p) 0 3 0 1 s42p).getD noPlace, by (repeat' apply And.intro) <;> decide +kernel⟩,
   ⟨0, s70, rp 0x70 s70, acc1, pd 0x70 s70, by (repeat' apply And.intro) <;> decide +kernel⟩,
   ⟨0, s71, rp 0x71 s71, acc1, pb 0x71 s71, pd 0x71 s71, by (repeat' apply And.intro) <;> decide +kernel⟩,
   ⟨0, s72, rp 0x72 s72, acc1, pd 0x72 s72, by (repeat' apply And.intro) <;> decide +kernel⟩,
   ⟨0, s72a, rp 0x72 s72a, acc1, pd 0x72 s72a, by (repeat' apply And.intro) <;> decide +kernel⟩,
   ⟨0, on, by (repeat' apply And.intro) <;> decide +kernel⟩⟩

theorem test_wit_StationEffects :
    (∃ pl : Place, ∃ s : State, pl.shell = false ∧ s.flawless ∧ Memory.wf s.mem.spad = true) ∧
    (∃ r : Rep, ∃ s : State, cmdOf r.cmd s = some r.c ∧ (∀ (st : StepRec), r.rg.graph.steps[r.c.step]? = some st → st.msInt = 0)) ∧
    (∃ r : Rep, ∃ dst : Place, ∃ rows : List (List Nat), ∃ scales : List (List Nat), ∃ idx : Bool, ∃ ecc : Bool, ∃ anchor : Int, ∃ st : Nat, ∃ s : State, cmdOf r.cmd s = some r.c ∧ (writeTile r dst rows scales idx ecc anchor none s).1 = 0 ∧ (∀ (st : StepRec), r.rg.graph.steps[r.c.step]? = some st → st.msInt = 0) ∧ keysFrom 0 (runOf r.c r.seat).acc = true) :=
  ⟨⟨pd 0x70 s70, s70, by (repeat' apply And.intro) <;> decide +kernel⟩,
   ⟨rp 0x70 s70, s70, by (repeat' apply And.intro) <;> first | exact opt_all (v := st1) (by decide +kernel) rfl | decide +kernel⟩,
   ⟨rp 0x70 s70, pd 0x70 s70, [[0, 0], [0, 0]], [], false, false, 0, 0, s70, by (repeat' apply And.intro) <;> first | exact opt_all (v := st1) (by decide +kernel) rfl | decide +kernel⟩⟩

end Sys2Proof.Tests
end

