-- ==== Sys2Proof/Tests/Wit4.lean ====
section
/-! SUPPORT. States and operands that meet the hypotheses of the statements about the host interface and the control commands. -/
set_option Elab.async false

namespace Sys2Proof.Tests
open Sys2Proof Sys2Proof.Machine

/-! ### The host interface -/

def key32 : List Byte := List.replicate 32 7
def ten1 : Tenant := ⟨1, true, true, true, true, 5, true, 1, key32, [], none⟩
/-- The device in service with shell 1 and its tenant 1. -/
def up : State :=
  { State.reset with dev := { State.reset.dev with state := 2, stage := .released }, tenants := [(1, ten1)], shells := [(1, shell1)],
                     host := { State.reset.host with linkUp := true, msixOn := true } }

/-- Bytes as memory from address 0. -/
def asMem (bs : List Byte) : Tab Byte := (bs.zipIdx.map (fun x => (x.2, x.1))).filter (fun x => x.2 != 0)
/-- A mailbox with an open session of a tenant. -/
def sess (t : Nat) : Mbx := { Mbx.zero with session := true, tenant := t, token := 5, key := key32 }
/-- The device in service with one mailbox. -/
def withMbx (m : Nat) (b : Mbx) : State := { up with mbx := [(m, b)] }
/-- A request with its MAC under `key32`. -/
def request (code seq : Nat) (params : List Byte) : List Byte :=
  let h := leBytes (code * 2 ^ 48 + params.length) 8 ++ leBytes 5 8 ++ leBytes seq 8
  h ++ (hmac key32 (h ++ List.replicate 8 0 ++ params)).take 8 ++ params
def mbxReq : Mbx := { sess 1 with req := asMem (request 0x0602 1 []), seq := 0 }

def qp1 : QPair :=
  { local' := false, tenant := 1, lost := false, torn := false, cause := 0, depth := 16, slot256 := false, vec := 3, hold := 5, sqBase := 0, cqBase := 0,
    token := 1, nonce := [], key := key32, n := 0, tail := 0, w := 0, h := 0, rereads := 0, rereadAt := none, entries := [], ctlBusy := false,
    awaiting := 0, owed := [], sigDue := false, deferred := false, closing := none }
/-- The device in service with queue pair 0. -/
def withQp (p : QPair) : State := { up with qps := [(0, p)] }
/-- SQ slot n with its number, token and MAC. -/
def slot (n code cid : Nat) (body : List Byte) : List Byte :=
  let w := leBytes (n * 2 ^ 48 + code * 2 ^ 32 + cid * 2 ^ 16) 8 ++ leBytes 1 8
  w ++ (hmac key32 (leBytes n 4 ++ w ++ List.replicate 8 0 ++ body)).take 8 ++ body
def ext1 : Ext := ⟨slot 0 0x0602 9 (List.replicate 40 0), 0⟩
def qpF : QPair := { qp1 with tail := 1 }
def compl1 : Compl := ⟨9, 0, 0, false, false, false, 0, 7, 0, false⟩
def cmdP : Cmd := { cmd1 with q := 0, cid := 9, park := some (0, 0, ⟨0x11, 0, 5, 0x1C0000⟩), parkOwed := true }

/-- Queue pair 0 in states of its own. -/
def qpFn : QPair := { qpF with n := (qpF.n + 1) % 2 ^ 32, awaiting := qpF.awaiting + 1, entries := [parseEntry qpF ext1.data] }
def qpR : QPair := { qpF with rereadAt := some 5, rereads := 7 }
def qpO : QPair := { qp1 with owed := [compl1] }

theorem test_wit_QueuesAndMailboxes :
    (∃ m : Nat, ∃ s : State, ∃ req : List Byte, let w := fun i => leNat ((req.drop (8 * i)).take 8); let len := w 0 % 2 ^ 32; let params := (req.drop 32).take len; req = memRead (mbxOf m s).req 0 4096 ∧ (m < 64 → s.flt.injs = []) ∧ s.dev.state = 2 ∧ (mbxOf m s).busy = false ∧ (mbxOf m s).session = true ∧ len ≤ 4064 ∧ w 0 / 2 ^ 48 ∉ [0x0201, 0x0202, 0x0101] ∧ w 1 = (mbxOf m s).token.toNat ∧ (req.drop 24).take 8 = (hmac (mbxOf m s).key (req.take 24 ++ List.replicate 8 0 ++ params)).take 8 ∧ w 2 % 2 ^ 32 = ((mbxOf m s).seq + 1) % 2 ^ 32 ∧ requestStatus (w 0 / 2 ^ 48) (w 0 / 2 ^ 32 % 2 ^ 16 + w 2 / 2 ^ 32) len params (mbxOf m s).tenant s = none) ∧
    (∃ m : Nat, ∃ s : State, m % 64 = 0 ∧ (m < 64 → s.flt.injs = []) ∧ (mbxOf m s).busy = true) ∧
    (∃ q : Nat, ∃ tail : BitVec 16, ∃ s : State, ∃ p : QPair, s.flt.injs = [] ∧ (s.dev.state = 2 ∨ s.dev.state = 3) ∧ tabFind q s.qps = some p ∧ p.torn = false ∧ tail.toNat ≠ p.tail ∧ (tail.toNat + 2 ^ 16 - p.n % 2 ^ 16) % 2 ^ 16 ≤ p.depth) ∧
    (∃ q : Nat, ∃ tail : BitVec 16, ∃ s : State, ∃ p : QPair, s.flt.injs = [] ∧ (s.dev.state = 2 ∨ s.dev.state = 3) ∧ tabFind q s.qps = some p ∧ p.torn = false ∧ tail.toNat ≠ p.tail ∧ p.depth < (tail.toNat + 2 ^ 16 - p.n % 2 ^ 16) % 2 ^ 16) ∧
    (∃ q : Nat, ∃ head : BitVec 16, ∃ s : State, ∃ p : QPair, s.flt.injs = [] ∧ (s.dev.state = 2 ∨ s.dev.state = 3) ∧ tabFind q s.qps = some p ∧ (head.toNat + 2 ^ 16 - p.h % 2 ^ 16) % 2 ^ 16 ≤ (p.w - p.h) % 2 ^ 16) ∧
    (∃ q : Nat, ∃ ext : Ext, ∃ s : State, ∃ p : QPair, tabFind q s.qps = some p ∧ mayFetch p s = true ∧ p.rereadAt = none ∧ slotFault p ext = none ∧ p.entries = [] ∧ p.ctlBusy = false ∧ entryStatus { p with n := (p.n + 1) % 2 ^ 32, awaiting := p.awaiting + 1, rereads := 0, rereadAt := none, entries := [parseEntry p ext.data] } (parseEntry p ext.data) (setQp q { p with n := (p.n + 1) % 2 ^ 32, awaiting := p.awaiting + 1, rereads := 0, rereadAt := none, entries := [parseEntry p ext.data] } s) = none) ∧
    (∃ q : Nat, ∃ ext : Ext, ∃ s : State, ∃ p : QPair, tabFind q s.qps = some p ∧ mayFetch p s = true ∧ p.rereadAt = none ∧ slotFault p ext ≠ none) ∧
    (∃ q : Nat, ∃ ext : Ext, ∃ s : State, ∃ p : QPair, ∃ t0 : Nat, ∃ c : Nat, tabFind q s.qps = some p ∧ p.rereadAt = some t0 ∧ p.lost = false ∧ slotFault p ext = some c ∧ p.rereads = 7) ∧
    (∃ q : Nat, ∃ s : State, ∃ p : QPair, ∃ c : Compl, tabFind q s.qps = some p ∧ nextCompl p s = some c ∧ c.irq = false ∧ c.event = false ∧ p.closing = none) ∧
    (∃ q : Nat, ∃ cid : BitVec 16, ∃ s : State, ∃ p : QPair, ∃ n : Nat, ∃ c : Cmd, ∃ core : Nat, ∃ slot : Nat, ∃ r : ParkRec, tabFind q s.qps = some p ∧ s.cmds = [(n, c)] ∧ c.q = q ∧ c.cid = cid.toNat ∧ c.parkOwed = true ∧ c.irq = false ∧ s.host.lost = false ∧ 2 ≤ p.room ∧ c.park = some (core, slot, r)) :=
  ⟨⟨1, withMbx 1 mbxReq, memRead (mbxOf 1 (withMbx 1 mbxReq)).req 0 4096, rfl, by (repeat' apply And.intro) <;> decide +kernel⟩,
   ⟨0, withMbx 0 { mbxReq with busy := true }, by (repeat' apply And.intro) <;> decide +kernel⟩,
   ⟨0, 16, withQp qp1, qp1, by (repeat' apply And.intro) <;> decide +kernel⟩,
   ⟨0, 17, withQp qp1, qp1, by (repeat' apply And.intro) <;> decide +kernel⟩,
   ⟨0, 0, withQp qp1, qp1, by (repeat' apply And.intro) <;> decide +kernel⟩,
   ⟨0, ext1, withQp qpF, qpF, by (repeat' apply And.intro) <;> decide +kernel⟩,
   ⟨0, { ext1 with err := 1 }, withQp qpF, qpF, by (repeat' apply And.intro) <;> decide +kernel⟩,
   ⟨0, { ext1 with err := 1 }, withQp qpR, qpR, 5, 2, by (repeat' apply And.intro) <;> decide +kernel⟩,
   ⟨0, withQp qpO, qpO, compl1, by (repeat' apply And.intro) <;> decide +kernel⟩,
   ⟨0, 9, { withQp qp1 with cmds := [(1, cmdP)] }, qp1, 1, cmdP, 0, 0, ⟨0x11, 0, 5, 0x1C0000⟩, by (repeat' apply And.intro) <;> decide +kernel⟩⟩

/-- Nothing in memory or the home caches is flawed. -/
theorem home_good (s : State) (w : Nat) (ht : s.mem.tags = []) (hh : s.coh.home = []) (hc : s.mem.chans = []) :
    (homeDec w s).2.good = true ∧ fencedAt (8 * w) s = false := by
  have h0 : ∀ d, (decodeEcc d ⟨false, 0⟩).n = 0 := fun d => rfl
  have h1 : ∀ d, (decodeEcc d ⟨false, 0⟩).p = false := fun d => rfl
  have hv : bit (hlineOf (w / 64) s).valid (w % 64) = false := by simp [hlineOf, hh, tabGet, HLine.zero, bit]
  constructor
  · simp only [homeDec, hv, Bool.false_eq_true, if_false, tagOf, ht, Dec.good]
    simp [tabGet, h0, h1]
  · simp [fencedAt, chanOf, hc, tabGet, Chan.zero]

def vec1 : Vec := { Vec.zero with addr := 0xFEE00000, data := 3, mask := true, pend := true }
def hostSt (f : HostIf → HostIf) : State := { up with host := f up.host }
/-- Aperture 0 maps the first bytes of range 0. -/
def aptState : State := hostSt (fun h => { h with apts := [(0, ⟨true, true, 1, 0, 0⟩)] })

/-- A BAR4 write waits at its home. -/
def aptWait : State := { aptState with coh := { aptState.coh with open' := [(9, txn (.dwrite .pcie 1 []) [1] none)] } }
def qpS : QPair := { qp1 with sigDue := true }
def sigState : State := { withQp qpS with host := { up.host with vecs := [(3, { Vec.zero with mask := false, sigAt := some 7 })] } }
def qpL : QPair := { qp1 with lost := true, w := 16 }
def lostState : State := { withQp qpL with host := { up.host with lost := true } }

theorem test_wit_HostSide :
    (∃ loc : Bool, ∃ v : Nat, ∃ s : State, (vecOf loc v s).pend = true ∧ s.host.funcMask = false ∧ s.host.lost = false ∧ (loc = false → s.host.msixOn = true) ∧ keysFrom 0 s.host.vecs = true ∧ keysFrom 0 s.host.locVecs = true) ∧
    (∃ loc : Bool, ∃ v : Nat, ∃ s : State, (vecOf loc v s).pend = true ∧ s.host.funcMask = false ∧ s.host.lost = false ∧ (loc = false → s.host.msixOn = true) ∧ keysFrom 0 s.host.vecs = true ∧ keysFrom 0 s.host.locVecs = true) ∧
    (∃ q : Nat, ∃ s : State, ∃ p : QPair, ∃ t0 : Nat, tabFind q s.qps = some p ∧ p.sigDue = true ∧ p.local' = false ∧ (vecOf false p.vec s).sigAt = some t0 ∧ (vecOf false p.vec s).mask = false ∧ s.host.funcMask = false ∧ s.host.lost = false ∧ s.host.msixOn = true) ∧
    (∃ s : State, (s.dev.state = 2 ∨ s.dev.state = 3)) ∧
    (∃ m : Nat, ∃ value : Word, ∃ s : State, m < 64 ∧ (s.dev.state = 2 ∨ s.dev.state = 3) ∧ s.flt.injs = [] ∧ bit value.toNat 62 = true ∧ bit value.toNat 61 = false) ∧
    (∃ x : Nat, ∃ len : Nat, ∃ s : State, ∃ d : Nat, ∃ dpa : Nat, ∃ r : Range, s.flt.injs = [] ∧ (s.dev.state = 2 ∨ s.dev.state = 3) ∧ bar4Target x 0 false s = some (d, dpa, r) ∧ d ∉ s.coh.failing ∧ 0 < len ∧ x % 512 + len ≤ 512 ∧ dpa % 512 = x % 512 ∧ s.coh.bar4 = [] ∧ bar4Waits s = true) ∧
    (∃ x : Nat, ∃ len : Nat, ∃ s : State, ∃ d : Nat, ∃ dpa : Nat, ∃ r : Range, s.flt.injs = [] ∧ (s.dev.state = 2 ∨ s.dev.state = 3) ∧ bar4Target x 0 false s = some (d, dpa, r) ∧ d ∉ s.coh.failing ∧ 0 < len ∧ x % 512 + len ≤ 512 ∧ dpa % 512 = x % 512 ∧ s.coh.bar4 = [] ∧ bar4Waits s = false ∧ idleLine (dpa / 512) s ∧ readsOpen (dpa / 512) (.dread .pcie (dpa % 512) len d x) s = true ∧ (dirOf (dpa / 512) s).dstate = .inv) ∧
    (∃ x : Nat, ∃ s : State, ∃ bytes : List Byte, ∃ d : Nat, ∃ dpa : Nat, ∃ r : Range, s.flt.injs = [] ∧ (s.dev.state = 2 ∨ s.dev.state = 3) ∧ bar4Target x 0 true s = some (d, dpa, r) ∧ d ∉ s.coh.failing ∧ bytes.length = 8 ∧ x % 8 = 0 ∧ dpa % 512 = x % 512 ∧ s.coh.bar4 = [] ∧ idleLine (dpa / 512) s ∧ (dirOf (dpa / 512) s).dstate = .inv ∧ keysFrom 0 s.coh.dir = true) ∧
    (∃ x : Nat, ∃ s : State, s.flt.injs = [] ∧ (s.dev.state = 2 ∨ s.dev.state = 3) ∧ bar4Target x 0 false s = none ∧ (aptOf (x / 2 ^ 26) s).refused < 2 ^ 32 - 1) ∧
    (∃ cause : Nat, ∃ s : State, ∃ q : Nat, ∃ p : QPair, s.host.lost = false ∧ cause = 1 ∧ tabFind q s.qps = some p ∧ p.local' = false) ∧
    (∃ s : State, ∃ q : Nat, ∃ p : QPair, s.host.lost = true ∧ (s.dev.state = 2 ∨ s.dev.state = 3) ∧ s.qps = [(q, p)] ∧ p.lost = true ∧ p.owed = [] ∧ p.local' = false ∧ p.room = 0) ∧
    (∃ s : State, ∃ q : Nat, ∃ p : QPair, s.host.lost = true ∧ (s.dev.state = 2 ∨ s.dev.state = 3) ∧ s.qps = [(q, p)] ∧ p.local' = false ∧ p.closing = none ∧ keysFrom 0 s.mbx = true) ∧
    (∃ s : State, s.dev.stage ≠ .held) :=
  ⟨⟨false, 2047, hostSt (fun h => { h with vecs := [(2047, vec1)] }), by (repeat' apply And.intro) <;> decide +kernel⟩,
   ⟨true, 3, hostSt (fun h => { h with locVecs := [(3, vec1)] }), by (repeat' apply And.intro) <;> decide +kernel⟩,
   ⟨0, sigState, qpS, 7, by (repeat' apply And.intro) <;> decide +kernel⟩,
   ⟨up, by (repeat' apply And.intro) <;> decide +kernel⟩,
   ⟨63, 0x4000000000000000, up, by (repeat' apply And.intro) <;> decide +kernel⟩,
   ⟨504, 8, aptWait, 1, 504, range0, by (repeat' apply And.intro) <;> decide +kernel⟩,
   ⟨504, 8, aptState, 1, 504, range0, by (repeat' apply And.intro) <;> decide +kernel⟩,
   ⟨504, aptState, List.replicate 8 7, 1, 504, range0, by (repeat' apply And.intro) <;> decide +kernel⟩,
   ⟨67108864, aptState, by (repeat' apply And.intro) <;> decide +kernel⟩,
   ⟨1, withQp qp1, 0, qp1, by (repeat' apply And.intro) <;> decide +kernel⟩,
   ⟨lostState, 0, qpL, by (repeat' apply And.intro) <;> decide +kernel⟩,
   ⟨lostState, 0, qpL, by (repeat' apply And.intro) <;> decide +kernel⟩,
   ⟨up, by (repeat' apply And.intro) <;> decide +kernel⟩⟩

theorem test_wit_HostSide_read : ∀ w, (homeDec w aptState).2.good = true ∧ fencedAt (8 * w) aptState = false :=
  fun w => home_good _ w rfl rfl rfl

/-! ### Control commands -/

/-- A mailbox with an accepted request. -/
def asked (code t : Nat) (ps : List Nat) : Mbx :=
  { sess t with busy := true, cur := some ⟨code, ps.flatMap (fun w => leBytes w 8), 1, key32, t, false⟩ }
/-- The request that it holds. -/
def rq (t : Nat) (ps : List Nat) : Req := ⟨.mbx 1, t, ps.flatMap (fun w => leBytes w 8)⟩
/-- The device in service with a request in mailbox 1. -/
def ask (code t : Nat) (ps : List Nat) : State := withMbx 1 (asked code t ps)

theorem ask_req (code t : Nat) (ps : List Nat) (s : State) (h : s.mbx = [(1, asked code t ps)]) : reqOf code (.mbx 1) s = some (rq t ps) := by
  have e : mbxOf 1 s = asked code t ps := by rw [mbxOf, h]; rfl
  simp only [reqOf, e, asked, decide_true, Bool.not_false, Bool.and_self, if_true]
  rfl

def qpE : QPair := { qp1 with entries := [parseEntry qp1 ext1.data] }

theorem test_wit_Answers :
    (∃ m : Nat, ∃ outs : List Nat, ∃ s : State, ∃ q : MReq, (mbxOf m s).cur = some q ∧ Memory.wf (mbxOf m s).resp = true ∧ outs.length ≤ 500) ∧
    (∃ q : Nat, ∃ s : State, ∃ p : QPair, ∃ e : Entry, tabFind q s.qps = some p ∧ p.entries = [e]) :=
  ⟨⟨1, [], ask 0x0602 1 [], ⟨0x0602, [], 1, key32, 1, false⟩, by (repeat' apply And.intro) <;> decide +kernel⟩,
   ⟨0, withQp qpE, qpE, parseEntry qp1 ext1.data, by (repeat' apply And.intro) <;> decide +kernel⟩⟩

/-- A request for a session: the mailbox has none yet. -/
def fresh (code : Nat) (params : List Byte) (n : Option (List Byte × Nat × Nat)) : Mbx :=
  { Mbx.zero with busy := true, cur := some ⟨code, params, 1, [], 1, false⟩, nonce := n }
def proof1 (tail : List Byte) : List Byte := leBytes 1 8 ++ tail
def nonce1 : List Byte := List.replicate 32 3

def openS : State := withMbx 1 (fresh 0x0201 (leBytes 1 8) none)
def good1 : List Byte := hmac key32 (nonce1 ++ leBytes 1 2 ++ leBytes 1 2)
def proveS (p : List Byte) : State := withMbx 1 (fresh 0x0202 (proof1 p) (some (nonce1, 1, 0)))

theorem test_wit_SessionCommands :
    (∃ m : Nat, ∃ rnd : List Byte, ∃ s : State, ∃ r : Req, reqOf 0x0201 (.mbx m) s = some r ∧ (mbxOf m s).session = false ∧ m % 64 ≠ 0 ∧ r.field 0 15 0 ≠ 0xFFFE ∧ proofKey (r.field 0 15 0) s ≠ [] ∧ lockedOut (r.field 0 15 0) s = false ∧ rnd.length = 32) ∧
    (∃ m : Nat, ∃ rnd : Word, ∃ s : State, ∃ r : Req, ∃ n : List Byte, ∃ a : Nat, rnd ≠ 0 ∧ reqOf 0x0202 (.mbx m) s = some r ∧ (mbxOf m s).session = false ∧ (mbxOf m s).nonce = some (n, r.field 0 15 0, a) ∧ s.now ≤ a + 100000000 ∧ proofKey (r.field 0 15 0) s ≠ [] ∧ (r.params.drop 8).take 32 = hmac (proofKey (r.field 0 15 0) s) (n ++ leBytes (m % 64) 2 ++ leBytes (r.field 0 15 0) 2)) ∧
    (∃ m : Nat, ∃ rnd : Word, ∃ s : State, ∃ r : Req, ∃ n : List Byte, ∃ a : Nat, rnd ≠ 0 ∧ reqOf 0x0202 (.mbx m) s = some r ∧ (mbxOf m s).session = false ∧ (mbxOf m s).nonce = some (n, r.field 0 15 0, a) ∧ (r.params.drop 8).take 32 ≠ hmac (proofKey (r.field 0 15 0) s) (n ++ leBytes (m % 64) 2 ++ leBytes (r.field 0 15 0) 2)) ∧
    (∃ m : Nat, ∃ s : State, ∃ r : Req, reqOf 0x0203 (.mbx m) s = some r ∧ keysFrom 0 s.mbx = true) :=
  ⟨⟨1, nonce1, openS, ⟨.mbx 1, 1, leBytes 1 8⟩, rfl, by (repeat' apply And.intro) <;> decide +kernel⟩,
   ⟨1, 5, proveS good1, ⟨.mbx 1, 1, proof1 good1⟩, nonce1, 0, by decide, rfl, by (repeat' apply And.intro) <;> decide +kernel⟩,
   ⟨1, 5, proveS nonce1, ⟨.mbx 1, 1, proof1 nonce1⟩, nonce1, 0, by decide, rfl, by (repeat' apply And.intro) <;> decide +kernel⟩,
   ⟨1, ask 0x0203 1 [], rq 1 [], by (repeat' apply And.intro) <;> first | exact ask_req _ _ _ _ rfl | decide +kernel⟩⟩

/-- A request of the owner with these parameter bytes. -/
def ownerAsk (code : Nat) (params : List Byte) : State := withMbx 1 { asked code 0xFFFE [] with cur := some ⟨code, params, 1, key32, 0xFFFE, false⟩ }

theorem test_wit_OwnerCommands_keys :
    (let s := ownerAsk 0x0104 (leBytes 1 8 ++ keyWrap key32 nonce1);
      ∃ r, reqOf 0x0104 (.mbx 1) s = some r ∧ tenantOf (r.field 0 11 0) s = some ten1 ∧ keyUnwrap (curKey 1 s) ((r.params.drop 8).take 40) = some nonce1) ∧
    (let s := ownerAsk 0x0105 (keyWrap key32 nonce1); ∃ r, reqOf 0x0105 (.mbx 1) s = some r ∧ keyUnwrap (curKey 1 s) (r.params.take 40) = some nonce1) := by
  have k := keyUnwrap_keyWrap key32 nonce1 rfl rfl
  refine ⟨⟨⟨.mbx 1, 0xFFFE, leBytes 1 8 ++ keyWrap key32 nonce1⟩, rfl, rfl, ?_⟩, ⟨⟨.mbx 1, 0xFFFE, keyWrap key32 nonce1⟩, rfl, ?_⟩⟩
  · show keyUnwrap key32 (((leBytes 1 8 ++ keyWrap key32 nonce1).drop 8).take 40) = _
    rw [List.drop_left' (leBytes_length 1 8), List.take_of_length_le (Nat.le_of_eq k.1), k.2]
  · show keyUnwrap key32 ((keyWrap key32 nonce1).take 40) = _
    rw [List.take_of_length_le (Nat.le_of_eq k.1), k.2]

/-- A claim: a public value, the wrapped secret, zeros. -/
theorem test_wit_OwnerCommands_claim :
    ∃ s r, reqOf 0x0101 (.mbx 64) s = some r ∧ 64 % 64 = 0 ∧ s.dev.devsec.claimed = false ∧
      keyUnwrap (hmac (x25519 Config.agreementKey (r.params.take 32)) (r.params.take 32 ++ x25519 Config.agreementKey (leBytes 9 32) ++ leBytes s.fuse.serial 8))
        ((r.params.drop 32).take 40) = some nonce1 ∧ (∃ b ∈ nonce1, b ≠ 0) ∧ (∀ b ∈ r.params.drop 72, b = 0) ∧ s.fuse.claims < 32 := by
  let kek := hmac (x25519 Config.agreementKey key32) (key32 ++ x25519 Config.agreementKey (leBytes 9 32) ++ leBytes up.fuse.serial 8)
  have k := keyUnwrap_keyWrap kek nonce1 (hmac_length _ _) rfl
  have h32 : (key32 ++ keyWrap kek nonce1).take 32 = key32 := List.take_left' rfl
  have d32 : (key32 ++ keyWrap kek nonce1).drop 32 = keyWrap kek nonce1 := List.drop_left' rfl
  refine ⟨withMbx 64 (fresh 0x0101 (key32 ++ keyWrap kek nonce1) none), ⟨.mbx 64, 1, key32 ++ keyWrap kek nonce1⟩, rfl, rfl, rfl, ?_, ⟨3, by decide, by decide⟩, ?_, by decide⟩
  · simp only [h32, d32, List.take_of_length_le (Nat.le_of_eq k.1)]
    exact k.2
  · have e : (key32 ++ keyWrap kek nonce1).drop 72 = [] := List.drop_of_length_le (by rw [List.length_append, k.1]; decide)
    intro b hb
    rw [e] at hb
    cases hb

def outOfService : State := { ask 0x0107 0xFFFE [0] with dev := { up.dev with coldOos := true, devsec := { up.dev.devsec with oos := true } } }

theorem test_wit_OwnerCommands :
    (∃ m : Nat, ∃ s : State, ∃ r : Req, reqOf 0x0102 (.mbx m) s = some r ∧ tenantOf (r.field 0 11 0) s = none ∧ (∀ e ∈ s.tenants, e.2.pasid ≠ r.field 1 19 0) ∧ shellLive (r.field 0 24 16) s = true) ∧
    (∃ m : Nat, ∃ s : State, ∃ r : Req, ∃ e : Tenant, reqOf 0x0103 (.mbx m) s = some r ∧ tenantOf (r.field 0 11 0) s = some e ∧ keysFrom 0 s.tenants = true ∧ keysFrom 0 s.qps = true) ∧
    (∃ m : Nat, ∃ s : State, ∃ r : Req, reqOf 0x0106 (.mbx m) s = some r ∧ r.field 0 8 0 ≤ liveCores s ∧ r.field 0 8 0 ≤ 368) ∧
    (∃ m : Nat, ∃ s : State, ∃ r : Req, reqOf 0x0107 (.mbx m) s = some r ∧ s.dev.devsec.oos = true ∧ s.dev.coldOos = true ∧ bit (r.word 0) 0 = false ∧ s.dev.devsec.floor ≤ liveCores s) ∧
    (∃ m : Nat, ∃ s : State, ∃ r : Req, reqOf 0x0107 (.mbx m) s = some r ∧ (s.dev.devsec.oos = false ∨ s.dev.coldOos = false)) :=
  ⟨⟨1, ask 0x0102 0xFFFE [2 + 2 ^ 16, 6], rq 0xFFFE [2 + 2 ^ 16, 6], by (repeat' apply And.intro) <;> first | exact ask_req _ _ _ _ rfl | decide +kernel⟩,
   ⟨1, ask 0x0103 0xFFFE [1], rq 0xFFFE [1], ten1, by (repeat' apply And.intro) <;> first | exact ask_req _ _ _ _ rfl | decide +kernel⟩,
   ⟨1, ask 0x0106 0xFFFE [8], rq 0xFFFE [8], by (repeat' apply And.intro) <;> first | exact ask_req _ _ _ _ rfl | decide +kernel⟩,
   ⟨1, outOfService, rq 0xFFFE [0], by (repeat' apply And.intro) <;> first | exact ask_req _ _ _ _ rfl | decide +kernel⟩,
   ⟨1, ask 0x0107 0xFFFE [0], rq 0xFFFE [0], by (repeat' apply And.intro) <;> first | exact ask_req _ _ _ _ rfl | decide +kernel⟩⟩

def createPs : List Nat := [0x1000, 0x2000, 12 + 2 ^ 26 + 2 ^ 16]
def qpT : QPair := { qp1 with torn := true, tail := 16 }

theorem test_wit_QueueCommands :
    (∃ m : Nat, ∃ pick : Nat, ∃ token : Word, ∃ rnd : List Byte, ∃ s : State, ∃ r : Req, (token : Word) ≠ 0 ∧ reqOf 0x0701 (.mbx m) s = some r ∧ 4 ≤ r.field 2 3 0 ∧ r.field 2 3 0 ≤ 12 ∧ r.field 2 26 16 ≠ 0 ∧ r.word 0 % 4096 = 0 ∧ r.word 1 % 4096 = 0 ∧ pick < 4096 ∧ tabFind pick s.qps = none ∧ rnd.length = 32) ∧
    (∃ m : Nat, ∃ s : State, ∃ r : Req, ∃ p : QPair, reqOf 0x0702 (.mbx m) s = some r ∧ tabFind (r.field 0 11 0) s.qps = some p ∧ p.tenant = r.tenant ∧ p.closing = none ∧ p.owed = [] ∧ p.awaiting = 0 ∧ keysFrom 0 s.qps = true) ∧
    (∃ m : Nat, ∃ s : State, ∃ r : Req, ∃ p : QPair, reqOf 0x0703 (.mbx m) s = some r ∧ tabFind (r.field 0 11 0) s.qps = some p ∧ p.tenant = r.tenant ∧ p.torn = true ∧ (p.tail + 2 ^ 16 - p.n % 2 ^ 16) % 2 ^ 16 ≤ p.depth) :=
  ⟨⟨1, 4095, 5, nonce1, ask 0x0701 1 createPs, rq 1 createPs, by (repeat' apply And.intro) <;> first | exact ask_req _ _ _ _ rfl | decide +kernel⟩,
   ⟨1, { ask 0x0702 1 [0] with qps := [(0, qp1)] }, rq 1 [0], qp1, by (repeat' apply And.intro) <;> first | exact ask_req _ _ _ _ rfl | decide +kernel⟩,
   ⟨1, { ask 0x0703 1 [0] with qps := [(0, qpT)] }, rq 1 [0], qpT, by (repeat' apply And.intro) <;> first | exact ask_req _ _ _ _ rfl | decide +kernel⟩⟩

/-! ### Shells -/

/-- A descriptor of one seat and one set of one Tier F channel. -/
def descWords (core ch : Nat) : List Nat :=
  [0x53545348 * 2 ^ 32 + 2 ^ 16, 2 ^ 48 + 4 * 2 ^ 32 + 2 ^ 24 + 2 ^ 7 + 2 ^ 3, 0, 4 * 2 ^ 53 + 2 ^ 47 + 200 * 2 ^ 35 + 10 * 2 ^ 27 + 10 * 2 ^ 19 + 10 * 2 ^ 11, core * 2 ^ 55, 8 * 2 ^ 51, 2 ^ ch]
def descExt (core ch : Nat) : Ext := ⟨(descWords core ch).flatMap (fun w => leBytes w 8), 0⟩
/-- `s` with channel 5 usable. -/
def chan5 (s : State) : State := setChan 5 { Chan.zero with usable := true, calib := true } s

/-- What readDesc reads, and the descriptor. -/
def readOf (r : Req) (ch : Nat) (s : State) : (Bad ⊕ Desc) × State := readDesc (r.word 0) (r.field 1 19 0) (r.field 1 40 32) (descExt 2 ch) s
def descAt (r : Req) (ch : Nat) (s : State) : Desc := match (readOf r ch s).1 with | .inr d => d | .inl _ => ⟨[], 0, 0, 0, 0⟩
theorem readOf_ok {r : Req} {ch : Nat} {s : State} (h : (match (readOf r ch s).1 with | .inr _ => true | .inl _ => false) = true) :
    readDesc (r.word 0) (r.field 1 19 0) (r.field 1 40 32) (descExt 2 ch) s = (.inr (descAt r ch s), (readOf r ch s).2) := by
  unfold descAt
  show readOf r ch s = _
  cases hx : readOf r ch s with
  | mk a b =>
    rw [hx] at h
    cases a with
    | inl x => cases h
    | inr x => rfl
def createS : State := chan5 (ask 0x0301 0xFFFE [0x400000000000, 5])
def createR : Req := rq 0xFFFE [0x400000000000, 5]
def rebindS : State := chan5 (ask 0x0302 0xFFFE [0x400000000000, 5, 1, 2 ^ 16])
def rebindR : Req := rq 0xFFFE [0x400000000000, 5, 1, 2 ^ 16]
def substS : State := chan5 (ask 0x0302 0xFFFE [0x400000000000, 5, 1, 64 * 2 ^ 16 + 2240])
def substR : Req := rq 0xFFFE [0x400000000000, 5, 1, 64 * 2 ^ 16 + 2240]
def compOf (r : Req) (ch : Nat) (s : State) : Comp × Option (Nat × Nat × Nat) :=
  (rebindComp shell1 (descAt r ch s).comp (readOf r ch s).2).getD (comp1, none)
def flipOf (r : Req) (ch : Nat) (s : State) : Nat := (firstFlip shell1.comp (descAt r ch s).comp (readOf r ch s).2).getD 0

theorem test_wit_ShellCommands :
    (∃ m : Nat, ∃ ext : Ext, ∃ pick : Nat, ∃ s : State, ∃ r : Req, ∃ de : Desc, ∃ s' : State, ∃ d : Nat, reqOf 0x0301 (.mbx m) s = some r ∧ readDesc (r.word 0) (r.field 1 19 0) (r.field 1 40 32) ext s = (.inr de, s') ∧ freeDom pick s' = some d ∧ checkNew (some d) de s' = none) ∧
    (∃ m : Nat, ∃ ext : Ext, ∃ s : State, ∃ r : Req, ∃ sh : Shell, ∃ de : Desc, ∃ s' : State, ∃ c : Comp, ∃ sub : Option (Nat × Nat × Nat), ∃ f : Nat, reqOf 0x0302 (.mbx m) s = some r ∧ shellOf (r.field 2 8 0) s = some sh ∧ sh.created = none ∧ s.retiring.contains (r.field 2 8 0) = false ∧ sh.rebind = none ∧ 0 < r.field 3 23 16 ∧ r.field 3 23 16 ≤ 64 ∧ readDesc (r.word 0) (r.field 1 19 0) (r.field 1 40 32) ext s = (.inr de, s') ∧ checkRebind (r.field 2 8 0) sh de s' = none ∧ (∀ (i : Nat), i < de.nC → inHandover sh i = false) ∧ s'.released = [] ∧ rebindComp sh de.comp s' = some (c, sub) ∧ firstFlip sh.comp de.comp s' = some f ∧ (∀ (x : Nat × Nat × Nat), sub = some x → 0 < r.field 3 15 0 ∧ r.field 3 15 0 ≤ chanRate s' x.2.1 / 100)) ∧
    (∃ m : Nat, ∃ ext : Ext, ∃ s : State, ∃ r : Req, ∃ sh : Shell, ∃ de : Desc, ∃ s' : State, ∃ c : Comp, ∃ sub : Option (Nat × Nat × Nat), ∃ f : Nat, reqOf 0x0302 (.mbx m) s = some r ∧ shellOf (r.field 2 8 0) s = some sh ∧ sh.created = none ∧ s.retiring.contains (r.field 2 8 0) = false ∧ sh.rebind = none ∧ 0 < r.field 3 23 16 ∧ r.field 3 23 16 ≤ 64 ∧ readDesc (r.word 0) (r.field 1 19 0) (r.field 1 40 32) ext s = (.inr de, s') ∧ checkRebind (r.field 2 8 0) sh de s' = none ∧ (∀ (i : Nat), i < de.nC → inHandover sh i = false) ∧ s'.released = [] ∧ rebindComp sh de.comp s' = some (c, sub) ∧ firstFlip sh.comp de.comp s' = some f ∧ (∀ (x : Nat × Nat × Nat), sub = some x → 0 < r.field 3 15 0 ∧ r.field 3 15 0 ≤ chanRate s' x.2.1 / 100)) ∧
    (∃ m : Nat, ∃ s : State, ∃ r : Req, reqOf 0x0303 (.mbx m) s = some r ∧ shellLive (r.field 0 8 0) s = true ∧ s.retiring.contains (r.field 0 8 0) = false ∧ keysFrom 0 s.mbx = true) ∧
    (∃ src : Src, ∃ s : State, ∃ r : Req, ∃ sh : Shell, reqOf 0x0306 src s = some r ∧ bit (r.word 0) 0 = false ∧ shellOf (r.cdom s) s = some sh) ∧
    (∃ src : Src, ∃ s : State, ∃ r : Req, ∃ x : Tenant, reqOf 0x0306 src s = some r ∧ bit (r.word 0) 0 = true ∧ tenantOf (r.field 0 27 16) s = some x ∧ x.shell = r.cdom s) ∧
    (∃ src : Src, ∃ s : State, ∃ r : Req, ∃ x : Tenant, reqOf 0x0306 src s = some r ∧ bit (r.word 0) 0 = true ∧ tenantOf (r.field 0 27 16) s = some x ∧ x.shell ≠ r.cdom s) :=
  ⟨⟨1, descExt 2 5, 511, createS, createR, descAt createR 5 createS, (readOf createR 5 createS).2, 511, by (repeat' apply And.intro) <;> first | decide +kernel | exact ask_req _ _ _ _ rfl | exact readOf_ok (by decide +kernel)⟩,
   ⟨1, descExt 2 0, rebindS, rebindR, shell1, descAt rebindR 0 rebindS, (readOf rebindR 0 rebindS).2, (compOf rebindR 0 rebindS).1, none, flipOf rebindR 0 rebindS, by (repeat' apply And.intro) <;> first | decide +kernel | exact ask_req _ _ _ _ rfl | exact readOf_ok (by decide +kernel) | exact fun x h => nomatch h⟩,
   ⟨1, descExt 2 5, substS, substR, shell1, descAt substR 5 substS, (readOf substR 5 substS).2, (compOf substR 5 substS).1, some (0, 0, 5), flipOf substR 5 substS, by (repeat' apply And.intro) <;> first | decide +kernel | exact ask_req _ _ _ _ rfl | exact readOf_ok (by decide +kernel) | exact fun x h => by cases h; decide +kernel⟩,
   ⟨1, ask 0x0303 0xFFFE [1], rq 0xFFFE [1], by (repeat' apply And.intro) <;> first | exact ask_req _ _ _ _ rfl | decide +kernel⟩,
   ⟨.mbx 1, ask 0x0306 1 [0], rq 1 [0], shell1, by (repeat' apply And.intro) <;> first | exact ask_req _ _ _ _ rfl | decide +kernel⟩,
   ⟨.mbx 1, ask 0x0306 1 [1 + 2 ^ 16], rq 1 [1 + 2 ^ 16], ten1, by (repeat' apply And.intro) <;> first | exact ask_req _ _ _ _ rfl | decide +kernel⟩,
   ⟨.mbx 1, { ask 0x0306 1 [1 + 2 ^ 17] with tenants := [(1, ten1), (2, { ten1 with shell := 2 })] }, rq 1 [1 + 2 ^ 17], { ten1 with shell := 2 }, by (repeat' apply And.intro) <;> first | exact ask_req _ _ _ _ rfl | decide +kernel⟩⟩

def rb1 : Rebind :=
  { src := .mbx 1, comp := comp1, flip := 2, step := 0, rcopy := 100, copyK := 1, subst := some (0, 0, 5), copied := false, moves := [], trb := 11000, began := 5, forced := false, known := [], old := none }
/-- The device in service with shell 1 so. -/
def withShell (sh : Shell) : State := { up with shells := [(1, sh)] }
/-- A request of an old epoch on core 0. -/
def oldReq (s : State) : State := setCore 0 { Core.zero with groups := [(0, { grp (.nop i0) with far := [⟨0, 0, .g 44, 4, 16, false, true, 7, 7, 0, 1, []⟩] })] } s

def rbStep : Rebind := { rb1 with step := 1 }
def rbMove : Rebind := { rb1 with step := 1, moves := [(0, 3, 2)] }
def oldShell : Shell := { shell1 with oldEpoch := true }
def oldState : State := oldReq (withShell oldShell)
/-- A request of an old epoch that a miss register still holds. -/
def oldsShell : Shell := { oldShell with olds := [(1, 5)] }
def oldsState : State := { withShell oldsShell with coh := { up.coh with miss := [(5, ⟨1, 1, 0, false, false, 1, false, false, [], []⟩)] } }

theorem test_wit_RebindingSteps :
    (∃ d : Nat, ∃ s : State, ∃ sh : Shell, ∃ r : Rebind, ∃ i : Nat, ∃ o : Nat, ∃ n : Nat, shellOf d s = some sh ∧ sh.rebind = some r ∧ r.subst = some (i, o, n) ∧ r.step = 0 ∧ r.copied = false ∧ (chanOf n s).clearing = false ∧ s.stroke.count % max 1 r.copyK = 0) ∧
    (∃ d : Nat, ∃ s : State, ∃ sh : Shell, shellOf d s = some sh ∧ sh.oldEpoch = true ∧ (∀ e ∈ s.cores, oldRequests d e.1 s = false) ∧ (∀ x ∈ sh.olds, x ∉ requestsOf d s)) ∧
    (∃ d : Nat, ∃ s : State, ∃ sh : Shell, ∃ e : Nat × Core, shellOf d s = some sh ∧ e ∈ s.cores ∧ oldRequests d e.1 s = true) ∧
    (∃ d : Nat, ∃ s : State, ∃ sh : Shell, ∃ x : Nat × Nat, shellOf d s = some sh ∧ x ∈ sh.olds ∧ x ∈ requestsOf d s) ∧
    (∃ d : Nat, ∃ seat : Nat, ∃ s : State, ∃ sh : Shell, ∃ r : Rebind, ∃ x : Nat × Nat × Nat, shellOf d s = some sh ∧ sh.rebind = some r ∧ x ∈ r.moves ∧ x.1 = seat ∧ r.step ≠ 0 ∧ sh.oldEpoch = false) ∧
    (∃ d : Nat, ∃ s : State, ∃ sh : Shell, ∃ r : Rebind, shellOf d s = some sh ∧ sh.rebind = some r ∧ r.step ≠ 0 ∧ sh.oldEpoch = false ∧ r.moves = []) ∧
    (∃ d : Nat, ∃ s : State, ∃ sh : Shell, ∃ r : Rebind, shellOf d s = some sh ∧ sh.rebind = some r ∧ r.step ≠ 0 ∧ sh.oldEpoch = true) :=
  ⟨⟨1, withShell { shell1 with rebind := some rb1 }, { shell1 with rebind := some rb1 }, rb1, 0, 0, 5, by (repeat' apply And.intro) <;> decide +kernel⟩,
   ⟨1, withShell oldShell, oldShell, by (repeat' apply And.intro) <;> decide +kernel⟩,
   ⟨1, oldState, oldShell, (0, coreOf 0 oldState), by (repeat' apply And.intro) <;> decide +kernel⟩,
   ⟨1, oldsState, oldsShell, (1, 5), by (repeat' apply And.intro) <;> decide +kernel⟩,
   ⟨1, 0, withShell { shell1 with rebind := some rbMove }, { shell1 with rebind := some rbMove }, rbMove, (0, 3, 2), by (repeat' apply And.intro) <;> decide +kernel⟩,
   ⟨1, withShell { shell1 with rebind := some rbStep }, { shell1 with rebind := some rbStep }, rbStep, by (repeat' apply And.intro) <;> decide +kernel⟩,
   ⟨1, withShell { oldShell with rebind := some rbStep }, { oldShell with rebind := some rbStep }, rbStep, by (repeat' apply And.intro) <;> decide +kernel⟩⟩

end Sys2Proof.Tests
end

