-- ==== Sys2Proof/Tests/Signed.lean ====
section
/-! SUPPORT. An image that verifies: a header of one section, a 3,072-bit prime as its modulus, the signature that belongs to it. The signature and the digest were computed
outside the package with Python's hashlib and pow. -/
set_option Elab.async false

namespace Sys2Proof.Tests
open Sys2Proof Sys2Proof.Machine

def sig1 : Nat := 0x4bd93c63327aa7f56ece6b161a4c24db1570ecf6244f6c3d12283c26010cfe7ae4195e74044b0fcb8aac7fb0286113800e4390905526802d368b8b0ee974565744a9232c961d8af153081435e93334fb2fd711d86f42b826e76ec2cc9a0486c52cc371b28fbaad4956ea12247790cf45c4dc6bc7e6fbd98258b314a9dafce40b10e8e973953048ebe172eaf8691f178ba966d4ade1ddd1a18dbd6340c6b6b71d0fdba54f1a319188ba2a5afa0e224281bc96df9bc2d407a8c57f7d0d2528d16c1198eb7f6371ff1b06eb3aeb8a7b7338571275b9a7c06c18370afc52945966868e98ff8bed6ab01c931a492fd0c3c45c85cd0ed585d76174f8cb1b05cbd8103bc43f35d898291edbf64ec0f5424be6c8f60b4b2a51f5b91023885a13b9b719e8287305768167fbc1645a5a9310da1eeb1ca9d9a86969107ac4c7f88a7ca5b57c4c91ed3859e71bde44a21ffa9de446e14cfbbb357f4861d36fb11af6a08a716a349b71a5917e499cea5f889a643faef767b03378964c3889bcce191ed11958ae
def mod1 : List Byte := beBytes (2 ^ 3071 + 2291) 384
/-- SHA-256 of the image with its signature zero. -/
def digest1 : List Byte := [0x01, 0x30, 0xEB, 0x40, 0xCD, 0x42, 0xEF, 0x60, 0xD8, 0x81, 0x74, 0x1E, 0x7B, 0x5C, 0xF3, 0x66, 0x90, 0xB8, 0xFB, 0xCE, 0xA0, 0xEE, 0x3D, 0x47, 0x21, 0x3E, 0xAA, 0xC7, 0xB0, 0x7D, 0x37, 0x9B]
/-- The image up to its signature's end; zeros follow up to 4,096 bytes. -/
def imgHead : List Byte :=
  ([0x5354574D * 2 ^ 32 + 2 ^ 16 + 7, 4096 * 2 ^ 40 + 2 ^ 32 + 2 ^ 24, 0, 0, 0, 0, 0, 0, 2 ^ 56, 8 * 2 ^ 32] ++ List.replicate 30 0).flatMap (fun w => leBytes w 8) ++ (mod1 ++ beBytes sig1 384)
def img1 : List Byte := imgHead ++ List.replicate 3008 0
def imgMem : Tab Byte := memWrite [] 0 imgHead
def fuse1 : Fuses := { up.fuse with rootHash := sha256 mod1, svnMin := 1 }

theorem imgHead_length : imgHead.length = 1088 := by decide +kernel

theorem memGet_img (x : Nat) : memGet imgMem x = imgHead.getD x 0 := by
  by_cases h : x < imgHead.length
  · have := memGet_write_in imgHead [] 0 x h rfl
    rw [Nat.zero_add] at this
    rw [imgMem, this, List.getD, List.getElem?_eq_getElem h]
    rfl
  · rw [imgMem, memGet_write_out imgHead [] 0 x (Or.inr (by omega)), List.getD, List.getElem?_eq_none (by omega)]
    rfl

theorem tabDel_absent {α : Type} (k : Nat) (t : Tab α) (h : ∀ e ∈ t, e.1 < k) : tabDel k t = t := by
  induction t with
  | nil => rfl
  | cons e t ih =>
    have h1 := h e (by simp)
    obtain ⟨a, v⟩ := e
    simp only [tabDel]
    rw [if_neg (by simp only at h1; omega), ih (fun x hx => h x (by simp [hx]))]

theorem keys_memWrite (bs : List Byte) (m : Tab Byte) (a n : Nat) (hn : a + bs.length ≤ n) (h : ∀ e ∈ m, e.1 < n) : ∀ e ∈ memWrite m a bs, e.1 < n := by
  induction bs generalizing m a with
  | nil => exact h
  | cons b bs ih =>
    simp only [List.length_cons] at hn
    refine ih (memSet m a b) (a + 1) (by omega) (fun e he => ?_)
    simp only [memSet, tabSet] at he
    split at he
    · exact h e (mem_del he)
    · rcases mem_put he with rfl | he
      · show a < n; omega
      · exact h e he

/-- Zeros past the last byte of a memory leave it as it is. -/
theorem write_zeros (m : Tab Byte) (n a : Nat) (h : ∀ e ∈ m, e.1 < a) : memWrite m a (List.replicate n 0) = m := by
  induction n generalizing a with
  | zero => rfl
  | succ n ih =>
    have hk : memSet m a 0 = m := by rw [memSet, tabSet, if_pos rfl, tabDel_absent a m h]
    rw [List.replicate_succ, memWrite, hk]
    exact ih (a + 1) (fun e he => Nat.lt_succ_of_lt (h e he))

theorem imgMem_keys : ∀ e ∈ imgMem, e.1 < 4096 * 1 := keys_memWrite imgHead [] 0 _ (by rw [imgHead_length]; decide) (by simp)

theorem chunkRead_length (m : Tab Byte) (b k n : Nat) : (chunkRead m b k n).length = n := by
  induction n generalizing k with
  | zero => rfl
  | succ n ih => simp [chunkRead, ih]

theorem chunkRead_get (m : Tab Byte) (b k n i : Nat) (h : i < n) : (chunkRead m b k n)[i]'(by rw [chunkRead_length]; exact h) = memGet m (chunkPos b (k + i)) := by
  induction n generalizing k i with
  | zero => cases h
  | succ n ih =>
    cases i with
    | zero => rfl
    | succ i =>
      have := ih (k + 1) i (by omega)
      rw [show k + (i + 1) = k + 1 + i by omega, ← this]
      rfl

theorem imgRead (n : Nat) (h : n ≤ 4096) : chunkRead imgMem 0 0 n = img1.take n := by
  have hl := imgHead_length
  apply List.ext_getElem
  · rw [chunkRead_length, img1, List.length_take, List.length_append, hl, List.length_replicate]; omega
  · intro i h1 h2
    rw [chunkRead_length] at h1
    rw [chunkRead_get _ _ _ _ _ h1, memGet_img, List.getElem_take]
    simp only [chunkPos, chunkBytes, Nat.zero_add, img1]
    by_cases hi : i < 1088
    · rw [show 4096 * (i / 4048) + i % 4048 = i by omega, List.getElem_append_left (by omega), List.getD, List.getElem?_eq_getElem (by omega)]
      rfl
    · rw [List.getElem_append_right (by omega), List.getElem_replicate, List.getD, List.getElem?_eq_none (by omega)]
      rfl

theorem img_mod : (img1.drop 0x140).take 384 = mod1 := by decide +kernel
theorem img_sig : (img1.drop 0x2C0).take 384 = beBytes sig1 384 := by decide +kernel
theorem img_zeroed : img1.take 0x2C0 ++ List.replicate 384 0 ++ img1.drop 0x440 = imgHead.take 0x2C0 ++ List.replicate 3392 0 := by
  rw [img1, List.drop_left' imgHead_length, List.take_append_of_le_length (by rw [imgHead_length]; decide), List.append_assoc, List.replicate_append_replicate]

/-- Blocks one after another. -/
theorem shaGo_append (n m : Nat) (a b : List Byte) (h : List Nat) (ha : a.length = 64 * n) : shaGo (n + m) (a ++ b) h = shaGo m b (shaGo n a h) := by
  induction n generalizing a h with
  | zero =>
    have : a = [] := List.length_eq_zero_iff.mp (by omega)
    subst this
    rw [Nat.zero_add]
    rfl
  | succ n ih =>
    have hd : (a ++ b).drop 64 = a.drop 64 ++ b := List.drop_append_of_le_length (by omega)
    have ht : (a ++ b).take 64 = a.take 64 := List.take_append_of_le_length (by omega)
    rw [show n + 1 + m = (n + m) + 1 by omega, shaGo, hd, ht, ih _ _ (by rw [List.length_drop]; omega)]
    rfl

def sha1 : List Nat := [0x1835B811, 0x8F3485D5, 0x8BAF477A, 0x8F8EBD7D, 0x1860E0D8, 0xDB10D7A8, 0xD0709296, 0x099CE91C]
def sha2 : List Nat := [0x0FE2536E, 0x9BF27D86, 0xA6DC5B9F, 0xDEE81890, 0x6C55DCAB, 0x232FD54D, 0xFEFB66C7, 0xF7AB3FF7]
def sha3 : List Nat := [0x0E728249, 0xF3E3906C, 0xC093E9C8, 0xF8646705, 0x5D369154, 0x4C8B5C93, 0x667F00A4, 0x86442502]
def sha4 : List Nat := [0xB1EF9C04, 0xBA2D60E1, 0x799AA4A5, 0xB96B28C7, 0x51F58530, 0xC3BD35DE, 0xC9EDA9A2, 0x2A4CFE7E]
def sha5 : List Nat := [0x2C0EC561, 0xA913C40C, 0xA5A2D888, 0xBC9A4472, 0xA184896C, 0x9C72173D, 0x21D04666, 0x90911FDB]
def sha6 : List Nat := [0x0B59C23F, 0x47161D6B, 0x8EEF04CB, 0xB2307141, 0x4FFF59CD, 0xA230053F, 0x1BF41FBE, 0x201598A4]
def sha7 : List Nat := [0x6F11CD35, 0x50F16950, 0x32DAFA49, 0x68894B86, 0x93177FAE, 0x6D658D2B, 0xD6F144B6, 0x84E1C6F6]
def sha8 : List Nat := [0x6765A705, 0x186C0996, 0x0CD7E2D8, 0x9D1D8BEE, 0x8971A664, 0xA60A4A55, 0x6F549A05, 0xBA99C2D8]
def sha9 : List Nat := [0x10DE826C, 0x47B0ECCA, 0x582D3A9F, 0x928C9AFE, 0xAD558904, 0xCE91AB67, 0x3ECA3EF1, 0xBF5DC484]
def sha10 : List Nat := [0x0009CEE4, 0xD0142506, 0x816E087C, 0xCE950E61, 0xA29F3487, 0x8A3D8299, 0xAEE85544, 0xDBDF5B46]
def sha11 : List Nat := [0x04DFBF5E, 0xA16F1225, 0x6AF18921, 0xAA5C0D13, 0x66E48FB2, 0x2A92752C, 0x5CDF8162, 0x3B12F259]
def sha12 : List Nat := [0xA496BC24, 0xFAC7A600, 0xA63F0458, 0x1C037BAD, 0xE8B02999, 0xD9A57CB5, 0x101ECC33, 0x0471A745]
def sha13 : List Nat := [0x4EBB2B43, 0xA188CF07, 0x97F29E21, 0xA3F83AAF, 0xF6EFC5F8, 0xAB69FEFE, 0xC4EC8002, 0xDD1A228A]
def sha14 : List Nat := [0xD28DB6FD, 0x5CDCDF1B, 0x4122077A, 0x9456F8D2, 0xC2615ED5, 0x1F4D579C, 0x3AC7E588, 0x5CDB88B4]
def sha15 : List Nat := [0x9273DBA4, 0xFC8C7DFA, 0x06A4795A, 0xBF00EFFD, 0x6A8AF568, 0x8467175E, 0x1909C041, 0x7469FCA2]
def sha16 : List Nat := [0xBD5389C2, 0x7C11874D, 0x3ACE4B6C, 0x073852EF, 0xD0AF4448, 0x22087594, 0xBA9D96EA, 0x19B169E6]
def sha17 : List Nat := [0x0BEEC19A, 0xC3D41C96, 0x485F9EB2, 0xBCF40D6A, 0x1E4D599D, 0xED2290E1, 0x8AC28494, 0xD9D6560E]
def sha18 : List Nat := [0x0130EB40, 0xCD42EF60, 0xD881741E, 0x7B5CF366, 0x90B8FBCE, 0xA0EE3D47, 0x213EAAC7, 0xB07D379B]
theorem sha_step1 : shaGo 4 ((imgHead.drop 0).take 256) shaInit = sha1 := by decide +kernel
theorem sha_step2 : shaGo 4 ((imgHead.drop 256).take 256) sha1 = sha2 := by decide +kernel
theorem sha_step3 : shaGo 3 ((imgHead.drop 512).take 192) sha2 = sha3 := by decide +kernel
theorem sha_step4 : shaGo 4 (List.replicate 256 0) sha3 = sha4 := by decide +kernel
theorem sha_step5 : shaGo 4 (List.replicate 256 0) sha4 = sha5 := by decide +kernel
theorem sha_step6 : shaGo 4 (List.replicate 256 0) sha5 = sha6 := by decide +kernel
theorem sha_step7 : shaGo 4 (List.replicate 256 0) sha6 = sha7 := by decide +kernel
theorem sha_step8 : shaGo 4 (List.replicate 256 0) sha7 = sha8 := by decide +kernel
theorem sha_step9 : shaGo 4 (List.replicate 256 0) sha8 = sha9 := by decide +kernel
theorem sha_step10 : shaGo 4 (List.replicate 256 0) sha9 = sha10 := by decide +kernel
theorem sha_step11 : shaGo 4 (List.replicate 256 0) sha10 = sha11 := by decide +kernel
theorem sha_step12 : shaGo 4 (List.replicate 256 0) sha11 = sha12 := by decide +kernel
theorem sha_step13 : shaGo 4 (List.replicate 256 0) sha12 = sha13 := by decide +kernel
theorem sha_step14 : shaGo 4 (List.replicate 256 0) sha13 = sha14 := by decide +kernel
theorem sha_step15 : shaGo 4 (List.replicate 256 0) sha14 = sha15 := by decide +kernel
theorem sha_step16 : shaGo 4 (List.replicate 256 0) sha15 = sha16 := by decide +kernel
theorem sha_step17 : shaGo 1 (List.replicate 64 0) sha16 = sha17 := by decide +kernel
theorem sha_step18 : shaGo 1 (0x80 :: List.replicate 55 0 ++ beBytes 32768 8) sha17 = sha18 := by decide +kernel

theorem sha_all : shaGo 65 (((imgHead.drop 0).take 256) ++ (((imgHead.drop 256).take 256) ++ (((imgHead.drop 512).take 192) ++ ((List.replicate 256 0) ++ ((List.replicate 256 0) ++ ((List.replicate 256 0) ++ ((List.replicate 256 0) ++ ((List.replicate 256 0) ++ ((List.replicate 256 0) ++ ((List.replicate 256 0) ++ ((List.replicate 256 0) ++ ((List.replicate 256 0) ++ ((List.replicate 256 0) ++ ((List.replicate 256 0) ++ ((List.replicate 256 0) ++ ((List.replicate 256 0) ++ ((List.replicate 64 0) ++ ((0x80 :: List.replicate 55 0 ++ beBytes 32768 8))))))))))))))))))) shaInit = sha18 := by
  rw [shaGo_append 4 61 _ _ _ (by decide +kernel), sha_step1]
  rw [shaGo_append 4 57 _ _ _ (by decide +kernel), sha_step2]
  rw [shaGo_append 3 54 _ _ _ (by decide +kernel), sha_step3]
  rw [shaGo_append 4 50 _ _ _ (by decide +kernel), sha_step4]
  rw [shaGo_append 4 46 _ _ _ (by decide +kernel), sha_step5]
  rw [shaGo_append 4 42 _ _ _ (by decide +kernel), sha_step6]
  rw [shaGo_append 4 38 _ _ _ (by decide +kernel), sha_step7]
  rw [shaGo_append 4 34 _ _ _ (by decide +kernel), sha_step8]
  rw [shaGo_append 4 30 _ _ _ (by decide +kernel), sha_step9]
  rw [shaGo_append 4 26 _ _ _ (by decide +kernel), sha_step10]
  rw [shaGo_append 4 22 _ _ _ (by decide +kernel), sha_step11]
  rw [shaGo_append 4 18 _ _ _ (by decide +kernel), sha_step12]
  rw [shaGo_append 4 14 _ _ _ (by decide +kernel), sha_step13]
  rw [shaGo_append 4 10 _ _ _ (by decide +kernel), sha_step14]
  rw [shaGo_append 4 6 _ _ _ (by decide +kernel), sha_step15]
  rw [shaGo_append 4 2 _ _ _ (by decide +kernel), sha_step16]
  rw [shaGo_append 1 1 _ _ _ (by decide +kernel), sha_step17]
  exact sha_step18

theorem img_digest : sha256 (imgHead.take 0x2C0 ++ List.replicate 3392 0) = digest1 := by
  have hz : List.replicate 3392 (0 : Byte) = List.replicate 256 0 ++ (List.replicate 256 0 ++ (List.replicate 256 0 ++ (List.replicate 256 0 ++ (List.replicate 256 0 ++ (List.replicate 256 0 ++ (List.replicate 256 0 ++ (List.replicate 256 0 ++ (List.replicate 256 0 ++ (List.replicate 256 0 ++ (List.replicate 256 0 ++ (List.replicate 256 0 ++ (List.replicate 256 0 ++ (List.replicate 64 0))))))))))))) := by
    simp only [List.replicate_append_replicate]
  have hd : imgHead.take 0x2C0 = (imgHead.drop 0).take 256 ++ ((imgHead.drop 256).take 256 ++ (imgHead.drop 512).take 192) := by decide +kernel
  have e : (imgHead.take 0x2C0 ++ List.replicate 3392 0) ++ [0x80] ++ List.replicate 55 0 ++ beBytes 32768 8 = ((imgHead.drop 0).take 256) ++ (((imgHead.drop 256).take 256) ++ (((imgHead.drop 512).take 192) ++ ((List.replicate 256 0) ++ ((List.replicate 256 0) ++ ((List.replicate 256 0) ++ ((List.replicate 256 0) ++ ((List.replicate 256 0) ++ ((List.replicate 256 0) ++ ((List.replicate 256 0) ++ ((List.replicate 256 0) ++ ((List.replicate 256 0) ++ ((List.replicate 256 0) ++ ((List.replicate 256 0) ++ ((List.replicate 256 0) ++ ((List.replicate 256 0) ++ ((List.replicate 64 0) ++ ((0x80 :: List.replicate 55 0 ++ beBytes 32768 8)))))))))))))))))) := by
    rw [hd, hz]
    simp only [List.append_assoc, List.cons_append, List.nil_append]
  have l : (imgHead.take 0x2C0 ++ List.replicate 3392 (0 : Byte)).length = 4096 := by simp only [List.length_append, List.length_take, imgHead_length, List.length_replicate]; decide
  have l2 : ((imgHead.take 0x2C0 ++ List.replicate 3392 0) ++ [0x80] ++ List.replicate 55 0 ++ beBytes 32768 8).length = 4160 := by
    rw [List.length_append, List.length_append, List.length_append, l, List.length_replicate, beBytes, List.length_reverse, leBytes_length, List.length_singleton]
  simp only [sha256, l, show (55 + 64 - 4096 % 64) % 64 = 55 from rfl, show 8 * 4096 = 32768 from rfl, l2, show 4160 / 64 = 65 from rfl]
  rw [e, sha_all]
  decide +kernel

theorem img_rsa : rsaVerify mod1 (beBytes sig1 384) digest1 = true := by decide +kernel

theorem img_head : chunkRead imgMem 0 0 headLen = imgHead := by
  rw [imgRead _ (by decide), img1, headLen, List.take_left' imgHead_length]

theorem img_all : chunkRead imgMem 0 0 4096 = img1 := by
  rw [imgRead _ (Nat.le_refl _), img1, List.take_of_length_le (by rw [List.length_append, imgHead_length, List.length_replicate] <;> decide)]

/-- The image verifies under fuses that hold its key's digest and one blown version bit. -/
theorem img_verifies (bad : Nat) : verifyImage fuse1 imgMem [(0, 4048), (1, 48)] bad = .inr ⟨7, 1, digest1, 0, List.replicate 32 0⟩ := by
  have h0 : bits (headWord imgHead 0) 63 32 = 0x5354574D := by decide +kernel
  have h1 : headOk imgHead = true := by decide +kernel
  have h2 : bits (headWord imgHead 1) 63 40 = 4096 := by decide +kernel
  have h3 : chunksThere [(0, 4048), (1, 48)] 0 4096 = true := by decide +kernel
  have h4 : bits (headWord imgHead 1) 39 32 = 1 ∧ svnMin fuse1 = 1 := by decide +kernel
  have h5 : bits (headWord imgHead 0) 15 0 = 7 ∧ bits (headWord imgHead 2) 63 32 = 0 ∧ (imgHead.drop 24).take 32 = List.replicate 32 0 := by decide +kernel
  have h6 : (sha256 mod1 != fuse1.rootHash) = false := by simp [fuse1]
  have h7 : (tabFind 0 [(0, 4048), (1, 48)]).isNone = false := rfl
  simp only [verifyImage, img_head, img_all, h0, h1, h2, h3, h4.1, h4.2, h5.1, h5.2.1, h5.2.2, h6, h7, img_mod, img_sig, img_zeroed, img_digest, img_rsa, bne_self_eq_false,
    Bool.not_true, Bool.false_eq_true, if_false, Nat.lt_irrefl]

end Sys2Proof.Tests
end

