-- ==== Sys2Proof/Tests/Wit5.lean ====
section
/-! SUPPORT. States and operands that meet the hypotheses of the statements about hand-overs, memory commands, graphs, strokes, the regatta and links. -/
set_option Elab.async false

namespace Sys2Proof.Tests
open Sys2Proof Sys2Proof.Machine

/-! ### Hand-overs -/

def handSh : Shell := { shell1 with ranges := [] }
def ownsSh : Shell := { handSh with owns := [(0, ⟨1, 2, 1, 0, 0⟩)] }
/-- The device in service with a request in mailbox 1 and these shells. -/
def askSh (code : Nat) (ps : List Nat) (l : Tab Shell) : State := { ask code 1 ps with shells := l }
def rel1 : Released := ⟨2, 0, 1, 7, 0, ⟨[6], 0, 4, 0⟩, [range0]⟩
def acqPs : List Nat := [2 + 2 ^ 32, 7, 100 * 2 ^ 21]
def acqS : State := { askSh 0x0305 acqPs [(1, shell1)] with released := [rel1] }

theorem test_wit_SetHandovers :
    (∃ src : Src, ∃ s : State, ∃ r : Req, ∃ sh : Shell, reqOf 0x0304 src s = some r ∧ shellOf (r.cdom s) s = some sh ∧ inHandover sh (r.field 0 2 0) = false ∧ setOf sh (r.field 0 2 0) ≠ none ∧ shellLive (r.field 0 24 16) s = true ∧ r.field 0 24 16 ≠ r.cdom s ∧ (r.field 0 2 0 ≠ 0 ∨ sh.comp.seats.any (fun x => x.sliced) = false) ∧ (∀ x ∈ sh.seals, ∀ (y : Range), tabFind x.range sh.ranges = some y → y.set ≠ r.field 0 2 0) ∧ (∀ x ∈ sh.mirrors, ∀ (y : Range), tabFind x.range sh.ranges = some y → y.set ≠ r.field 0 2 0 ∧ y.mset ≠ r.field 0 2 0)) ∧
    (∃ src : Src, ∃ s : State, ∃ r : Req, ∃ sh : Shell, reqOf 0x0304 src s = some r ∧ shellOf (r.cdom s) s = some sh ∧ inHandover sh (r.field 0 2 0) = true) ∧
    (∃ m : Nat, ∃ s : State, ∃ r : Req, ∃ sh : Shell, ∃ rel : Released, ∃ i : Nat, let bases := (List.range rel.ranges.length).map (fun k => r.word (2 + k)); let runs := (rel.ranges.zip bases).map (fun x => (x.2 / 2 ^ 21, x.1.frames)); reqOf 0x0305 (.mbx m) s = some r ∧ shellOf (r.cdom s) s = some sh ∧ s.released.find? (fun x => x.from' == r.field 0 8 0 && x.set == r.field 0 18 16) = some rel ∧ rel.to' = r.cdom s ∧ rel.seq = r.field 1 31 0 ∧ s.now < rel.at' + 100000 ∧ r.field 0 40 32 = rel.ranges.length ∧ 8 * (2 + rel.ranges.length) ≤ r.params.length ∧ (∀ b ∈ bases, b % 2 ^ 21 = 0) ∧ (∀ x ∈ runs, x.1 + x.2 ≤ 2 ^ 23) ∧ runs.Pairwise (fun x y => apart x y = true) ∧ (∀ x ∈ runs, ∀ y ∈ takenFrames sh, apart x y = true) ∧ freeSet sh = some i ∧ sh.ranges.length + rel.ranges.length ≤ 256) ∧
    (∃ m : Nat, ∃ s : State, ∃ r : Req, ∃ sh : Shell, ∃ rel : Released, reqOf 0x0305 (.mbx m) s = some r ∧ shellOf (r.cdom s) s = some sh ∧ 8 * (2 + r.field 0 40 32) ≤ r.params.length ∧ s.released.find? (fun x => x.from' == r.field 0 8 0 && x.set == r.field 0 18 16) = some rel ∧ (rel.to' ≠ r.cdom s ∨ rel.seq ≠ r.field 1 31 0 ∨ rel.at' + 100000 ≤ s.now)) ∧
    (∃ d : Nat, ∃ i : Nat, ∃ s : State, ∃ sh : Shell, ∃ rel : Released, s.released.find? (fun x => x.from' == d && x.set == i) = some rel ∧ s.retiring.contains d = false ∧ shellOf d s = some sh) :=
  ⟨⟨.mbx 1, askSh 0x0304 [2 * 2 ^ 16] [(1, handSh), (2, shell1)], rq 1 [2 * 2 ^ 16], handSh, by (repeat' apply And.intro) <;> first | decide +kernel | exact ask_req _ _ _ _ rfl | exact fun x h => nomatch h⟩,
   ⟨.mbx 1, askSh 0x0304 [0] [(1, ownsSh)], rq 1 [0], ownsSh, by (repeat' apply And.intro) <;> first | decide +kernel | exact ask_req _ _ _ _ rfl⟩,
   ⟨1, acqS, rq 1 acqPs, shell1, rel1, 1, by (repeat' apply And.intro) <;> first | decide +kernel | exact ask_req _ _ _ _ rfl⟩,
   ⟨1, { acqS with now := 100000 }, rq 1 acqPs, shell1, rel1, by (repeat' apply And.intro) <;> first | decide +kernel | exact ask_req _ _ _ _ rfl⟩,
   ⟨2, 0, { up with released := [rel1], shells := [(2, shell1)] }, shell1, rel1, by (repeat' apply And.intro) <;> decide +kernel⟩⟩

/-! ### Memory commands -/

def mapPs (f : Nat) : List Nat := [100 * 2 ^ 21, 4, f, 8]
def set6 : ChSet := ⟨[6], 0, 4, 0⟩
def twoSets : Shell := { shell1 with comp := { comp1 with sets := [(0, set0), (1, set6)] } }
def setC : ChSet := ⟨[0, 1, 2], 2, 4, 0⟩
/-- Set 0 is coded: two data channels and a parity channel. -/
def codedSh (g : Range) : Shell := { shell1 with comp := { comp1 with sets := [(0, setC)] }, ranges := [(0, g)] }
def mirSh (g : Range) : Shell := { twoSets with ranges := [(0, g)] }
def rangeM : Range := { range0 with mirror := true, mset := 1, mirrorLost := true }
def sealedR : Range := { range0 with sealed := true }
def sealing : Shell := { codedSh sealedR with seals := [⟨0, .mbx 1⟩] }

theorem test_wit_RangeCommands :
    (∃ src : Src, ∃ pick : Nat, ∃ s : State, ∃ r : Req, ∃ sh : Shell, ∃ st : ChSet, ∃ f : Nat, reqOf 0x0401 src s = some r ∧ shellOf (r.cdom s) s = some sh ∧ r.word 0 % 2 ^ 21 = 0 ∧ 0 < r.field 1 23 0 ∧ r.word 0 / 2 ^ 21 + r.field 1 23 0 ≤ 2 ^ 23 ∧ (∀ x ∈ takenFrames sh, apart (r.word 0 / 2 ^ 21, r.field 1 23 0) x = true) ∧ inHandover sh (bits (r.word 2) 2 0) = false ∧ bit (r.word 2) 6 = false ∧ s.released = [] ∧ setOf sh (bits (r.word 2) 2 0) = some st ∧ (setAfter sh (bits (r.word 2) 2 0)).isSome = true ∧ r.word 3 = f ∧ f ≠ 2 ^ 64 - 1 ∧ runFree s sh (bits (r.word 2) 2 0) st (f, r.field 1 23 0) = true ∧ pick < 256 ∧ tabFind pick sh.ranges = none ∧ pick ∉ comingIx sh) ∧
    (∃ src : Src, ∃ pick : Nat, ∃ s : State, ∃ r : Req, ∃ sh : Shell, ∃ st : ChSet, ∃ ms : ChSet, ∃ f : Nat, reqOf 0x0401 src s = some r ∧ shellOf (r.cdom s) s = some sh ∧ r.word 0 % 2 ^ 21 = 0 ∧ 0 < r.field 1 23 0 ∧ r.word 0 / 2 ^ 21 + r.field 1 23 0 ≤ 2 ^ 23 ∧ (∀ x ∈ takenFrames sh, apart (r.word 0 / 2 ^ 21, r.field 1 23 0) x = true) ∧ inHandover sh (bits (r.word 2) 2 0) = false ∧ inHandover sh (bits (r.word 2) 5 3) = false ∧ bit (r.word 2) 6 = true ∧ s.released = [] ∧ setOf sh (bits (r.word 2) 2 0) = some st ∧ setOf sh (bits (r.word 2) 5 3) = some ms ∧ (setAfter sh (bits (r.word 2) 2 0)).isSome = true ∧ (setAfter sh (bits (r.word 2) 5 3)).isSome = true ∧ bits (r.word 2) 2 0 ≠ bits (r.word 2) 5 3 ∧ mirrorFits s st ms = true ∧ r.word 3 = f ∧ f ≠ 2 ^ 64 - 1 ∧ runFree s sh (bits (r.word 2) 2 0) st (f, r.field 1 23 0) = true ∧ runFree s sh (bits (r.word 2) 5 3) ms (f, r.field 1 23 0) = true ∧ pick < 256 ∧ tabFind pick sh.ranges = none ∧ pick ∉ comingIx sh) ∧
    (∃ src : Src, ∃ s : State, ∃ r : Req, ∃ sh : Shell, ∃ i : Nat, ∃ g : Range, reqOf 0x0402 src s = some r ∧ shellOf (r.cdom s) s = some sh ∧ rangeByBase sh (r.word 0) = some (i, g) ∧ rangeBusy sh i = false) ∧
    (∃ src : Src, ∃ s : State, ∃ r : Req, ∃ sh : Shell, reqOf 0x0403 src s = some r ∧ shellOf (r.cdom s) s = some sh ∧ r.word 0 % 512 = 0 ∧ r.field 1 39 0 % 512 = 0 ∧ r.field 1 39 0 ≠ 0 ∧ sh.discardPoison = false ∧ (∀ (i : Nat), i < (r.word 0 + r.field 1 39 0 + 2 ^ 21 - 1) / 2 ^ 21 - r.word 0 / 2 ^ 21 → (rangeAt sh (r.word 0 / 2 ^ 21 + i)).isSome = true) ∧ s.coh.open' = [] ∧ s.coh.queue = [] ∧ s.coh.atoms = []) ∧
    (∃ src : Src, ∃ s : State, ∃ r : Req, ∃ sh : Shell, ∃ i : Nat, ∃ g : Range, ∃ st : ChSet, reqOf 0x0405 src s = some r ∧ shellOf (r.cdom s) s = some sh ∧ rangeByBase sh (r.word 0) = some (i, g) ∧ setOf sh g.set = some st ∧ st.coded ≠ 0 ∧ rangeBusy sh i = false ∧ g.sealed = false) ∧
    (∃ src : Src, ∃ s : State, ∃ r : Req, ∃ sh : Shell, ∃ i : Nat, ∃ g : Range, ∃ st : ChSet, reqOf 0x0406 src s = some r ∧ shellOf (r.cdom s) s = some sh ∧ rangeByBase sh (r.word 0) = some (i, g) ∧ setOf sh g.set = some st ∧ st.coded ≠ 0) ∧
    (∃ src : Src, ∃ s : State, ∃ r : Req, ∃ sh : Shell, ∃ i : Nat, ∃ g : Range, ∃ st : ChSet, reqOf 0x0406 src s = some r ∧ shellOf (r.cdom s) s = some sh ∧ rangeByBase sh (r.word 0) = some (i, g) ∧ setOf sh g.set = some st ∧ st.coded = 0) ∧
    (∃ d : Nat, ∃ i : Nat, ∃ s : State, ∃ sh : Shell, ∃ x : Seal, ∃ g : Range, ∃ st : ChSet, shellOf d s = some sh ∧ sh.seals.find? (fun y => y.range == i) = some x ∧ tabFind i sh.ranges = some g ∧ setOf sh g.set = some st ∧ (∀ e ∈ s.mem.rmw, inRun st (sealRun st g) (e.1 / 64) = false) ∧ (∀ e ∈ s.coh.open', inRun st (sealRun st g) e.1 = false)) ∧
    (∃ src : Src, ∃ s : State, ∃ r : Req, ∃ sh : Shell, ∃ i : Nat, ∃ g : Range, ∃ a : ChSet, ∃ b : ChSet, reqOf 0x0407 src s = some r ∧ shellOf (r.cdom s) s = some sh ∧ rangeByBase sh (r.word 0) = some (i, g) ∧ g.mirror = true ∧ g.mirrorLost = true ∧ setOf sh g.set = some a ∧ setOf sh g.mset = some b ∧ (∀ c ∈ a.chans ++ b.chans, (chanOf c s).fenced = false) ∧ rangeBusy sh i = false) ∧
    (∃ src : Src, ∃ s : State, ∃ r : Req, ∃ sh : Shell, ∃ i : Nat, ∃ g : Range, reqOf 0x0407 src s = some r ∧ shellOf (r.cdom s) s = some sh ∧ rangeByBase sh (r.word 0) = some (i, g) ∧ g.mirror = false) :=
  ⟨⟨.mbx 1, 255, ask 0x0401 1 (mapPs (2 ^ 7)), rq 1 (mapPs (2 ^ 7)), shell1, set0, 8, by (repeat' apply And.intro) <;> first | decide +kernel | exact ask_req _ _ _ _ rfl⟩,
   ⟨.mbx 1, 255, askSh 0x0401 (mapPs (2 ^ 6 + 2 ^ 3)) [(1, twoSets)], rq 1 (mapPs (2 ^ 6 + 2 ^ 3)), twoSets, set0, set6, 8, by (repeat' apply And.intro) <;> first | decide +kernel | exact ask_req _ _ _ _ rfl⟩,
   ⟨.mbx 1, ask 0x0402 1 [0], rq 1 [0], shell1, 0, range0, by (repeat' apply And.intro) <;> first | decide +kernel | exact ask_req _ _ _ _ rfl⟩,
   ⟨.mbx 1, ask 0x0403 1 [512, 1024], rq 1 [512, 1024], shell1, by (repeat' apply And.intro) <;> first | decide +kernel | exact ask_req _ _ _ _ rfl⟩,
   ⟨.mbx 1, askSh 0x0405 [0] [(1, codedSh range0)], rq 1 [0], codedSh range0, 0, range0, setC, by (repeat' apply And.intro) <;> first | decide +kernel | exact ask_req _ _ _ _ rfl⟩,
   ⟨.mbx 1, askSh 0x0406 [0] [(1, codedSh sealedR)], rq 1 [0], codedSh sealedR, 0, sealedR, setC, by (repeat' apply And.intro) <;> first | decide +kernel | exact ask_req _ _ _ _ rfl⟩,
   ⟨.mbx 1, ask 0x0406 1 [0], rq 1 [0], shell1, 0, range0, set0, by (repeat' apply And.intro) <;> first | decide +kernel | exact ask_req _ _ _ _ rfl⟩,
   ⟨1, 0, { up with shells := [(1, sealing)] }, sealing, ⟨0, .mbx 1⟩, sealedR, setC, by (repeat' apply And.intro) <;> decide +kernel⟩,
   ⟨.mbx 1, askSh 0x0407 [0] [(1, mirSh rangeM)], rq 1 [0], mirSh rangeM, 0, rangeM, set0, set6, by (repeat' apply And.intro) <;> first | decide +kernel | exact ask_req _ _ _ _ rfl⟩,
   ⟨.mbx 1, ask 0x0407 1 [0], rq 1 [0], shell1, 0, range0, by (repeat' apply And.intro) <;> first | decide +kernel | exact ask_req _ _ _ _ rfl⟩⟩

def ent (code : Nat) (be : Bool) (body : List Nat) : Entry := ⟨code, 9, be, false, false, false, false, 0, [], body⟩
def qpEnt (e : Entry) : QPair := { qp1 with entries := [e], awaiting := 1 }
/-- The device in service with an entry at the head of queue 0, and the request that it is. -/
def withEnt (e : Entry) : State := withQp (qpEnt e)
def rqE (e : Entry) : Req := ⟨.queue 0, 1, e.body.flatMap (fun w => leBytes w 8)⟩
/-- Every tested code reads its entry so. -/
theorem ent_req {code : Nat} {e : Entry} {s : State} (hq : s.qps = [(0, qpEnt e)]) (hc : e.code = code) (hb : queueBlocked 0 s = false) :
    reqOf code (.queue 0) s = some (rqE e) := by
  subst hc
  simp [reqOf, hq, hb, tabFind, qpEnt, qp1, rqE]
def copyG : Entry := ent 0x0409 false [0, 64, 64, 0, 0]
/-- A copy of one sector from address 0 to 64. -/
def copyB : Entry := ent 0x0409 true [0, 64, 64, 0, 0]
def fence0 : Entry := ent 0x0410 false [0, 0, 0, 0, 0]
/-- A fence with a flag at 2^23 − 8, the last word of range 0. -/
def fence1 : Entry := ent 0x0410 false [2 ^ 63 + 2 ^ 23 - 8, 7, 0, 0, 0]
/-- A BAR4 write waits at its home. -/
def waits4 (s : State) : State := { s with coh := aptWait.coh }

theorem test_wit_MemoryServices :
    (∃ m : Nat, ∃ s : State, ∃ r : Req, reqOf 0x0404 (.mbx m) s = some r ∧ r.field 0 1 0 = 0 ∧ dpaUsable s (r.field 1 39 0) = true ∧ (∀ b ∈ s.dev.devsec.pages, sameUnit s true (r.field 1 39 0) b = false) ∧ s.dev.devsec.pages.length < 4096) ∧
    (∃ m : Nat, ∃ s : State, ∃ r : Req, reqOf 0x0404 (.mbx m) s = some r ∧ r.field 0 1 0 = 1 ∧ dpaUsable s (r.field 1 39 0) = true ∧ (∀ b ∈ s.dev.devsec.banks, sameUnit s false (r.field 1 39 0) b = false) ∧ s.dev.devsec.banks.length < 64 ∧ chanOwner (dpaChan (r.field 1 39 0)) s = none ∧ s.released = []) ∧
    (∃ src : Src, ∃ s : State, ∃ r : Req, reqOf 0x0408 src s = some r ∧ (aptOf (r.field 0 9 0) s).valid = false ∧ bit (r.word 0) 16 = true ∧ r.word 1 % 2 ^ 26 = 0) ∧
    (∃ src : Src, ∃ s : State, ∃ r : Req, reqOf 0x0408 src s = some r ∧ (aptOf (r.field 0 9 0) s).valid = true ∧ (aptOf (r.field 0 9 0) s).cdom ≠ r.cdom s) ∧
    (∃ q : Nat, ∃ s : State, ∃ p : QPair, ∃ e : Entry, ∃ rest : List Entry, ∃ r : Req, tabFind q s.qps = some p ∧ p.entries = e :: rest ∧ reqOf 0x0409 (.queue q) s = some r ∧ e.be = false) ∧
    (∃ q : Nat, ∃ s : State, ∃ p : QPair, ∃ e : Entry, ∃ rest : List Entry, ∃ r : Req, ∃ a : Nat, ∃ b : Nat, ∃ wa : Bool, ∃ xa : Bool, ∃ xb : Bool, tabFind q s.qps = some p ∧ p.entries = e :: rest ∧ reqOf 0x0409 (.queue q) s = some r ∧ e.be = true ∧ r.field 2 31 0 = 64 ∧ r.word 0 % 64 = 0 ∧ r.word 1 % 64 = 0 ∧ r.cdom s ∉ s.coh.failing ∧ r.cdom s ∉ (homeNote (r.cdom s) a 64 s).coh.failing ∧ s.rreqs = [] ∧ r.word 0 < 2 ^ 48 ∧ r.word 1 < 2 ^ 48 ∧ locate (r.cdom s) [] (r.word 0) s = .mem a wa xa ∧ locate (r.cdom s) [] (r.word 1) s = .mem b true xb ∧ (homeRead a 64 s).2.1 = true ∧ copyWaits (r.cdom s) (r.word 0) (r.word 1) s = false) ∧
    (∃ q : Nat, ∃ s : State, ∃ r : Req, reqOf 0x0410 (.queue q) s = some r ∧ bar4Waits s = true) ∧
    (∃ q : Nat, ∃ s : State, ∃ r : Req, reqOf 0x0410 (.queue q) s = some r ∧ bar4Waits s = false ∧ s.coh.bar4 = [] ∧ bit (r.word 0) 63 = false) ∧
    (∃ q : Nat, ∃ s : State, ∃ r : Req, ∃ sh : Shell, ∃ dpa : Nat, ∃ g : Range, reqOf 0x0410 (.queue q) s = some r ∧ bar4Waits s = false ∧ s.coh.bar4 = [] ∧ bit (r.word 0) 63 = true ∧ r.field 0 47 0 % 8 = 0 ∧ r.field 0 47 0 < 2 ^ 44 ∧ shellOf (r.cdom s) s = some sh ∧ translate s sh (r.field 0 47 0) = some (dpa, g) ∧ g.wr = true ∧ g.sealed = false ∧ r.cdom s ∉ s.coh.failing ∧ lineBusy (dpa / 512) s = false) :=
  ⟨⟨1, ask 0x0404 0xFFFE [0, 8], rq 0xFFFE [0, 8], by (repeat' apply And.intro) <;> first | decide +kernel | exact ask_req _ _ _ _ rfl⟩,
   ⟨1, ask 0x0404 0xFFFE [1, 2 ^ 38], rq 0xFFFE [1, 2 ^ 38], by (repeat' apply And.intro) <;> first | decide +kernel | exact ask_req _ _ _ _ rfl⟩,
   ⟨.mbx 1, ask 0x0408 1 [3 + 2 ^ 16, 2 ^ 26], rq 1 [3 + 2 ^ 16, 2 ^ 26], by (repeat' apply And.intro) <;> first | decide +kernel | exact ask_req _ _ _ _ rfl⟩,
   ⟨.mbx 1, { ask 0x0408 1 [0, 0] with host := { up.host with apts := [(0, ⟨true, true, 2, 0, 0⟩)] } }, rq 1 [0, 0], by (repeat' apply And.intro) <;> first | decide +kernel | exact ask_req _ _ _ _ rfl⟩,
   ⟨0, withEnt copyG, qpEnt copyG, copyG, [], rqE copyG, by (repeat' apply And.intro) <;> first | decide +kernel | exact ent_req rfl rfl rfl⟩,
   ⟨0, withEnt copyB, qpEnt copyB, copyB, [], rqE copyB, 0, 64, true, false, false, by (repeat' apply And.intro) <;> first | decide +kernel | exact ent_req rfl rfl rfl⟩,
   ⟨0, waits4 (withEnt fence0), rqE fence0, by (repeat' apply And.intro) <;> first | decide +kernel | exact ent_req rfl rfl rfl⟩,
   ⟨0, withEnt fence0, rqE fence0, by (repeat' apply And.intro) <;> first | decide +kernel | exact ent_req rfl rfl rfl⟩,
   ⟨0, withEnt fence1, rqE fence1, shell1, 2 ^ 23 - 8, range0, by (repeat' apply And.intro) <;> first | decide +kernel | exact ent_req rfl rfl rfl⟩⟩

/-! ### Graphs -/

/-- A descriptor of two tiles, one node and one step. -/
def gBytes (crc : Nat) : List Byte :=
  [0x53544752 * 2 ^ 32 + 2 ^ 16, 184 * 2 ^ 32 + crc, 2 * 2 ^ 48 + 2 ^ 16 + 1, 2 ^ 56, 64 * 2 ^ 32, 128 * 2 ^ 32 + 168, 0, 0,
   0x40, 5 * 2 ^ 56 + 2 ^ 40 + 2 ^ 32 + 64, 0, 0x3F800000 * 2 ^ 32, 0x400, 5 * 2 ^ 56 + 2 ^ 40 + 2 ^ 32 + 64, 0, 0x3F800000 * 2 ^ 32,
   0x60 * 2 ^ 56 + 2 ^ 32 + 0xFFFF, 0xFFFF * 2 ^ 48 + 2 ^ 32, 0, 0, 0, 2 ^ 32, 0xFFFF * 2 ^ 48].flatMap (fun w => leBytes w 8)
def gDesc : List Byte := gBytes (crc32c (gBytes 0))
def regState : State := { ask 0x0501 1 [0, 0xFFFF0000, 0] with mem := { up.mem with dram := asMem gDesc } }
def regHead : GHead := headOfWords (wordsOf (coxRead 1 0 64 regState).bytes 8)

def graphSt (code : Nat) (ps : List Nat) : State := { ask code 1 ps with graphs := [(65537, rgraph1)] }

theorem test_wit_GraphHandles :
    (∃ m : Nat, ∃ pick : Nat, ∃ s : State, ∃ r : Req, ∃ sh : Shell, ∃ hd : GHead, ∃ h : Nat, let d := r.cdom s; let x := coxRead d (r.word 0) 64 s; let y := coxRead d (r.word 0) hd.length x.st; let de := descOf hd y.bytes; let g : RegGraph := { graph := de.graph, guar := bit (r.word 1) 0, accFp32 := bit (r.word 1) 1, primary := if r.field 1 31 16 = 0xFFFF then none else some (r.field 1 31 16), fallback := none, seatMap := seatMapOfReq r hd.nSeats, wcet := [], gone := false, goneAt := 0, lostCredit := false }; reqOf 0x0501 (.mbx m) s = some r ∧ shellOf d s = some sh ∧ r.word 0 % 64 = 0 ∧ x.bad = none ∧ headOfWords (wordsOf x.bytes 8) = hd ∧ checkHead hd = none ∧ y.bad = none ∧ 16 + 8 * ceilDiv hd.nSeats 4 ≤ r.params.length ∧ (r.field 1 31 16 ≠ 0xFFFF → fallbackBad d (r.field 1 31 16) de.graph y.st = false) ∧ checkGraph (wctx y.st d sh g) de = none ∧ seatMapBad sh g.seatMap = false ∧ (y.st.graphs.filter (fun e => decide (e.1 / 65536 = d))).length < 1024 ∧ newHandle d pick y.st = some h) ∧
    (∃ m : Nat, ∃ s : State, ∃ r : Req, ∃ sh : Shell, reqOf 0x0501 (.mbx m) s = some r ∧ shellOf (r.cdom s) s = some sh ∧ r.word 0 % 64 ≠ 0) ∧
    (∃ src : Src, ∃ s : State, ∃ r : Req, ∃ g : RegGraph, reqOf 0x0502 src s = some r ∧ graphOf (r.cdom s) (r.field 0 15 0) s = some g ∧ g.gone = false ∧ (∀ e ∈ s.cmds, e.2.cdom ≠ r.cdom s ∧ e.2.handle < 65536) ∧ keysFrom 0 s.graphs = true) ∧
    (∃ src : Src, ∃ s : State, ∃ r : Req, reqOf 0x0502 src s = some r ∧ graphOf (r.cdom s) (r.field 0 15 0) s = none) ∧
    (∃ m : Nat, ∃ s : State, ∃ r : Req, ∃ g : RegGraph, reqOf 0x0505 (.mbx m) s = some r ∧ graphOf (r.cdom s) (r.field 0 15 0) s = some g ∧ g.gone = false ∧ g.wcet.length = 5) :=
  ⟨⟨1, 3, regState, rq 1 [0, 0xFFFF0000, 0], shell1, regHead, 3, by (repeat' apply And.intro) <;> first | decide +kernel | exact ask_req _ _ _ _ rfl | exact rfl⟩,
   ⟨1, ask 0x0501 1 [8, 0, 0], rq 1 [8, 0, 0], shell1, by (repeat' apply And.intro) <;> first | decide +kernel | exact ask_req _ _ _ _ rfl⟩,
   ⟨.mbx 1, graphSt 0x0502 [1], rq 1 [1], rgraph1, by (repeat' apply And.intro) <;> first | decide +kernel | exact ask_req _ _ _ _ rfl⟩,
   ⟨.mbx 1, graphSt 0x0502 [0xFFFF], rq 1 [0xFFFF], by (repeat' apply And.intro) <;> first | decide +kernel | exact ask_req _ _ _ _ rfl⟩,
   ⟨1, graphSt 0x0505 [1], rq 1 [1], rgraph1, by (repeat' apply And.intro) <;> first | decide +kernel | exact ask_req _ _ _ _ rfl⟩⟩

/-- A GRAPH.RUN entry at the head of queue 0. -/
def runE (be : Bool) (h : Nat) : Entry := ent 0x0503 be [h * 2 ^ 48, 0, 0, 0, 0]
def runSt (be : Bool) (h : Nat) (g : RegGraph) : State := { withEnt (runE be h) with graphs := [(65537, g)] }
def parkedCmd (code : Nat) : Cmd := { cmdP with st := .parked, park := some (0, 0, ⟨code, 0, 5, 0⟩) }
def parkedSt (code w1 : Nat) : State := { graphSt 0x0504 [9 * 2 ^ 16, w1] with qps := [(0, qp1)], cmds := [(1, parkedCmd code)] }

theorem test_wit_GraphRuns :
    (∃ q : Nat, ∃ s : State, ∃ p : QPair, ∃ e : Entry, ∃ r : Req, headRun q s = some (p, e, r) ∧ runStatus (r.cdom s) e r s = none ∧ (∀ c ∈ s.cmds, c.2.q ≠ q ∨ c.2.st ≠ .queued) ∧ keysFrom 0 s.cmds = true ∧ e.be = false) ∧
    (∃ q : Nat, ∃ s : State, ∃ p : QPair, ∃ e : Entry, ∃ r : Req, headRun q s = some (p, e, r) ∧ runStatus (r.cdom s) e r s = none ∧ (∀ c ∈ s.cmds, c.2.q ≠ q ∨ c.2.st ≠ .queued) ∧ keysFrom 0 s.cmds = true ∧ e.be = true) ∧
    (∃ q : Nat, ∃ s : State, ∃ p : QPair, ∃ e : Entry, ∃ r : Req, headRun q s = some (p, e, r) ∧ graphOf (r.cdom s) (r.field 0 63 48) s = none) ∧
    (∃ q : Nat, ∃ s : State, ∃ p : QPair, ∃ e : Entry, ∃ r : Req, ∃ g : RegGraph, ∃ sh : Shell, headRun q s = some (p, e, r) ∧ graphOf (r.cdom s) (r.field 0 63 48) s = some g ∧ shellOf (r.cdom s) s = some sh ∧ g.gone = false ∧ e.be = false ∧ g.guar = false) ∧
    (∃ src : Src, ∃ s : State, ∃ r : Req, ∃ p : QPair, ∃ n : Nat, ∃ c : Cmd, ∃ core : Nat, ∃ slot : Nat, ∃ k : ParkRec, reqOf 0x0504 src s = some r ∧ tabFind (r.field 0 11 0) s.qps = some p ∧ tenantShell p.tenant s = r.cdom s ∧ s.cmds.find? (fun e => e.2.q == r.field 0 11 0 && e.2.cid == r.field 0 31 16 && e.2.st == .parked) = some (n, c) ∧ c.park = some (core, slot, k) ∧ r.word 1 % 2 = 0 ∧ (k.code = 0x06 ∨ k.code = 0x16)) ∧
    (∃ src : Src, ∃ s : State, ∃ r : Req, ∃ p : QPair, ∃ n : Nat, ∃ c : Cmd, ∃ core : Nat, ∃ slot : Nat, ∃ k : ParkRec, reqOf 0x0504 src s = some r ∧ tabFind (r.field 0 11 0) s.qps = some p ∧ tenantShell p.tenant s = r.cdom s ∧ s.cmds.find? (fun e => e.2.q == r.field 0 11 0 && e.2.cid == r.field 0 31 16 && e.2.st == .parked) = some (n, c) ∧ c.park = some (core, slot, k) ∧ r.word 1 % 2 = 0 ∧ (k.code = 0x06 ∨ k.code = 0x16)) ∧
    (∃ src : Src, ∃ s : State, ∃ r : Req, ∃ p : QPair, ∃ n : Nat, ∃ c : Cmd, ∃ core : Nat, ∃ slot : Nat, ∃ k : ParkRec, reqOf 0x0504 src s = some r ∧ tabFind (r.field 0 11 0) s.qps = some p ∧ tenantShell p.tenant s = r.cdom s ∧ s.cmds.find? (fun e => e.2.q == r.field 0 11 0 && e.2.cid == r.field 0 31 16 && e.2.st == .parked) = some (n, c) ∧ c.park = some (core, slot, k) ∧ (r.word 1 % 2 = 1 ∨ (k.code ≠ 0x06 ∧ k.code ≠ 0x16))) ∧
    (∃ src : Src, ∃ s : State, ∃ r : Req, ∃ p : QPair, ∃ n : Nat, ∃ c : Cmd, ∃ core : Nat, ∃ slot : Nat, ∃ k : ParkRec, reqOf 0x0504 src s = some r ∧ tabFind (r.field 0 11 0) s.qps = some p ∧ tenantShell p.tenant s = r.cdom s ∧ s.cmds.find? (fun e => e.2.q == r.field 0 11 0 && e.2.cid == r.field 0 31 16 && e.2.st == .parked) = some (n, c) ∧ c.park = some (core, slot, k) ∧ (r.word 1 % 2 = 1 ∨ (k.code ≠ 0x06 ∧ k.code ≠ 0x16))) :=
  ⟨⟨0, runSt false 1 { rgraph1 with guar := true }, qpEnt (runE false 1), runE false 1, rqE (runE false 1), by (repeat' apply And.intro) <;> first | decide +kernel | exact rfl⟩,
   ⟨0, runSt true 1 rgraph1, qpEnt (runE true 1), runE true 1, rqE (runE true 1), by (repeat' apply And.intro) <;> first | decide +kernel | exact rfl⟩,
   ⟨0, runSt true 2 rgraph1, qpEnt (runE true 2), runE true 2, rqE (runE true 2), by (repeat' apply And.intro) <;> first | decide +kernel | exact rfl⟩,
   ⟨0, runSt false 1 rgraph1, qpEnt (runE false 1), runE false 1, rqE (runE false 1), rgraph1, shell1, by (repeat' apply And.intro) <;> first | decide +kernel | exact rfl⟩,
   ⟨.mbx 1, parkedSt 0x06 0, rq 1 [9 * 2 ^ 16, 0], qp1, 1, parkedCmd 0x06, 0, 0, ⟨0x06, 0, 5, 0⟩, by (repeat' apply And.intro) <;> first | decide +kernel | exact ask_req _ _ _ _ rfl⟩,
   ⟨.mbx 1, parkedSt 0x16 0, rq 1 [9 * 2 ^ 16, 0], qp1, 1, parkedCmd 0x16, 0, 0, ⟨0x16, 0, 5, 0⟩, by (repeat' apply And.intro) <;> first | decide +kernel | exact ask_req _ _ _ _ rfl⟩,
   ⟨.mbx 1, parkedSt 0x06 1, rq 1 [9 * 2 ^ 16, 1], qp1, 1, parkedCmd 0x06, 0, 0, ⟨0x06, 0, 5, 0⟩, by (repeat' apply And.intro) <;> first | decide +kernel | exact ask_req _ _ _ _ rfl⟩,
   ⟨.mbx 1, parkedSt 0x11 0, rq 1 [9 * 2 ^ 16, 0], qp1, 1, parkedCmd 0x11, 0, 0, ⟨0x11, 0, 5, 0⟩, by (repeat' apply And.intro) <;> first | decide +kernel | exact ask_req _ _ _ _ rfl⟩⟩

/-! ### Strokes and the regatta -/

def cfgPs (t : Nat) : List Nat := [t, 1000000, 10000, 5000, 25000]
def board (f : Board → Board) (s : State) : State := { s with dev := { s.dev with board := f s.dev.board } }
def member (s : State) : State := board (fun b => { b with regatta := 3 }) s
def master (s : State) : State := board (fun b => { b with regatta := 3, master := true, members := 2, devId := 1 }) s
def cw1 : CfgWait := ⟨9, ⟨1000000, 10000, 5000, 25000⟩, .mbx 1, 0, []⟩
def badPs : List Nat := [2, 0, 0, 0, 0]
def badCfg : Nat := (cfgRefusal ⟨0, 0, 0, 0⟩ (ask 0x0601 0xFFFE badPs)).getD 0
def waitReg (w : CfgWait) (s : State) : State := { s with reg := { s.reg with wait := some w } }

theorem test_wit_StrokeCommands :
    (∃ m : Nat, ∃ s : State, ∃ r : Req, reqOf 0x0601 (.mbx m) s = some r ∧ s.dev.board.regatta = 0 ∧ 2 ≤ strokesTo s.stroke.count (r.word 0) ∧ strokesTo s.stroke.count (r.word 0) < 2 ^ 47 ∧ cfgBusy s = false ∧ cfgRefusal ⟨r.word 1, r.word 2, r.word 3, r.word 4⟩ s = none) ∧
    (∃ m : Nat, ∃ s : State, ∃ r : Req, reqOf 0x0601 (.mbx m) s = some r ∧ isMember s = false ∧ strokesTo s.stroke.count (r.word 0) < 2) ∧
    (∃ m : Nat, ∃ s : State, ∃ r : Req, reqOf 0x0601 (.mbx m) s = some r ∧ isMember s = true) ∧
    (∃ m : Nat, ∃ s : State, ∃ r : Req, ∃ d : Nat, reqOf 0x0601 (.mbx m) s = some r ∧ s.dev.board.regatta = 0 ∧ 2 ≤ strokesTo s.stroke.count (r.word 0) ∧ strokesTo s.stroke.count (r.word 0) < 2 ^ 47 ∧ cfgBusy s = false ∧ cfgRefusal ⟨r.word 1, r.word 2, r.word 3, r.word 4⟩ s = some d) ∧
    (∃ s : State, ∃ w : CfgWait, s.reg.wait = some w) ∧
    (∃ src : Src, ∃ s : State, ∃ r : Req, reqOf 0x0602 src s = some r) ∧
    (∃ src : Src, ∃ s : State, ∃ r : Req, reqOf 0x0603 src s = some r) :=
  ⟨⟨1, ask 0x0601 0xFFFE (cfgPs 2), rq 0xFFFE (cfgPs 2), by (repeat' apply And.intro) <;> first | decide +kernel | exact ask_req _ _ _ _ rfl⟩,
   ⟨1, ask 0x0601 0xFFFE (cfgPs 1), rq 0xFFFE (cfgPs 1), by (repeat' apply And.intro) <;> first | decide +kernel | exact ask_req _ _ _ _ rfl⟩,
   ⟨1, member (ask 0x0601 0xFFFE (cfgPs 1)), rq 0xFFFE (cfgPs 1), by (repeat' apply And.intro) <;> first | decide +kernel | exact ask_req _ _ _ _ rfl⟩,
   ⟨1, ask 0x0601 0xFFFE badPs, rq 0xFFFE badPs, badCfg, by (repeat' apply And.intro) <;> first | decide +kernel | exact ask_req _ _ _ _ rfl⟩,
   ⟨waitReg cw1 up, cw1, by (repeat' apply And.intro) <;> decide +kernel⟩,
   ⟨.mbx 1, ask 0x0602 1 [], rq 1 [], by (repeat' apply And.intro) <;> first | decide +kernel | exact ask_req _ _ _ _ rfl⟩,
   ⟨.mbx 1, ask 0x0603 1 [5], rq 1 [5], by (repeat' apply And.intro) <;> first | decide +kernel | exact ask_req _ _ _ _ rfl⟩⟩

def link0 : Link := { Link.zero with st := .up, width := 4, partner := 2, regatta := 3, startId := some 2 }
/-- A member with link 0 up and its stroke timer running in the recovery phase. -/
def memberUp (f : Regatta → Regatta) : State :=
  let s := member { up with links := [(0, link0)], stroke := { up.stroke with running := true, phase := .recovery } }
  { s with reg := f s.reg }
def beacon1 (off : Int) : BeaconMsg := ⟨0, 1, 3, 0, off⟩
def retract1 : RetractUnit := ⟨2, 5, 1, 1, 3, 0⟩
def joinedUp : State := memberUp (fun r => { r with joined := true })
def stepUp : State := memberUp (fun r => { r with stepTo := some (7, -3), cfg := some ⟨1000000, 10000, 5000, 25000⟩ })
def syncUp : State := board (fun b => { b with pos := 1 }) (memberUp (fun r => { r with syncMiss := 8 }))

theorem test_wit_RegattaSteps :
    (∃ l : Nat, ∃ b : BeaconMsg, ∃ s : State, isMember s = true ∧ s.stroke.running = true ∧ l ∈ regattaLinks s ∧ b.regatta = s.dev.board.regatta ∧ (∀ (h : Nat), s.reg.hops = some h → b.hops < h) ∧ s.reg.joined = true ∧ b.count = s.stroke.count ∧ s.stroke.count < 2 ^ 48 ∧ b.offset.natAbs ≤ 200) ∧
    (∃ l : Nat, ∃ b : BeaconMsg, ∃ s : State, isMember s = true ∧ s.stroke.running = true ∧ l ∈ regattaLinks s ∧ b.regatta = s.dev.board.regatta ∧ (∀ (h : Nat), s.reg.hops = some h → b.hops < h) ∧ s.reg.joined = true ∧ b.count = s.stroke.count ∧ s.stroke.count < 2 ^ 48 ∧ b.offset.natAbs ≤ 200) ∧
    (∃ l : Nat, ∃ b : BeaconMsg, ∃ s : State, isMember s = true ∧ s.stroke.running = true ∧ l ∈ regattaLinks s ∧ b.regatta = s.dev.board.regatta ∧ (∀ (h : Nat), s.reg.hops = some h → b.hops < h) ∧ s.reg.joined = true ∧ 10000 < b.offset.natAbs) ∧
    (∃ s : State, ∃ delta : Nat, ∃ off : Int, ∃ c : StrokeCfg, isMember s = true ∧ s.stroke.running = true ∧ s.stroke.phase = .recovery ∧ s.reg.stepTo = some (delta, off) ∧ s.reg.cfg = some c ∧ linkedWindow s = false) ∧
    (∃ s : State, isMember s = true ∧ s.reg.joined = true ∧ 8 ≤ s.reg.miss) ∧
    (∃ o : Int, ∃ s : State, takesSync s = true ∧ s.stroke.running = true ∧ o.natAbs ≤ 100) ∧
    (∃ s : State, takesSync s = true ∧ 8 ≤ s.reg.syncMiss) ∧
    (∃ l : Nat, ∃ r : RetractUnit, ∃ s : State, ∃ sh : Shell, ∃ e : Tenant, l ∈ regattaLinks s ∧ r.regatta = s.dev.board.regatta ∧ (r.origin, r.rseq) ∉ s.reg.seen ∧ tenantOf r.tenant s = some e ∧ shellOf e.shell s = some sh ∧ keysFrom 0 s.cmds = true) ∧
    (∃ r : RetractUnit, ∃ s : State, (r.origin, r.rseq) ∈ s.reg.seen) :=
  ⟨⟨0, beacon1 200, joinedUp, by (repeat' apply And.intro) <;> first | decide +kernel | exact opt_none rfl⟩,
   ⟨0, beacon1 (-10), joinedUp, by (repeat' apply And.intro) <;> first | decide +kernel | exact opt_none rfl⟩,
   ⟨0, beacon1 10001, joinedUp, by (repeat' apply And.intro) <;> first | decide +kernel | exact opt_none rfl⟩,
   ⟨stepUp, 7, -3, ⟨1000000, 10000, 5000, 25000⟩, by (repeat' apply And.intro) <;> decide +kernel⟩,
   ⟨memberUp (fun r => { r with joined := true, miss := 8 }), by (repeat' apply And.intro) <;> decide +kernel⟩,
   ⟨-100, syncUp, by (repeat' apply And.intro) <;> decide +kernel⟩,
   ⟨syncUp, by (repeat' apply And.intro) <;> decide +kernel⟩,
   ⟨0, retract1, memberUp id, shell1, ten1, by (repeat' apply And.intro) <;> decide +kernel⟩,
   ⟨retract1, memberUp (fun r => { r with seen := [(2, 5)] }), by (repeat' apply And.intro) <;> decide +kernel⟩⟩

def masterUp (f : Regatta → Regatta) : State := let s := master { up with links := [(0, link0)] }; { s with reg := f s.reg }
def waitUp : State := masterUp (fun r => { r with wait := some cw1 })
/-- A shell whose re-binding has begun its steps. -/
def rebindSh : Shell := { shell1 with rebind := some rbStep }

theorem test_wit_CoxMessages :
    (∃ l : Nat, ∃ s : State, linkRuns l s = true ∧ isMember s = true ∧ s.stroke.pend = none ∧ s.reg.wait = none ∧ (∀ e ∈ s.shells, ∀ (r : Rebind), e.2.rebind = some r → r.step ≠ 0)) ∧
    (∃ l : Nat, ∃ k : Nat, ∃ s : State, ∃ w : CfgWait, linkRuns l s = true ∧ s.dev.board.master = true ∧ s.reg.wait = some w ∧ k ∉ w.yes ∧ s.dev.board.members ≤ w.yes.length + 1) ∧
    (∃ l : Nat, ∃ s : State, ∃ w : CfgWait, linkRuns l s = true ∧ s.dev.board.master = true ∧ s.reg.wait = some w) ∧
    (∃ l : Nat, ∃ s : State, linkRuns l s = true ∧ s.dev.board.master = true) ∧
    (∃ l : Nat, ∃ g : Nat, ∃ s : State, linkRuns l s = true ∧ sameRegatta l s = true ∧ shareTotal l s + g ≤ linkCap l s) ∧
    (∃ l : Nat, ∃ g : Nat, ∃ s : State, linkRuns l s = true ∧ linkCap l s < shareTotal l s + g) ∧
    (∃ l : Nat, ∃ s : State, linkRuns l s = false) :=
  ⟨⟨0, { memberUp id with shells := [(1, rebindSh)] }, by (repeat' apply And.intro) <;> first | decide +kernel | (intro e h r hr; simp at h; subst h; cases hr; decide)⟩,
   ⟨0, 2, board (fun b => { b with members := 1 }) waitUp, cw1, by (repeat' apply And.intro) <;> decide +kernel⟩,
   ⟨0, waitUp, cw1, by (repeat' apply And.intro) <;> decide +kernel⟩,
   ⟨0, masterUp id, by (repeat' apply And.intro) <;> decide +kernel⟩,
   ⟨0, 90, masterUp id, by (repeat' apply And.intro) <;> decide +kernel⟩,
   ⟨0, 91, masterUp id, by (repeat' apply And.intro) <;> decide +kernel⟩,
   ⟨17, up, by (repeat' apply And.intro) <;> decide +kernel⟩⟩

end Sys2Proof.Tests
end

