-- ==== Sys2Proof/Tests/Wit6.lean ====
section
/-! SUPPORT. States and operands that meet the hypotheses of the statements about links, remote requests, faults, scans and resets. -/
set_option Elab.async false

namespace Sys2Proof.Tests
open Sys2Proof Sys2Proof.Machine

/-! ### Links -/

/-- A flit of zeros: its sequence number is 0 and so is its CRC. -/
def flit0 : List Byte := List.replicate 256 0
/-- A flit with a CRC that is not its own. -/
def flitBad : List Byte := List.replicate 8 0 ++ List.replicate 8 1 ++ List.replicate 240 0

theorem crc64_zeros (n : Nat) : crc64 (List.replicate n 0) = 0 := by
  unfold crc64
  induction n with
  | zero => rfl
  | succ n ih =>
    have h : crc64Step 8 (0 ^^^ ((0 : Byte).toNat * 2 ^ 56)) = 0 := by decide
    rw [List.replicate_succ, List.foldl_cons, h]
    exact ih

theorem flit0_crc : leNat ((flit0.drop 8).take 8) = crc64 (flit0.take 8 ++ flit0.drop 16) := by
  have h : flit0.take 8 ++ flit0.drop 16 = List.replicate 248 0 := by decide +kernel
  rw [h, crc64_zeros]
  decide +kernel
theorem flitBad_crc : leNat ((flitBad.drop 8).take 8) ≠ crc64 (flitBad.take 8 ++ flitBad.drop 16) := by
  have h : flitBad.take 8 ++ flitBad.drop 16 = List.replicate 248 0 := by decide +kernel
  rw [h, crc64_zeros]
  decide +kernel

def withLink (f : Link → Link) (s : State) : State := { s with links := [(17, f link0)] }
def retrain (k : Link) : Link := { k with st := .retraining, badLanes := [3], retrainAt := some 5 }

theorem test_wit_LinkRows :
    (∃ l : Nat, ∃ flit : List Byte, ∃ s : State, (linkOf l s).st = .up ∧ s.flt.injs = [] ∧ flit.length = 256 ∧ leNat ((flit.drop 8).take 8) = crc64 (flit.take 8 ++ flit.drop 16) ∧ bits (leNat (flit.take 8)) 63 62 = 0 ∧ bit (leNat (flit.take 8)) 37 = false ∧ bits (leNat (flit.take 8)) 61 50 = ((linkOf l s).aseq + 1) % 4096) ∧
    (∃ l : Nat, ∃ flit : List Byte, ∃ s : State, (linkOf l s).st = .up ∧ s.flt.injs = [] ∧ leNat ((flit.drop 8).take 8) ≠ crc64 (flit.take 8 ++ flit.drop 16)) ∧
    (∃ l : Nat, ∃ s : State, (linkOf l s).st = .up ∧ s.flt.injs = [] ∧ (linkOf l s).quiet = none) ∧
    (∃ l : Nat, ∃ s : State, (linkOf l s).st = .up ∧ 8 ≤ (linkOf l s).replays) ∧
    (∃ l : Nat, ∃ lane : Nat, ∃ s : State, (linkOf l s).st = .up ∧ lane < 4 ∧ (linkOf l s).badLanes = []) ∧
    (∃ l : Nat, ∃ width : Nat, ∃ p : Nat, ∃ s : State, (linkOf l s).st = .retraining ∧ (linkOf l s).startId = some p ∧ 0 < width ∧ soundWidth (linkOf l s).badLanes ≠ 0) ∧
    (∃ l : Nat, ∃ p : Nat, ∃ q : Nat, ∃ s : State, (linkOf l s).st = .retraining ∧ (linkOf l s).startId = some q ∧ q ≠ p) ∧
    (∃ l : Nat, ∃ s : State, ∃ a : Nat, (linkOf l s).st = .retraining ∧ (linkOf l s).retrainAt = some a) ∧
    (∃ l : Nat, ∃ s : State, (linkOf l s).st = .up) ∧
    (∃ l : Nat, ∃ width : Nat, ∃ p : Nat, ∃ s : State, l < 18 ∧ (linkOf l s).st = .untrained ∧ s.dev.stage ∈ [Stage.cox, .memory, .filled, .tested, .released] ∧ 0 < width ∧ (∀ (q : Nat), (linkOf l s).startId = some q → q = p)) :=
  ⟨⟨17, flit0, withLink (fun k => { k with aseq := 4095 }) up, by (repeat' apply And.intro) <;> first | decide +kernel | exact flit0_crc⟩,
   ⟨17, flitBad, withLink id up, by (repeat' apply And.intro) <;> first | decide +kernel | exact flitBad_crc⟩,
   ⟨17, withLink id up, by (repeat' apply And.intro) <;> decide +kernel⟩,
   ⟨17, withLink (fun k => { k with replays := 8 }) up, by (repeat' apply And.intro) <;> decide +kernel⟩,
   ⟨17, 3, withLink id up, by (repeat' apply And.intro) <;> decide +kernel⟩,
   ⟨17, 4, 2, withLink retrain up, by (repeat' apply And.intro) <;> decide +kernel⟩,
   ⟨17, 3, 2, withLink retrain up, by (repeat' apply And.intro) <;> decide +kernel⟩,
   ⟨17, withLink retrain up, 5, by (repeat' apply And.intro) <;> decide +kernel⟩,
   ⟨17, withLink id up, by (repeat' apply And.intro) <;> decide +kernel⟩,
   ⟨17, 4, 2, up, by (repeat' apply And.intro) <;> first | decide +kernel | exact opt_none rfl⟩⟩

/-- A request of device 2 here. -/
def msg (off : Nat) (data : List Byte) : RemoteMsg := ⟨1, 0, 2, 1, 4, 0, 0, 0, off, 8, data⟩
def other : RemoteMsg := { msg 0 [] with dst := 3 }
def linkUp : State := withLink id up
/-- Line 0 belongs to agent 31 of shell 1. -/
def linkOwned : State := { linkUp with coh := { up.coh with dir := [(0, ⟨1, .owned, false, 3, none, 2 ^ 31, 0⟩)] } }
def readOnly : State := { linkUp with shells := [(1, { shell1 with ranges := [(0, { range0 with wr := false })] })] }
def spadUp : State := { linkUp with cores := (live (grp (.nop i0))).cores, cmds := [(1, cmd1)], graphs := [(65537, rgraph1)] }
def spadOf (m : RemoteMsg) (s : State) : Nat × Nat × Nat := match servePlace m s with | .inr (d, .spad c o) => (d, c, o) | _ => (0, 0, 0)
def errOf (m : RemoteMsg) (s : State) : Nat := match servePlace m s with | .inl e => e | _ => 0
def req0 (w : RWait) : RReq := ⟨17, 2, 0x40, none, 0, 0, w⟩
def peerItem : FarItem := ⟨31, 0x40, .peer 2 0x40, 16, none, false⟩
def peerAcc : FarReq := { far1 with pc := 5, items := [peerItem] }
def peerGroup : Group := { grp (.nop i0) with far := [peerAcc] }
def thread0 : RReq := req0 (.thread 0 0 5 0)
def peerUp : State := { setCore 0 { Core.zero with groups := [(0, peerGroup)] } up with rreqs := [(4, thread0)] }

theorem test_wit_RemoteRows :
    (∃ l : Nat, ∃ m : RemoteMsg, ∃ s : State, ∃ d : Nat, ∃ dpa : Nat, ∃ wr : Bool, ∃ x : Bool, let line := dpa / 512; let len := min m.len (512 - dpa % 512); let q := HMsg.rread m.vc m.tag m.src (dpa % 512) len d; linkRuns l s = true ∧ m.dst = s.dev.board.devId ∧ servePlace m s = .inr (d, .mem dpa wr x) ∧ d ∉ s.coh.failing ∧ idleLine line s ∧ readsOpen line q s = true ∧ (dirOf line s).dstate = .inv) ∧
    (∃ l : Nat, ∃ m : RemoteMsg, ∃ s : State, ∃ d : Nat, ∃ dpa : Nat, ∃ wr : Bool, ∃ x : Bool, let line := dpa / 512; let len := min m.len (512 - dpa % 512); let q := HMsg.rread m.vc m.tag m.src (dpa % 512) len d; ∃ o : Nat, linkRuns l s = true ∧ m.dst = s.dev.board.devId ∧ servePlace m s = .inr (d, .mem dpa wr x) ∧ d ∉ s.coh.failing ∧ idleLine line s ∧ readsOpen line q s = true ∧ creditsUsed line q.creditClass s < creditCap q.creditClass ∧ (dirOf line s).dstate = .owned ∧ (dirOf line s).presence = 2 ^ o ∧ o < 32) ∧
    (∃ l : Nat, ∃ m : RemoteMsg, ∃ s : State, ∃ d : Nat, ∃ dpa : Nat, ∃ x : Bool, let line := dpa / 512; linkRuns l s = true ∧ m.dst = s.dev.board.devId ∧ servePlace m s = .inr (d, .mem dpa true x) ∧ d ∉ s.coh.failing ∧ idleLine line s ∧ (dirOf line s).dstate = .inv) ∧
    (∃ l : Nat, ∃ m : RemoteMsg, ∃ s : State, ∃ d : Nat, ∃ dpa : Nat, ∃ x : Bool, let line := dpa / 512; let cells := ((writeParts m).flatMap (fun p => cellsOf (dpa % 512 + p.1 - m.offset) p.2)).filter (fun c => decide (c.1 < 512)); let q := HMsg.rwrite m.vc m.tag m.src d cells; ∃ o : Nat, linkRuns l s = true ∧ m.dst = s.dev.board.devId ∧ servePlace m s = .inr (d, .mem dpa true x) ∧ d ∉ s.coh.failing ∧ idleLine line s ∧ creditsUsed line q.creditClass s < creditCap q.creditClass ∧ (dirOf line s).dstate = .owned ∧ (dirOf line s).presence = 2 ^ o ∧ o < 32) ∧
    (∃ l : Nat, ∃ m : RemoteMsg, ∃ s : State, ∃ d : Nat, ∃ dpa : Nat, ∃ x : Bool, let line := dpa / 512; linkRuns l s = true ∧ m.dst = s.dev.board.devId ∧ servePlace m s = .inr (d, .mem dpa true x) ∧ d ∉ s.coh.failing ∧ idleLine line s ∧ m.sub = 0) ∧
    (∃ l : Nat, ∃ m : RemoteMsg, ∃ s : State, ∃ d : Nat, ∃ dpa : Nat, ∃ x : Bool, linkRuns l s = true ∧ m.dst = s.dev.board.devId ∧ servePlace m s = .inr (d, .mem dpa false x)) ∧
    (∃ l : Nat, ∃ m : RemoteMsg, ∃ s : State, ∃ d : Nat, ∃ c : Nat, ∃ o : Nat, linkRuns l s = true ∧ m.dst = s.dev.board.devId ∧ servePlace m s = .inr (d, .spad c o) ∧ m.sub = 0) ∧
    (∃ l : Nat, ∃ m : RemoteMsg, ∃ s : State, ∃ d : Nat, ∃ dpa : Nat, ∃ x : Bool, linkRuns l s = true ∧ m.dst = s.dev.board.devId ∧ servePlace m s = .inr (d, .mem dpa true x) ∧ d ∉ s.coh.failing) ∧
    (∃ l : Nat, ∃ m : RemoteMsg, ∃ s : State, ∃ d : Nat, ∃ dpa : Nat, ∃ x : Bool, linkRuns l s = true ∧ m.dst = s.dev.board.devId ∧ servePlace m s = .inr (d, .mem dpa true x) ∧ d ∉ s.coh.failing) ∧
    (∃ l : Nat, ∃ m : RemoteMsg, ∃ s : State, ∃ e : Nat, linkRuns l s = true ∧ m.dst = s.dev.board.devId ∧ servePlace m s = .inl e) ∧
    (∃ l : Nat, ∃ m : RemoteMsg, ∃ s : State, linkRuns l s = true ∧ m.dst ≠ s.dev.board.devId) ∧
    (∃ m : RemoteMsg, ∃ s : State, ∃ r : RReq, m.dst = s.dev.board.devId ∧ tabFind m.tag s.rreqs = some r ∧ r.dev = m.src ∧ r.inj = none ∧ s.flt.injs = []) ∧
    (∃ m : RemoteMsg, ∃ s : State, ∃ r : RReq, ∃ core : Nat, ∃ slot : Nat, ∃ pc : Nat, ∃ g : Group, ∃ f : FarReq, ∃ it : FarItem, m.dst = s.dev.board.devId ∧ tabFind m.tag s.rreqs = some r ∧ r.dev = m.src ∧ r.inj = none ∧ s.flt.injs = [] ∧ keysFrom 0 s.rreqs = true ∧ r.wait = .thread core slot pc 0 ∧ groupOf core slot s = some g ∧ g.far = [f] ∧ f.pc = pc ∧ f.items = [it] ∧ it.got = none ∧ it.err = false ∧ it.loc = .peer r.dev r.off) ∧
    (∃ m : RemoteMsg, ∃ s : State, m.dst = s.dev.board.devId ∧ tabFind m.tag s.rreqs = none) ∧
    (∃ tag : Nat, ∃ s : State, ∃ r : RReq, tabFind tag s.rreqs = some r ∧ keysFrom 0 s.rreqs = true) :=
  ⟨⟨17, msg 0x40 [], linkUp, 1, 0x40, true, false, by (repeat' apply And.intro) <;> decide +kernel⟩,
   ⟨17, msg 0x40 [], linkOwned, 1, 0x40, true, false, 31, by (repeat' apply And.intro) <;> decide +kernel⟩,
   ⟨17, msg 0x40 [1, 2], linkUp, 1, 0x40, false, by (repeat' apply And.intro) <;> decide +kernel⟩,
   ⟨17, msg 0x40 [1, 2], linkOwned, 1, 0x40, false, 31, by (repeat' apply And.intro) <;> decide +kernel⟩,
   ⟨17, msg 0x40 [1, 2], linkUp, 1, 0x40, false, by (repeat' apply And.intro) <;> decide +kernel⟩,
   ⟨17, msg 0x40 [1, 2], readOnly, 1, 0x40, false, by (repeat' apply And.intro) <;> decide +kernel⟩,
   ⟨17, msg 0x700000040 [], spadUp, (spadOf (msg 0x700000040 []) spadUp).1, (spadOf (msg 0x700000040 []) spadUp).2.1, (spadOf (msg 0x700000040 []) spadUp).2.2, by (repeat' apply And.intro) <;> decide +kernel⟩,
   ⟨17, msg 0x40 [], linkUp, 1, 0x40, false, by (repeat' apply And.intro) <;> decide +kernel⟩,
   ⟨17, msg 0x40 [], linkUp, 1, 0x40, false, by (repeat' apply And.intro) <;> decide +kernel⟩,
   ⟨17, msg 0x740000000 [], linkUp, errOf (msg 0x740000000 []) linkUp, by (repeat' apply And.intro) <;> decide +kernel⟩,
   ⟨17, other, linkUp, by (repeat' apply And.intro) <;> decide +kernel⟩,
   ⟨msg 0 [], peerUp, thread0, by (repeat' apply And.intro) <;> decide +kernel⟩,
   ⟨msg 0 [], peerUp, thread0, 0, 0, 5, peerGroup, peerAcc, peerItem, by (repeat' apply And.intro) <;> decide +kernel⟩,
   ⟨msg 0 [], up, by (repeat' apply And.intro) <;> decide +kernel⟩,
   ⟨4, peerUp, thread0, by (repeat' apply And.intro) <;> decide +kernel⟩⟩

/-! ### Faults -/

def rec1 : FRec := ⟨1, 0x10, 1, 2, 0, none, 1, some 1, 0, 0, 0, 0, []⟩
def logPs : List Nat := [1, 4, 0x400000000000, 0]
def logged : State := { ask 0x0801 1 logPs with flt := { up.flt with log := [rec1], next := 1 } }
def injPs : List Nat := [0x01, 3 * 2 ^ 24 + 87, 0, 1]
def injR : Req := rq 0xFFFE injPs
def injS : State := ask 0x0802 0xFFFE injPs
def scanPs (w0 w1 : Nat) : List Nat := [w0, w1]
/-- Channel 87 is fenced, and a repair of it is asked for. -/
def repairS (k : Nat) : State := setChan 87 { Chan.zero with usable := true, fenced := true } (ask 0x0804 0xFFFE (scanPs (87 * 2 ^ 8 + 2) k))
def repairR (k : Nat) : Req := rq 0xFFFE (scanPs (87 * 2 ^ 8 + 2) k)
def inj3 : Inj := ⟨3, 0x01, 0, 0, 1⟩

theorem test_wit_FaultCommands :
    (∃ m : Nat, ∃ s : State, ∃ r : Req, let got := ((logFrom (r.field 0 31 0) s).filter (mayRead r s)).take (r.field 1 15 0); reqOf 0x0801 (.mbx m) s = some r ∧ (r.byOwner = true → 32 ≤ r.params.length) ∧ inHost (r.word 2) = true ∧ inHost (r.word 2 + 64 * got.length) = true ∧ s.host.lost = false ∧ got ≠ []) ∧
    (∃ m : Nat, ∃ s : State, ∃ r : Req, reqOf 0x0801 (.mbx m) s = some r ∧ r.byOwner = false) ∧
    (∃ m : Nat, ∃ s : State, ∃ r : Req, ∃ x : Nat, reqOf 0x0802 (.mbx m) s = some r ∧ r.field 0 15 0 ∈ detectors ∧ injAllowed r (r.field 0 15 0) (r.field 1 31 0) s = true ∧ injTarget r (r.field 0 15 0) (r.field 1 31 0) (r.word 3) s = some x ∧ s.flt.injs.length < 64) ∧
    (∃ m : Nat, ∃ s : State, ∃ r : Req, reqOf 0x0803 (.mbx m) s = some r) ∧
    (∃ m : Nat, ∃ s : State, ∃ r : Req, reqOf 0x0804 (.mbx m) s = some r ∧ r.field 0 3 0 = 0 ∧ r.field 0 19 8 < 368 ∧ r.field 1 1 0 = 0) ∧
    (∃ m : Nat, ∃ s : State, ∃ r : Req, reqOf 0x0804 (.mbx m) s = some r ∧ r.field 0 3 0 = 2 ∧ r.field 0 19 8 < 88 ∧ r.field 1 1 0 = 1 ∧ (chanOf (r.field 0 19 8) s).fenced = true ∧ s.flt.scans = []) ∧
    (∃ m : Nat, ∃ s : State, ∃ r : Req, reqOf 0x0804 (.mbx m) s = some r ∧ r.field 0 3 0 = 2 ∧ r.field 0 19 8 < 88 ∧ r.field 1 1 0 = 2 ∧ (chanOf (r.field 0 19 8) s).fenced = true ∧ (chanOf (r.field 0 19 8) s).usable = true ∧ (chanOf (r.field 0 19 8) s).leaving = false ∧ s.flt.scans = [] ∧ keysFrom 0 s.mem.chans = true) ∧
    (∃ n : Nat, ∃ s : State, ∃ i : Inj, s.flt.injs.find? (fun j => j.num == n) = some i ∧ i.stroke + 65536 ≤ s.stroke.count) :=
  ⟨⟨1, logged, rq 1 logPs, by (repeat' apply And.intro) <;> first | decide +kernel | exact ask_req _ _ _ _ rfl⟩,
   ⟨1, logged, rq 1 logPs, by (repeat' apply And.intro) <;> first | decide +kernel | exact ask_req _ _ _ _ rfl⟩,
   ⟨1, injS, injR, (injTarget injR (injR.field 0 15 0) (injR.field 1 31 0) (injR.word 3) injS).getD 0, by (repeat' apply And.intro) <;> first | decide +kernel | exact ask_req _ _ _ _ rfl⟩,
   ⟨1, ask 0x0803 0xFFFE [1], rq 0xFFFE [1], by (repeat' apply And.intro) <;> first | decide +kernel | exact ask_req _ _ _ _ rfl⟩,
   ⟨1, ask 0x0804 0xFFFE (scanPs (367 * 2 ^ 8) 0), rq 0xFFFE (scanPs (367 * 2 ^ 8) 0), by (repeat' apply And.intro) <;> first | decide +kernel | exact ask_req _ _ _ _ rfl⟩,
   ⟨1, repairS 1, repairR 1, by (repeat' apply And.intro) <;> first | decide +kernel | exact ask_req _ _ _ _ rfl⟩,
   ⟨1, repairS 2, repairR 2, by (repeat' apply And.intro) <;> first | decide +kernel | exact ask_req _ _ _ _ rfl⟩,
   ⟨3, { up with flt := { up.flt with injs := [inj3] }, stroke := { up.stroke with count := 65536 } }, inj3, by (repeat' apply And.intro) <;> decide +kernel⟩⟩

def openRead (s : State) : State := { s with coh := { s.coh with open' := [(5, txn (.own 3 0) [1, 2] none)] } }

theorem test_wit_DetectorActions :
    (∃ c : Nat, ∃ s : State, c < 368 ∧ (coreOf c s).fenced = false ∧ coreGone c s = false ∧ s.flt.injs = [] ∧ keysFrom 0 s.cores = true ∧ (coreOf c s).probe = none) ∧
    (∃ c : Nat, ∃ s : State, ∃ a : Nat, ∃ inj : Option Nat, (coreOf c s).fenced = false ∧ coreGone c s = false ∧ (coreOf c s).probe = some (a, inj)) ∧
    (∃ u : Nat, ∃ s : State, u < 88 ∧ s.flt.injs = [] ∧ (chanOf u s).fenced = false) ∧
    (∃ u : Nat, ∃ s : State, u < 368 ∧ s.flt.injs = [] ∧ coreGone u s = false) ∧
    (∃ s : State, s.flt.injs = [] ∧ s.dev.stage = .released ∧ s.dev.state ≠ 4) ∧
    (∃ a : Nat, ∃ line : Nat, ∃ s : State, ∃ x : Txn, tabFind line s.coh.open' = some x ∧ a ∈ x.waits ∧ s.coh.queue = [] ∧ (dirOf line s).cdom ∉ s.coh.failing) ∧
    (∃ h : Nat, ∃ n : Nat, ∃ rt : Bool, ∃ s : State, h < 16 ∧ s.flt.injs = [] ∧ 0 < n ∧ (n ≤ 8 ∨ rt = true)) ∧
    (∃ h : Nat, ∃ n : Nat, ∃ rt : Bool, ∃ s : State, h < 16 ∧ s.flt.injs = [] ∧ 0 < n ∧ (n ≤ 8 ∨ rt = true)) ∧
    (∃ h : Nat, ∃ n : Nat, ∃ s : State, h < 16 ∧ s.flt.injs = [] ∧ 8 < n) :=
  ⟨⟨367, up, by (repeat' apply And.intro) <;> decide +kernel⟩,
   ⟨367, setCore 367 { Core.zero with probe := some (5, none) } up, 5, none, by (repeat' apply And.intro) <;> decide +kernel⟩,
   ⟨87, up, by (repeat' apply And.intro) <;> decide +kernel⟩,
   ⟨367, up, by (repeat' apply And.intro) <;> decide +kernel⟩,
   ⟨up, by (repeat' apply And.intro) <;> decide +kernel⟩,
   ⟨2, 5, openRead up, txn (.own 3 0) [1, 2] none, by (repeat' apply And.intro) <;> decide +kernel⟩,
   ⟨15, 8, false, up, by (repeat' apply And.intro) <;> decide +kernel⟩,
   ⟨15, 9, true, up, by (repeat' apply And.intro) <;> decide +kernel⟩,
   ⟨15, 9, up, by (repeat' apply And.intro) <;> decide +kernel⟩⟩

def held1 : HeldItem := ⟨9, 0, none, .write 1 0x40 [1]⟩
def heldUp : State := setCore 0 { Core.zero with held := [held1] } up
def sampled1 : Sampled := ⟨3, 1, 0, 1, 1, 7, 0, 0, 0, 0⟩
def sampledUp : State := { up with flt := { up.flt with sampled := [sampled1] } }

theorem test_wit_RedundantChecks :
    (∃ c : Nat, ∃ s : State, ∃ h : HeldItem, ∃ rest : List HeldItem, (coreOf c s).held = h :: rest ∧ s.flt.injs = []) ∧
    (∃ c : Nat, ∃ sig : Word, ∃ s : State, ∃ h : HeldItem, ∃ rest : List HeldItem, (coreOf c s).held = h :: rest ∧ s.flt.injs = [] ∧ sig ≠ h.sig ∧ coreGone c s = false ∧ keysFrom 0 s.cores = true) ∧
    (∃ c : Nat, ∃ s : State, ∃ h : HeldItem, ∃ rest : List HeldItem, (coreOf c s).held = h :: rest ∧ coreGone c s = false ∧ keysFrom 0 s.cores = true) ∧
    (∃ c : Nat, ∃ s : State, ∃ x : Sampled, s.flt.sampled.find? (fun y => y.checker == c) = some x ∧ s.flt.injs = []) ∧
    (∃ c : Nat, ∃ v : Word, ∃ w : Word, ∃ s : State, ∃ x : Sampled, s.flt.sampled.find? (fun y => y.checker == c) = some x ∧ s.flt.injs = [] ∧ v ≠ w ∧ coreGone c s = false ∧ coreGone x.core s = false) :=
  ⟨⟨0, heldUp, held1, [], by (repeat' apply And.intro) <;> decide +kernel⟩,
   ⟨0, 8, heldUp, held1, [], by (repeat' apply And.intro) <;> decide +kernel⟩,
   ⟨0, heldUp, held1, [], by (repeat' apply And.intro) <;> decide +kernel⟩,
   ⟨7, sampledUp, sampled1, by (repeat' apply And.intro) <;> decide +kernel⟩,
   ⟨7, 1, 2, sampledUp, sampled1, by (repeat' apply And.intro) <;> decide +kernel⟩⟩

def scan (k u : Nat) : State := { up with flt := { up.flt with scans := [⟨k, u, none⟩] } }

theorem test_wit_ScansAndTests :
    (∃ s : State, ∃ u : Nat, s.flt.scans = [⟨0, u, none⟩] ∧ s.flt.injs = [] ∧ coreGone u s = false ∧ keysFrom 0 s.cores = true) ∧
    (∃ s : State, ∃ u : Nat, s.flt.scans = [⟨0, u, none⟩] ∧ s.flt.injs = [] ∧ u ∉ s.dev.devsec.coresRet) ∧
    (∃ s : State, ∃ u : Nat, s.flt.scans = [⟨4, u, none⟩] ∧ s.flt.injs = []) ∧
    (∃ s : State, ∃ u : Nat, s.flt.scans = [⟨4, u, none⟩] ∧ s.flt.injs = []) ∧
    (∃ u : Nat, ∃ s : State, s.flt.scans = [] ∧ s.dev.state = 2 ∧ s.dev.patOk = true ∧ u < 368 ∧ coreGone u s = false ∧ (coreOf u s).fenced = false ∧ shellsOn u s = []) ∧
    (∃ h : Nat, ∃ w : Nat, ∃ s : State, s.flt.scans = [] ∧ s.dev.state = 2 ∧ h < 16 ∧ w < 32 ∧ wayHolder h w s = none ∧ h * 256 + w ∉ s.flt.badWays) ∧
    (∃ c : Nat, ∃ s : State, c < 368 ∧ coreGone c s = false ∧ (coreOf c s).latent = false) :=
  ⟨⟨scan 0 367, 367, by (repeat' apply And.intro) <;> decide +kernel⟩,
   ⟨scan 0 367, 367, by (repeat' apply And.intro) <;> decide +kernel⟩,
   ⟨scan 4 0xF1F, 0xF1F, by (repeat' apply And.intro) <;> decide +kernel⟩,
   ⟨scan 4 0xF1F, 0xF1F, by (repeat' apply And.intro) <;> decide +kernel⟩,
   ⟨367, { up with dev := { up.dev with patOk := true } }, by (repeat' apply And.intro) <;> decide +kernel⟩,
   ⟨15, 31, { up with shells := [] }, by (repeat' apply And.intro) <;> decide +kernel⟩,
   ⟨367, up, by (repeat' apply And.intro) <;> decide +kernel⟩⟩

def fenced1 (dom unit : Nat) : Fence := ⟨dom, unit, 0, false, true, some 1, false⟩
def fenced (dom unit : Nat) : State := { up with flt := { up.flt with fences := [fenced1 dom unit] } }

theorem test_wit_Resets :
    (∃ c : Nat, ∃ s : State, ∃ f : Fence, fenceOf 2 c s = some f ∧ (coreOf c s).fenced = true ∧ keysFrom 0 s.rreqs = true) ∧
    (∃ c : Nat, ∃ s : State, ∃ f : Fence, fenceOf 2 c s = some f ∧ f.reset = true ∧ fenceOf 3 (dieOf c) s = none ∧ coreWaits c s = false ∧ coreGone c s = false ∧ f.inj ≠ none ∧ keysFrom 0 s.cores = true) ∧
    (∃ d : Nat, ∃ s : State, ∃ f : Fence, fenceOf 3 d s = some f ∧ f.reset = true ∧ f.stay = false ∧ f.inj ≠ none ∧ (∀ (i : Nat), i < 46 → coreWaits (46 * d + i) s = false)) ∧
    (∃ d : Nat, ∃ s : State, ∃ inj : Option Nat, s.flt.shellRst = [(d, inj)] ∧ keysFrom 0 s.cmds = true) ∧
    (∃ d : Nat, ∃ s : State, s.retiring.contains d = false ∧ d ∈ s.coh.failing) ∧
    (∃ s : State, ∃ inj : Option Nat, s.flt.warm = some inj) ∧
    (∃ s : State, s.flash.faults.length ≤ 256) :=
  ⟨⟨367, setCore 367 { Core.zero with fenced := true } (fenced 2 367), fenced1 2 367, by (repeat' apply And.intro) <;> decide +kernel⟩,
   ⟨367, fenced 2 367, fenced1 2 367, by (repeat' apply And.intro) <;> decide +kernel⟩,
   ⟨7, fenced 3 7, fenced1 3 7, by (repeat' apply And.intro) <;> decide +kernel⟩,
   ⟨1, { up with flt := { up.flt with shellRst := [(1, none)] } }, none, by (repeat' apply And.intro) <;> decide +kernel⟩,
   ⟨1, { up with coh := { up.coh with failing := [1] } }, by (repeat' apply And.intro) <;> decide +kernel⟩,
   ⟨{ up with flt := { up.flt with warm := some none } }, none, by (repeat' apply And.intro) <;> decide +kernel⟩,
   ⟨up, by (repeat' apply And.intro) <;> decide +kernel⟩⟩

end Sys2Proof.Tests
end

