-- ==== Sys2Proof/Tests/Wit7.lean ====
section
/-! SUPPORT. States and operands that meet the hypotheses of the statements about power, firmware, start-up, management and the whole machine. -/
set_option Elab.async false

namespace Sys2Proof.Tests
open Sys2Proof Sys2Proof.Machine

/-! ### Power -/

def pwr (f : Pwr → Pwr) (s : State) : State := { s with pwr := f s.pwr }
def hintE : Entry := ent 0x0903 false [0, 3 + 16 * 2 ^ 8, 5, 0, 0]
def hint1 : Hint := ⟨1, 3, 16, 1⟩
def hintSh : Shell := { shell1 with hint := some hint1 }
def loaderUp : State := { up with dev := { up.dev with stage := .loader } }

theorem test_wit_PowerRows :
    (∃ m : Nat, ∃ s : State, ∃ r : Req, reqOf 0x0901 (.mbx m) s = some r ∧ r.field 0 15 0 ≤ 2400) ∧
    (∃ m : Nat, ∃ s : State, ∃ r : Req, reqOf 0x0901 (.mbx m) s = some r ∧ 2400 < r.field 0 15 0) ∧
    (∃ src : Src, ∃ s : State, ∃ r : Req, reqOf 0x0902 src s = some r) ∧
    (∃ q : Nat, ∃ s : State, ∃ r : Req, ∃ sh : Shell, reqOf 0x0903 (.queue q) s = some r ∧ shellOf (r.cdom s) s = some sh ∧ r.field 1 12 8 ≤ 16) ∧
    (∃ d : Nat, ∃ s : State, ∃ sh : Shell, ∃ h : Hint, shellOf d s = some sh ∧ sh.hint = some h ∧ hintActive ((s.stroke.count + 1) % 2 ^ 48) h = true ∧ d ∉ s.pwr.raised) ∧
    (∃ s : State, ∃ p : Nat, ∃ a : Nat, s.pwr.target = some (p, a)) ∧
    (∃ s : State, s.pwr.atFloor = true) ∧
    (∃ id : Nat, ∃ v : Nat, ∃ s : State, s.dev.stage = .released ∧ pldmSensor id s = some v) ∧
    (∃ s : State, s.dev.stage = .released) ∧
    (∃ v : Nat, ∃ s : State, s.dev.stage = .released ∧ v ≤ 2400) ∧
    (∃ v : Nat, ∃ s : State, s.dev.stage = .released ∧ 2400 < v) ∧
    (∃ s : State, s.dev.stage = .released) ∧
    (∃ s : State, s.dev.stage = .loader) :=
  ⟨⟨1, ask 0x0901 0xFFFE [2400], rq 0xFFFE [2400], by (repeat' apply And.intro) <;> first | decide +kernel | exact ask_req _ _ _ _ rfl⟩,
   ⟨1, ask 0x0901 0xFFFE [2401], rq 0xFFFE [2401], by (repeat' apply And.intro) <;> first | decide +kernel | exact ask_req _ _ _ _ rfl⟩,
   ⟨.mbx 1, ask 0x0902 1 [], rq 1 [], by (repeat' apply And.intro) <;> first | decide +kernel | exact ask_req _ _ _ _ rfl⟩,
   ⟨0, withEnt hintE, rqE hintE, shell1, by (repeat' apply And.intro) <;> first | decide +kernel | exact ent_req rfl rfl rfl⟩,
   ⟨1, withShell hintSh, hintSh, hint1, by (repeat' apply And.intro) <;> decide +kernel⟩,
   ⟨pwr (fun p => { p with target := some (1, 5) }) up, 1, 5, by (repeat' apply And.intro) <;> decide +kernel⟩,
   ⟨pwr (fun p => { p with atFloor := true }) up, by (repeat' apply And.intro) <;> decide +kernel⟩,
   ⟨1, (pldmSensor 1 up).getD 0, up, by (repeat' apply And.intro) <;> decide +kernel⟩,
   ⟨up, by (repeat' apply And.intro) <;> decide +kernel⟩,
   ⟨2400, up, by (repeat' apply And.intro) <;> decide +kernel⟩,
   ⟨2401, up, by (repeat' apply And.intro) <;> decide +kernel⟩,
   ⟨up, by (repeat' apply And.intro) <;> decide +kernel⟩,
   ⟨loaderUp, by (repeat' apply And.intro) <;> decide +kernel⟩⟩

def hotUp : State := pwr (fun p => { p with alerts := [3], dips := [3] }) up

theorem test_wit_SupplyAndHeat :
    (∃ ns : Nat, ∃ s : State, monitorsOn s = true ∧ s.flt.injs = [] ∧ 20 ≤ ns) ∧
    (∃ ns : Nat, ∃ s : State, s.flt.injs = [] ∧ ns < 10) ∧
    (∃ g : Nat, ∃ s : State, g ∈ s.pwr.alerts) ∧
    (∃ s : State, s.pwr.alertOn = true ∧ s.pwr.alerts = [] ∧ s.pwr.alertEnds = false ∧ s.stroke.running = true) ∧
    (∃ s : State, monitorsOn s = true ∧ s.flt.injs = []) ∧
    (∃ g : Nat, ∃ s : State, g ∈ s.pwr.dips) ∧
    (∃ s : State, s.pwr.holdOn = true ∧ s.pwr.dips = []) ∧
    (∃ s : State, monitorsOn s = true ∧ s.flt.injs = []) ∧
    (∃ i : Nat, ∃ v : Int, ∃ s : State, i < 48 ∧ s.flt.injs = [] ∧ s.pwr.offsets = [] ∧ keysFrom 0 s.pwr.sensors = true ∧ (∀ (j : Nat), j < 100 → sensorAt j s < 930) ∧ v < 930 ∧ s.pwr.throttle = false ∧ s.pwr.limit = false) ∧
    (∃ i : Nat, ∃ v : Int, ∃ s : State, i < 48 ∧ s.flt.injs = [] ∧ s.pwr.offsets = [] ∧ (∀ (j : Nat), j < 100 → sensorAt j s < 930) ∧ 950 ≤ v ∧ v < 1050 ∧ s.pwr.throttle = false ∧ s.pwr.limit = false) ∧
    (∃ i : Nat, ∃ v : Int, ∃ s : State, i < 48 ∧ s.flt.injs = [] ∧ s.pwr.offsets = [] ∧ 1150 ≤ v ∧ monitorsOn s = true ∧ s.dev.therm = false) ∧
    (∃ s : State, s.pwr.throttle = true) ∧
    (∃ s : State, s.pwr.throttle = false ∧ s.pwr.ceilT ≠ 0) ∧
    (∃ ch : Nat, ∃ v : Int, ∃ s : State, ch < 64 ∧ s.flt.injs = [] ∧ s.pwr.offsets = [] ∧ (∀ (j : Nat), j < 100 → sensorAt j s < 1100) ∧ v < 1100 ∧ keysFrom 0 s.mem.chans = true ∧ keysFrom 0 s.pwr.sensors = true) ∧
    (∃ ns : Nat, 10000 ≤ ns) ∧
    (∃ ns : Nat, ns < 1000) :=
  ⟨⟨20, up, by (repeat' apply And.intro) <;> decide +kernel⟩,
   ⟨9, up, by (repeat' apply And.intro) <;> decide +kernel⟩,
   ⟨3, hotUp, by (repeat' apply And.intro) <;> decide +kernel⟩,
   ⟨pwr (fun p => { p with alertOn := true, alerts := [] }) { up with stroke := { up.stroke with running := true } }, by (repeat' apply And.intro) <;> decide +kernel⟩,
   ⟨up, by (repeat' apply And.intro) <;> decide +kernel⟩,
   ⟨3, hotUp, by (repeat' apply And.intro) <;> decide +kernel⟩,
   ⟨pwr (fun p => { p with holdOn := true }) up, by (repeat' apply And.intro) <;> decide +kernel⟩,
   ⟨up, by (repeat' apply And.intro) <;> decide +kernel⟩,
   ⟨47, 929, up, by (repeat' apply And.intro) <;> decide +kernel⟩,
   ⟨47, 950, up, by (repeat' apply And.intro) <;> decide +kernel⟩,
   ⟨47, 1150, up, by (repeat' apply And.intro) <;> decide +kernel⟩,
   ⟨pwr (fun p => { p with throttle := true }) up, by (repeat' apply And.intro) <;> decide +kernel⟩,
   ⟨pwr (fun p => { p with ceilT := 1 }) up, by (repeat' apply And.intro) <;> decide +kernel⟩,
   ⟨63, 1099, up, by (repeat' apply And.intro) <;> decide +kernel⟩,
   ⟨10000, by (repeat' apply And.intro) <;> decide +kernel⟩,
   ⟨999, by (repeat' apply And.intro) <;> decide +kernel⟩⟩

/-! ### Firmware -/

def imgOk : ImageInfo := ⟨7, 1, digest1, 0, List.replicate 32 0⟩
def signed (s : State) : State := { s with fuse := fuse1, flash := { s.flash with image := imgMem, pages := [(0, 4048), (1, 48)] } }
theorem signed_verifies (s : State) : verifyImage (signed s).fuse (signed s).flash.image (signed s).flash.pages 6 = .inr imgOk := by
  simp only [signed]
  exact img_verifies 6
def noIdent (s : State) : State := { s with flash := { s.flash with ident := false } }
def pagePs (top : Nat) (off len : Nat) : List Nat := [top + len * 2 ^ 32 + off] ++ List.replicate (len / 8) 0
def readPs : List Nat := [0, 0, 0, 0, 63]
def writePs : List Nat := pagePs 0 4096 8
def loadPs : List Nat := pagePs 0 0x7FF000 4048
/-- The last chunk of the image, 48 zeros. -/
def lastPs : List Nat := pagePs (2 ^ 63) 4096 48
def written : State := { ask 0x0B02 0xFFFE writePs with flash := { up.flash with pages := [(1, 48)] } }
def recovering : State := { ask 0x0C01 1 lastPs with fuse := fuse1, dev := { up.dev with staging := imgMem, staged := [(0, 4048)] } }

/-- The image is whole once the last chunk has joined it. -/
theorem recovering_verifies :
    verifyImage recovering.fuse (memWrite recovering.dev.staging (4096 * ((rq 1 lastPs).field 0 31 0 / 4096)) (((rq 1 lastPs).params.drop 8).take ((rq 1 lastPs).field 0 47 32)))
      (tabPut ((rq 1 lastPs).field 0 31 0 / 4096) (((rq 1 lastPs).params.drop 8).take ((rq 1 lastPs).field 0 47 32)).length recovering.dev.staged) 8 = .inr imgOk := by
  have e1 : (rq 1 lastPs).field 0 31 0 / 4096 = 1 := by decide +kernel
  have e2 : ((rq 1 lastPs).params.drop 8).take ((rq 1 lastPs).field 0 47 32) = List.replicate 48 0 := by decide +kernel
  have e3 : memWrite imgMem (4096 * 1) (List.replicate 48 0) = imgMem := write_zeros imgMem 48 _ imgMem_keys
  have e4 : tabPut 1 48 [(0, 4048)] = [(0, 4048), (1, 48)] := rfl
  simp only [recovering, e1, e2, e3, List.length_replicate, e4]
  exact img_verifies 8

theorem test_wit_FirmwareAndDebug :
    (∃ m : Nat, ∃ s : State, ∃ r : Req, reqOf 0x0A01 (.mbx m) s = some r ∧ s.flash.ident = true ∧ r.field 4 7 0 < 64) ∧
    (∃ m : Nat, ∃ s : State, ∃ r : Req, reqOf 0x0A01 (.mbx m) s = some r ∧ s.flash.ident = false) ∧
    (∃ m : Nat, ∃ s : State, ∃ r : Req, reqOf 0x0A02 (.mbx m) s = some r ∧ s.flash.ident = false) ∧
    (∃ m : Nat, ∃ s : State, ∃ r : Req, reqOf 0x0A02 (.mbx m) s = some r ∧ s.flash.ident = true) ∧
    (∃ src : Src, ∃ s : State, ∃ r : Req, reqOf 0x0B01 src s = some r) ∧
    (∃ m : Nat, ∃ s : State, ∃ r : Req, reqOf 0x0B02 (.mbx m) s = some r ∧ pageArgs r 0x2000000 = true ∧ r.field 0 31 0 ≠ 0 ∧ tabFind (r.field 0 31 0 / 4096) s.flash.pages = none) ∧
    (∃ m : Nat, ∃ s : State, ∃ r : Req, ∃ x : Nat, reqOf 0x0B02 (.mbx m) s = some r ∧ pageArgs r 0x2000000 = true ∧ r.field 0 31 0 ≠ 0 ∧ tabFind (r.field 0 31 0 / 4096) s.flash.pages = some x) ∧
    (∃ m : Nat, ∃ s : State, ∃ r : Req, ∃ k : Nat, reqOf 0x0B03 (.mbx m) s = some r ∧ verifyImage s.fuse s.flash.image s.flash.pages 6 = .inl k) ∧
    (∃ m : Nat, ∃ s : State, ∃ r : Req, ∃ i : ImageInfo, reqOf 0x0B03 (.mbx m) s = some r ∧ verifyImage s.fuse s.flash.image s.flash.pages 6 = .inr i) ∧
    (∃ m : Nat, ∃ s : State, ∃ r : Req, reqOf 0x0C01 (.mbx m) s = some r ∧ pageArgs r 0x800000 = true ∧ bit (r.word 0) 63 = false) ∧
    (∃ m : Nat, ∃ s : State, ∃ r : Req, ∃ i : ImageInfo, reqOf 0x0C01 (.mbx m) s = some r ∧ pageArgs r 0x800000 = true ∧ bit (r.word 0) 63 = true ∧ bit (r.word 0) 62 = false ∧ verifyImage s.fuse (memWrite s.dev.staging (4096 * (r.field 0 31 0 / 4096)) ((r.params.drop 8).take (r.field 0 47 32))) (tabPut (r.field 0 31 0 / 4096) ((r.params.drop 8).take (r.field 0 47 32)).length s.dev.staged) 8 = .inr i) ∧
    (∃ m : Nat, ∃ s : State, ∃ r : Req, reqOf 0x0C02 (.mbx m) s = some r) ∧
    (∃ m : Nat, ∃ s : State, ∃ r : Req, reqOf 0x0D01 (.mbx m) s = some r ∧ r.byOwner = true ∧ r.field 0 3 0 = 0 ∧ dpaUsable s (r.word 1) = true) ∧
    (∃ m : Nat, ∃ s : State, ∃ r : Req, reqOf 0x0D01 (.mbx m) s = some r ∧ r.byOwner = false ∧ r.field 0 3 0 = 4) ∧
    (∃ m : Nat, ∃ s : State, ∃ r : Req, ∃ sh : Shell, ∃ g : Range, reqOf 0x0D01 (.mbx m) s = some r ∧ r.byOwner = true ∧ r.field 0 3 0 = 3 ∧ r.word 1 < 256 ∧ shellOf (r.field 0 24 16) s = some sh ∧ tabFind (bits (r.word 1) 7 0) sh.ranges = some g) ∧
    (∃ m : Nat, ∃ s : State, ∃ r : Req, ∃ sh : Shell, reqOf 0x0D02 (.mbx m) s = some r ∧ r.byOwner = true ∧ shellOf (r.field 0 8 0) s = some sh) :=
  ⟨⟨1, ask 0x0A01 1 readPs, rq 1 readPs, by (repeat' apply And.intro) <;> first | decide +kernel | exact ask_req _ _ _ _ rfl⟩,
   ⟨1, noIdent (ask 0x0A01 1 readPs), rq 1 readPs, by (repeat' apply And.intro) <;> first | decide +kernel | exact ask_req _ _ _ _ rfl⟩,
   ⟨1, noIdent (ask 0x0A02 1 [5]), rq 1 [5], by (repeat' apply And.intro) <;> first | decide +kernel | exact ask_req _ _ _ _ rfl⟩,
   ⟨1, ask 0x0A02 1 [5], rq 1 [5], by (repeat' apply And.intro) <;> first | decide +kernel | exact ask_req _ _ _ _ rfl⟩,
   ⟨.mbx 1, ask 0x0B01 1 [], rq 1 [], by (repeat' apply And.intro) <;> first | decide +kernel | exact ask_req _ _ _ _ rfl⟩,
   ⟨1, ask 0x0B02 0xFFFE writePs, rq 0xFFFE writePs, by (repeat' apply And.intro) <;> first | decide +kernel | exact ask_req _ _ _ _ rfl⟩,
   ⟨1, written, rq 0xFFFE writePs, 48, by (repeat' apply And.intro) <;> first | decide +kernel | exact ask_req _ _ _ _ rfl⟩,
   ⟨1, ask 0x0B03 0xFFFE [], rq 0xFFFE [], 1, by (repeat' apply And.intro) <;> first | decide +kernel | exact ask_req _ _ _ _ rfl⟩,
   ⟨1, signed (ask 0x0B03 0xFFFE []), rq 0xFFFE [], imgOk, ask_req _ _ _ _ rfl, signed_verifies _⟩,
   ⟨1, ask 0x0C01 1 loadPs, rq 1 loadPs, by (repeat' apply And.intro) <;> first | decide +kernel | exact ask_req _ _ _ _ rfl⟩,
   ⟨1, recovering, rq 1 lastPs, imgOk, ask_req _ _ _ _ rfl, by decide +kernel, by decide +kernel, by decide +kernel, recovering_verifies⟩,
   ⟨1, ask 0x0C02 1 [], rq 1 [], by (repeat' apply And.intro) <;> first | decide +kernel | exact ask_req _ _ _ _ rfl⟩,
   ⟨1, ask 0x0D01 0xFFFE [0, 2 ^ 38], rq 0xFFFE [0, 2 ^ 38], by (repeat' apply And.intro) <;> first | decide +kernel | exact ask_req _ _ _ _ rfl⟩,
   ⟨1, ask 0x0D01 1 [4, 0], rq 1 [4, 0], by (repeat' apply And.intro) <;> first | decide +kernel | exact ask_req _ _ _ _ rfl⟩,
   ⟨1, ask 0x0D01 0xFFFE [3 + 2 ^ 16, 0], rq 0xFFFE [3 + 2 ^ 16, 0], shell1, range0, by (repeat' apply And.intro) <;> first | decide +kernel | exact ask_req _ _ _ _ rfl⟩,
   ⟨1, ask 0x0D02 0xFFFE [1 + 2 ^ 16], rq 0xFFFE [1 + 2 ^ 16], shell1, by (repeat' apply And.intro) <;> first | decide +kernel | exact ask_req _ _ _ _ rfl⟩⟩

/-! ### Start-up -/

def staged (x : Stage) (s : State) : State := { s with dev := { s.dev with stage := x, state := 0 } }
def goodBoard : Copy2 Board := ⟨true, 1, { Board.default with stroke := ⟨1000000, 10000, 5000, 25000⟩ }⟩
def boards (a b : Copy2 Board) (s : State) : State := { s with flash := { s.flash with board0 := a, board1 := b } }
def badBoard : Copy2 Board := { goodBoard with valid := false }
def tested : State := staged .filled { up with dev := { up.dev with patOk := true, board := { up.dev.board with selfTest := true } } }

theorem test_wit_StartUpSteps :
    (∃ s : State, s.dev.stage = .held ∧ s.dev.tap = .none' ∧ s.dev.therm = false) ∧
    (∃ s : State, s.dev.stage = .powered) ∧
    (∃ s : State, ∃ c : Copy2 Board, ∃ b : Bool, s.dev.stage = .fuses ∧ boardInUse s.flash = some (c, b)) ∧
    (∃ s : State, s.dev.stage = .fuses ∧ boardInUse s.flash = none) ∧
    (∃ s : State, ∃ i : ImageInfo, s.dev.stage = .config ∧ verifyImage s.fuse s.flash.image s.flash.pages 6 = .inr i) ∧
    (∃ s : State, s.dev.stage = .config) ∧
    (∃ s : State, s.dev.stage = .image) ∧
    (∃ s : State, s.dev.stage = .cox ∧ s.dev.state ≠ 4 ∧ keysFrom 0 s.mem.chans = true) ∧
    (∃ s : State, s.dev.stage = .memory) ∧
    (∃ l : List Nat, ∃ s : State, s.dev.stage = .filled ∧ s.dev.board.selfTest = true ∧ s.dev.patOk = true ∧ (∀ c ∈ l, c < 368)) ∧
    (∃ s : State, s.dev.state = 0 ∧ s.dev.stage = .filled ∧ s.dev.board.selfTest = false ∧ s.dev.devsec.oos = false ∧ s.dev.devsec.floor ≤ liveCores s) ∧
    (∃ s : State, s.dev.state = 0 ∧ s.dev.stage = .cox) :=
  ⟨⟨State.reset, by (repeat' apply And.intro) <;> decide +kernel⟩,
   ⟨staged .powered up, by (repeat' apply And.intro) <;> decide +kernel⟩,
   ⟨staged .fuses (boards goodBoard badBoard up), goodBoard, (match boardInUse (boards goodBoard badBoard up).flash with | some (_, b) => b | none => false), by (repeat' apply And.intro) <;> first | decide +kernel | exact rfl⟩,
   ⟨staged .fuses (boards badBoard badBoard up), by (repeat' apply And.intro) <;> decide +kernel⟩,
   ⟨staged .config (signed up), imgOk, rfl, (by simp only [staged, signed]; exact img_verifies 6)⟩,
   ⟨staged .config up, by (repeat' apply And.intro) <;> decide +kernel⟩,
   ⟨staged .image up, by (repeat' apply And.intro) <;> decide +kernel⟩,
   ⟨staged .cox up, by (repeat' apply And.intro) <;> decide +kernel⟩,
   ⟨staged .memory up, by (repeat' apply And.intro) <;> decide +kernel⟩,
   ⟨[367], tested, by (repeat' apply And.intro) <;> decide +kernel⟩,
   ⟨staged .filled up, by (repeat' apply And.intro) <;> decide +kernel⟩,
   ⟨staged .cox up, by (repeat' apply And.intro) <;> decide +kernel⟩⟩

/-! ### Management -/

def man (f : Man → Man) (s : State) : State := { s with man := f s.man }
def spoken (x : Bool) : State := setSpdm true ⟨x, x, x⟩ up

/-- Both transports; a part of the chain lies before or past its end, whatever its length. -/
theorem test_wit_SpdmRequests :
    (∃ b s, spdmReached b s = true ∧ s.dev.stage = .released ∧ s.flash.ident = false) ∧
    (∃ b s, spdmReached b s = true ∧ s.dev.stage = .released ∧ s.flash.ident = true ∧ (spdmOf b s).ver = true ∧ (spdmOf b s).caps = true ∧ (spdmOf b s).algs = true) ∧
    (∃ b s, spdmReached b s = true ∧ s.dev.stage = .released ∧ s.flash.ident = true ∧ (spdmOf b s).ver = false) ∧
    (∃ s, spdmReached false s = true ∧ s.dev.stage = .released ∧ s.flash.ident = true) ∧
    (∃ off, off < Config.certChain.length ∨ Config.certChain.length ≤ off) ∧ ∃ i, 1 ≤ i ∧ i ≤ 6 :=
  ⟨⟨true, noIdent up, by (repeat' apply And.intro) <;> decide +kernel⟩, ⟨true, spoken true, by (repeat' apply And.intro) <;> decide +kernel⟩,
   ⟨true, spoken false, by (repeat' apply And.intro) <;> decide +kernel⟩, ⟨hostSt (fun h => { h with cfgAt := some 0 }), by (repeat' apply And.intro) <;> decide +kernel⟩,
   ⟨0, Nat.lt_or_ge _ _⟩, 6, by decide, by decide⟩

def claimedUp : State := { up with dev := { up.dev with devsec := { up.dev.devsec with claimed := true } } }
def chalUp : State := { man (fun m => { m with chal := some (nonce1, 2, 0) }) up with now := 6000000000 }
def levelUp (l : Nat) : State := man (fun m => { m with level := l }) up
def noJtag : State := { levelUp 2 with fuse := { up.fuse with jtagOff := true } }

theorem test_wit_StolmonCommands :
    (∃ s : State, ∃ c : Nat, stolOn s = true ∧ s.now < s.man.lastIn + 60000000000 ∧ c ≤ 5) ∧
    (∃ s : State, ∃ c : Nat, stolOn s = true ∧ s.now < s.man.lastIn + 60000000000 ∧ 5 < c) ∧
    (∃ s : State, ∃ l : Nat, ∃ rnd : List Byte, stolOn s = true ∧ s.now < s.man.lastIn + 60000000000 ∧ s.dev.stage = .released ∧ (l = 1 ∨ l = 2) ∧ s.dev.devsec.claimed = true ∧ stLocked s = false ∧ rnd.length = 32) ∧
    (∃ s : State, ∃ l : Nat, ∃ rnd : List Byte, stolOn s = true ∧ s.now < s.man.lastIn + 60000000000 ∧ s.dev.stage = .released ∧ (l = 1 ∨ l = 2) ∧ s.dev.devsec.claimed = true ∧ stLocked s = false ∧ rnd.length = 32) ∧
    (∃ s : State, ∃ n : List Byte, ∃ l : Nat, ∃ a : Nat, stolOn s = true ∧ s.now < s.man.lastIn + 60000000000 ∧ s.dev.stage = .released ∧ s.man.chal = some (n, l, a) ∧ s.now ≤ a + 6000000000) ∧
    (∃ s : State, stolOn s = true ∧ s.now < s.man.lastIn + 60000000000 ∧ s.dev.stage = .released ∧ s.man.level = 0) ∧
    (∃ s : State, ∃ n : Nat, stolOn s = true ∧ s.now < s.man.lastIn + 60000000000 ∧ s.dev.stage = .released ∧ 1 ≤ s.man.level ∧ n ≤ 64) ∧
    (∃ s : State, ∃ f : Nat, ∃ v : Nat, ∃ w : Nat, stolOn s = true ∧ s.now < s.man.lastIn + 60000000000 ∧ s.dev.stage = .released ∧ 1 ≤ s.man.level ∧ fieldWidths[f]? = some w ∧ v < 2 ^ w ∧ f ≠ 11 ∧ f ≠ 14) ∧
    (∃ s : State, ∃ i : Nat, ∃ w : W32, stolOn s = true ∧ s.now < s.man.lastIn + 60000000000 ∧ s.dev.stage = .released ∧ 1 ≤ s.man.level ∧ i < 4096 ∧ routeOk { s.dev.board with devId := 4096 } i w.toNat = true) ∧
    (∃ s : State, stolOn s = true ∧ s.now < s.man.lastIn + 60000000000 ∧ s.dev.stage = .released ∧ 2 ≤ s.man.level ∧ s.fuse.jtagOff = false ∧ keysFrom 0 s.tenants = true) ∧
    (∃ s : State, stolOn s = true ∧ s.now < s.man.lastIn + 60000000000 ∧ s.dev.stage = .released ∧ 2 ≤ s.man.level ∧ s.fuse.jtagOff = true) ∧
    (∃ s : State, stolOn s = true ∧ s.man.lastIn + 60000000000 ≤ s.now) ∧
    (∃ s : State, s.man.level ≠ 0) :=
  ⟨⟨up, 5, by (repeat' apply And.intro) <;> decide +kernel⟩,
   ⟨up, 6, by (repeat' apply And.intro) <;> decide +kernel⟩,
   ⟨claimedUp, 1, nonce1, by (repeat' apply And.intro) <;> decide +kernel⟩,
   ⟨claimedUp, 2, nonce1, by (repeat' apply And.intro) <;> decide +kernel⟩,
   ⟨chalUp, nonce1, 2, 0, by (repeat' apply And.intro) <;> decide +kernel⟩,
   ⟨up, by (repeat' apply And.intro) <;> decide +kernel⟩,
   ⟨levelUp 1, 64, by (repeat' apply And.intro) <;> decide +kernel⟩,
   ⟨levelUp 1, 0, 1, (fieldWidths[0]?).getD 0, by (repeat' apply And.intro) <;> decide +kernel⟩,
   ⟨levelUp 1, 4095, 0, by (repeat' apply And.intro) <;> decide +kernel⟩,
   ⟨levelUp 2, by (repeat' apply And.intro) <;> decide +kernel⟩,
   ⟨noJtag, by (repeat' apply And.intro) <;> decide +kernel⟩,
   ⟨{ up with now := 60000000000 }, by (repeat' apply And.intro) <;> decide +kernel⟩,
   ⟨levelUp 1, by (repeat' apply And.intro) <;> decide +kernel⟩⟩

def debugUp : State := { up with dev := { up.dev with debugOpen := true, keel := [(5, 9)] } }

theorem test_wit_TapInstructions :
    (∃ s : State, s.dev.tap = .none') ∧
    (∃ s : State, s.dev.tap ≠ .none' ∧ s.dev.devRst = false ∧ s.dev.therm = false) ∧
    (∃ s : State, s.dev.debugOpen = false) ∧
    (∃ s : State, s.dev.debugOpen = true) ∧
    (∃ s : State, s.dev.debugOpen = true) ∧
    (∃ a : Nat, ∃ b : Byte, ∃ s : State, s.dev.debugOpen = true ∧ tabFind a s.dev.keel = some b) :=
  ⟨⟨up, by (repeat' apply And.intro) <;> decide +kernel⟩,
   ⟨{ up with dev := { up.dev with tap := .clamp, devRst := false } }, by (repeat' apply And.intro) <;> decide +kernel⟩,
   ⟨up, by (repeat' apply And.intro) <;> decide +kernel⟩,
   ⟨debugUp, by (repeat' apply And.intro) <;> decide +kernel⟩,
   ⟨debugUp, by (repeat' apply And.intro) <;> decide +kernel⟩,
   ⟨5, 9, debugUp, by (repeat' apply And.intro) <;> decide +kernel⟩⟩

/-! ### The whole machine -/

theorem test_wit_StepRunsFrontCommand : ({ State.reset with pending := [.powerGood] } : State).pending = .powerGood :: [] ∧ State.reset.pending = [] := ⟨rfl, rfl⟩

theorem test_wit_QueueTimeAndFuses : ∃ t, exec .powerGood State.reset = .next t := ⟨_, rfl⟩

theorem test_wit_MemoryStaysCanonical : State.reset.memWf ∧ ∃ t, step State.reset = .next t := ⟨⟨rfl, rfl⟩, _, rfl⟩

theorem test_wit_ThreadCodeRoundTrip : ∀ c ∈ [Instr.iadd i0 (.g 47) (.u 31) .zero, .bra ip 4095 0, .movi i0 (.u 31) 0xFFFFFFFF, .ld i0 (.g 44) loc16, .nop i0], c.codeOk = true := by
  decide +kernel

end Sys2Proof.Tests
end

