-- ==== Sys2Proof/Tests/Slice0.lean ====
section
/-! SUPPORT. Tests of fixed values: ill-formed terms that WellFormed refuses, words of thread code written out bit by bit from Tables 7-2
to 7-13, published vectors of the functions the spec cites, one step of a few commands. -/
set_option Elab.async false

namespace Sys2Proof.Tests
open Sys2Proof Sys2Proof.Machine

/-! ### Well-formedness -/

/-- Ill-formed thread instructions, one for each check of 07 R184 and the rules it names. -/
def illCode : List Instr :=
  [.nop ⟨0, 0, true, 7⟩, .nop ⟨0, 0, false, 8⟩, .nop ⟨368, 0, false, 7⟩, .nop ⟨0, 32, false, 7⟩,
   .iadd i0 (.g 48) r1 r2, .iadd i0 (.u 3) (.u 5) (.u 6), .iadd i0 (.u 32) (.u 5) (.u 6), .iadd i0 (.p 1) r1 r2, .iadd i0 g4 (.p 1) r2, .iadd i0 g4 r1 (.p 1), .iadd i0 (.u 4) r1 (.u 6),
   .iadd i0 (.u 4) (.u 6) r1, .imacc i0 g4 r1 r2 (.p 0), .imacc i0 (.u 4) (.u 5) (.u 6) r1, .bcnt i0 (.u 4) r1, .iadd64 i0 (.g 5) (.g 2) r1, .iadd64 i0 (.g 4) (.g 3) r1, .iadd64 i0 .zero (.g 2) r1,
   .movi i0 (.u 0) 1, .iaddi i0 (.u 4) r1 1, .icmp i0 g4 r1 r2 .zero 0 0, .icmp i0 (.p 8) r1 r2 .zero 0 0, .icmp i0 (.p 1) r1 r2 (.p 1) 0 0, .icmp i0 (.p 1) r1 r2 .zero 1 0, .icmp i0 (.p 1) r1 r2 (.p 1) 4 0,
   .icmp i0 (.p 1) r1 r2 .zero 0 10, .icmpi i0 (.p 1) r1 10 0, .pcomb i0 (.p 1) r1 (.p 2) 0, .pcomb i0 (.p 1) (.p 1) (.p 2) 4, .selP i0 g4 r1 r2 .zero, .lvote i0 g4 (.p 0) 0, .lvote i0 (.p 1) (.p 0) 2,
   .lvote i0 (.p 1) (.p 0) 3, .xlane i0 g4 r1 r2 1 0, .xlane i0 g4 r1 .zero 32 0, .xlane i0 g4 r1 .zero 0 4, .vf i0 g4 r1 r2 .zero 12 0 0, .vf i0 g4 r1 r2 .zero 0x20 0 0,
   .vf i0 g4 r1 r2 r1 0 0 0, .vf i0 g4 r1 r2 .zero 0 6 0, .vf i0 g4 r1 r2 .zero 0 0 6, .fcmp i0 (.p 1) r1 r2 .zero 0 6 0, .fcmp i0 (.p 1) r1 r2 .zero 0 0 1, .fcmp i0 (.p 1) r1 r2 .zero 0 0 6,
   .ld i0 (.g 45) loc16, .ld i0 g4 { loc16 with width := 5 }, .ld i0 g4 { loc16 with scale := 5 }, .ld i0 g4 { loc16 with order := 3 }, .ld i0 g4 { loc16 with scope := 4 }, .ld i0 g4 { loc16 with scope := 1 },
   .ld i0 g4 { loc16 with order := 2 }, .ld i0 g4 { loc16 with sx := true }, .ld i0 g4 { glob4 with base := .u 5 }, .ld i0 (.u 4) { loc16 with base := .g 4 }, .st i0 (.g 45) loc16, .st i0 g4 { loc16 with order := 1 },
   .st i0 g4 { loc16 with width := 1, sx := true }, .atom i0 at1 false 11, .atom i0 { at1 with s2 := .g 0 } false 0, .atom i0 at1 true 1, .atom i0 { at1 with d := .g 4 } false 0, .atom i0 { at1 with base := .u 7 } false 0,
   .atom i0 { at1 with order := 4 } false 0, .atom i0 { at1 with s1 := .g 5 } true 0, .addxI i0 { at1 with s1 := .g 6 } 0 0, .addxI i0 { at1 with s1 := .g 8 } 8 0, .addxF i0 { at1 with s2 := .p 0 } 0 0,
   .barB i0 16 0, .barB i0 0 33, .memfence i0 0 0, .memfence i0 0 4, .memfence i0 4 1, .cpAsync i0 (.g 6) (.u 8) .zero 1 0, .cpAsync i0 (.u 5) (.u 8) .zero 1 0, .cpAsync i0 (.u 6) (.u 8) .zero 0 0,
   .cpAsync i0 (.u 6) (.u 8) .zero 32769 0, .cpAsync i0 (.u 6) (.u 8) (.u 9) 1 0, .cpAsync i0 (.u 6) (.u 8) .zero 1 32, .ctrSet i0 (.u 4) 0 1, .ctrSet i0 (.g 4) 0 0, .ctrWait i0 .zero 32 0, .ctrWait i0 .zero 0 65536,
   .ctrRd i0 g4 32, .stPatch i0 (.u 9) 0 2, .stPatch i0 (.u 8) 16384 0, .stPatch i0 (.u 8) 0 5, .stSkip i0 4096, .bra i0 4096 0, .bra i0 0 4096, .bri i0 (.g 4) 0, .bri ip (.u 4) 0, .call ip 0, .call i0 4096, .ret ip,
   .rngP i0 (.g 2) (.g 4) (.g 2), .rngP i0 (.g 4) (.g 6) (.g 2), .rngP i0 (.g 4) (.g 8) (.g 3), .rdspec i0 g4 4]

/-- Commands that name a unit the part has not, one for each kind of unit. -/
def illUnit : List Instr :=
  [.contextRestore 368, .coreProbe 368 true, .pathSwitchCount 0 32, .copySectorDone 368 0 0 ⟨[], 0⟩, .evict 32 0, .snoopTimeout 32 0, .mbxGo 128, .queueCreate 128 0 0 [], .shellQuery (.mbx 128), .shellQuery (.queue 4096),
   .sqDoorbell 4096 0, .graphRun 4096, .linkHeartbeat 18, .remoteRead 18 (msg 0 []), .shellReset 512]
theorem test_ill_formed_terms_are_refused : (∀ c ∈ illCode, c.wellFormed = false) ∧ ∀ c ∈ illUnit ++ [.sealComplete 512 0, .supplyWarn 5, .dieReset 8], c.wellFormed = false := by decide +kernel

/-! ### Words of thread code -/

/-- Words of format R, I, M, A, B and S, each bit from its place in Tables 7-3 to 7-9, with what they stand for. -/
def words : List (Word × Instr) :=
  [(0b0000000001110111111011111101111110111111000000000000000000000000, .nop ⟨3, 2, false, 7⟩),
   (0b0000000101110000101000000110001110111111000000000000000000000000, .iadd ⟨3, 2, false, 7⟩ (.g 5) (.g 1) (.u 7)),
   (0b0000011010100101111000000010111110111111000000000000000000000000, .imacc ⟨3, 2, true, 2⟩ (.g 47) (.g 0) (.u 31) .zero),
   (0b0001010001110101110000001000000110111111000000000000000000000000, .iadd64 ⟨3, 2, false, 7⟩ (.g 46) (.g 2) (.g 3)),
   (0b0001011001111000100011111100000011011110101011011011111011101111, .movi ⟨3, 2, false, 7⟩ (.u 4) 0xDEADBEEF),
   (0b0010000001111100001000001000000111100110001001110000000000000000, .icmp ⟨3, 2, false, 7⟩ (.p 1) (.g 2) (.g 3) (.p 6) 2 7),
   (0b0010000100111100001000001000100111111111111111111111111111111111, .icmpi ⟨3, 2, false, 3⟩ (.p 1) (.g 2) 9 0xFFFFFFFF),
   (0b0010001001111100000110000111000100111111000000110000000000000000, .pcomb ⟨3, 2, false, 7⟩ (.p 0) (.p 1) (.p 2) 3),
   (0b0010001101110001001000100001111111100101000000000000000000000000, .selP ⟨3, 2, false, 7⟩ (.g 9) (.g 8) .zero (.p 5)),
   (0b0010010001110000100110001101111110111111000000000000000000000010, .lvote ⟨3, 2, false, 7⟩ (.g 4) (.p 3) 2),
   (0b0010010101110000100000010101111110111111000000000000001000011111, .xlane ⟨3, 2, false, 7⟩ (.g 4) (.g 5) .zero 31 2),
   (0b0011000001110000100000010100001100000111000000110101010000000000, .vf ⟨3, 2, false, 7⟩ (.g 4) (.g 5) (.g 6) (.g 7) 3 2 5),
   (0b0011000101111100100000010100001101100111001110111000000000000000, .fcmp ⟨3, 2, false, 7⟩ (.p 4) (.g 5) (.g 6) (.p 7) 3 11 4),
   (0b0100000001110001100000001000010011100110000111111111111111111111, .ld ⟨3, 2, false, 7⟩ (.g 12) ⟨.g 2, .g 9, true, 4, true, 4, false, 1, 3, -1⟩),
   (0b0100000101110000111100100101111110000001000000011111111111111111, .st ⟨3, 2, false, 7⟩ (.g 7) ⟨.u 9, .zero, false, 0, false, 2, false, 0, 0, 131071⟩),
   (0b0100100001110000110000001000001000001000111011101000000000000000, .atom ⟨3, 2, false, 7⟩ ⟨.g 6, .g 2, .g 4, .g 8, 3, 2, true⟩ true 10),
   (0b0100101001110111111000001000010000111111001000000000111000000000, .addxI ⟨3, 2, false, 7⟩ ⟨.zero, .g 2, .g 8, .zero, 0, 2, false⟩ 1 6),
   (0b0100101101110000100000001000010010000001101110000011110100000000, .addxF ⟨3, 2, false, 7⟩ ⟨.g 4, .g 2, .g 9, .g 1, 2, 3, true⟩ 7 5),
   (0b0101000101110111111011111101111110111111000000000000001000001111, .barB ⟨3, 2, false, 7⟩ 15 32),
   (0b0101001001110111111011111101111110111111000000000000000000001011, .memfence ⟨3, 2, false, 7⟩ 3 2),
   (0b0101100001110111111100011010010000111111000111111000000000000000, .cpAsync ⟨3, 2, false, 7⟩ (.u 6) (.u 8) .zero 32768 31),
   (0b0101101001110111111011111101111110111111111111111111111100011110, .ctrWait ⟨3, 2, false, 7⟩ .zero 30 65535),
   (0b0110000001110111111100100001111110111111000000010011111111111111, .stPatch ⟨3, 2, false, 7⟩ (.u 8) 16383 4),
   (0b0110000101110111111011111101111110111111000000000000111111111111, .stSkip ⟨3, 2, false, 7⟩ 4095),
   (0b0110100000000000000000110000000000100111111000000000000000000000, .bra ⟨3, 2, false, 0⟩ 3 2),
   (0b0110100101110000000000001111111111111011111000000000000000000000, .bri ⟨3, 2, false, 7⟩ (.u 31) 4095),
   (0b0110101001111000000000000000000000000111111000000000000000000000, .call ⟨3, 2, false, 7⟩ 2048),
   (0b0111000001110000100000100000000100111111000000000000000000000000, .rngP ⟨3, 2, false, 7⟩ (.g 4) (.g 8) (.g 2)),
   (0b0111000101110000011011111101111110111111000000000000000000000010, .rdspec ⟨3, 2, false, 7⟩ (.g 3) 2),
   (0b0111001001110111111011111101111110111111000000001011111011101111, .bkpt ⟨3, 2, false, 7⟩ 0xBEEF)]
theorem test_words_decode : ∀ x ∈ words, decodeCode 3 2 x.1 = some x.2 ∧ encodeCode x.2 = x.1 ∧ x.2.wellFormed = true := by decide +kernel

/-- Words that BAD_CODE refuses (07 R184). -/
def badWords : List Word :=
  [/- a reserved opcode -/ 0b0001010101110000101000000100000100111111000000000000000000000000,
   /- a reserved bit -/ 0b0000000101110000101000000100000100111111000000000000000000000001,
   /- a reserved selector -/ 0b0000000101110110000000000100000100111111000000000000000000000000,
   /- a reserved selector -/ 0b0000000101110000101110100000000100111111000000000000000000000000,
   /- an unused selector -/ 0b0001001101110000101000000100000000111111000000000000000000000000,
   /- an unused func -/ 0b0000000101110000101000000100000100111111000000010000000000000000,
   /- u0 as a destination -/ 0b0000000101111000000100010110001100111111000000000000000000000000,
   /- a general source of a uniform destination -/ 0b0000000101111000100000010110001100111111000000000000000000000000,
   /- a predicate as a register -/ 0b0000000101110000101110000100000100111111000000000000000000000000,
   /- an odd pair -/ 0b0001010001110000101000001000000110111111000000000000000000000000,
   /- p7 negated -/ 0b0000000011110111111011111101111110111111000000000000000000000000,
   /- a guarded CALL -/ 0b0110101000010000000001010000000000000111111000000000000000000000,
   /- a reserved condition -/ 0b0010000001111100001000001000000110111111000010100000000000000000,
   /- an INT32 comparison of FCMP -/ 0b0011000101111100100000010100001100111111000000000010000000000000,
   /- an order of 3 -/ 0b0100000001110000100000001001111110000101001100000000000000000000,
   /- a sign-extended word -/ 0b0100000001110000100000001001111110000101010000000000000000000000,
   /- a reserved bit of format A -/ 0b0100101001110111111000001000010000111111001000000000111010000000,
   /- an atomic operation of 64 bits that has none -/ 0b0100100001110111111000001000001000111111000001000100000000000000,
   /- a count of 33 -/ 0b0101000101110111111011111101111110111111000000000000001000010000,
   /- a fence of kind 0 -/ 0b0101001001110111111011111101111110111111000000000000000000000011,
   /- a copy of 32,769 sectors -/ 0b0101100001110111111100011010010000111111000000001000000000000001,
   /- a reserved bit of format B -/ 0b0110101101110000000000000000000000000111111000000000000000000001,
   /- a target on RET -/ 0b0110101101110000000000010000000000000111111000000000000000000000]
theorem test_bad_words_do_not_decode : badWords.all (fun w => (decodeCode 3 2 w).isNone) = true := by decide +kernel

/-! ### Published vectors -/

/-- "123456789" in ASCII. -/
def nine : List Byte := [0x31, 0x32, 0x33, 0x34, 0x35, 0x36, 0x37, 0x38, 0x39]
/-- The check value that CRC catalogues give CRC-32C, and that of ECMA-182. -/
theorem test_crcs : crc32c nine = 0xE3069283 ∧ crc64 nine = 0x6C40DF5F0B497347 := by decide +kernel
/-- FIPS 180-4: the digest of "abc". -/
theorem test_sha256_abc : sha256 [0x61, 0x62, 0x63] =
    leBytes 0xAD1500F261FF10B49C7A1796A36103B02322AE5DDE404141EACF018FBF1678BA 32 := by decide +kernel
/-- RFC 4231, case 2: key "Jefe", data "what do ya want for nothing?". -/
theorem test_hmac_jefe : hmac [0x4A, 0x65, 0x66, 0x65] ([0x77, 0x68, 0x61, 0x74, 0x20, 0x64, 0x6F, 0x20, 0x79, 0x61, 0x20, 0x77, 0x61, 0x6E, 0x74, 0x20, 0x66, 0x6F, 0x72, 0x20, 0x6E, 0x6F, 0x74, 0x68, 0x69, 0x6E,
      0x67, 0x3F] : List Byte) = leBytes 0x4338EC64B958EC9D8339279D083F005AC77595082624046A4E7560BF46C1DC5B 32 := by decide +kernel
/-- FIPS 197, C.3: one block of AES-256. -/
theorem test_aes256 : aesDec ((List.range 32).map (fun i => BitVec.ofNat 8 i)) (leBytes 0x8960494B9049FCEABF456751CAB7A28E 16) =
    ([0x00, 0x11, 0x22, 0x33, 0x44, 0x55, 0x66, 0x77, 0x88, 0x99, 0xAA, 0xBB, 0xCC, 0xDD, 0xEE, 0xFF] : List Byte) := by decide +kernel
/-- Random123's known answer of Philox-4x32-10 for a counter and a key of zeros and of ones. -/
theorem test_philox : philox 0 0 = 0x9B00DBD8BC57AC4CE169C58D6627E8D5 := by decide +kernel
/-- FP32 sums, products and conversions by hand: 1.5 + 2.25, 1.5 × −2, 1/3, 65504 in FP16, 2^24 + 1 from an integer. -/
theorem test_fp32 : fadd 0x3FC00000 0x40100000 = 0x40700000 ∧ fmul 0x3FC00000 0xC0000000 = 0xC0400000 ∧ fdiv 0x3F800000 0x40400000 = 0x3EAAAAAB ∧ narrow .nearest fp16 0x477FE000 = 0x7BFF ∧
    fofInt 16777217 = 0x4B800000 := by decide +kernel

/-! ### Single steps -/

/-- One lane's register after a step of an instruction in the small state with these uniform registers. -/
def uAfter (c : Instr) (us : List (Nat × W32)) (r : Sel) : Option W32 :=
  match exec c (withGroup { grp c with u := us }) with
  | .next t => (groupOf 0 0 t).map (fun g => rdR g 0 r)
  | _ => none

/-- 07 R193: sums wrap, and amounts of 32 and above. -/
theorem test_integer_corners :
    uAfter (.iadd i0 (.u 9) (.u 4) (.u 5)) [(4, 0xFFFFFFFF), (5, 2)] (.u 9) = some 1 ∧ uAfter (.shl i0 (.u 9) (.u 4) (.u 5)) [(4, 1), (5, 32)] (.u 9) = some 0 ∧
    uAfter (.sar i0 (.u 9) (.u 4) (.u 5)) [(4, 0x80000000), (5, 33)] (.u 9) = some 0xFFFFFFFF ∧ uAfter (.clz i0 (.u 9) .zero) [] (.u 9) = some 32 ∧
    uAfter (.imulhs i0 (.u 9) (.u 4) (.u 5)) [(4, 0xFFFFFFFF), (5, 2)] (.u 9) = some 0xFFFFFFFF ∧ uAfter (.imulhu i0 (.u 9) (.u 4) (.u 5)) [(4, 0xFFFFFFFF), (5, 2)] (.u 9) = some 1 ∧
    uAfter (.movi i0 .zero 5) [] .zero = some 0 ∧ uAfter (.isub i0 (.u 4) (.u 4) (.u 4)) [(4, 7)] (.u 4) = some 0 := by decide +kernel

/-- 09 R261: an Evict of the last agent leaves the line invalid, of one of two leaves the other. -/
theorem test_evict :
    ([2, 6].map (fun p => match exec (.evict 1 5) (withDir { dirShared with presence := p }) with | .next t => some ((dirOf 5 t).dstate, (dirOf 5 t).presence) | _ => none)) =
      [some (.inv, 0), some (.shared, 4)] := by decide +kernel

/-- 12 T12-4: the identity word at reset. -/
theorem test_reset_devid : devIdWord State.reset / 2 ^ 48 = 0x4D38 := by decide +kernel

/-- 13 T13-7: a run's own status area comes before the descriptor's. -/
theorem test_status_area :
    statusArea { cmd1 with status := 0x2040 } rgraph1 = 0x2040 ∧ statusArea cmd1 { rgraph1 with graph := { graph1 with statusBase := 64 } } = 64 := by decide +kernel

end Sys2Proof.Tests
end

section
/-! SUPPORT. Settles the statements of 00_scope: the reset values of the BAR0 registers, and the BAR4 write that meets two entries of its line in the home cache. -/

namespace Sys2Proof.Proofs.Scope
open Sys2Proof Sys2Proof.Machine

/-! ### Reset -/

/-- No core has left service at reset. -/
theorem coreGone_reset (c : Nat) : coreGone c State.reset = false := by
  have noDie : bit 0 (dieOf c) = false := by
    unfold bit
    rw [Nat.zero_div]
    rfl
  change (false || false || bit 0 (dieOf c) || false) = false
  rw [noDie]
  rfl

theorem coresLeft_reset : coresLeft State.reset = 368 := by
  have allStay : (List.range Config.cores).filter (fun c => !coreGone c State.reset) = List.range Config.cores :=
    List.filter_eq_self.mpr (fun c _ => by rw [coreGone_reset]; rfl)
  unfold coresLeft
  rw [allStay, List.length_range]
  rfl

/-- DEV_ID at reset (12 Table 12-4): the part, stepping 0, interface version 1, no image version, every core. -/
theorem devIdWord_reset : devIdWord State.reset = 0x4D38 * 2 ^ 48 + 2 ^ 32 + 368 := by
  unfold devIdWord
  rw [coresLeft_reset]
  rfl

theorem mbxOf_reset (m : Nat) : mbxOf m State.reset = Mbx.zero := rfl

theorem aptOf_reset (k : Nat) : aptOf k State.reset = Apt.zero := rfl

/-- Settles O58: each register's word is that of empty tables, and DEV_ID counts every core. -/
theorem resetState : Obligations.ResetState := by
  unfold Obligations.ResetState
  refine ⟨⟨memWf_nil, memWf_nil⟩, fun a => ⟨rfl, rfl⟩, ?_, rfl, rfl, rfl, fun m => ?_, fun q => rfl, fun k => ?_⟩
  · rw [devIdWord_reset]
    decide
  · rw [mbxOf_reset]
    decide
  · rw [aptOf_reset]
    rfl

/-! ### A BAR4 write and a home cache that lists its line twice -/

/-- Four frames of set 0 from address 0 on, plain and writable. -/
def writableRange : Range :=
  { base := 0, frames := 4, set := 0, mset := 0, mirror := false, mirrorLost := false, side := false, sealed := false, stream := false, wr := true, frame0 := 0 }

/-- A shell of Tier F channel 0 with one range; of the slice's 16 ways it holds 15, so one is left for direct agents (09 Table 9-11). -/
def oneWayShell : Shell :=
  { comp := { k := 1, o := 0, gop := 0, redund := 0, sampleN := 0, slots := 4, words := [], seats := [], sets := [(0, ⟨[0], 0, 15, 0⟩)], halves := [], links := [] }
    ranges := [(0, writableRange)]
    owns := [], epoch := 0, oldEpoch := false, olds := [], flips := [], owed := [], rebind := none, arriving := [],
    asks := [], seals := [], mirrors := [], discardPoison := false, hint := none, failed := false, rrQueue := 0, windowEnd := 0, created := none }

/-- The line's first entry: it holds no valid word, and stands in the only way of direct agents. -/
def emptyEntry : HLine := { HLine.zero with way := 15, direct := true }

/-- The line's second entry, whose bytes list address 504 twice. -/
def staleEntry : HLine := { emptyEntry with data := [(504, 1), (504, 2)] }

/-- The device in service; aperture 0 maps shell 1's range for writes, and the home cache lists line 0 twice. -/
def doubledLine : State :=
  { State.reset with
    dev := { State.reset.dev with state := 2 }
    host := { State.reset.host with apts := [(0, ⟨true, true, 1, 0, 0⟩)] }
    shells := [(1, oneWayShell)]
    coh := { State.reset.coh with home := [(0, emptyEntry), (0, staleEntry)] } }

/-- A home word after a command. -/
def wordAfter (c : Instr) (w : Nat) (s : State) : Option Nat :=
  match exec c s with
  | .next t => some (homeWord w t).data
  | _ => none

theorem wordAfter_next {c : Instr} {s t : State} (w : Nat) (h : exec c s = .next t) : wordAfter c w s = some (homeWord w t).data := by
  unfold wordAfter
  rw [h]

/-- Eight zeros written to the word at 504 read back as 2: the write evicts the line's empty entry to make room, finds the stale one behind it, and clearing byte 504
there takes only the first of its two cells away. -/
theorem doubledLine_reads_stale : wordAfter (.bar4Write 504 0 (List.replicate 8 0)) 63 doubledLine = some 2 := by decide +kernel

/-- Refutes O25: a BAR4 write need not be what its home then holds. The clause of BAR4_WRITE asks for canonical bytes of the line's home-cache entry and not for a home cache that lists
each line once; in `doubledLine` every premise holds, zeros are written, and the word reads 2. -/
theorem not_hostSide : ¬ Obligations.HostSide := by
  unfold Obligations.HostSide
  rintro ⟨-, -, -, -, -, -, bar4Write, -⟩
  obtain ⟨t, ht, -, -, -, reads⟩ := bar4Write 504 doubledLine (List.replicate 8 0) 1 504 writableRange
    rfl (.inl rfl) (by decide +kernel) (by decide) rfl rfl rfl rfl ⟨rfl, rfl, rfl⟩ rfl rfl
  have written : (homeWord 63 t).data = 0 := (reads ⟨rfl, rfl⟩ rfl rfl rfl).1
  have read := wordAfter_next 63 ht
  rw [doubledLine_reads_stale, written] at read
  exact absurd read (by decide)

end Sys2Proof.Proofs.Scope
end

section
/-! SUPPORT. Every operation of the machine keeps both byte memories in the canonical form of SPEC.md (keys rise and no
listed byte is 0): the model's own form of memories in which what nothing has written reads 0 (entry 14; the hardware fill
of R297). The form is a matter of `mem.dram` and `mem.spad` alone, and few operations write these two: words, byte lists and
cleared ranges, a restored context and the resets. Every other operation calls those or leaves `mem` as it stands.
One lemma `f_memWf` for each operation `f` that answers with a state says that `f` keeps the form, by the branches of `f`
and the lemmas of what `f` calls; they stand in the model's order. Where the unifier would compute a long list or a value
that the claim does not depend on, `generalize` or `clear_value` hides it first. -/

namespace Sys2Proof.Machine

variable {s : State}

/-! ### Outcomes, choices and folds -/

/-- The next state of an outcome, where there is one, has both byte memories in canonical form. -/
def Res.memWf (r : Res) : Prop := ∀ t, r = .next t → t.memWf

theorem memWf_next (hs : s.memWf) : Res.memWf (.next s) := fun _ e => Host.Outcome.next.inj e ▸ hs

theorem memWf_ite {c : Prop} [Decidable c] {s t : State} (hs : s.memWf) (ht : t.memWf) : (if c then s else t).memWf :=
  iteInduction (fun _ => hs) (fun _ => ht)

theorem Res.memWf_ite {c : Prop} [Decidable c] {r q : Res} (hr : r.memWf) (hq : q.memWf) :
    Res.memWf (if c then r else q) :=
  iteInduction (fun _ => hr) (fun _ => hq)

/-- A choice between two things that each carry a state. -/
theorem memWf_ite_of {β : Type} (st : β → State) {c : Prop} [Decidable c] {a b : β} (ha : (st a).memWf) (hb : (st b).memWf) :
    (st (if c then a else b)).memWf :=
  iteInduction (motive := fun x => (st x).memWf) (fun _ => ha) (fun _ => hb)

/-- The canonical form is a matter of `mem` only: a state built field by field has it when its `mem` has. -/
theorem memWf_mk {pe no fr sp nc ou de fu fl sk ho mb qp te sh rt rl gr cm co ch li rr ft rg ff pw ma} {m : Mem}
    (hm : Memory.wf m.dram = true ∧ Memory.wf m.spad = true) :
    State.memWf ⟨pe, no, fr, sp, nc, ou, de, fu, fl, sk, ho, mb, qp, te, sh, rt, rl, gr, cm, co, ch, m,
      li, rr, ft, rg, ff, pw, ma⟩ := hm

theorem memWf_clearSpad {lo hi tags rmw chans held} (hs : s.memWf) :
    Memory.wf (Mem.dram ⟨s.mem.dram, memClear s.mem.spad lo hi, tags, rmw, chans, held⟩) = true ∧
      Memory.wf (Mem.spad ⟨s.mem.dram, memClear s.mem.spad lo hi, tags, rmw, chans, held⟩) = true :=
  ⟨hs.1, memWf_clear _ _ _ hs.2⟩

theorem reset_memWf : State.reset.memWf := ⟨memWf_nil, memWf_nil⟩

theorem memWf_of_pair {α : Type} {p : α × State} {a : α} {t : State} (hp : p.2.memWf) (e : p = (a, t)) : t.memWf := by
  subst e
  exact hp

theorem foldl_keeps {α : Type} {f : State → α → State} {l : List α} (hf : ∀ t a, t.memWf → (f t a).memWf)
    (hs : s.memWf) : (l.foldl f s).memWf :=
  foldl_memWf f hf l s hs

/-- A fold over anything that carries a state keeps the canonical form when each of its steps does. -/
theorem foldl_keeps_of {α β : Type} (st : β → State) {f : β → α → β} {l : List α} {b : β}
    (hf : ∀ b a, (st b).memWf → (st (f b a)).memWf) (hb : (st b).memWf) : (st (l.foldl f b)).memWf :=
  List.foldlRecOn l f (motive := fun b => (st b).memWf) hb (fun b hb a _ => hf b a hb)

/-! ### Time and the operations that every family shares -/

theorem passTime_memWf {d} (hs : s.memWf) : (passTime d s).memWf :=
  memWf_mk hs

theorem untilTime_memWf {t} (hs : s.memWf) : (untilTime t s).memWf :=
  passTime_memWf hs

theorem bump_memWf (hs : s.memWf) : (bump s).memWf :=
  memWf_mk hs

theorem tick_memWf (hs : s.memWf) : (tick s).memWf :=
  memWf_mk hs

theorem setVec_memWf {loc v e} (hs : s.memWf) : (setVec loc v e s).memWf :=
  memWf_ite (memWf_mk hs) (memWf_mk hs)

theorem signal_memWf {loc v} (hs : s.memWf) : (signal loc v s).memWf := by
  unfold signal
  extract_lets +onlyGivenNames _ _ s1
  have h1 : s1.memWf := setVec_memWf hs
  refine memWf_ite (memWf_ite (setVec_memWf h1) ((emit_memWf _ _).mpr h1)) ?_
  refine memWf_ite (memWf_mk h1) ?_
  exact memWf_ite h1 (memWf_ite (setVec_memWf h1) ((emit_memWf _ _).mpr h1))

theorem setCore_memWf {c v} (hs : s.memWf) : (setCore c v s).memWf :=
  memWf_mk hs

theorem setCmd_memWf {n c} (hs : s.memWf) : (setCmd n c s).memWf :=
  memWf_mk hs

theorem setShell_memWf {cdom sh} (hs : s.memWf) : (setShell cdom sh s).memWf :=
  memWf_mk hs

theorem setChan_memWf {ch c} (hs : s.memWf) : (setChan ch c s).memWf :=
  memWf_mk hs

theorem takeInj_memWf {det target} (hs : s.memWf) : (takeInj det target s).2.memWf := by
  unfold takeInj
  split
  · exact hs
  · exact memWf_mk hs

theorem logSpad_memWf {core off n cdom} (hs : s.memWf) : (logSpad core off n cdom s).memWf :=
  foldl_keeps (fun _ _ ht => logDec_memWf _ _ _ _ _ _ _ ht) hs

theorem foldl_logSpad_memWf {core k d} {l : Tab WTag} (hs : s.memWf) :
    (l.foldl (fun s e => logSpad core (8 * (e.1 - k)) 8 d s) s).memWf :=
  foldl_keeps (fun _ _ ht => logSpad_memWf ht) hs

/-! ### The Winemar image and the pattern blob (17 R494..R498) -/

theorem readPatterns_memWf {t} (hs : s.memWf) (e : readPatterns s = some t) : t.memWf := by
  unfold readPatterns at e
  split at e
  · cases e
    exact hs
  split at e
  · cases e
    exact hs
  · cases e

theorem runImage_memWf {i} (hs : s.memWf) : (runImage i s).memWf :=
  memWf_mk hs

/-! ### The home of a line (09 R252, R253; 10 R290..R294) -/

theorem setHLine_memWf {line h} (hs : s.memWf) : (setHLine line h s).memWf :=
  memWf_mk hs

theorem dropHomeTags_memWf {line} (hs : s.memWf) : (dropHomeTags line s).memWf :=
  memWf_mk hs

theorem pin_memWf {line} (hs : s.memWf) : (pin line s).memWf :=
  memWf_ite hs (memWf_mk hs)

theorem unpin_memWf {line} (hs : s.memWf) : (unpin line s).memWf :=
  memWf_ite hs (memWf_mk hs)

theorem homeForward_memWf {w cells} (hs : s.memWf) : (homeForward w cells s).memWf :=
  foldl_keeps (fun _ _ ht => memWf_ite (memPutWord_memWf _ _ _ _ ht) (memWf_mk ht)) hs

theorem setCLine_memWf {agent line c} (hs : s.memWf) : (setCLine agent line c s).memWf :=
  memWf_mk hs

theorem homeWriteLine_memWf {m direct cdom line cells} (hs : s.memWf) :
    (homeWriteLine m direct cdom line cells s).memWf :=
  memWf_ite (memWf_mk hs) (homeMerge_memWf _ _ _ _ _ (recallAll_memWf _ _ hs))

theorem homeWriteBy_memWf {m direct cdom dpa bytes} (hs : s.memWf) : (homeWriteBy m direct cdom dpa bytes s).memWf :=
  foldl_keeps (fun _ _ ht => homeWriteLine_memWf ht) hs

theorem homePush_memWf {agent cdom dpa bytes} (hs : s.memWf) : (homePush agent cdom dpa bytes s).memWf :=
  homeWriteBy_memWf hs

theorem homeWrite_memWf {who cdom dpa bytes} (hs : s.memWf) : (homeWrite who cdom dpa bytes s).memWf :=
  homeWriteBy_memWf hs

/-! ### The end of a command (12 R369; 13 R388) -/

theorem owe_memWf {q c} (hs : s.memWf) : (owe q c s).memWf := by
  unfold owe
  split
  · exact hs
  · exact memWf_mk hs

theorem clearCores_memWf {n} (hs : s.memWf) : (clearCores n s).memWf :=
  memWf_mk hs

theorem reapGraphs_memWf (hs : s.memWf) : (reapGraphs s).memWf :=
  memWf_ite hs (memWf_mk hs)

theorem finishWith_memWf {n status out0 out1} (hs : s.memWf) : (finishWith n status out0 out1 s).memWf := by
  unfold finishWith
  split
  · exact hs
  · exact reapGraphs_memWf (memWf_mk (clearCores_memWf (owe_memWf hs)))

theorem finishCmd_memWf {n status} (hs : s.memWf) : (finishCmd n status s).memWf := by
  unfold finishCmd
  split
  · exact hs
  · exact finishWith_memWf hs

theorem faultCmd_memWf {n status} (hs : s.memWf) : (faultCmd n status s).memWf :=
  finishCmd_memWf hs

/-! ### Messages and requests of Falnar links (14 R400, R401, R409, R418) -/

theorem setLink_memWf {l k} (hs : s.memWf) : (setLink l k s).memWf :=
  memWf_mk hs

theorem sendFlits_memWf {l n us} (hs : s.memWf) : (sendFlits l n us s).memWf := by
  induction n generalizing us s with
  | zero => exact hs
  | succ n ih =>
    unfold sendFlits
    exact ih ((emit_memWf _ _).mpr (setLink_memWf hs))

theorem sendMsg_memWf {l kind m} (hs : s.memWf) : (sendMsg l kind m s).memWf :=
  sendFlits_memWf ((emit_memWf _ _).mpr (setLink_memWf hs))

theorem sendReq_memWf {cdom dev kind tenant sub ctr offset len data wait t} (hs : s.memWf)
    (e : sendReq cdom dev kind tenant sub ctr offset len data wait s = some t) : t.memWf := by
  unfold sendReq at e
  split at e
  · split at e
    · cases e
    · cases e
      exact sendMsg_memWf hs
  · cases e

theorem dropTag_memWf {t} (hs : s.memWf) : (dropTag t s).memWf :=
  memWf_mk hs

/-! ### Coherence messages at the homes (09 T9-7) -/

theorem receive_memWf {f m t} (hs : s.memWf) (e : receive f s = some (m, t)) : t.memWf := by
  unfold receive at e
  obtain ⟨r, -, hr⟩ := Option.map_eq_some_iff.mp e
  cases hr
  exact hs

theorem request_memWf {agent line kind mask} (hs : s.memWf) : (request agent line kind mask s).memWf :=
  (emit_memWf _ _).mpr hs

theorem keepQueued_memWf {keep} (hs : s.memWf) : (keepQueued keep s).memWf :=
  memWf_mk hs

theorem pushAtom_memWf {line a} (hs : s.memWf) : (pushAtom line a s).memWf := by
  unfold pushAtom
  extract_lets +onlyGivenNames _ _ _ s1
  have h1 : s1.memWf := memWf_mk hs
  exact memWf_ite (pin_memWf h1) h1

theorem enqueue_memWf {line m} (hs : s.memWf) : (enqueue line m s).memWf :=
  memWf_mk hs

theorem bar4Push_memWf {line m} (hs : s.memWf) : (bar4Push line m s).memWf :=
  bar4Go_memWf _ _ (memWf_mk hs)

theorem issue_memWf {agent line m} (hs : s.memWf) : (issue agent line m s).memWf :=
  memWf_next (memWf_ite hs (arrive_memWf _ _ _ hs))

theorem hostMiss_memWf {agent line cdom mask own} (hs : s.memWf) : (hostMiss agent line cdom mask own s).memWf :=
  memWf_ite hs (memWf_mk hs)

theorem execWb_memWf {agent line} (hs : s.memWf) : (execWb agent line s).memWf := by
  unfold execWb
  split
  · exact memWf_next hs
  · exact issue_memWf hs

theorem execEvict_memWf {agent line} (hs : s.memWf) : (execEvict agent line s).memWf := by
  unfold execEvict
  refine issue_memWf ?_
  split
  · exact memWf_ite ((delCLine_memWf _ _ _).mpr hs) hs
  · exact hs

theorem execDirectRead_memWf {da addr len cdom} (hs : s.memWf) : (execDirectRead da addr len cdom s).memWf :=
  Res.memWf_ite (memWf_next ((emit_memWf _ _).mpr hs)) (memWf_next (arrive_memWf _ _ _ hs))

theorem execDirectWrite_memWf {da addr cdom bytes} (hs : s.memWf) : (execDirectWrite da addr cdom bytes s).memWf :=
  Res.memWf_ite (memWf_next ((emits_memWf _ _).mpr hs)) (memWf_next (arrive_memWf _ _ _ hs))

theorem execSnoopResponse.settle_memWf {line t} (hs : s.memWf) : (execSnoopResponse.settle line t s).memWf := by
  unfold execSnoopResponse.settle
  extract_lets +onlyGivenNames _
  split
  · exact memWf_ite ((setDir_memWf _ _ _).mpr hs) hs
  · exact memWf_ite ((setDir_memWf _ _ _).mpr hs) hs
  · exact (setDir_memWf _ _ _).mpr hs
  · exact (setDir_memWf _ _ _).mpr hs
  · exact (setDir_memWf _ _ _).mpr hs
  · exact (setDir_memWf _ _ _).mpr hs
  · exact (setDir_memWf _ _ _).mpr hs
  · exact (setDir_memWf _ _ _).mpr hs
  · exact hs

theorem execSnoopResponse.finish_memWf {line t} (hs : s.memWf) : (execSnoopResponse.finish line t s).memWf := by
  unfold execSnoopResponse.finish
  extract_lets +onlyGivenNames s1
  have h1 : s1.memWf := execSnoopResponse.settle_memWf hs
  split
  · extract_lets +onlyGivenNames _ s2
    have h2 : s2.memWf := memWf_mk h1
    refine drainSet_memWf _ _ ?_
    split
    · exact serve_memWf _ _ _ _ h2
    · exact h2
  extract_lets +onlyGivenNames _ _ _ s3
  have h3 : s3.memWf := (setDir_memWf _ _ _).mpr (memWf_mk h1)
  refine memWf_ite (drainSet_memWf _ _ (begin_memWf _ _ _ h3)) ?_
  exact drainSet_memWf _ _ (serve_memWf _ _ _ _ h3)

theorem execSnoopResponse_memWf {agent line} (hs : s.memWf) : (execSnoopResponse agent line s).memWf := by
  unfold execSnoopResponse
  split
  · rename_i t e
    have h1 : t.memWf := receive_memWf hs e
    split
    · exact memWf_next (takeDown_memWf _ _ _ _ _ _ h1)
    refine Res.memWf_ite (memWf_next (takeDown_memWf _ _ _ _ _ _ h1)) ?_
    extract_lets +onlyGivenNames s2 _
    have h2 : s2.memWf := memWf_ite h1 (homeTake_memWf _ _ _ _ _ h1)
    refine Res.memWf_ite (memWf_next (memWf_mk h2)) ?_
    exact memWf_next (execSnoopResponse.finish_memWf h2)
  · exact memWf_next hs

theorem execGrantack_memWf {agent line} (hs : s.memWf) : (execGrantack agent line s).memWf := by
  unfold execGrantack
  split
  · rename_i t e
    have h1 : t.memWf := receive_memWf hs e
    refine Res.memWf_ite (memWf_next (takeDown_memWf _ _ _ _ _ _ (takeInj_memWf h1))) ?_
    split
    · refine Res.memWf_ite (memWf_next (drainSet_memWf _ _ ((setDir_memWf _ _ _).mpr (memWf_mk h1)))) ?_
      exact memWf_next (takeDown_memWf _ _ _ _ _ _ h1)
    · exact memWf_next (takeDown_memWf _ _ _ _ _ _ h1)
  · exact memWf_next hs

/-! ### The caching agents (09 R249..R262, R270, R278..R280) -/

theorem noteLineWord_memWf {agent line cdom w} (hs : s.memWf) : (noteLineWord agent line cdom w s).memWf := by
  unfold noteLineWord
  split
  · exact hs
  extract_lets +onlyGivenNames _ _ s1
  have h1 : s1.memWf := logDec_memWf _ _ _ _ _ _ _ hs
  refine memWf_ite h1 ?_
  refine memWf_ite ((setTag_memWf _ _ _).mpr (setCLine_memWf h1)) ?_
  exact (delCLine_memWf _ _ _).mpr h1

theorem touchLine_memWf {agent line} (hs : s.memWf) : (touchLine agent line s).memWf := by
  unfold touchLine
  split
  · exact hs
  · exact setCLine_memWf (tick_memWf hs)

theorem noteHit_memWf {agent dpa len cdom} (hs : s.memWf) : (noteHit agent dpa len cdom s).memWf :=
  foldl_keeps (fun _ _ ht => noteLineWord_memWf ht) (touchLine_memWf hs)

theorem settleLine_memWf {agent line} (hs : s.memWf) : (settleLine agent line s).memWf := by
  unfold settleLine
  split
  · exact hs
  refine memWf_ite hs ?_
  refine foldl_keeps (fun _ _ ht => ?_) hs
  split
  · exact ht
  refine memWf_ite ht ?_
  extract_lets +onlyGivenNames _ s1
  have h1 : s1.memWf := noteLineWord_memWf ht
  exact memWf_ite h1 ((setTag_memWf _ _ _).mpr (setCLine_memWf h1))

theorem giveWays_memWf {half cdom n} (hs : s.memWf) : (giveWays half cdom n s).memWf :=
  memWf_mk hs

theorem evictLine_memWf {agent line} (hs : s.memWf) : (evictLine agent line s).memWf := by
  unfold evictLine
  split
  · exact hs
  extract_lets +onlyGivenNames s1 _
  have h1 : s1.memWf := settleLine_memWf hs
  split
  · exact request_memWf (memWf_mk ((delCLine_memWf _ _ _).mpr h1))
  · exact request_memWf ((delCLine_memWf _ _ _).mpr h1)
  · exact request_memWf ((delCLine_memWf _ _ _).mpr h1)
  all_goals exact (delCLine_memWf _ _ _).mpr h1

theorem agentRoom_memWf {agent line cdom n way t} (hs : s.memWf) (e : agentRoom agent line cdom n s = some (way, t)) :
    t.memWf := by
  unfold agentRoom at e
  split at e
  · split at e
    · cases e
      exact hs
    · obtain ⟨r, -, hr⟩ := Option.map_eq_some_iff.mp e
      cases hr
      exact foldl_keeps (fun _ _ ht => evictLine_memWf ht) hs
  · obtain ⟨r, -, hr⟩ := Option.map_eq_some_iff.mp e
    cases hr
    exact foldl_keeps (fun _ _ ht => evictLine_memWf ht) hs

theorem setMiss_memWf {agent line m} (hs : s.memWf) : (setMiss agent line m s).memWf := by
  unfold setMiss
  split <;> exact memWf_mk hs

theorem storeWord_memWf {agent line cdom cells w} (hs : s.memWf) : (storeWord agent line cdom cells s w).memWf := by
  unfold storeWord
  split
  · exact hs
  refine memWf_ite ((setTag_memWf _ _ _).mpr hs) ?_
  exact (setTag_memWf _ _ _).mpr (setCLine_memWf (logDec_memWf _ _ _ _ _ _ _ hs))

theorem storeHeld_memWf {agent line cdom cells} (hs : s.memWf) : (storeHeld agent line cdom cells s).memWf := by
  unfold storeHeld
  extract_lets +onlyGivenNames s1
  have h1 : s1.memWf := foldl_keeps (fun _ _ ht => storeWord_memWf ht) (touchLine_memWf hs)
  split
  · exact h1
  · exact setCLine_memWf h1

theorem installFill_memWf {agent line mask cells pois c} (hs : s.memWf) :
    (installFill agent line mask cells pois c s).memWf :=
  setCLine_memWf (memWf_mk hs)

theorem mapGroups_memWf {agent f} (hs : s.memWf) : (mapGroups agent f s).memWf :=
  memWf_mk hs

theorem wakeLoads_memWf {agent line} (hs : s.memWf) : (wakeLoads agent line s).memWf := by
  unfold wakeLoads
  refine memWf_ite hs ?_
  refine foldl_keeps (fun _ _ ht => ?_) (mapGroups_memWf hs)
  split
  · exact noteHit_memWf ht
  · exact ht

theorem pump_memWf {agent line} (hs : s.memWf) : (pump agent line s).memWf := by
  unfold pump
  split
  · exact hs
  refine memWf_ite hs ?_
  extract_lets +onlyGivenNames c _
  refine memWf_ite ?_ ?_
  · refine request_memWf ?_
    refine setMiss_memWf ?_
    clear_value c
    split
    · exact memWf_ite ((delCLine_memWf _ _ _).mpr hs) hs
    · exact hs
  extract_lets +onlyGivenNames s1 _ _
  have h1 : s1.memWf := memWf_ite hs (storeHeld_memWf hs)
  refine memWf_ite ?_ ?_
  · refine request_memWf ?_
    refine setMiss_memWf ?_
    split
    · exact memWf_ite ((delCLine_memWf _ _ _).mpr h1) h1
    · exact h1
  exact memWf_ite (request_memWf (setMiss_memWf h1)) (setMiss_memWf h1)

theorem wakeMiss_memWf {agent line} (hs : s.memWf) : (wakeMiss agent line s).memWf :=
  wakeLoads_memWf (pump_memWf hs)

theorem execData_memWf {agent line s0} (hs : s0.memWf) : (execData agent line s0).memWf := by
  unfold execData
  split
  · rename_i t e
    have h1 : t.memWf := receive_memWf hs e
    split
    · exact memWf_next (takeDown_memWf _ _ _ _ _ _ h1)
    refine Res.memWf_ite (memWf_next (takeDown_memWf _ _ _ _ _ _ h1)) ?_
    extract_lets +onlyGivenNames s2
    have h2 : s2.memWf := setMiss_memWf h1
    refine Res.memWf_ite (memWf_next (pump_memWf h2)) ?_
    split
    · exact memWf_next hs
    rename_i u e
    have h3 : u.memWf := agentRoom_memWf (tick_memWf h2) e
    extract_lets +onlyGivenNames _ s4 _
    have h4 : s4.memWf := installFill_memWf h3
    exact memWf_next (wakeMiss_memWf (memWf_ite ((send_memWf _ _).mpr h4) h4))
  · exact memWf_next hs

theorem execGrant_memWf {agent line s0} (hs : s0.memWf) : (execGrant agent line s0).memWf := by
  unfold execGrant
  split
  · rename_i t e
    have h1 : t.memWf := receive_memWf hs e
    split
    · exact memWf_next (takeDown_memWf _ _ _ _ _ _ h1)
    refine Res.memWf_ite (memWf_next (takeDown_memWf _ _ _ _ _ _ h1)) ?_
    split
    · exact memWf_next hs
    rename_i u e
    have h2 : u.memWf := agentRoom_memWf (tick_memWf (setMiss_memWf h1)) e
    exact memWf_next ((send_memWf _ _).mpr (wakeMiss_memWf (setCLine_memWf h2)))
  · exact memWf_next hs

theorem execPushreq_memWf {agent line} (hs : s.memWf) : (execPushreq agent line s).memWf := by
  unfold execPushreq
  split
  · rename_i t e
    have h1 : t.memWf := receive_memWf hs e
    split
    · exact memWf_next h1
    · exact memWf_next (request_memWf ((delCLine_memWf _ _ _).mpr (setMiss_memWf h1)))
  · exact memWf_next hs

theorem execPushack_memWf {agent line} (hs : s.memWf) : (execPushack agent line s).memWf := by
  unfold execPushack
  split
  · rename_i t e
    have h1 : t.memWf := receive_memWf hs e
    split
    · exact memWf_next (memWf_ite (wakeMiss_memWf (setMiss_memWf h1)) h1)
    · exact memWf_next h1
  · exact memWf_next hs

theorem respondSnoop_memWf {agent line ans} (hs : s.memWf) : (respondSnoop agent line ans s).memWf := by
  unfold respondSnoop
  split
  · rename_i t e
    have h1 : t.memWf := memWf_of_pair (takeInj_memWf hs) e
    exact memWf_mk h1
  rename_i t e
  have h2 : t.memWf := memWf_of_pair (takeInj_memWf hs) e
  exact (send_memWf _ _).mpr h2

theorem execSnpinv_memWf {agent line} (hs : s.memWf) : (execSnpinv agent line s).memWf := by
  unfold execSnpinv
  split
  · rename_i t e
    have h1 : t.memWf := receive_memWf hs e
    extract_lets +onlyGivenNames s2 _ s3
    have h2 : s2.memWf := settleLine_memWf h1
    have h3 : s3.memWf := by
      unfold s3
      split
      · exact memWf_ite h2 ((delCLine_memWf _ _ _).mpr h2)
      · exact h2
    exact memWf_next (respondSnoop_memWf h3)
  · exact memWf_next hs

theorem execSnpshr_memWf {agent line} (hs : s.memWf) : (execSnpshr agent line s).memWf := by
  unfold execSnpshr
  split
  · rename_i t e
    have h1 : t.memWf := receive_memWf hs e
    extract_lets +onlyGivenNames s2 _ s3
    have h2 : s2.memWf := settleLine_memWf h1
    have h3 : s3.memWf := by
      unfold s3
      split
      · exact memWf_ite (setCLine_memWf h2) h2
      · exact h2
    exact memWf_next (respondSnoop_memWf h3)
  · exact memWf_next hs

theorem execSnpcur_memWf {agent line} (hs : s.memWf) : (execSnpcur agent line s).memWf := by
  unfold execSnpcur
  split
  · rename_i t e
    have h1 : t.memWf := receive_memWf hs e
    exact memWf_next (respondSnoop_memWf (settleLine_memWf h1))
  · exact memWf_next hs

theorem execSnpfwd_memWf {agent line} (hs : s.memWf) : (execSnpfwd agent line s).memWf := by
  unfold execSnpfwd
  split
  · rename_i t e
    have h1 : t.memWf := receive_memWf hs e
    exact memWf_next (respondSnoop_memWf h1)
  · exact memWf_next hs

theorem execWback_memWf {agent line} (hs : s.memWf) : (execWback agent line s).memWf := by
  unfold execWback
  split
  · rename_i t e
    have h1 : t.memWf := receive_memWf hs e
    exact memWf_next (pump_memWf (memWf_mk h1))
  · exact memWf_next hs

theorem dropN_memWf {agent line} (hs : s.memWf) : (dropN agent line s).memWf := by
  unfold dropN
  split
  · exact memWf_ite ((delCLine_memWf _ _ _).mpr hs) hs
  · exact hs

theorem askFill_memWf {agent dpa cdom acq stream} (hs : s.memWf) : (askFill agent dpa cdom acq stream s).memWf :=
  pump_memWf (setMiss_memWf (memWf_ite (dropN_memWf hs) hs))

theorem storeLine_memWf {agent line cdom by' cells} (hs : s.memWf) : (storeLine agent line cdom by' cells s).memWf := by
  unfold storeLine
  extract_lets +onlyGivenNames s1 _ _
  have h1 : s1.memWf := dropN_memWf hs
  exact memWf_ite (storeHeld_memWf h1) (pump_memWf (setMiss_memWf h1))

theorem dropAllN_memWf {agent cdom} (hs : s.memWf) : (dropAllN agent cdom s).memWf :=
  memWf_mk hs

theorem dirRoom_memWf {line} (hs : s.memWf) : (dirRoom line s).memWf := by
  unfold dirRoom
  split
  · exact hs
  · exact recallAll_memWf _ _ hs

theorem retag_memWf {line cdom} (hs : s.memWf) : (retag line cdom s).memWf :=
  memWf_ite (recallAll_memWf _ _ hs) hs

theorem grantRead_memWf {agent line cdom} (hs : s.memWf) : (grantRead agent line cdom s).2.2.memWf := by
  unfold grantRead
  extract_lets +onlyGivenNames s1 _
  have h1 : s1.memWf := retag_memWf hs
  split
  · refine memWf_ite_of (fun x : LState × Nat × State => x.2.2) h1 ?_
    extract_lets +onlyGivenNames s2 s3
    have h2 : s2.memWf := settleLine_memWf h1
    have h3 : s3.memWf := by
      unfold s3
      split
      · exact setCLine_memWf (memWf_ite (homeTake_memWf _ _ _ _ _ h2) h2)
      split
      · exact homeTake_memWf _ _ _ _ _ h2
      · exact h2
    exact (setDir_memWf _ _ _).mpr h3
  · exact (setDir_memWf _ _ _).mpr h1
  · exact h1
  · exact (setDir_memWf _ _ _).mpr (dirRoom_memWf h1)

theorem bulkFill_memWf {agent line mask cdom stream} (hs : s.memWf) :
    (bulkFill agent line mask cdom stream s).memWf := by
  unfold bulkFill
  extract_lets +onlyGivenNames s1
  have h1 : s1.memWf := tick_memWf hs
  refine memWf_ite h1 ?_
  refine memWf_ite (memWf_ite h1 (memWf_ite (setMiss_memWf h1) (enqueue_memWf (setMiss_memWf h1)))) ?_
  split
  · exact installFill_memWf h1
  split
  · exact h1
  rename_i t e
  have h2 : t.memWf := agentRoom_memWf h1 e
  refine installFill_memWf ?_
  refine memWf_ite_of (fun x : LState × Nat × State => x.2.2) (retag_memWf h2) ?_
  exact grantRead_memWf h2

theorem bulkRead_memWf {agent cdom dpa len stream} (hs : s.memWf) :
    (bulkRead agent cdom dpa len stream s).2.2.2.memWf := by
  unfold bulkRead
  refine memWf_ite_of (fun x : List Byte × Bool × Bool × State => x.2.2.2) hs ?_
  extract_lets +onlyGivenNames _ _ _ _ s1
  have h1 : s1.memWf := noteHit_memWf (memWf_ite hs (dropN_memWf hs))
  refine memWf_ite_of (fun x : List Byte × Bool × Bool × State => x.2.2.2) h1 ?_
  exact bulkFill_memWf (noteSectors_memWf _ _ _ _ h1)

/-! ### Places of a repetition, lost outputs and parking (02 R68; 03 R96; 06 R170) -/

theorem setRun_memWf {n seat q} (hs : s.memWf) : (setRun n seat q s).memWf := by
  unfold setRun
  split
  · exact setCmd_memWf hs
  · exact hs

theorem takeFree_memWf {n} (hs : s.memWf) : (takeFree n s).2.memWf :=
  memWf_mk hs

theorem losePiece_memWf {c core0 seatMap p} (hs : s.memWf) : (losePiece c core0 seatMap s p).memWf := by
  unfold losePiece
  extract_lets +onlyGivenNames _
  split
  · exact memWf_ite (homePush_memWf (takeFree_memWf hs)) hs
  · exact spadWrite_memWf _ _ _ _ (takeFree_memWf hs)
  · exact hs

theorem loseSpan_memWf {c seatMap pl p} (hs : s.memWf) : (loseSpan c seatMap pl s p).memWf :=
  memWf_ite (foldl_keeps (fun _ _ ht => losePiece_memWf ht) hs) (spadWrite_memWf _ _ _ _ (takeFree_memWf hs))

theorem loseOutputs_memWf {n all} (hs : s.memWf) : (loseOutputs n all s).memWf := by
  unfold loseOutputs
  split
  · exact hs
  split
  · exact hs
  refine foldl_keeps (fun _ _ ht => ?_) hs
  split
  · refine memWf_ite ht ?_
    exact foldl_keeps (fun _ _ ht => foldl_keeps (fun _ _ ht => loseSpan_memWf ht) ht) ht
  · exact ht

theorem writeAreas_memWf {core gs} (hs : s.memWf) : (writeAreas core gs s).memWf :=
  foldl_keeps (fun _ _ ht => spadWrite_memWf _ _ _ _ ht) hs

theorem stopGroups_memWf {n b} (hs : s.memWf) : (stopGroups n b s).memWf :=
  memWf_mk hs

theorem mapGroup_memWf {n core slot f} (hs : s.memWf) : (mapGroup n core slot f s).memWf :=
  setCore_memWf hs

theorem parkOf_memWf {n core slot r} (hs : s.memWf) : (parkOf n core slot r s).memWf := by
  unfold parkOf
  extract_lets +onlyGivenNames _ s1
  have h1 : s1.memWf := spadWrite_memWf _ _ _ _ (stopGroups_memWf (mapGroup_memWf hs))
  split
  · exact h1
  refine memWf_ite (finishWith_memWf (loseOutputs_memWf h1)) ?_
  exact memWf_ite h1 (setCmd_memWf h1)

theorem park_memWf {core slot r} (hs : s.memWf) : (park core slot r s).memWf := by
  unfold park
  split
  · exact hs
  · exact parkOf_memWf hs

/-! ### Worst-case execution times (02 R44, R45) -/

theorem rederive_memWf {cdom} (hs : s.memWf) : (rederive cdom s).memWf := by
  unfold rederive
  split
  · exact hs
  · exact memWf_mk hs

/-! ### The deadline monitor and fallbacks (02 R64..R67) -/

theorem stopSeats_memWf {n b} (hs : s.memWf) : (stopSeats n b s).memWf := by
  unfold stopSeats
  split
  · exact stopGroups_memWf (setCmd_memWf hs)
  · exact hs

theorem substitute_memWf {n} (hs : s.memWf) : (substitute n s).memWf := by
  unfold substitute
  split
  · exact hs
  · exact memWf_ite hs (memWf_ite (stopSeats_memWf (setCmd_memWf hs)) (setCmd_memWf hs))

theorem monitorSeat_memWf {cdom seat} (hs : s.memWf) : (monitorSeat cdom seat s).memWf :=
  foldl_keeps (fun _ _ ht => memWf_ite (substitute_memWf ht) ht) hs

theorem monitorShell_memWf {cdom} (hs : s.memWf) : (monitorShell cdom s).memWf := by
  unfold monitorShell
  split
  · exact hs
  · exact foldl_keeps (fun _ _ ht => monitorSeat_memWf ht) hs

theorem monitorAll_memWf (hs : s.memWf) : (monitorAll s).memWf :=
  foldl_keeps (fun _ _ ht => monitorShell_memWf ht) hs

theorem watchInj_memWf (hs : s.memWf) : (watchInj s).memWf :=
  memWf_ite (monitorAll_memWf (memWf_mk hs)) hs

theorem milestone_memWf {n reps} (hs : s.memWf) : (milestone n reps s).memWf := by
  unfold milestone
  split
  · exact hs
  · exact monitorShell_memWf (setCmd_memWf hs)

/-! ### How Winemar commands arrive and answer (12 R351..R362; 13 R380..R386) -/

theorem setTenant_memWf {t r} (hs : s.memWf) : (setTenant t r s).memWf :=
  memWf_mk hs

theorem setMbx_memWf {m b} (hs : s.memWf) : (setMbx m b s).memWf :=
  memWf_mk hs

theorem answer_memWf {m code seq key status detail offset res} (hs : s.memWf) :
    (answer m code seq key status detail offset res s).memWf := by
  unfold answer
  extract_lets +onlyGivenNames _ _ _ s1
  have h1 : s1.memWf := setMbx_memWf hs
  exact memWf_ite (signal_memWf h1) h1

theorem endSession_memWf {m} (hs : s.memWf) : (endSession m s).memWf :=
  setMbx_memWf hs

theorem process_memWf {m req} (hs : s.memWf) : (process m req s).memWf := by
  unfold process
  refine memWf_ite (answer_memWf hs) ?_
  refine memWf_ite ?_ ?_
  · extract_lets +onlyGivenNames bad
    clear_value bad
    split
    · exact answer_memWf hs
    split
    · exact answer_memWf hs
    · exact setMbx_memWf hs
  refine memWf_ite (answer_memWf (setMbx_memWf hs)) ?_
  refine memWf_ite ?_ ?_
  · extract_lets +onlyGivenNames s1
    have h1 : s1.memWf := answer_memWf (setMbx_memWf hs)
    exact memWf_ite (endSession_memWf h1) h1
  refine memWf_ite (answer_memWf (setMbx_memWf hs)) ?_
  extract_lets +onlyGivenNames s2
  have h2 : s2.memWf := setMbx_memWf hs
  split
  · exact answer_memWf h2
  · exact setMbx_memWf h2

theorem serveWaiting_memWf (hs : s.memWf) : (serveWaiting s).memWf := by
  unfold serveWaiting
  refine foldl_keeps (fun _ _ ht => ?_) hs
  split
  · exact process_memWf ht
  · exact ht

theorem setBegun_memWf {src} (hs : s.memWf) : (setBegun src s).memWf := by
  unfold setBegun
  split
  · exact setMbx_memWf hs
  split
  · exact memWf_mk hs
  · exact hs

theorem examine_memWf {q n} (hs : s.memWf) : (examine q n s).memWf := by
  induction n generalizing s with
  | zero => exact hs
  | succ n ih =>
    unfold examine
    split
    · exact hs
    split
    · exact hs
    refine memWf_ite hs ?_
    split
    · exact hs
    · exact ih (owe_memWf (memWf_mk hs))

theorem popEntry_memWf {q} (hs : s.memWf) : (popEntry q s).memWf := by
  unfold popEntry
  split
  · exact hs
  · exact examine_memWf (memWf_mk hs)

theorem respondBytes_memWf {src status detail offset res} (hs : s.memWf) :
    (respondBytes src status detail offset res s).memWf := by
  unfold respondBytes
  split
  · split
    · exact answer_memWf hs
    · exact hs
  split
  · split
    · exact popEntry_memWf (owe_memWf hs)
    · exact hs
  · exact hs

theorem respond_memWf {src status outs} (hs : s.memWf) : (respond src status outs s).memWf :=
  respondBytes_memWf hs

theorem refuse_memWf {src status detail offset} (hs : s.memWf) : (refuse src status detail offset s).memWf :=
  respondBytes_memWf hs

theorem onReq_memWf {code src f} (hs : s.memWf) (hf : ∀ a, (f a).memWf) : (onReq code src s f).memWf := by
  unfold onReq
  split
  · exact memWf_next hs
  · exact memWf_next (hf _)

/-! ### What ends commands and takes hardware out of service (17 R493) -/

theorem setDevState_memWf {st} (hs : s.memWf) : (setDevState st s).memWf :=
  memWf_ite hs (signal_memWf (memWf_mk hs))

theorem setUnaligned_memWf {b} (hs : s.memWf) : (setUnaligned b s).memWf :=
  memWf_ite hs (signal_memWf (logRec_memWf _ _ (memWf_mk hs)))

theorem writeDevSec_memWf {d} (hs : s.memWf) : (writeDevSec d s).memWf := by
  unfold writeDevSec
  extract_lets +onlyGivenNames _ _ s1
  have h1 : s1.memWf := memWf_mk hs
  split <;> exact memWf_mk h1

theorem abandonCmd_memWf {n detail} (hs : s.memWf) : (abandonCmd n detail s).memWf :=
  finishWith_memWf hs

theorem endCmds_memWf {pick status out0} (hs : s.memWf) : (endCmds pick status out0 s).memWf :=
  foldl_keeps (fun _ _ ht => finishWith_memWf ht) hs

theorem endEntries_memWf {q status out0} (hs : s.memWf) : (endEntries q status out0 s).memWf := by
  unfold endEntries
  split
  · exact hs
  · exact memWf_mk hs

theorem shellEvent_memWf {cdom status out0} (hs : s.memWf) : (shellEvent cdom status out0 s).memWf :=
  memWf_mk hs

theorem goOutOfService_memWf (hs : s.memWf) : (goOutOfService s).memWf := by
  unfold goOutOfService
  refine memWf_ite hs ?_
  refine setDevState_memWf ?_
  refine memWf_mk ?_
  refine memWf_mk ?_
  exact foldl_keeps (fun _ _ ht => endEntries_memWf ht) (endCmds_memWf (logRec_memWf _ _ (writeDevSec_memWf hs)))

theorem checkFloor_memWf (hs : s.memWf) : (checkFloor s).memWf :=
  memWf_ite (goOutOfService_memWf hs) hs

theorem loseSeat_memWf {core cause} (hs : s.memWf) : (loseSeat core cause s).memWf := by
  unfold loseSeat
  refine foldl_keeps (fun _ _ ht => ?_) hs
  split
  · exact ht
  refine memWf_ite ?_ ?_
  · extract_lets +onlyGivenNames s1 _
    have h1 : s1.memWf := setCmd_memWf ht
    refine memWf_ite ?_ ?_
    · extract_lets +onlyGivenNames _ s2
      have h2 : s2.memWf := setCmd_memWf h1
      exact memWf_ite h2 (substitute_memWf h2)
    refine memWf_ite ?_ ?_
    · split
      · exact stopSeats_memWf (setCmd_memWf h1)
      · exact h1
    exact h1
  exact memWf_ite ht (abandonCmd_memWf ht)

theorem fenceCoreBy_memWf {inj core} (hs : s.memWf) : (fenceCoreBy inj core s).memWf :=
  memWf_ite hs (monitorAll_memWf (loseSeat_memWf (memWf_mk (setCore_memWf hs))))

theorem fenceCore_memWf {core} (hs : s.memWf) : (fenceCore core s).memWf :=
  fenceCoreBy_memWf hs

theorem unfence_memWf {dom unit} (hs : s.memWf) : (unfence dom unit s).memWf :=
  memWf_mk hs

theorem rederiveAll_memWf (hs : s.memWf) : (rederiveAll s).memWf :=
  foldl_keeps (fun _ _ ht => rederive_memWf ht) hs

theorem retireCore_memWf {core} (hs : s.memWf) : (retireCore core s).memWf := by
  unfold retireCore
  refine memWf_ite hs ?_
  refine checkFloor_memWf ?_
  exact rederiveAll_memWf (logRec_memWf _ _ (writeDevSec_memWf (setCore_memWf (fenceCore_memWf hs))))

theorem retireDie_memWf {die} (hs : s.memWf) : (retireDie die s).memWf := by
  unfold retireDie
  generalize List.range 46 = cores
  refine memWf_ite hs ?_
  refine checkFloor_memWf (rederiveAll_memWf (logRec_memWf _ _ (writeDevSec_memWf ?_)))
  exact foldl_keeps (fun _ _ ht => fenceCore_memWf ht) hs

theorem loseMirror_memWf {cdom i side} (hs : s.memWf) : (loseMirror cdom i side s).memWf := by
  unfold loseMirror
  split
  · exact hs
  split
  · exact hs
  · exact memWf_ite hs (logRec_memWf _ _ (setShell_memWf hs))

theorem fenceChannel_memWf {ch} (hs : s.memWf) : (fenceChannel ch s).memWf := by
  unfold fenceChannel
  refine memWf_ite hs ?_
  extract_lets +onlyGivenNames _ _ _ _ _ _ s1
  have h1 : s1.memWf := by
    refine memWf_mk (setChan_memWf (foldl_keeps (fun _ _ ht => homeEvict_memWf _ _ ht) ?_))
    exact foldl_keeps (fun _ _ ht => recallAll_memWf _ _ ht) hs
  split
  · exact h1
  split
  · exact h1
  · exact rederive_memWf (foldl_keeps (fun _ _ ht => loseMirror_memWf ht) h1)

/-! ### The calibration calendar (02 R56..R62, R540) -/

theorem placeSlot_memWf {stroke r} (hs : s.memWf) : (placeSlot stroke r s).memWf :=
  memWf_mk hs

theorem fixSlot_memWf {stroke r} (hs : s.memWf) : (fixSlot stroke r s).memWf := by
  unfold fixSlot
  extract_lets +onlyGivenNames s1
  have h1 : s1.memWf := placeSlot_memWf hs
  split
  · exact memWf_ite ((emit_memWf _ _).mpr (memWf_mk h1)) h1
  · exact h1

theorem fixStroke_memWf {stroke} (hs : s.memWf) : (fixStroke stroke s).memWf :=
  foldl_keeps (fun _ _ ht => memWf_ite (fixSlot_memWf ht) ht) hs

theorem moveSlot_memWf {x n stroke} (hs : s.memWf) : (moveSlot x s n stroke).memWf := by
  induction n generalizing stroke with
  | zero => exact hs
  | succ n ih => exact memWf_ite (fixSlot_memWf hs) ih

theorem refitCalendar_memWf {target} (hs : s.memWf) : (refitCalendar target s).memWf :=
  foldl_keeps (fun _ _ ht => foldl_keeps (fun _ _ ht => moveSlot_memWf ht) (memWf_mk ht)) hs

theorem trimCalendar_memWf (hs : s.memWf) : (trimCalendar s).memWf :=
  memWf_mk hs

/-! ### Paired and Sampled seats (15 R433, R434, R437) -/

theorem holdItem_memWf {core addr bytes node w} (hs : s.memWf) : (holdItem core addr bytes node w s).memWf :=
  setCore_memWf hs

theorem openSample_memWf {n gseat core number node rep c at'} (hs : s.memWf) :
    (openSample n gseat core number node rep c at' s).memWf := by
  unfold openSample
  split
  · refine memWf_ite ?_ ?_
    · split
      · exact memWf_mk hs
      · exact hs
    exact hs
  · exact hs

/-! ### What every station repetition shares (03 R73, R75, R82) -/

theorem freeSlot_memWf {r pl} (hs : s.memWf) : (freeSlot r pl s).memWf := by
  unfold freeSlot
  split
  · exact hs
  · exact setRun_memWf hs

theorem readPiece_memWf {r x p} (hx : x.st.memWf) : (readPiece r x p).st.memWf := by
  unfold readPiece
  refine memWf_ite_of RdAcc.st hx ?_
  extract_lets +onlyGivenNames _ _
  split
  · exact memWf_ite_of RdAcc.st hx (bulkRead_memWf hx)
  · exact logSpad_memWf hx
  · exact memWf_ite_of RdAcc.st hx (memWf_ite_of RdAcc.st hx hx)
  · exact memWf_ite_of RdAcc.st hx hx
  all_goals exact hx

theorem readSpan_memWf {r pl x p} (hx : x.st.memWf) : (readSpan r pl x p).st.memWf := by
  unfold readSpan
  refine memWf_ite_of RdAcc.st hx ?_
  refine memWf_ite_of RdAcc.st (foldl_keeps_of RdAcc.st (fun _ _ ht => readPiece_memWf ht) hx) ?_
  exact memWf_ite (logSpad_memWf hx) hx

theorem readTile_memWf {r pl ext} (hs : s.memWf) : (readTile r pl ext s).2.2.memWf :=
  foldl_keeps_of RdAcc.st (fun _ _ ht => readSpan_memWf ht) hs

theorem readHere_memWf {r pl} (hs : s.memWf) : (readHere r pl s).2.memWf :=
  readTile_memWf hs

theorem writePiece_memWf {n cdom core seatMap guar x p} (hx : x.2.memWf) :
    (writePiece n cdom core seatMap guar x p).2.memWf := by
  unfold writePiece
  refine memWf_ite_of Prod.snd hx ?_
  extract_lets +onlyGivenNames _ _
  split
  · exact memWf_ite_of Prod.snd hx (memWf_ite_of Prod.snd hx (homePush_memWf hx))
  · exact spadWrite_memWf _ _ _ _ hx
  · exact memWf_ite_of Prod.snd hx (memWf_ite_of Prod.snd hx ((emit_memWf _ _).mpr hx))
  · split
    · next t e => exact sendReq_memWf hx e
    · exact hx
  all_goals exact hx

theorem writeShell_memWf {n cdom core seatMap guar a bytes} (hs : s.memWf) :
    (writeShell n cdom core seatMap guar a bytes s).2.memWf :=
  foldl_keeps_of Prod.snd (fun _ _ ht => writePiece_memWf ht) hs

theorem writeSpan_memWf {r pl x p} (hx : x.2.memWf) : (writeSpan r pl x p).2.memWf := by
  unfold writeSpan
  refine memWf_ite_of Prod.snd hx ?_
  refine memWf_ite_of Prod.snd (spadWrite_memWf _ _ _ _ hx) ?_
  exact memWf_ite_of Prod.snd (holdItem_memWf hx) (writeShell_memWf hx)

theorem markTile_memWf {r pl idx ecc} (hs : s.memWf) : (markTile r pl idx ecc s).memWf :=
  memWf_ite hs (setRun_memWf hs)

theorem fillSlot_memWf {r pl sl} (hs : s.memWf) : (fillSlot r pl sl s).memWf := by
  unfold fillSlot
  split
  · exact hs
  · exact setRun_memWf hs

theorem writeTile_memWf {r pl rows scales idx ecc anchor survey} (hs : s.memWf) :
    (writeTile r pl rows scales idx ecc anchor survey s).2.memWf := by
  unfold writeTile
  refine memWf_ite_of Prod.snd (foldl_keeps_of Prod.snd (fun _ _ ht => writeSpan_memWf ht) hs) ?_
  exact fillSlot_memWf (markTile_memWf (foldl_keeps_of Prod.snd (fun _ _ ht => writeSpan_memWf ht) hs))

theorem repEnd_memWf {r} (hs : s.memWf) : (repEnd r s).memWf := by
  unfold repEnd
  extract_lets +onlyGivenNames _ _ s1
  have h1 : s1.memWf := setRun_memWf hs
  split
  · exact memWf_ite (milestone_memWf h1) h1
  · exact h1

theorem writeStatus_memWf {r w} (hs : s.memWf) : (writeStatus r w s).memWf := by
  unfold writeStatus
  extract_lets +onlyGivenNames _ _ _ s1
  have h1 : s1.memWf := memWf_ite (holdItem_memWf hs) (writeShell_memWf hs)
  refine memWf_ite h1 ?_
  split
  · exact setCmd_memWf h1
  · exact h1

theorem setPart_memWf {r p} (hs : s.memWf) : (setPart r p s).memWf :=
  setRun_memWf hs

theorem addPart_memWf {r} (hs : s.memWf) : (addPart r s).memWf :=
  setRun_memWf hs

theorem stopStatusAt_memWf {fault n} (hs : s.memWf) : (stopStatusAt fault n s).memWf := by
  unfold stopStatusAt
  split
  · exact hs
  split
  · exact hs
  refine foldl_keeps (fun _ _ ht => ?_) hs
  dsimp only
  split
  · exact memWf_ite (writeStatus_memWf ht) ht
  · exact ht

theorem stopStatus_memWf {n} (hs : s.memWf) : (stopStatus n s).memWf :=
  stopStatusAt_memWf hs

theorem faultStop_memWf {n status} (hs : s.memWf) : (faultStop n status s).memWf :=
  faultCmd_memWf (stopStatus_memWf (loseOutputs_memWf hs))

theorem stationFault_memWf {here n} (hs : s.memWf) : (stationFault here n s).memWf :=
  faultCmd_memWf (stopStatusAt_memWf (loseOutputs_memWf hs))

theorem repFault_memWf {r bad flags} (hs : s.memWf) : (repFault r bad flags s).memWf :=
  faultStop_memWf (setRun_memWf (memWf_ite (writeStatus_memWf hs) hs))

theorem onNode_memWf {core op f} (hs : s.memWf) (hf : ∀ a t, t.memWf → (f a t).memWf) : (onNode core op s f).memWf := by
  unfold onNode
  split
  · exact memWf_next hs
  · exact memWf_next (hf _ _ hs)

/-! ### How a thread group issues, moves and stops (06 R152, R157, R179) -/

theorem setIssued_memWf {i g} (hs : s.memWf) : (setIssued i g s).memWf :=
  setCore_memWf hs

theorem parkAt_memWf {i code lane detail} (hs : s.memWf) : (parkAt i code lane detail s).memWf := by
  unfold parkAt
  split
  · exact hs
  · exact park_memWf (setIssued_memWf hs)

theorem passBarB_memWf {core b} (hs : s.memWf) : (passBarB core b s).memWf :=
  setCore_memWf hs

theorem barrierCheck_memWf {i} (hs : s.memWf) : (barrierCheck i s).memWf := by
  unfold barrierCheck
  split
  · exact hs
  refine memWf_ite (parkAt_memWf hs) ?_
  refine memWf_ite ?_ ?_
  · split
    · split
      · exact (setGroup_memWf _ _ _ _).mpr hs
      · exact passBarB_memWf hs
      · exact hs
    · exact hs
  exact hs

theorem endGroup_memWf {i} (hs : s.memWf) : (endGroup i s).memWf := by
  unfold endGroup
  split
  · exact hs
  refine memWf_ite hs ?_
  extract_lets +onlyGivenNames _ s1
  have h1 : s1.memWf := setCore_memWf hs
  refine memWf_ite h1 ?_
  split
  · exact h1
  · exact setCmd_memWf h1

theorem wakeCtrs_memWf {core} (hs : s.memWf) : (wakeCtrs core s).memWf :=
  setCore_memWf hs

theorem regOp_memWf {c f} (hs : s.memWf) : (regOp c f s).memWf := by
  unfold regOp
  split
  · exact memWf_next hs
  · exact memWf_next (setIssued_memWf hs)

theorem alu3_memWf {c d a b e f} (hs : s.memWf) : (alu3 c d a b e f s).memWf :=
  regOp_memWf hs

theorem alu2_memWf {c d a b f} (hs : s.memWf) : (alu2 c d a b f s).memWf :=
  alu3_memWf hs

theorem alu1_memWf {c d a f} (hs : s.memWf) : (alu1 c d a f s).memWf :=
  alu3_memWf hs

theorem predOp_memWf {c d f} (hs : s.memWf) : (predOp c d f s).memWf :=
  regOp_memWf hs

/-! ### Admission, starts, preemption and contexts (02 R39..R53; 03 R95) -/

theorem boundary_memWf {c} (hs : s.memWf) : (boundary c s).memWf :=
  foldl_keeps (fun _ _ ht => dropAllN_memWf ht) hs

theorem startCmd_memWf {n} (hs : s.memWf) : (startCmd n s).memWf := by
  unfold startCmd
  split
  · exact hs
  split
  · extract_lets +onlyGivenNames _ _ _ _ _ s1
    have h1 : s1.memWf := boundary_memWf (foldl_keeps (fun _ _ ht => setCore_memWf ht) (setCmd_memWf (bump_memWf hs)))
    refine memWf_ite h1 ?_
    exact memWf_ite (writeShell_memWf h1) (faultStop_memWf (writeShell_memWf h1))
  · exact hs

theorem startGuar_memWf (hs : s.memWf) : (startGuar s).memWf := by
  unfold startGuar
  refine foldl_keeps (fun _ _ ht => ?_) hs
  split
  · exact memWf_ite (startCmd_memWf ht) ht
  · exact ht

theorem resumeSeat_memWf {n p} (hs : s.memWf) : (resumeSeat n p s).memWf := by
  unfold resumeSeat
  split
  · exact hs
  split
  · exact hs
  · exact memWf_ite hs (setCmd_memWf (wakeCtrs_memWf (setCore_memWf hs)))

theorem startBE_memWf (hs : s.memWf) : (startBE s).memWf := by
  unfold startBE
  refine foldl_keeps (fun _ _ ht => ?_) hs
  split
  · exact ht
  refine memWf_ite ht ?_
  refine memWf_ite (memWf_ite (startCmd_memWf ht) ht) ?_
  exact memWf_ite (foldl_keeps (fun _ _ ht => memWf_ite (resumeSeat_memWf ht) ht) ht) ht

theorem schedule_memWf (hs : s.memWf) : (schedule s).memWf := by
  unfold schedule
  extract_lets +onlyGivenNames s1
  have h1 : s1.memWf := watchInj_memWf hs
  exact memWf_ite h1 (startBE_memWf (startGuar_memWf h1))

theorem stopSeat_memWf {n p} (hs : s.memWf) : (stopSeat n p s).memWf := by
  unfold stopSeat
  split
  · exact hs
  extract_lets +onlyGivenNames s1 _
  have h1 : s1.memWf := by
    unfold s1
    split
    · exact setCmd_memWf hs
    · exact hs
  exact setCore_memWf h1

theorem holdSeat_memWf {n p} (hs : s.memWf) : (holdSeat n p s).memWf := by
  unfold holdSeat
  split
  · exact hs
  split
  · exact hs
  · exact setCmd_memWf (writeAreas_memWf (setCore_memWf hs))

theorem preempt_memWf (hs : s.memWf) : (preempt s).memWf := by
  unfold preempt
  refine foldl_keeps (fun _ _ ht => ?_) hs
  refine foldl_keeps (fun _ _ ht => ?_) ht
  refine foldl_keeps (fun _ _ ht => ?_) ?_
  · exact foldl_keeps (fun _ _ ht => memWf_ite (holdSeat_memWf ht) ht) ht
  exact foldl_keeps (fun _ _ ht => foldl_keeps (fun _ _ ht => memWf_ite (stopSeat_memWf ht) ht) ht) ht

theorem endStopped_memWf {n c} (hs : s.memWf) : (endStopped n c s).memWf := by
  unfold endStopped
  refine memWf_ite hs ?_
  extract_lets +onlyGivenNames s1
  have h1 : s1.memWf := stopStatus_memWf (memWf_ite (loseOutputs_memWf hs) hs)
  refine memWf_ite (finishCmd_memWf h1) ?_
  refine memWf_ite (abandonCmd_memWf h1) ?_
  refine memWf_ite (finishCmd_memWf h1) ?_
  exact memWf_ite (finishCmd_memWf h1) (abandonCmd_memWf h1)

theorem tellStop_memWf {n k} (hs : s.memWf) : (tellStop n k s).memWf := by
  unfold tellStop
  split
  · exact hs
  extract_lets +onlyGivenNames s1
  have h1 : s1.memWf := stopSeats_memWf (setCmd_memWf hs)
  split
  · exact endStopped_memWf h1
  · exact h1

theorem eachCtx_memWf {f d} (hf : ∀ a b t, t.memWf → (f a b t).memWf) (hs : s.memWf) : (eachCtx f d s).memWf :=
  foldl_keeps (fun _ _ ht => hf _ _ _ ht) hs

theorem saveContext_memWf {core} (hs : s.memWf) : (saveContext core s).memWf := by
  unfold saveContext
  split
  · exact setCore_memWf hs
  dsimp only
  refine pushCtx_memWf _ _ _ (setCore_memWf (memWf_mk (memWf_clearSpad (foldl_logSpad_memWf ?_))))
  refine foldl_keeps (fun _ _ ht => ?_) hs
  split
  · exact endStopped_memWf (holdSeat_memWf ht)
  · exact holdSeat_memWf ht

theorem vacate_memWf {core} (hs : s.memWf) : (vacate core s).memWf := by
  unfold vacate
  extract_lets +onlyGivenNames s1
  have h1 : s1.memWf := foldl_keeps (fun _ _ ht => stopSeat_memWf ht) hs
  exact memWf_ite (saveContext_memWf h1) (setCore_memWf h1)

theorem dispatchBE_memWf {n c} (hs : s.memWf) : (dispatchBE n c s).memWf := by
  unfold dispatchBE
  split
  · exact memWf_ite (finishCmd_memWf hs) (setCmd_memWf hs)
  · exact finishCmd_memWf hs

theorem dispatchFront_memWf {q n} (hs : s.memWf) : (dispatchFront q n s).memWf := by
  induction n generalizing s with
  | zero => exact hs
  | succ n ih =>
    unfold dispatchFront
    split
    · exact memWf_ite (ih (dispatchBE_memWf hs)) hs
    · exact hs

theorem judgeCmd_memWf {n c} (hs : s.memWf) : (judgeCmd n c s).memWf := by
  unfold judgeCmd
  split
  · refine memWf_ite (finishCmd_memWf hs) ?_
    refine memWf_ite (finishCmd_memWf hs) ?_
    refine memWf_ite (finishCmd_memWf hs) ?_
    refine memWf_ite ?_ ?_
    · split
      · exact memWf_mk hs
      · exact hs
    refine memWf_ite (memWf_mk (setCmd_memWf hs)) ?_
    refine memWf_ite ?_ ?_
    · split
      · exact memWf_mk hs
      · exact hs
    exact finishCmd_memWf hs
  · exact finishCmd_memWf hs

theorem examineCmd_memWf {n c} (hs : s.memWf) : (examineCmd n c s).memWf :=
  memWf_ite (dispatchBE_memWf hs) (dispatchFront_memWf (judgeCmd_memWf hs))

theorem examineShell_memWf {cdom n} (hs : s.memWf) : (examineShell cdom n s).2.memWf := by
  induction n generalizing s with
  | zero => exact hs
  | succ n ih =>
    unfold examineShell
    split
    · exact hs
    · exact ih (examineCmd_memWf hs)

theorem examineRest_memWf {ds n} (hs : s.memWf) : (examineRest ds n s).memWf := by
  induction n generalizing s with
  | zero => exact hs
  | succ n ih =>
    unfold examineRest
    dsimp only
    split
    · exact hs
    split
    · exact ih (examineCmd_memWf (memWf_mk hs))
    · exact hs

theorem admitAll_memWf (hs : s.memWf) : (admitAll s).memWf := by
  unfold admitAll
  extract_lets +onlyGivenNames _ s1 _ _ _ _ s2
  have h1 : s1.memWf := by
    unfold s1
    refine foldl_keeps (fun _ _ ht => ?_) hs
    split
    · exact setShell_memWf ht
    · exact ht
  have h2 : s2.memWf := by
    unfold s2
    refine examineRest_memWf ?_
    refine foldl_keeps_of Prod.snd (fun _ _ ht => ?_) (memWf_mk h1)
    split
    · exact examineShell_memWf ht
    · exact ht
  refine foldl_keeps (fun _ _ ht => ?_) h2
  split
  · split
    · exact setShell_memWf ht
    · exact ht
  · exact ht

/-! ### What a flip of a shell does (11 R330..R333, R340..R342) -/

theorem markGone_memWf {d h} (hs : s.memWf) : (markGone d h s).memWf := by
  unfold markGone
  split
  · exact memWf_ite hs (memWf_mk hs)
  · exact hs

theorem unregister_memWf {d h} (hs : s.memWf) : (unregister d h s).memWf := by
  unfold unregister
  split
  · exact hs
  refine reapGraphs_memWf ?_
  refine markGone_memWf ?_
  split
  · exact markGone_memWf hs
  · exact hs

theorem moveSeat_memWf {d m} (hs : s.memWf) : (moveSeat d m s).memWf := by
  unfold moveSeat
  extract_lets +onlyGivenNames _ _ _ x _ _ s1
  have h1 : s1.memWf := zeroCore_memWf _ _ (setCore_memWf (memWf_ite hs (saveContext_memWf (setCore_memWf hs))))
  clear_value x
  split
  · exact setCore_memWf h1
  · exact h1

theorem applyFlip_memWf {d f} (hs : s.memWf) : (applyFlip d f s).memWf := by
  unfold applyFlip
  split
  · exact hs
  extract_lets +onlyGivenNames _
  split
  · extract_lets +onlyGivenNames _ s1
    have h1 : s1.memWf := setShell_memWf hs
    exact memWf_ite h1 (respond_memWf h1)
  · exact foldl_keeps (fun _ _ ht => unregister_memWf ht) (setShell_memWf hs)
  · refine memWf_ite (respond_memWf hs) ?_
    exact respond_memWf (rederive_memWf (memWf_mk (setShell_memWf hs)))
  · extract_lets +onlyGivenNames _ _ _ s2 s3
    have h2 : s2.memWf := setShell_memWf hs
    have h3 : s3.memWf := by
      unfold s3
      split
      · exact setShell_memWf h2
      · exact h2
    exact respond_memWf (rederive_memWf h3)
  · exact rederive_memWf (setShell_memWf hs)

theorem unplan_memWf {d core} (hs : s.memWf) : (unplan d core s).memWf :=
  setCore_memWf hs

theorem dropPlan_memWf {d core} (hs : s.memWf) : (dropPlan d core s).memWf :=
  setCore_memWf (unplan_memWf hs)

theorem leaveCore_memWf {d m} (hs : s.memWf) : (leaveCore d m s).memWf :=
  setCore_memWf (unplan_memWf (memWf_ite (saveContext_memWf hs) hs))

theorem renumberSeat_memWf {d core old new} (hs : s.memWf) : (renumberSeat d core old new s).memWf :=
  setCore_memWf hs

theorem planSeat_memWf {d sh from' x} (hs : s.memWf) : (planSeat d sh from' x s).memWf := by
  unfold planSeat
  split
  · exact setCore_memWf hs
  · exact hs

theorem seatIn_memWf {d sh from' x} (hs : s.memWf) : (seatIn d sh from' x s).memWf :=
  memWf_ite (planSeat_memWf hs) (setCore_memWf (zeroCore_memWf _ _ hs))

theorem seatOut_memWf {d core} (hs : s.memWf) : (seatOut d core s).memWf := by
  unfold seatOut
  extract_lets +onlyGivenNames s1 _ _ s2
  have h1 : s1.memWf := dropPlan_memWf hs
  have h2 : s2.memWf := memWf_ite (setCore_memWf h1) h1
  exact memWf_ite (setCore_memWf (zeroCore_memWf _ _ h2)) h2

theorem seatStays_memWf {d sh n y x} (hs : s.memWf) : (seatStays d sh n y x s).memWf := by
  unfold seatStays
  extract_lets +onlyGivenNames _ s1
  have h1 : s1.memWf := renumberSeat_memWf hs
  refine memWf_ite (memWf_ite h1 (planSeat_memWf h1)) ?_
  refine memWf_ite ?_ ?_
  · extract_lets +onlyGivenNames s2
    have h2 : s2.memWf := unplan_memWf h1
    exact memWf_ite h2 (restoreContext_memWf _ _ _ _ h2)
  exact memWf_ite (planSeat_memWf h1) h1

theorem flushChan_memWf {ch} (hs : s.memWf) : (flushChan ch s).memWf := by
  unfold flushChan
  refine memWf_mk ?_
  refine foldl_keeps (fun _ _ ht => homeEvict_memWf _ _ ht) ?_
  exact foldl_keeps (fun _ _ ht => recallAll_memWf _ _ ht) hs

theorem rebindFlip_memWf {d sh r n} (hs : s.memWf) : (rebindFlip d sh r n s).memWf := by
  unfold rebindFlip
  extract_lets +onlyGivenNames _ _ s1 _ _ _ _ _ _ _ _ _ _ _ _ _ s2
  have h1 : s1.memWf := by
    unfold s1
    split
    · exact flushChan_memWf hs
    · exact hs
  have h2 : s2.memWf := by
    unfold s2
    refine foldl_keeps (fun _ _ ht => ?_) ?_
    · split
      · exact seatStays_memWf ht
      · exact ht
    refine foldl_keeps (fun _ _ ht => seatIn_memWf ht) ?_
    refine foldl_keeps (fun _ _ ht => memWf_ite ht (seatOut_memWf ht)) ?_
    refine foldl_keeps (fun _ _ ht => leaveCore_memWf ht) ?_
    refine setShell_memWf ?_
    refine foldl_keeps (fun _ _ ht => unregister_memWf ht) ?_
    refine foldl_keeps (fun _ _ ht => abandonCmd_memWf ht) ?_
    exact eachCtx_memWf (fun _ _ _ ht => pullCtx_memWf _ _ _ ht) h1
  exact rederive_memWf (eachCtx_memWf (fun _ _ _ ht => pushCtx_memWf _ _ _ ht) h2)

theorem fixWays_memWf {d} (hs : s.memWf) : (fixWays d s).memWf :=
  foldl_keeps (fun _ _ ht => giveWays_memWf ht) hs

theorem abandonRebind_memWf {d status detail} (hs : s.memWf) : (abandonRebind d status detail s).memWf := by
  unfold abandonRebind
  split
  · exact hs
  split
  · exact hs
  · exact rederive_memWf (refuse_memWf (fixWays_memWf (setShell_memWf hs)))

theorem settleRebinds_memWf (hs : s.memWf) : (settleRebinds s).memWf := by
  unfold settleRebinds
  refine foldl_keeps (fun _ _ ht => ?_) hs
  split
  · exact ht
  split
  · exact ht
  split
  · exact abandonRebind_memWf ht
  · exact ht

theorem failDomainBy_memWf {inj det ukind unit cdom} (hs : s.memWf) : (failDomainBy inj det ukind unit cdom s).memWf :=
  settleRebinds_memWf (takeDown_memWf _ _ _ _ _ _ hs)

theorem loseCoreBy_memWf {inj core} (hs : s.memWf) : (loseCoreBy inj core s).memWf :=
  settleRebinds_memWf (fenceCoreBy_memWf hs)

theorem loseCore_memWf {core} (hs : s.memWf) : (loseCore core s).memWf :=
  loseCoreBy_memWf hs

theorem markReset_memWf {inj dom unit} (hs : s.memWf) : (markReset inj dom unit s).memWf :=
  memWf_mk hs

theorem needResetBy_memWf {inj core} (hs : s.memWf) : (needResetBy inj core s).memWf :=
  memWf_ite hs (markReset_memWf (loseCoreBy_memWf hs))

theorem needReset_memWf {core} (hs : s.memWf) : (needReset core s).memWf :=
  needResetBy_memWf hs

theorem loseChannel_memWf {ch} (hs : s.memWf) : (loseChannel ch s).memWf :=
  settleRebinds_memWf (fenceChannel_memWf hs)

theorem flipShell_memWf {d} (hs : s.memWf) : (flipShell d s).memWf := by
  unfold flipShell
  split
  · exact hs
  refine memWf_ite hs ?_
  split
  · refine memWf_ite (abandonRebind_memWf hs) ?_
    refine memWf_ite ?_ ?_
    · refine memWf_ite (rebindFlip_memWf hs) ?_
      split
      · exact memWf_ite (applyFlip_memWf (setShell_memWf hs)) hs
      · exact hs
    split
    · exact memWf_ite (applyFlip_memWf (setShell_memWf hs)) hs
    · exact hs
  split
  · exact memWf_ite (applyFlip_memWf (setShell_memWf hs)) hs
  · exact hs

theorem seatArrivals_memWf (hs : s.memWf) : (seatArrivals s).memWf := by
  unfold seatArrivals
  refine foldl_keeps (fun _ _ ht => ?_) hs
  split
  · exact ht
  refine memWf_ite ht ?_
  exact setShell_memWf (foldl_keeps (fun _ _ ht => restoreContext_memWf _ _ _ _ ht) ht)

/-! ### Compositions and their hardware (11 R310..R316) -/

theorem coxRead_memWf {cdom a n} (hs : s.memWf) : (coxRead cdom a n s).st.memWf := by
  unfold coxRead
  split
  · exact hs
  refine memWf_ite_of CoxRead.st hs ?_
  refine foldl_keeps_of CoxRead.st (fun _ _ ht => ?_) hs
  split
  · exact ht
  split
  · exact memWf_ite_of CoxRead.st (logSpad_memWf ht) (logSpad_memWf ht)
  · exact ht
  · exact ht
  · exact ht
  · exact ht
  extract_lets +onlyGivenNames _ s1
  have h1 : s1.memWf := homeNote_memWf _ _ _ _ ht
  exact memWf_ite_of CoxRead.st h1 h1

theorem descRead_memWf {a pasid cdom n ext} (hs : s.memWf) : (descRead a pasid cdom n ext s).st.memWf :=
  memWf_ite_of CoxRead.st ((emit_memWf _ _).mpr hs) (coxRead_memWf hs)

theorem readDesc_memWf {a pasid cdom ext} (hs : s.memWf) : (readDesc a pasid cdom ext s).2.memWf := by
  unfold readDesc
  refine memWf_ite_of Prod.snd hs ?_
  extract_lets +onlyGivenNames _
  split
  · exact descRead_memWf hs
  refine memWf_ite_of Prod.snd (descRead_memWf hs) ?_
  extract_lets +onlyGivenNames _ _
  split <;> exact descRead_memWf (descRead_memWf hs)

/-! ### Memory instructions of thread groups (07 R196..R205, R212; 08) -/

theorem acqDrop_memWf {i scope g} (hs : s.memWf) : (acqDrop i scope g s).memWf :=
  memWf_ite (dropAllN_memWf hs) hs

theorem startLoad_memWf {i g acq len ix r a} (hr : r.1.memWf) : (startLoad i g acq len ix r a).1.memWf := by
  unfold startLoad
  extract_lets +onlyGivenNames _ _
  split
  · refine memWf_ite_of Prod.fst hr ?_
    split
    · exact noteHit_memWf hr
    · exact memWf_ite (askFill_memWf hr) hr
  · exact logSpad_memWf hr
  · exact memWf_ite_of Prod.fst hr ((emit_memWf _ _).mpr hr)
  · split
    · next t e => exact sendReq_memWf hr e
    · exact hr
  · exact hr

theorem startLoads_memWf {i g acq len as} (hs : s.memWf) : (startLoads i g acq len as s).1.memWf :=
  foldl_keeps_of Prod.fst (fun _ _ ht => startLoad_memWf ht) hs

theorem loadLocal_memWf {c d m g as} (hs : s.memWf) : (loadLocal c d m g as s).memWf := by
  unfold loadLocal
  extract_lets +onlyGivenNames _ _ s1
  have h1 : s1.memWf := foldl_keeps (fun _ _ ht => logSpad_memWf ht) hs
  split
  · exact parkAt_memWf h1
  · exact setIssued_memWf h1

theorem execLd_memWf {i d m} (hs : s.memWf) : (execLd i d m s).memWf := by
  unfold execLd
  split
  · exact memWf_next hs
  refine Res.memWf_ite (memWf_next hs) ?_
  split
  · exact memWf_next (parkAt_memWf hs)
  extract_lets +onlyGivenNames s1
  have h1 : s1.memWf := memWf_ite (acqDrop_memWf hs) hs
  refine Res.memWf_ite (memWf_next (loadLocal_memWf h1)) ?_
  refine Res.memWf_ite (memWf_next (setIssued_memWf h1)) ?_
  refine Res.memWf_ite (memWf_next h1) ?_
  exact memWf_next (setIssued_memWf (startLoads_memWf h1))

theorem storeOne_memWf {i g relaxed r x} (hr : r.1.memWf) : (storeOne i g relaxed r x).1.memWf := by
  unfold storeOne
  refine memWf_ite_of Prod.fst (holdItem_memWf hr) ?_
  split
  · exact memWf_ite_of Prod.fst hr (storeLine_memWf hr)
  · exact spadWrite_memWf _ _ _ _ hr
  · exact memWf_ite_of Prod.fst hr ((emit_memWf _ _).mpr hr)
  · split
    · next t e => exact sendReq_memWf hr e
    · exact hr
  · exact hr

theorem storeRun_memWf {i g relaxed xs r} (hr : r.2.1.memWf) : (storeRun i g relaxed xs r).2.1.memWf := by
  induction xs generalizing r with
  | nil => exact hr
  | cons x xs ih =>
    unfold storeRun
    split
    · exact hr
    · exact ih (storeOne_memWf hr)

theorem execSt_memWf {i d m} (hs : s.memWf) : (execSt i d m s).memWf := by
  unfold execSt
  split
  · exact memWf_next hs
  refine Res.memWf_ite (memWf_next hs) ?_
  split
  · exact memWf_next (parkAt_memWf hs)
  refine Res.memWf_ite (memWf_next (setIssued_memWf hs)) ?_
  refine Res.memWf_ite (memWf_next hs) ?_
  extract_lets +onlyGivenNames _ _ _ _
  split
  · exact memWf_next (parkAt_memWf ((setGroup_memWf _ _ _ _).mpr (storeRun_memWf hs)))
  refine Res.memWf_ite (memWf_next (memWf_ite hs ((setGroup_memWf _ _ _ _).mpr (storeRun_memWf hs)))) ?_
  exact memWf_next (setIssued_memWf (storeRun_memWf hs))

theorem atomSpad_memWf {core off cdom a} (hs : s.memWf) : (atomSpad core off cdom a s).2.2.memWf := by
  unfold atomSpad
  extract_lets +onlyGivenNames _ s1
  have h1 : s1.memWf := logSpad_memWf hs
  refine memWf_ite_of (fun x : List Byte × Bool × State => x.2.2) h1 ?_
  exact spadWrite_memWf _ _ _ _ h1

theorem startAtom_memWf {i g ret req r x} (hr : r.1.memWf) : (startAtom i g ret req r x).1.memWf := by
  unfold startAtom
  extract_lets +onlyGivenNames _ _ _ _
  split
  · refine memWf_ite_of Prod.fst hr ?_
    exact memWf_ite_of Prod.fst (holdItem_memWf hr) (pushAtom_memWf hr)
  · exact atomSpad_memWf hr
  · extract_lets +onlyGivenNames _ _ _
    split
    · next t e => exact sendReq_memWf hr e
    · exact hr
  · exact hr

theorem atomic_memWf {c o kind align words pst psa ops req} (hs : s.memWf) :
    (atomic c o kind align words pst psa ops req s).memWf := by
  unfold atomic
  extract_lets +onlyGivenNames _
  split
  · exact memWf_next hs
  refine Res.memWf_ite (memWf_next hs) ?_
  split
  · exact memWf_next (parkAt_memWf hs)
  refine Res.memWf_ite (memWf_next (setIssued_memWf hs)) ?_
  refine Res.memWf_ite (memWf_next hs) ?_
  refine memWf_next ?_
  refine setIssued_memWf ?_
  exact foldl_keeps_of Prod.fst (fun _ _ ht => startAtom_memWf ht) (memWf_ite (acqDrop_memWf hs) hs)

theorem reask_memWf {half cdom acq f} (hs : s.memWf) : (reask half cdom acq f s).memWf := by
  unfold reask
  refine foldl_keeps (fun _ _ ht => ?_) hs
  split
  · exact memWf_ite (wakeLoads_memWf (askFill_memWf ht)) ht
  · exact ht

theorem execAccessResponse_memWf {core slot ext} (hs : s.memWf) : (execAccessResponse core slot ext s).memWf := by
  unfold execAccessResponse
  split
  · exact memWf_next hs
  extract_lets +onlyGivenNames _ _
  split
  · exact memWf_next (foldl_keeps (fun _ _ ht => reask_memWf ht) hs)
  extract_lets +onlyGivenNames _ _ s1
  have h1 : s1.memWf := memWf_ite (dropAllN_memWf hs) hs
  split
  · extract_lets +onlyGivenNames s2
    have h2 : s2.memWf := (setGroup_memWf _ _ _ _).mpr h1
    exact memWf_next (memWf_ite h2 (park_memWf h2))
  · exact memWf_next ((setGroup_memWf _ _ _ _).mpr h1)

theorem execMemfence_memWf {i scope kind} (hs : s.memWf) : (execMemfence i scope kind s).memWf := by
  unfold execMemfence
  split
  · exact memWf_next hs
  refine Res.memWf_ite (memWf_next (setIssued_memWf hs)) ?_
  refine Res.memWf_ite (memWf_next hs) ?_
  exact memWf_next (setIssued_memWf (memWf_ite (acqDrop_memWf hs) hs))

theorem execCpAsync_memWf {i a b c sectors ctr} (hs : s.memWf) : (execCpAsync i a b c sectors ctr s).memWf := by
  unfold execCpAsync
  split
  · exact memWf_next hs
  refine Res.memWf_ite (memWf_next (setIssued_memWf hs)) ?_
  refine Res.memWf_ite (memWf_next (parkAt_memWf hs)) ?_
  refine Res.memWf_ite (memWf_next (parkAt_memWf hs)) ?_
  refine Res.memWf_ite (memWf_next (parkAt_memWf hs)) ?_
  refine Res.memWf_ite (memWf_next (parkAt_memWf hs)) ?_
  refine Res.memWf_ite (memWf_next hs) ?_
  exact Res.memWf_ite (memWf_next hs) (memWf_next (setIssued_memWf (setCore_memWf hs)))

theorem wakeCtr_memWf {core ctr inc} (hs : s.memWf) : (wakeCtr core ctr inc s).memWf :=
  wakeCtrs_memWf (setCore_memWf hs)

theorem ctrAdd_memWf {core ctr} (hs : s.memWf) : (ctrAdd core ctr s).memWf :=
  wakeCtr_memWf (setCore_memWf hs)

theorem execCtrSet_memWf {i a ctr v} (hs : s.memWf) : (execCtrSet i a ctr v s).memWf := by
  unfold execCtrSet
  split
  · exact memWf_next hs
  extract_lets +onlyGivenNames s1
  have h1 : s1.memWf := setIssued_memWf hs
  exact Res.memWf_ite (memWf_next h1) (memWf_next (wakeCtr_memWf (setCore_memWf h1)))

theorem execCtrWait_memWf {i a ctr v} (hs : s.memWf) : (execCtrWait i a ctr v s).memWf := by
  unfold execCtrWait
  split
  · exact memWf_next hs
  refine Res.memWf_ite (memWf_next (setIssued_memWf hs)) ?_
  exact memWf_next (setIssued_memWf hs)

theorem copyFault_memWf {core id code addr cp} (hs : s.memWf) : (copyFault core id code addr cp s).memWf := by
  unfold copyFault
  extract_lets +onlyGivenNames _ s1 _
  have h1 : s1.memWf := setCore_memWf hs
  split
  · exact memWf_ite h1 (parkOf_memWf h1)
  · exact parkOf_memWf h1

theorem sectorDone_memWf {core id sector} (hs : s.memWf) : (sectorDone core id sector s).memWf := by
  unfold sectorDone
  extract_lets +onlyGivenNames _
  split
  · exact hs
  · exact setCore_memWf hs

theorem copyRead_memWf {core cp l ext} (hs : s.memWf) : (copyRead core cp l ext s).2.2.memWf := by
  unfold copyRead
  split
  · exact bulkRead_memWf hs
  · exact logSpad_memWf hs
  all_goals exact hs

theorem execCopySectorDone_memWf {core copyId sector ext} (hs : s.memWf) :
    (execCopySectorDone core copyId sector ext s).memWf := by
  unfold execCopySectorDone
  split
  · exact memWf_next hs
  refine Res.memWf_ite (memWf_next hs) ?_
  refine Res.memWf_ite (memWf_next (copyFault_memWf hs)) ?_
  refine Res.memWf_ite (memWf_next (copyFault_memWf hs)) ?_
  refine Res.memWf_ite (memWf_next (copyFault_memWf hs)) ?_
  refine Res.memWf_ite (memWf_next (copyFault_memWf hs)) ?_
  refine Res.memWf_ite (memWf_next (copyFault_memWf hs)) ?_
  refine Res.memWf_ite (memWf_next (copyFault_memWf hs)) ?_
  refine Res.memWf_ite (memWf_next (copyFault_memWf hs)) ?_
  extract_lets +onlyGivenNames _ s1 _
  have h1 : s1.memWf := copyRead_memWf hs
  refine Res.memWf_ite (memWf_next (copyFault_memWf h1)) ?_
  refine Res.memWf_ite (memWf_next (holdItem_memWf h1)) ?_
  split
  · refine Res.memWf_ite (memWf_next (copyFault_memWf h1)) ?_
    exact memWf_next (ctrAdd_memWf (sectorDone_memWf (homePush_memWf h1)))
  · exact memWf_next (ctrAdd_memWf (sectorDone_memWf (spadWrite_memWf _ _ _ _ h1)))
  · refine Res.memWf_ite (memWf_next (copyFault_memWf h1)) ?_
    exact memWf_next (sectorDone_memWf ((emit_memWf _ _).mpr h1))
  · split
    · rename_i t e
      have h2 : t.memWf := sendReq_memWf h1 e
      exact memWf_next h2
    · exact memWf_next (copyFault_memWf h1)
  · exact memWf_next h1

/-! ### Memory controllers, homes and their errors (09; 10) -/

theorem failItems_memWf {core slot word} (hs : s.memWf) : (failItems core slot word s).memWf := by
  unfold failItems
  split
  · exact hs
  · exact (setGroup_memWf _ _ _ _).mpr hs

theorem busError_memWf {req src word} (hs : s.memWf) : (busError req src word s).memWf := by
  unfold busError
  split
  · refine memWf_ite ?_ ?_
    · split
      · exact memWf_ite hs (park_memWf hs)
      · exact hs
    exact failItems_memWf hs
  · exact stationFault_memWf hs
  · split
    · exact copyFault_memWf hs
    · exact hs
  · exact (emit_memWf _ _).mpr hs
  · exact (emit_memWf _ _).mpr hs
  · exact answerRemote_memWf _ _ _ _ _ _ _ hs

theorem injectRead_memWf {src unit word} (hs : s.memWf) : (injectRead src unit word s).memWf :=
  (injectWord_memWf _ _ _ _).mpr hs

theorem sramRead_memWf {req src unit word} (hs : s.memWf) : (sramRead req src unit word s).memWf := by
  unfold sramRead
  extract_lets +onlyGivenNames s1 _
  have h1 : s1.memWf := injectRead_memWf hs
  refine memWf_ite ?_ ?_
  · split
    · exact h1
    extract_lets +onlyGivenNames _ s2
    have h2 : s2.memWf := noteLineWord_memWf h1
    exact memWf_ite h2 (busError_memWf h2)
  extract_lets +onlyGivenNames _ s3
  have h3 : s3.memWf := logDec_memWf _ _ _ _ _ _ _ h1
  exact memWf_ite h3 (busError_memWf h3)

theorem readWord_memWf {req src unit word} (hs : s.memWf) : (readWord req src unit word s).memWf := by
  unfold readWord
  refine memWf_ite ?_ ?_
  · extract_lets +onlyGivenNames _ s1
    have h1 : s1.memWf := homeNote_memWf _ _ _ _ hs
    exact memWf_ite h1 (busError_memWf h1)
  refine memWf_ite ?_ ?_
  · extract_lets +onlyGivenNames _ s2
    have h2 : s2.memWf := logSpad_memWf hs
    exact memWf_ite h2 (busError_memWf h2)
  exact sramRead_memWf hs

theorem execDramReadReturn_memWf {req src unit word} (hs : s.memWf) : (execDramReadReturn req src unit word s).memWf :=
  Res.memWf_ite (memWf_next hs) (Res.memWf_ite (memWf_next (memWf_mk hs)) (memWf_next (readWord_memWf hs)))

theorem execPcieCompletionTimeout_memWf {req} (hs : s.memWf) : (execPcieCompletionTimeout req s).memWf := by
  unfold execPcieCompletionTimeout
  split
  · split
    · exact memWf_next ((setGroup_memWf _ _ _ _).mpr hs)
    · exact memWf_next hs
  · exact memWf_next (stationFault_memWf hs)
  · split
    · exact memWf_next (copyFault_memWf hs)
    · exact memWf_next hs
  · exact memWf_next hs

theorem chanPutWord_memWf {w v p} (hs : s.memWf) : (chanPutWord w v p s).memWf :=
  memWf_mk (memPutWord_memWf _ _ _ _ hs)

theorem countRmw_memWf {ch} (hs : s.memWf) : (countRmw ch s).memWf :=
  setChan_memWf hs

theorem execReadMergeWrite_memWf {dpa bytes} (hs : s.memWf) : (execReadMergeWrite dpa bytes s).memWf := by
  unfold execReadMergeWrite
  refine Res.memWf_ite (memWf_next hs) ?_
  extract_lets +onlyGivenNames _ _ s1 _ _ _ _ s2
  have h1 : s1.memWf := by
    unfold s1
    split
    · exact memWf_mk hs
    · exact hs
  have h2 : s2.memWf := logDec_memWf _ _ _ _ _ _ _ (countRmw_memWf h1)
  exact memWf_next (memWf_ite (chanPutWord_memWf h2) (chanPutWord_memWf h2))

theorem raiseDrift_memWf {ch} (hs : s.memWf) : (raiseDrift ch s).memWf :=
  setChan_memWf hs

theorem execMemTransferRetry_memWf {req isRead dpa fails} (hs : s.memWf) :
    (execMemTransferRetry req isRead dpa fails s).memWf := by
  unfold execMemTransferRetry
  refine Res.memWf_ite (memWf_next hs) ?_
  extract_lets +onlyGivenNames _ _ _ s1 _ _
  have h1 : s1.memWf := takeInj_memWf hs
  refine Res.memWf_ite (memWf_next h1) ?_
  refine Res.memWf_ite ?_ ?_
  · extract_lets +onlyGivenNames _ _ _ _ s2
    have h2 : s2.memWf := setChan_memWf (logMem_memWf _ _ _ _ _ _ _ _ _ _ _ _ h1)
    exact memWf_next (memWf_ite (raiseDrift_memWf h2) h2)
  extract_lets +onlyGivenNames s3
  have h3 : s3.memWf := raiseDrift_memWf h1
  refine Res.memWf_ite ?_ ?_
  · split
    · extract_lets +onlyGivenNames s4
      have h4 : s4.memWf := logMem_memWf _ _ _ _ _ _ _ _ _ _ _ _ h3
      exact memWf_next (memWf_ite (memPutWord_memWf _ _ _ _ h4) h4)
    · exact memWf_next (busError_memWf (logMem_memWf _ _ _ _ _ _ _ _ _ _ _ _ h3))
  exact memWf_next (loseChannel_memWf (logMem_memWf _ _ _ _ _ _ _ _ _ _ _ _ h3))

theorem execScrub_memWf {dpa} (hs : s.memWf) : (execScrub dpa s).memWf := by
  unfold execScrub
  refine Res.memWf_ite (memWf_next hs) ?_
  refine memWf_next ?_
  refine foldl_keeps (fun _ _ ht => ?_) hs
  refine memWf_ite ht ?_
  refine memWf_ite (logMem_memWf _ _ _ _ _ _ _ _ _ _ _ _ (chanPutWord_memWf ht)) ?_
  refine memWf_ite (logMem_memWf _ _ _ _ _ _ _ _ _ _ _ _ (chanPutWord_memWf ht)) ?_
  exact logMem_memWf _ _ _ _ _ _ _ _ _ _ _ _ (chanPutWord_memWf ht)

theorem execCacheScrub_memWf {src unit word} (hs : s.memWf) : (execCacheScrub src unit word s).memWf := by
  unfold execCacheScrub
  refine Res.memWf_ite ?_ ?_
  · refine Res.memWf_ite (memWf_next hs) ?_
    refine Res.memWf_ite (memWf_next hs) ?_
    refine Res.memWf_ite ?_ ?_
    · exact memWf_next (logMem_memWf _ _ _ _ _ _ _ _ _ _ _ _ ((setTag_memWf _ _ _).mpr (setHLine_memWf hs)))
    refine Res.memWf_ite (memWf_next (logMem_memWf _ _ _ _ _ _ _ _ _ _ _ _ (setHLine_memWf (dropHomeTags_memWf hs)))) ?_
    exact memWf_next (logMem_memWf _ _ _ _ _ _ _ _ _ _ _ _ hs)
  refine Res.memWf_ite ?_ ?_
  · split
    · exact memWf_next hs
    extract_lets +onlyGivenNames s1
    have h1 : s1.memWf := injectRead_memWf hs
    split
    · exact memWf_next h1
    refine Res.memWf_ite (memWf_next h1) ?_
    refine Res.memWf_ite ?_ ?_
    · exact memWf_next (logMem_memWf _ _ _ _ _ _ _ _ _ _ _ _ ((setTag_memWf _ _ _).mpr (setCLine_memWf h1)))
    refine Res.memWf_ite ?_ ?_
    · exact memWf_next (logMem_memWf _ _ _ _ _ _ _ _ _ _ _ _ ((setTag_memWf _ _ _).mpr (setCLine_memWf h1)))
    exact memWf_next (logMem_memWf _ _ _ _ _ _ _ _ _ _ _ _ ((delCLine_memWf _ _ _).mpr h1))
  exact memWf_next hs

theorem execMirrorLineCopy_memWf {cdom range line} (hs : s.memWf) : (execMirrorLineCopy cdom range line s).memWf := by
  unfold execMirrorLineCopy
  split
  · exact memWf_next hs
  split
  · refine Res.memWf_ite (memWf_next hs) ?_
    split
    · refine Res.memWf_ite (memWf_next hs) ?_
      extract_lets +onlyGivenNames s1 _
      have h1 : s1.memWf := by
        refine foldl_keeps (fun _ _ ht => ?_) (homeNote_memWf _ _ _ _ hs)
        exact memWf_ite (memPutWord_memWf _ _ _ _ ht) (memPutWord_memWf _ _ _ _ ht)
      refine Res.memWf_ite (memWf_next (setShell_memWf h1)) ?_
      extract_lets +onlyGivenNames _ _ _ s2
      have h2 : s2.memWf := by
        refine setShell_memWf (memWf_ite (foldl_keeps (fun _ _ ht => ?_) h1) h1)
        exact homeEvict_memWf _ _ (recallAll_memWf _ _ ht)
      refine memWf_next ?_
      split
      · exact respond_memWf h2
      · exact h2
    · exact memWf_next hs
  · exact memWf_next hs

theorem creationDone_memWf {d} (hs : s.memWf) : (creationDone d s).memWf := by
  unfold creationDone
  split
  · exact hs
  split
  · exact hs
  · exact memWf_ite hs (respond_memWf (setShell_memWf hs))

theorem waysReady_memWf (hs : s.memWf) : (waysReady s).memWf :=
  foldl_keeps (fun _ _ ht => creationDone_memWf ht) hs

theorem execChannelClearDone_memWf {ch} (hs : s.memWf) : (execChannelClearDone ch s).memWf :=
  Res.memWf_ite (memWf_next hs) (memWf_next (waysReady_memWf (setChan_memWf (zeroChan_memWf _ _ hs))))

theorem execWayClean_memWf {slice unit way} (hs : s.memWf) : (execWayClean slice unit way s).memWf := by
  unfold execWayClean
  refine Res.memWf_ite (memWf_next (waysReady_memWf (foldl_keeps (fun _ _ ht => homeEvict_memWf _ _ ht) hs))) ?_
  exact memWf_next (waysReady_memWf (foldl_keeps (fun _ _ ht => evictLine_memWf ht) hs))

theorem releaseHeld_memWf {ch} (hs : s.memWf) : (releaseHeld ch s).memWf :=
  drainAll_memWf _ (foldl_keeps (fun _ _ ht => readWord_memWf ht) (memWf_mk hs))

theorem execCalibrationEnd_memWf {res} (hs : s.memWf) : (execCalibrationEnd res s).memWf := by
  unfold execCalibrationEnd
  refine Res.memWf_ite (memWf_next hs) ?_
  extract_lets +onlyGivenNames _ s1 s2
  have h1 : s1.memWf := memWf_mk hs
  have h2 : s2.memWf := by
    unfold s2
    split
    · exact setChan_memWf h1
    · exact setChan_memWf h1
    · exact setLink_memWf h1
    · exact h1
  exact memWf_next (foldl_keeps (fun _ _ ht => memWf_ite ht (releaseHeld_memWf (setChan_memWf ht))) h2)

theorem execCoherenceError_memWf {agent line} (hs : s.memWf) : (execCoherenceError agent line s).memWf := by
  unfold execCoherenceError
  split
  · exact memWf_next hs
  rename_i t e
  have h1 : t.memWf := receive_memWf hs e
  refine memWf_next ?_
  refine foldl_keeps (fun _ _ ht => ?_) (mapGroups_memWf (memWf_mk (setMiss_memWf h1)))
  split
  · exact memWf_ite ht (park_memWf ht)
  · exact ht

theorem atomPut_memWf {dpa len v} (hs : s.memWf) : (atomPut dpa len v s).memWf :=
  foldl_keeps (fun _ _ ht => homeForward_memWf (homePutWord_memWf _ _ _ _ _ ht)) hs

theorem execAtomicUnitOp_memWf {line} (hs : s.memWf) : (execAtomicUnitOp line s).memWf := by
  unfold execAtomicUnitOp
  split
  · exact memWf_next hs
  refine Res.memWf_ite (memWf_next hs) ?_
  refine Res.memWf_ite (memWf_next (drainSet_memWf _ _ (atomAnswer_memWf _ _ _ (unpin_memWf (memWf_mk hs))))) ?_
  refine Res.memWf_ite (memWf_next hs) ?_
  extract_lets +onlyGivenNames _ _ s1
  have h1 : s1.memWf := homeNote_memWf _ _ _ _ (pin_memWf (recallAll_memWf _ _ (tick_memWf hs)))
  refine Res.memWf_ite (memWf_next (drainSet_memWf _ _ (atomAnswer_memWf _ _ _ (unpin_memWf (memWf_mk h1))))) ?_
  exact memWf_next (drainSet_memWf _ _ (atomAnswer_memWf _ _ _ (unpin_memWf (memWf_mk (atomPut_memWf h1)))))

/-! ### Registers (12) -/

theorem setApt_memWf {k a} (hs : s.memWf) : (setApt k a s).memWf :=
  memWf_mk hs

/-! ### The PCIe endpoint, mailboxes, queue pairs and the BAR4 aperture (12) -/

theorem tlp_memWf (hs : s.memWf) : (tlp s).memWf := by
  unfold tlp
  split
  · rename_i t e
    have h1 : t.memWf := memWf_of_pair (takeInj_memWf hs) e
    exact logRec_memWf _ _ h1
  rename_i t e
  have h2 : t.memWf := memWf_of_pair (takeInj_memWf hs) e
  exact h2

theorem execMbxGo_memWf {m} (hs : s.memWf) : (execMbxGo m s).memWf := by
  unfold execMbxGo
  extract_lets +onlyGivenNames s1
  have h1 : s1.memWf := memWf_ite (tlp_memWf hs) hs
  refine Res.memWf_ite (memWf_next h1) ?_
  refine Res.memWf_ite (memWf_next (setMbx_memWf h1)) ?_
  extract_lets +onlyGivenNames _ s2
  have h2 : s2.memWf := setMbx_memWf h1
  exact Res.memWf_ite (memWf_next (process_memWf h2)) (memWf_next h2)

theorem sendPending_memWf {loc v} (hs : s.memWf) : (sendPending loc v s).memWf :=
  memWf_ite (signal_memWf (setVec_memWf hs)) hs

theorem mbxRegWrite_memWf {m off size value} (hs : s.memWf) : (mbxRegWrite m off size value s).memWf :=
  memWf_ite (setMbx_memWf hs) (memWf_ite (setMbx_memWf hs) (memWf_ite (setMbx_memWf hs) hs))

theorem vecRegWrite_memWf {loc off size value} (hs : s.memWf) : (vecRegWrite loc off size value s).memWf :=
  memWf_ite (setVec_memWf hs) (sendPending_memWf (setVec_memWf hs))

theorem msixControl_memWf {value} (hs : s.memWf) : (msixControl value s).memWf := by
  unfold msixControl
  extract_lets +onlyGivenNames _ s1
  have h1 : s1.memWf := memWf_mk hs
  exact memWf_ite (foldl_keeps (fun _ _ ht => sendPending_memWf ht) h1) h1

theorem execRegisterWrite_memWf {loc offset size value} (hs : s.memWf) :
    (execRegisterWrite loc offset size value s).memWf := by
  unfold execRegisterWrite
  extract_lets +onlyGivenNames s1 _ _
  have h1 : s1.memWf := memWf_ite hs (tlp_memWf hs)
  refine Res.memWf_ite (memWf_next (memWf_mk h1)) ?_
  refine Res.memWf_ite (memWf_next (memWf_ite h1 (msixControl_memWf h1))) ?_
  refine Res.memWf_ite (memWf_next (vecRegWrite_memWf h1)) ?_
  refine Res.memWf_ite (Res.memWf_ite (memWf_next (mbxRegWrite_memWf h1)) (memWf_next h1)) ?_
  exact Res.memWf_ite (memWf_next (memWf_mk h1)) (memWf_next h1)

theorem execRidCheckSet_memWf {check rid} (hs : s.memWf) : (execRidCheckSet check rid s).memWf :=
  Res.memWf_ite (memWf_next (memWf_mk hs)) (memWf_next hs)

theorem execBarBadAccess_memWf {bar isRead} (hs : s.memWf) : (execBarBadAccess bar isRead s).memWf := by
  unfold execBarBadAccess
  extract_lets +onlyGivenNames _ s1
  have h1 : s1.memWf := memWf_mk hs
  exact memWf_next (memWf_ite ((emit_memWf _ _).mpr h1) h1)

theorem setQp_memWf {q p} (hs : s.memWf) : (setQp q p s).memWf :=
  memWf_mk hs

theorem tear_memWf {q cause p} (hs : s.memWf) : (tear q cause p s).memWf :=
  setQp_memWf hs

theorem strayDoorbell_memWf (hs : s.memWf) : (strayDoorbell s).memWf :=
  memWf_ite (memWf_mk hs) hs

theorem execSqDoorbell_memWf {q tail} (hs : s.memWf) : (execSqDoorbell q tail s).memWf := by
  unfold execSqDoorbell
  extract_lets +onlyGivenNames s1
  have h1 : s1.memWf := tlp_memWf hs
  refine Res.memWf_ite (memWf_next h1) ?_
  split
  · exact memWf_next (strayDoorbell_memWf h1)
  refine Res.memWf_ite (memWf_next h1) ?_
  refine Res.memWf_ite (memWf_next (setQp_memWf h1)) ?_
  exact Res.memWf_ite (memWf_next (tear_memWf h1)) (memWf_next (setQp_memWf h1))

theorem execCqDoorbell_memWf {q head} (hs : s.memWf) : (execCqDoorbell q head s).memWf := by
  unfold execCqDoorbell
  extract_lets +onlyGivenNames s1
  have h1 : s1.memWf := tlp_memWf hs
  refine Res.memWf_ite (memWf_next h1) ?_
  split
  · exact memWf_next (strayDoorbell_memWf h1)
  refine Res.memWf_ite (memWf_next (setQp_memWf h1)) ?_
  exact Res.memWf_ite (memWf_next h1) (memWf_next (tear_memWf h1))

theorem acceptEntry_memWf {q p ext} (hs : s.memWf) : (acceptEntry q p ext s).memWf :=
  examine_memWf (setQp_memWf hs)

theorem execSqEntryFetch_memWf {q ext} (hs : s.memWf) : (execSqEntryFetch q ext s).memWf := by
  unfold execSqEntryFetch
  split
  · exact memWf_next hs
  refine Res.memWf_ite (memWf_next hs) ?_
  split
  · exact memWf_next (acceptEntry_memWf hs)
  · exact memWf_next (setQp_memWf hs)

theorem execSqEntryReread_memWf {q ext} (hs : s.memWf) : (execSqEntryReread q ext s).memWf := by
  unfold execSqEntryReread
  split
  · exact memWf_next hs
  split
  · exact memWf_next hs
  refine Res.memWf_ite (memWf_next hs) ?_
  extract_lets +onlyGivenNames s1
  have h1 : s1.memWf := untilTime_memWf hs
  split
  · exact memWf_next (acceptEntry_memWf h1)
  · exact Res.memWf_ite (memWf_next (tear_memWf h1)) (memWf_next (setQp_memWf h1))

theorem queueSignal_memWf {q} (hs : s.memWf) : (queueSignal q s).memWf := by
  unfold queueSignal
  split
  · exact hs
  split
  · exact memWf_ite (setQp_memWf hs) (signal_memWf hs)
  · exact signal_memWf hs

theorem putCompl_memWf {q p c quiet} (hs : s.memWf) : (putCompl q p c quiet s).memWf := by
  unfold putCompl
  extract_lets +onlyGivenNames s1
  have h1 : s1.memWf := (emit_memWf _ _).mpr (setQp_memWf hs)
  exact memWf_ite (queueSignal_memWf h1) h1

theorem closeIfDone_memWf {q} (hs : s.memWf) : (closeIfDone q s).memWf := by
  unfold closeIfDone
  split
  · split
    · exact memWf_ite (respond_memWf (memWf_mk hs)) hs
    · exact hs
  · exact hs

theorem execCompletionWrite_memWf {q} (hs : s.memWf) : (execCompletionWrite q s).memWf := by
  unfold execCompletionWrite
  split
  · exact memWf_next hs
  split
  · exact memWf_next hs
  · exact memWf_next (closeIfDone_memWf (putCompl_memWf hs))

theorem execParkReportWrite_memWf {q cid} (hs : s.memWf) : (execParkReportWrite q cid s).memWf := by
  unfold execParkReportWrite
  split
  · refine Res.memWf_ite (memWf_next hs) ?_
    split
    · exact memWf_next hs
    · exact memWf_next (putCompl_memWf (setCmd_memWf hs))
  · exact memWf_next hs

theorem execMsixHoldExpiry_memWf {q} (hs : s.memWf) : (execMsixHoldExpiry q s).memWf := by
  unfold execMsixHoldExpiry
  split
  · exact memWf_next hs
  refine Res.memWf_ite (memWf_next hs) ?_
  exact memWf_next (signal_memWf (untilTime_memWf (setQp_memWf hs)))

theorem refuseBar4_memWf {k isRead} (hs : s.memWf) : (refuseBar4 k isRead s).memWf := by
  unfold refuseBar4
  extract_lets +onlyGivenNames _ _ _ s1
  have h1 : s1.memWf := memWf_mk (setApt_memWf hs)
  exact memWf_ite ((emit_memWf _ _).mpr h1) h1

theorem execBar4Read_memWf {x len rid atomicOp} (hs : s.memWf) : (execBar4Read x len rid atomicOp s).memWf := by
  unfold execBar4Read
  extract_lets +onlyGivenNames s1
  have h1 : s1.memWf := tlp_memWf hs
  refine Res.memWf_ite (memWf_next ((emit_memWf _ _).mpr h1)) ?_
  refine Res.memWf_ite (memWf_next (refuseBar4_memWf h1)) ?_
  split
  · exact memWf_next (refuseBar4_memWf h1)
  refine Res.memWf_ite (memWf_next ((emit_memWf _ _).mpr h1)) ?_
  refine memWf_next ?_
  refine foldl_keeps (fun _ _ ht => ?_) h1
  extract_lets +onlyGivenNames _ _
  split
  · exact bar4Push_memWf ht
  · exact (emit_memWf _ _).mpr ht

theorem execBar4Write_memWf {x rid bytes} (hs : s.memWf) : (execBar4Write x rid bytes s).memWf := by
  unfold execBar4Write
  extract_lets +onlyGivenNames s1
  have h1 : s1.memWf := tlp_memWf hs
  refine Res.memWf_ite (memWf_next h1) ?_
  split
  · exact memWf_next (refuseBar4_memWf h1)
  refine Res.memWf_ite (memWf_next h1) ?_
  refine memWf_next ?_
  refine foldl_keeps (fun _ _ ht => ?_) h1
  extract_lets +onlyGivenNames _ _
  split
  · exact bar4Push_memWf ht
  · exact ht

theorem execHostLoss_memWf {cause} (hs : s.memWf) : (execHostLoss cause s).memWf := by
  unfold execHostLoss
  extract_lets +onlyGivenNames _ _ _ _ _ s1
  have h1 : s1.memWf := memWf_mk hs
  exact Res.memWf_ite (memWf_next h1) (memWf_next (memWf_mk h1))

theorem deliver_memWf {q n} (hs : s.memWf) : (deliver q n s).memWf := by
  induction n generalizing s with
  | zero => exact hs
  | succ n ih =>
    unfold deliver
    split
    · exact hs
    split
    · exact hs
    · exact ih (putCompl_memWf hs)

theorem lossEnds_memWf {vecs} (hs : s.memWf) : (lossEnds vecs s).memWf :=
  foldl_keeps (fun _ _ ht => signal_memWf ht) (memWf_mk hs)

theorem execHostResume_memWf (hs : s.memWf) : (execHostResume s).memWf := by
  unfold execHostResume
  refine Res.memWf_ite (memWf_next hs) ?_
  extract_lets +onlyGivenNames _ _ _ s1
  have h1 : s1.memWf := by
    unfold s1
    refine foldl_keeps (fun _ _ ht => ?_) (memWf_mk hs)
    split
    · exact ht
    · exact deliver_memWf (setQp_memWf ht)
  exact memWf_next (lossEnds_memWf h1)

theorem closeQueue_memWf {q} (hs : s.memWf) : (closeQueue q s).memWf := by
  unfold closeQueue
  extract_lets +onlyGivenNames s1
  have h1 : s1.memWf := by
    unfold s1
    split
    · split
      · exact respond_memWf hs
      · exact hs
    · exact hs
  exact memWf_mk h1

theorem execHostAbandon_memWf (hs : s.memWf) : (execHostAbandon s).memWf := by
  unfold execHostAbandon
  refine Res.memWf_ite (memWf_next hs) ?_
  refine memWf_next ?_
  refine lossEnds_memWf ?_
  refine memWf_mk ?_
  refine logRec_memWf _ _ ?_
  refine foldl_keeps (fun _ _ ht => ?_) ?_
  · exact memWf_ite (endSession_memWf ht) ht
  exact foldl_keeps (fun _ _ ht => closeQueue_memWf ht) hs

/-! ### Sessions, owner commands and queue commands (12 R354..R358; 13) -/

theorem execSessionOpen_memWf {m rnd} (hs : s.memWf) : (execSessionOpen m rnd s).memWf := by
  unfold execSessionOpen
  refine onReq_memWf hs (fun _ => ?_)
  refine memWf_ite (respond_memWf hs) ?_
  refine memWf_ite (respond_memWf hs) ?_
  refine memWf_ite (respond_memWf hs) ?_
  exact memWf_ite (respond_memWf hs) (respondBytes_memWf (setMbx_memWf hs))

theorem proofFails_memWf {t} (hs : s.memWf) : (proofFails t s).memWf := by
  unfold proofFails
  split
  · exact hs
  · exact memWf_ite (logRec_memWf _ _ (setTenant_memWf hs)) (setTenant_memWf hs)

theorem execSessionProve_memWf {m rnd} (hs : s.memWf) : (execSessionProve m rnd s).memWf := by
  unfold execSessionProve
  refine Res.memWf_ite (memWf_next hs) ?_
  refine onReq_memWf hs (fun _ => ?_)
  refine memWf_ite (respond_memWf hs) ?_
  refine memWf_ite (respond_memWf (proofFails_memWf (setMbx_memWf hs))) ?_
  exact respond_memWf (setMbx_memWf hs)

theorem execOwnerTenantAdd_memWf {m} (hs : s.memWf) : (execOwnerTenantAdd m s).memWf :=
  onReq_memWf hs (fun _ => memWf_ite (respond_memWf hs) (respond_memWf (setTenant_memWf hs)))

theorem endTenantWays_memWf {t} (hs : s.memWf) : (endTenantWays t s).memWf :=
  foldl_keeps (fun _ _ ht => closeQueue_memWf ht) (foldl_keeps (fun _ _ ht => endSession_memWf ht) hs)

theorem removeTenant_memWf {t} (hs : s.memWf) : (removeTenant t s).memWf :=
  memWf_mk (endTenantWays_memWf hs)

theorem execOwnerTenantRemove_memWf {m} (hs : s.memWf) : (execOwnerTenantRemove m s).memWf :=
  onReq_memWf hs (fun _ => memWf_ite (respond_memWf hs) (respond_memWf (removeTenant_memWf hs)))

theorem execOwnerTenantKey_memWf {m} (hs : s.memWf) : (execOwnerTenantKey m s).memWf := by
  unfold execOwnerTenantKey
  refine onReq_memWf hs (fun _ => ?_)
  extract_lets +onlyGivenNames _
  split
  · exact respond_memWf (setTenant_memWf (endTenantWays_memWf hs))
  · exact respond_memWf hs

theorem execOwnerClaim_memWf {m rnd} (hs : s.memWf) : (execOwnerClaim m rnd s).memWf := by
  unfold execOwnerClaim
  refine onReq_memWf hs (fun _ => ?_)
  refine memWf_ite (respond_memWf hs) ?_
  refine memWf_ite (respond_memWf hs) ?_
  extract_lets +onlyGivenNames _ _ _ _ _
  split
  · exact respond_memWf hs
  refine memWf_ite (respond_memWf hs) ?_
  exact memWf_ite (respond_memWf hs) (respond_memWf (writeDevSec_memWf (memWf_mk hs)))

theorem execOwnerSecret_memWf {m rnd} (hs : s.memWf) : (execOwnerSecret m rnd s).memWf := by
  unfold execOwnerSecret
  refine onReq_memWf hs (fun _ => ?_)
  split
  · exact respond_memWf hs
  · exact respond_memWf (memWf_mk (writeDevSec_memWf hs))

theorem execOwnerFloor_memWf {m} (hs : s.memWf) : (execOwnerFloor m s).memWf :=
  onReq_memWf hs (fun _ => memWf_ite (respond_memWf hs) (respond_memWf (checkFloor_memWf (writeDevSec_memWf hs))))

theorem execOwnerReinstate_memWf {m} (hs : s.memWf) : (execOwnerReinstate m s).memWf := by
  unfold execOwnerReinstate
  refine onReq_memWf hs (fun _ => ?_)
  refine memWf_ite (respond_memWf hs) ?_
  extract_lets +onlyGivenNames _ _ _ s1
  have h1 : s1.memWf := writeDevSec_memWf (memWf_ite (memWf_mk hs) hs)
  refine memWf_ite (respond_memWf h1) ?_
  exact respond_memWf (setDevState_memWf (writeDevSec_memWf h1))

theorem execQueueCreate_memWf {m pick token rnd} (hs : s.memWf) : (execQueueCreate m pick token rnd s).memWf := by
  unfold execQueueCreate
  refine Res.memWf_ite (memWf_next hs) ?_
  refine onReq_memWf hs (fun _ => ?_)
  refine memWf_ite (respond_memWf hs) ?_
  extract_lets +onlyGivenNames _ q
  clear_value q
  split
  · exact respond_memWf hs
  · exact respond_memWf (setQp_memWf hs)

theorem execQueueDelete_memWf {m} (hs : s.memWf) : (execQueueDelete m s).memWf := by
  unfold execQueueDelete
  refine onReq_memWf hs (fun _ => ?_)
  split
  · exact respond_memWf hs
  refine memWf_ite (respond_memWf hs) ?_
  exact closeIfDone_memWf (setBegun_memWf (setQp_memWf hs))

theorem execQueueReset_memWf {m} (hs : s.memWf) : (execQueueReset m s).memWf := by
  unfold execQueueReset
  refine onReq_memWf hs (fun _ => ?_)
  split
  · exact respond_memWf hs
  refine memWf_ite (respond_memWf hs) ?_
  exact memWf_ite (respond_memWf hs) (respond_memWf (setQp_memWf hs))

/-! ### SHELL commands, re-bindings and hand-overs (11 R315, R329..R343) -/

theorem tellShares_memWf {ls} (hs : s.memWf) : (tellShares ls s).memWf :=
  foldl_keeps (fun _ _ ht => (emit_memWf _ _).mpr ht) hs

theorem clearChans_memWf {cs} (hs : s.memWf) : (clearChans cs s).memWf :=
  foldl_keeps (fun _ _ ht => setChan_memWf ht) hs

theorem dropShell_memWf {d} (hs : s.memWf) : (dropShell d s).memWf := by
  unfold dropShell
  split
  · exact hs
  refine tellShares_memWf ?_
  refine fixWays_memWf ?_
  exact foldl_keeps (fun _ _ ht => setChan_memWf ht) (memWf_mk (foldl_keeps (fun _ _ ht => seatOut_memWf ht) hs))

theorem refuseShare_memWf {d l} (hs : s.memWf) : (refuseShare d l s).memWf := by
  unfold refuseShare
  split
  · exact hs
  extract_lets +onlyGivenNames _
  split
  · exact refuse_memWf (dropShell_memWf hs)
  · exact rederive_memWf (tellShares_memWf (refuse_memWf (fixWays_memWf (setShell_memWf hs))))
  · exact hs

theorem execShellCreate_memWf {m desc pick} (hs : s.memWf) : (execShellCreate m desc pick s).memWf := by
  unfold execShellCreate
  refine onReq_memWf hs (fun _ => ?_)
  extract_lets +onlyGivenNames _ s1
  have h1 : s1.memWf := readDesc_memWf hs
  split
  · exact refuse_memWf h1
  extract_lets +onlyGivenNames d
  clear_value d
  split
  · exact refuse_memWf h1
  · exact h1
  refine creationDone_memWf ?_
  refine tellShares_memWf ?_
  refine clearChans_memWf ?_
  exact foldl_keeps (fun _ _ ht => seatIn_memWf ht) (setBegun_memWf (fixWays_memWf (setShell_memWf h1)))

theorem execShellRebind_memWf {m desc} (hs : s.memWf) : (execShellRebind m desc s).memWf := by
  unfold execShellRebind
  split
  · exact memWf_next hs
  extract_lets +onlyGivenNames _ _
  split
  · exact memWf_next (respond_memWf hs)
  refine Res.memWf_ite (memWf_next (respond_memWf hs)) ?_
  refine Res.memWf_ite (memWf_next hs) ?_
  refine Res.memWf_ite (memWf_next (respond_memWf hs)) ?_
  extract_lets +onlyGivenNames _ s1
  have h1 : s1.memWf := readDesc_memWf hs
  split
  · exact memWf_next (refuse_memWf h1)
  split
  · exact memWf_next (refuse_memWf h1)
  refine Res.memWf_ite (memWf_next (respond_memWf h1)) ?_
  split
  · refine Res.memWf_ite (memWf_next (respond_memWf h1)) ?_
    refine memWf_next ?_
    exact rederive_memWf (tellShares_memWf (clearChans_memWf (setBegun_memWf (fixWays_memWf (setShell_memWf h1)))))
  · exact memWf_next h1

theorem copyWord_memWf {cdom new w} (hs : s.memWf) : (copyWord cdom new w s).memWf := by
  unfold copyWord
  extract_lets +onlyGivenNames _ s1 _
  have h1 : s1.memWf := homeNote_memWf _ _ _ _ hs
  exact memWf_ite (memPutWord_memWf _ _ _ _ h1) (memPutWord_memWf _ _ _ _ h1)

theorem execSubstitutionCopyDone_memWf {cdom} (hs : s.memWf) : (execSubstitutionCopyDone cdom s).memWf := by
  unfold execSubstitutionCopyDone
  split
  · exact memWf_next hs
  split
  · exact memWf_next hs
  split
  · exact memWf_next hs
  refine Res.memWf_ite (memWf_next hs) ?_
  extract_lets +onlyGivenNames _ s1
  have h1 : s1.memWf := foldl_keeps (fun _ _ ht => copyWord_memWf ht) hs
  refine memWf_next ?_
  split
  · exact setShell_memWf h1
  · exact h1

theorem endDrain_memWf {cdom} (hs : s.memWf) : (endDrain cdom s).memWf := by
  unfold endDrain
  split
  · exact hs
  · exact foldl_keeps (fun _ _ ht => respond_memWf ht) (setShell_memWf hs)

theorem execRebindDrainDone_memWf {cdom} (hs : s.memWf) : (execRebindDrainDone cdom s).memWf := by
  unfold execRebindDrainDone
  split
  · exact memWf_next hs
  · exact Res.memWf_ite (memWf_next hs) (memWf_next (endDrain_memWf hs))

theorem execSeatMoveDone_memWf {cdom seat} (hs : s.memWf) : (execSeatMoveDone cdom seat s).memWf := by
  unfold execSeatMoveDone
  split
  · exact memWf_next hs
  split
  · exact memWf_next hs
  split
  · exact memWf_next hs
  refine Res.memWf_ite (memWf_next hs) ?_
  extract_lets +onlyGivenNames _ _ _ s1
  have h1 : s1.memWf := setShell_memWf (moveSeat_memWf hs)
  split
  · exact memWf_next (memWf_ite (planSeat_memWf h1) h1)
  · exact memWf_next h1

theorem execRebindComplete_memWf {cdom} (hs : s.memWf) : (execRebindComplete cdom s).memWf := by
  unfold execRebindComplete
  split
  · exact memWf_next hs
  split
  · exact memWf_next hs
  refine Res.memWf_ite (memWf_next hs) ?_
  refine memWf_next ?_
  refine respond_memWf ?_
  refine rederive_memWf ?_
  exact tellShares_memWf (foldl_keeps (fun _ _ ht => setChan_memWf ht) (fixWays_memWf (setShell_memWf hs)))

theorem cutOlds_memWf {d olds} (hs : s.memWf) : (cutOlds d olds s).memWf :=
  failAtomsIf_memWf _ _ (memWf_mk hs)

theorem execForcedDrain_memWf {cdom} (hs : s.memWf) : (execForcedDrain cdom s).memWf := by
  unfold execForcedDrain
  split
  · exact memWf_next hs
  split
  · exact memWf_next hs
  refine Res.memWf_ite (memWf_next hs) ?_
  extract_lets +onlyGivenNames _ _ _ _ _ s1 s2
  have h1 : s1.memWf := by
    refine cutOlds_memWf (foldl_keeps (fun _ _ ht => ?_) (logRec_memWf _ _ (untilTime_memWf hs)))
    exact needReset_memWf (setCore_memWf ht)
  have h2 : s2.memWf := by
    unfold s2
    split
    · exact setShell_memWf h1
    · exact h1
  exact memWf_next (endDrain_memWf h2)

theorem endWaits_memWf {d status} (hs : s.memWf) : (endWaits d status s).memWf := by
  unfold endWaits
  split
  · exact hs
  · exact foldl_keeps (fun _ _ ht => respond_memWf ht) (memWf_mk (setShell_memWf hs))

theorem execShellDestroy_memWf {m} (hs : s.memWf) : (execShellDestroy m s).memWf := by
  unfold execShellDestroy
  refine onReq_memWf hs (fun _ => ?_)
  refine memWf_ite (respond_memWf hs) ?_
  refine memWf_ite (respond_memWf hs) ?_
  refine foldl_keeps (fun _ _ ht => endSession_memWf ht) ?_
  refine foldl_keeps (fun _ _ ht => tellStop_memWf ht) ?_
  refine foldl_keeps (fun _ _ ht => endEntries_memWf ht) ?_
  exact endCmds_memWf (endWaits_memWf (abandonRebind_memWf (setBegun_memWf (memWf_mk hs))))

theorem execShellRelease_memWf {src} (hs : s.memWf) : (execShellRelease src s).memWf := by
  unfold execShellRelease
  refine onReq_memWf hs (fun _ => ?_)
  extract_lets +onlyGivenNames _ _ _
  split
  · exact respond_memWf hs
  refine memWf_ite (respond_memWf hs) ?_
  refine memWf_ite (respond_memWf hs) ?_
  refine memWf_ite (refuse_memWf hs) ?_
  exact memWf_ite (respond_memWf hs) (setBegun_memWf (setShell_memWf hs))

theorem execShellAcquire_memWf {m} (hs : s.memWf) : (execShellAcquire m s).memWf := by
  unfold execShellAcquire
  refine onReq_memWf hs (fun _ => ?_)
  extract_lets +onlyGivenNames _ _ _ _
  split
  · exact respond_memWf hs
  refine memWf_ite (respond_memWf hs) ?_
  split
  · exact respond_memWf hs
  refine memWf_ite (respond_memWf hs) ?_
  refine memWf_ite (respond_memWf hs) ?_
  split
  · exact respond_memWf hs
  · exact memWf_ite (respond_memWf hs) (setBegun_memWf (setShell_memWf (memWf_mk hs)))

theorem execHandoverTimeout_memWf {cdom set} (hs : s.memWf) : (execHandoverTimeout cdom set s).memWf := by
  unfold execHandoverTimeout
  split
  · exact memWf_next hs
  extract_lets +onlyGivenNames _ _ s1
  have h1 : s1.memWf := signal_memWf (logRec_memWf _ _ (memWf_mk (untilTime_memWf hs)))
  split
  · exact memWf_next (rederive_memWf (setShell_memWf h1))
  · exact memWf_next (foldl_keeps (fun _ _ ht => setChan_memWf (zeroChan_memWf _ _ ht)) h1)

theorem execShellQuery_memWf {src} (hs : s.memWf) : (execShellQuery src s).memWf := by
  unfold execShellQuery
  refine onReq_memWf hs (fun _ => ?_)
  refine memWf_ite ?_ ?_
  · split
    · exact memWf_ite (respond_memWf hs) (respond_memWf hs)
    · exact respond_memWf hs
  split <;> exact respond_memWf hs

/-! ### MEMORY commands (10 R299..R301; 11 R320, R344..R346) -/

theorem execMemoryMap_memWf {src pick} (hs : s.memWf) : (execMemoryMap src pick s).memWf := by
  unfold execMemoryMap
  refine onReq_memWf hs (fun _ => ?_)
  extract_lets +onlyGivenNames _ _ _ _ _ _
  split
  · exact respond_memWf hs
  refine memWf_ite (respond_memWf hs) ?_
  refine memWf_ite (respond_memWf hs) ?_
  refine memWf_ite (respond_memWf hs) ?_
  split
  · exact respond_memWf hs
  refine memWf_ite (respond_memWf hs) ?_
  extract_lets +onlyGivenNames ms
  clear_value ms
  split
  · exact respond_memWf hs
  refine memWf_ite (respond_memWf hs) ?_
  extract_lets +onlyGivenNames _ _ f0 _ ix
  refine memWf_ite (respond_memWf hs) ?_
  clear_value f0 ix
  split
  · exact setBegun_memWf (setShell_memWf hs)
  · exact respond_memWf hs

theorem onRange_memWf {code src f} (hs : s.memWf) (hf : ∀ a b c d, (f a b c d).memWf) :
    (onRange code src s f).memWf := by
  unfold onRange
  refine onReq_memWf hs (fun _ => ?_)
  extract_lets +onlyGivenNames _
  split
  · exact respond_memWf hs
  split
  · exact respond_memWf hs
  · exact hf _ _ _ _

theorem execMemoryUnmap_memWf {src} (hs : s.memWf) : (execMemoryUnmap src s).memWf :=
  onRange_memWf hs (fun _ _ _ _ => memWf_ite (respond_memWf hs) (setBegun_memWf (setShell_memWf hs)))

theorem dropLine_memWf {line} (hs : s.memWf) : (dropLine line s).memWf := by
  unfold dropLine
  extract_lets +onlyGivenNames _ _ _ _ _ s1
  have h1 : s1.memWf := memWf_mk (setHLine_memWf (foldl_keeps (fun _ _ ht => (setTag_memWf _ _ _).mpr ht) hs))
  exact memWf_ite h1 ((setDir_memWf _ _ _).mpr h1)

theorem poisonLine_memWf {a sh} (hs : s.memWf) : (poisonLine a sh s).memWf := by
  unfold poisonLine
  split
  · exact hs
  refine foldl_keeps (fun _ _ ht => ?_) hs
  exact foldl_keeps (fun _ _ ht => memPutWord_memWf _ _ _ _ ht) (memPutWord_memWf _ _ _ _ ht)

theorem execMemoryDiscard_memWf {src} (hs : s.memWf) : (execMemoryDiscard src s).memWf := by
  unfold execMemoryDiscard
  split
  · exact memWf_next hs
  extract_lets +onlyGivenNames _ _ _
  split
  · exact memWf_next (respond_memWf hs)
  refine Res.memWf_ite (memWf_next (respond_memWf hs)) ?_
  refine Res.memWf_ite (memWf_next (respond_memWf hs)) ?_
  refine Res.memWf_ite (memWf_next (respond_memWf hs)) ?_
  refine Res.memWf_ite (memWf_next hs) ?_
  extract_lets +onlyGivenNames s1 _
  have h1 : s1.memWf := foldl_keeps (fun _ _ ht => dropLine_memWf ht) hs
  exact memWf_next (respond_memWf (memWf_ite (foldl_keeps (fun _ _ ht => poisonLine_memWf ht) h1) h1))

theorem execMemoryRetire_memWf {m} (hs : s.memWf) : (execMemoryRetire m s).memWf := by
  unfold execMemoryRetire
  refine onReq_memWf hs (fun _ => ?_)
  refine memWf_ite (respond_memWf hs) ?_
  refine memWf_ite (respond_memWf hs) ?_
  refine memWf_ite ?_ ?_
  · refine memWf_ite (respond_memWf hs) ?_
    exact memWf_ite (respond_memWf hs) (respond_memWf (writeDevSec_memWf hs))
  refine memWf_ite (respond_memWf hs) ?_
  refine memWf_ite (respond_memWf hs) ?_
  exact respond_memWf (setChan_memWf (writeDevSec_memWf hs))

theorem execMemorySeal_memWf {src} (hs : s.memWf) : (execMemorySeal src s).memWf := by
  unfold execMemorySeal
  refine onRange_memWf hs (fun _ _ _ _ => ?_)
  split
  · exact respond_memWf hs
  refine memWf_ite (respond_memWf hs) ?_
  refine memWf_ite (respond_memWf hs) ?_
  refine memWf_ite (respond_memWf hs) ?_
  exact setBegun_memWf (setShell_memWf (foldl_keeps (fun _ _ ht => recallAll_memWf _ _ ht) hs))

theorem execMemoryUnseal_memWf {src} (hs : s.memWf) : (execMemoryUnseal src s).memWf := by
  unfold execMemoryUnseal
  refine onRange_memWf hs (fun _ _ _ _ => ?_)
  split
  · exact respond_memWf hs
  refine memWf_ite (respond_memWf hs) ?_
  exact respond_memWf (foldl_keeps (fun _ _ ht => respond_memWf ht) (setShell_memWf hs))

theorem parityWord_memWf {cdom st k} (hs : s.memWf) : (parityWord cdom st k s).memWf := by
  unfold parityWord
  extract_lets +onlyGivenNames _ s1 _
  have h1 : s1.memWf := foldl_keeps (fun _ _ ht => homeNote_memWf _ _ _ _ ht) hs
  exact memWf_ite (memPutWord_memWf _ _ _ _ h1) (memPutWord_memWf _ _ _ _ h1)

theorem execSealComplete_memWf {cdom range} (hs : s.memWf) : (execSealComplete cdom range s).memWf := by
  unfold execSealComplete
  split
  · exact memWf_next hs
  split
  · split
    · exact memWf_next hs
    refine Res.memWf_ite (memWf_next hs) ?_
    extract_lets +onlyGivenNames _ _ s1 s2
    have h1 : s1.memWf := by
      refine foldl_keeps (fun _ _ ht => parityWord_memWf ht) ?_
      exact foldl_keeps (fun _ _ ht => homeEvict_memWf _ _ ht) hs
    have h2 : s2.memWf := by
      unfold s2
      split
      · exact setShell_memWf h1
      · exact h1
    exact memWf_next (respond_memWf h2)
  · exact memWf_next hs

theorem execMemoryRebuild_memWf {src} (hs : s.memWf) : (execMemoryRebuild src s).memWf := by
  unfold execMemoryRebuild
  refine onRange_memWf hs (fun _ _ _ _ => ?_)
  refine memWf_ite (respond_memWf hs) ?_
  refine memWf_ite (respond_memWf hs) ?_
  exact memWf_ite (respond_memWf hs) (setBegun_memWf (setShell_memWf hs))

theorem execMemoryAperture_memWf {src} (hs : s.memWf) : (execMemoryAperture src s).memWf := by
  unfold execMemoryAperture
  refine onReq_memWf hs (fun _ => ?_)
  refine memWf_ite (respond_memWf hs) ?_
  refine memWf_ite (respond_memWf (setApt_memWf hs)) ?_
  exact memWf_ite (respond_memWf hs) (respond_memWf (setApt_memWf hs))

theorem copyStep_memWf {q d tenant src dst x k} (hx : x.st.memWf) : (copyStep q d tenant src dst x k).st.memWf := by
  unfold copyStep
  refine memWf_ite_of CopyAcc.st hx ?_
  extract_lets +onlyGivenNames _ _ da at' _ _ rd s1 x1
  have h1 : s1.memWf := by
    unfold s1 rd
    split
    · refine memWf_ite_of (fun x : List Byte × Nat × State × Bool => x.2.2.1) hx ?_
      exact homeNote_memWf _ _ _ _ hx
    · exact logSpad_memWf hx
    · exact (emit_memWf _ _).mpr hx
    all_goals exact hx
  clear_value s1 rd x1 at'
  refine memWf_ite_of CopyAcc.st h1 ?_
  split
  · exact memWf_ite_of CopyAcc.st h1 (memWf_ite_of CopyAcc.st h1 (homeWrite_memWf h1))
  · exact spadWrite_memWf _ _ _ _ h1
  · exact memWf_ite_of CopyAcc.st h1 ((emit_memWf _ _).mpr h1)
  · split
    · next t e => exact sendReq_memWf h1 e
    · exact h1
  all_goals exact h1

theorem execMemoryCopy_memWf {q ext} (hs : s.memWf) : (execMemoryCopy q ext s).memWf := by
  unfold execMemoryCopy
  split
  · split
    · exact memWf_next hs
    refine Res.memWf_ite (memWf_next (respond_memWf hs)) ?_
    refine Res.memWf_ite (memWf_next (respond_memWf hs)) ?_
    refine Res.memWf_ite (memWf_next hs) ?_
    refine Res.memWf_ite ?_ ?_
    · exact memWf_next (setBegun_memWf (foldl_keeps_of CopyAcc.st (fun _ _ ht => copyStep_memWf ht) hs))
    exact memWf_next (respond_memWf (memWf_mk (foldl_keeps_of CopyAcc.st (fun _ _ ht => copyStep_memWf ht) hs)))
  · exact memWf_next hs

theorem execMemoryFence_memWf {q} (hs : s.memWf) : (execMemoryFence q s).memWf := by
  unfold execMemoryFence
  split
  · exact memWf_next hs
  refine Res.memWf_ite (memWf_next hs) ?_
  refine Res.memWf_ite (memWf_next (respond_memWf hs)) ?_
  refine Res.memWf_ite (memWf_next (respond_memWf hs)) ?_
  split
  · exact memWf_next (respond_memWf hs)
  split
  · refine Res.memWf_ite (memWf_next (respond_memWf hs)) ?_
    refine Res.memWf_ite (memWf_next (respond_memWf hs)) ?_
    exact Res.memWf_ite (memWf_next hs) (memWf_next (respond_memWf (homeWrite_memWf hs)))
  · exact memWf_next (respond_memWf hs)

/-! ### Events of a Falnar link (14 R403..R418) -/

theorem fillItem_memWf {r core slot pc item got} (hs : s.memWf) : (fillItem r core slot pc item got s).memWf := by
  unfold fillItem
  split
  · exact hs
  extract_lets +onlyGivenNames _
  split
  · exact hs
  · exact (setGroup_memWf _ _ _ _).mpr hs

theorem remoteOk_memWf {r data} (hs : s.memWf) : (remoteOk r data s).memWf := by
  unfold remoteOk
  split
  · exact fillItem_memWf hs
  · split
    · exact hs
    extract_lets +onlyGivenNames s1
    have h1 : s1.memWf := sectorDone_memWf hs
    exact memWf_ite h1 (ctrAdd_memWf h1)
  · exact hs
  · exact hs
  · exact memWf_ite hs (respond_memWf hs)

theorem remoteFail_memWf {r} (hs : s.memWf) : (remoteFail r s).memWf := by
  unfold remoteFail
  split
  · exact fillItem_memWf hs
  · split
    · exact copyFault_memWf hs
    · exact hs
  · split
    · exact memWf_ite hs (park_memWf hs)
    · exact hs
  · exact stationFault_memWf hs
  · exact respond_memWf (memWf_mk hs)

theorem failReq_memWf {t} (hs : s.memWf) : (failReq t s).memWf := by
  unfold failReq
  split
  · exact remoteFail_memWf (dropTag_memWf hs)
  · exact hs

theorem dropFwd_memWf {src tag} (hs : s.memWf) : (dropFwd src tag s).memWf :=
  memWf_mk hs

theorem forwardMsg_memWf {kind m} (hs : s.memWf) : (forwardMsg kind m s).memWf := by
  unfold forwardMsg
  split
  · extract_lets +onlyGivenNames s1
    have h1 : s1.memWf := sendMsg_memWf hs
    exact memWf_ite (setLink_memWf h1) (dropFwd_memWf h1)
  · exact memWf_ite (answerRemote_memWf _ _ _ _ _ _ _ hs) (dropFwd_memWf hs)

theorem releaseShares_memWf {l} (hs : s.memWf) : (releaseShares l s).memWf := by
  unfold releaseShares
  refine foldl_keeps (fun _ _ ht => ?_) ?_
  · split
    · exact rederive_memWf (setShell_memWf ht)
    · exact ht
  exact foldl_keeps (fun _ _ ht => refuseShare_memWf ht) hs

theorem dropLink_memWf {l st} (hs : s.memWf) : (dropLink l st s).memWf := by
  unfold dropLink
  refine releaseShares_memWf ?_
  refine foldl_keeps (fun _ _ ht => answerRemote_memWf _ _ _ _ _ _ _ ht) ?_
  exact foldl_keeps (fun _ _ ht => failReq_memWf ht) (setLink_memWf hs)

theorem linkDown_memWf {l st det inj} (hs : s.memWf) : (linkDown l st det inj s).memWf :=
  dropLink_memWf (logRec_memWf _ _ hs)

theorem beginRetrain_memWf {l width} (hs : s.memWf) : (beginRetrain l width s).memWf :=
  (emit_memWf _ _).mpr (setLink_memWf hs)

theorem loseLane_memWf {l lane inj} (hs : s.memWf) : (loseLane l lane inj s).memWf := by
  unfold loseLane
  extract_lets +onlyGivenNames _ _ s1
  have h1 : s1.memWf := setLink_memWf hs
  exact memWf_ite (linkDown_memWf h1) (beginRetrain_memWf (logRec_memWf _ _ h1))

theorem scaleShares_memWf {l old new} (hs : s.memWf) : (scaleShares l old new s).memWf := by
  unfold scaleShares
  refine foldl_keeps (fun _ _ ht => ?_) (setLink_memWf hs)
  split
  · exact rederive_memWf (setShell_memWf ht)
  · exact ht

theorem resendFlits_memWf {l} (hs : s.memWf) : (resendFlits l s).memWf :=
  foldl_keeps (fun _ _ ht => (emit_memWf _ _).mpr ht) hs

theorem serveErr_memWf {m st} (hs : s.memWf) : (serveErr m st s).memWf :=
  answerRemote_memWf _ _ _ _ _ _ _ hs

theorem serveWrite_memWf {m counted} (hs : s.memWf) : (serveWrite m counted s).memWf := by
  unfold serveWrite
  split
  · exact serveErr_memWf hs
  split
  · refine memWf_ite (serveErr_memWf hs) ?_
    exact memWf_ite (serveErr_memWf hs) (arrive_memWf _ _ _ hs)
  · extract_lets +onlyGivenNames s1
    have h1 : s1.memWf := foldl_keeps (fun _ _ ht => spadWrite_memWf _ _ _ _ ht) hs
    exact answerRemote_memWf _ _ _ _ _ _ _ (memWf_ite (ctrAdd_memWf h1) h1)
  · exact serveErr_memWf hs

theorem serveAtomic_memWf {m ret a} (hs : s.memWf) : (serveAtomic m ret a s).memWf := by
  unfold serveAtomic
  split
  · exact serveErr_memWf hs
  split
  · refine memWf_ite (serveErr_memWf hs) ?_
    exact memWf_ite (serveErr_memWf hs) (pushAtom_memWf hs)
  · refine memWf_ite (answerRemote_memWf _ _ _ _ _ _ _ (atomSpad_memWf hs)) ?_
    exact serveErr_memWf (atomSpad_memWf hs)
  · exact serveErr_memWf hs

/-! ### Flits, retrains, requests and responses of links (14 R399..R418) -/

theorem execFlitReceive_memWf {link flit} (hs : s.memWf) : (execFlitReceive link flit s).memWf := by
  unfold execFlitReceive
  refine Res.memWf_ite (memWf_next hs) ?_
  extract_lets +onlyGivenNames _ _ _ _ s1
  have h1 : s1.memWf := by
    unfold s1
    split
    · refine memWf_ite (loseLane_memWf (takeInj_memWf hs)) ?_
      exact memWf_ite (takeInj_memWf hs) (memWf_mk (takeInj_memWf hs))
    · exact takeInj_memWf hs
  refine Res.memWf_ite (memWf_next h1) ?_
  refine Res.memWf_ite (memWf_next (memWf_ite (setLink_memWf h1) (logRec_memWf _ _ (setLink_memWf h1)))) ?_
  extract_lets +onlyGivenNames _ _ s2 _
  have h2 : s2.memWf := memWf_ite (resendFlits_memWf (setLink_memWf h1)) (setLink_memWf h1)
  refine Res.memWf_ite (memWf_next h2) ?_
  refine Res.memWf_ite (memWf_next (setLink_memWf h2)) ?_
  exact memWf_next (memWf_ite (setLink_memWf h2) (logRec_memWf _ _ (setLink_memWf h2)))

theorem execIdleFlitSend_memWf {link} (hs : s.memWf) : (execIdleFlitSend link s).memWf := by
  unfold execIdleFlitSend
  refine Res.memWf_ite (memWf_next hs) ?_
  split
  · rename_i t e
    have h1 : t.memWf := memWf_of_pair (takeInj_memWf hs) e
    exact memWf_next (setLink_memWf h1)
  rename_i t e
  have h2 : t.memWf := memWf_of_pair (takeInj_memWf hs) e
  refine Res.memWf_ite (memWf_next h2) ?_
  exact memWf_next ((emit_memWf _ _).mpr (setLink_memWf h2))

theorem execReplayLimit_memWf {link} (hs : s.memWf) : (execReplayLimit link s).memWf :=
  Res.memWf_ite (memWf_next hs) (memWf_next (beginRetrain_memWf hs))

theorem execLaneDegrade_memWf {link lane} (hs : s.memWf) : (execLaneDegrade link lane s).memWf :=
  Res.memWf_ite (memWf_next hs) (memWf_next (loseLane_memWf hs))

theorem execLinkRetrainDone_memWf {link width partner} (hs : s.memWf) :
    (execLinkRetrainDone link width partner s).memWf := by
  unfold execLinkRetrainDone
  refine Res.memWf_ite (memWf_next hs) ?_
  refine Res.memWf_ite (memWf_next (linkDown_memWf hs)) ?_
  refine Res.memWf_ite (memWf_next (linkDown_memWf hs)) ?_
  extract_lets +onlyGivenNames _ s1 _
  have h1 : s1.memWf := setLink_memWf hs
  exact memWf_next (resendFlits_memWf (memWf_ite h1 (scaleShares_memWf h1)))

theorem execRetrainTimeout_memWf {link} (hs : s.memWf) : (execRetrainTimeout link s).memWf := by
  unfold execRetrainTimeout
  extract_lets +onlyGivenNames _
  split
  · exact memWf_next (linkDown_memWf (untilTime_memWf hs))
  · exact memWf_next hs

theorem execLinkHeartbeat_memWf {link} (hs : s.memWf) : (execLinkHeartbeat link s).memWf :=
  Res.memWf_ite (memWf_next hs) (memWf_next (linkDown_memWf (untilTime_memWf hs)))

theorem execLinkTrainingDone_memWf {link width partner regatta} (hs : s.memWf) :
    (execLinkTrainingDone link width partner regatta s).memWf := by
  unfold execLinkTrainingDone
  refine Res.memWf_ite (memWf_next hs) ?_
  refine Res.memWf_ite (memWf_next hs) ?_
  exact Res.memWf_ite (memWf_next (linkDown_memWf hs)) (memWf_next (setLink_memWf hs))

theorem onMessage_memWf {kind link m f} (hs : s.memWf) (hf : ∀ t, t.memWf → (f t).memWf) :
    (onMessage kind link m s f).memWf :=
  Res.memWf_ite (memWf_next hs) (Res.memWf_ite (memWf_next (forwardMsg_memWf hs)) (memWf_next (hf _ hs)))

theorem execRemoteRead_memWf {link msg} (hs : s.memWf) : (execRemoteRead link msg s).memWf := by
  unfold execRemoteRead
  refine onMessage_memWf hs (fun _ ht => ?_)
  split
  · exact serveErr_memWf ht
  split
  · exact memWf_ite (serveErr_memWf ht) (arrive_memWf _ _ _ ht)
  · extract_lets +onlyGivenNames _ s1
    have h1 : s1.memWf := logSpad_memWf ht
    exact memWf_ite (answerRemote_memWf _ _ _ _ _ _ _ h1) (serveErr_memWf h1)
  · exact serveErr_memWf ht

theorem onResponse_memWf {kind m f} (hs : s.memWf) (hf : ∀ a t, t.memWf → (f a t).memWf) :
    (onResponse kind m s f).memWf := by
  unfold onResponse
  refine Res.memWf_ite (memWf_next (forwardMsg_memWf hs)) ?_
  split
  · exact memWf_next hs
  refine Res.memWf_ite (memWf_next hs) ?_
  split
  · rename_i t e
    have h1 : t.memWf := memWf_of_pair (takeInj_memWf hs) e
    exact memWf_next (memWf_mk h1)
  rename_i t e
  have h2 : t.memWf := memWf_of_pair (takeInj_memWf hs) e
  exact memWf_next (hf _ _ (dropTag_memWf h2))

theorem execRemoteTimeout_memWf {tag} (hs : s.memWf) : (execRemoteTimeout tag s).memWf := by
  unfold execRemoteTimeout
  split
  · exact memWf_next hs
  · exact memWf_next (failReq_memWf (logRec_memWf _ _ (untilTime_memWf hs)))

/-! ### Operating points, caps and hints (16) -/

theorem powerEvent_memWf {kind words} (hs : s.memWf) : (powerEvent kind words s).memWf :=
  memWf_ite ((emit_memWf _ _).mpr hs) hs

theorem retarget_memWf (hs : s.memWf) : (retarget s).memWf :=
  memWf_ite hs (memWf_ite (memWf_mk hs) (memWf_ite hs (memWf_mk hs)))

theorem enterOpe_memWf (hs : s.memWf) : (enterOpe s).memWf :=
  memWf_mk hs

theorem voidWindows_memWf {cause} (hs : s.memWf) : (voidWindows cause s).memWf :=
  memWf_mk (memWf_mk hs)

theorem blameOpen_memWf {cause} (hs : s.memWf) : (blameOpen cause s).memWf :=
  memWf_mk hs

theorem powerCatch_memWf (hs : s.memWf) : (powerCatch s).memWf := by
  unfold powerCatch
  extract_lets +onlyGivenNames _ _ s1
  have h1 : s1.memWf := memWf_mk hs
  exact memWf_ite (powerEvent_memWf (memWf_mk h1)) h1

theorem powerAdmitted_memWf (hs : s.memWf) : (powerAdmitted s).memWf :=
  retarget_memWf (memWf_ite (voidWindows_memWf hs) hs)

theorem noteFloor_memWf (hs : s.memWf) : (noteFloor s).memWf :=
  memWf_ite (memWf_mk hs) (memWf_ite hs (powerEvent_memWf (logRec_memWf _ _ (memWf_mk hs))))

/-! ### The phases of a stroke (02; 03 R89, R95) -/

theorem returnCores_memWf (hs : s.memWf) : (returnCores s).memWf := by
  unfold returnCores
  refine foldl_keeps (fun _ _ ht => ?_) hs
  split
  · exact memWf_ite (unfence_memWf (setCore_memWf ht)) ht
  · exact ht

theorem regattaTick_memWf (hs : s.memWf) : (regattaTick s).memWf := by
  unfold regattaTick
  refine memWf_ite hs ?_
  extract_lets +onlyGivenNames _ s1
  have h1 : s1.memWf := memWf_ite (foldl_keeps (fun _ _ ht => (emit_memWf _ _).mpr ht) hs) (memWf_mk hs)
  exact memWf_ite ((emit_memWf _ _).mpr h1) (memWf_mk h1)

theorem slewStart_memWf (hs : s.memWf) : (slewStart s).memWf :=
  memWf_mk hs

theorem execCatchBegin_memWf (hs : s.memWf) : (execCatchBegin s).memWf := by
  unfold execCatchBegin
  refine Res.memWf_ite (memWf_next hs) ?_
  refine memWf_next ?_
  refine powerAdmitted_memWf ?_
  refine admitAll_memWf ?_
  refine powerCatch_memWf ?_
  refine seatArrivals_memWf ?_
  refine regattaTick_memWf ?_
  refine fixStroke_memWf ?_
  exact trimCalendar_memWf (returnCores_memWf (memWf_mk (memWf_mk (untilTime_memWf (slewStart_memWf hs)))))

theorem execDriveBegin_memWf (hs : s.memWf) : (execDriveBegin s).memWf :=
  Res.memWf_ite (memWf_next hs) (memWf_next (schedule_memWf (preempt_memWf (memWf_mk (untilTime_memWf hs)))))

theorem logMiss_memWf {c cause inj} (hs : s.memWf) : (logMiss c cause inj s).memWf := by
  unfold logMiss
  extract_lets +onlyGivenNames _ s1
  have h1 : s1.memWf := logRec_memWf _ _ hs
  exact memWf_ite (logRec_memWf _ _ h1) h1

theorem missCmd_memWf {n c inj} (hs : s.memWf) : (missCmd n c inj s).memWf := by
  unfold missCmd
  extract_lets +onlyGivenNames _ s1 _
  have h1 : s1.memWf := logMiss_memWf hs
  refine memWf_ite (memWf_ite (tellStop_memWf (setCmd_memWf h1)) (setCmd_memWf h1)) ?_
  refine memWf_ite (finishCmd_memWf (loseOutputs_memWf (setCmd_memWf h1))) ?_
  exact tellStop_memWf (setCmd_memWf h1)

theorem missDone_memWf (hs : s.memWf) : (missDone s).memWf := by
  unfold missDone
  refine foldl_keeps (fun _ _ ht => ?_) hs
  refine foldl_keeps (fun _ _ ht => ?_) ht
  refine memWf_ite ht ?_
  split
  · exact ht
  rename_i t e
  have h1 : t.memWf := memWf_of_pair (takeInj_memWf ht) e
  extract_lets +onlyGivenNames _ s2
  have h2 : s2.memWf := logRec_memWf _ _ h1
  split
  · exact memWf_mk h2
  · exact h2

theorem dropSamples_memWf (hs : s.memWf) : (dropSamples s).memWf :=
  foldl_keeps (fun _ _ ht => logRec_memWf _ _ ht) (memWf_mk hs)

theorem execFinishInstant_memWf (hs : s.memWf) : (execFinishInstant s).memWf := by
  unfold execFinishInstant
  refine Res.memWf_ite (memWf_next hs) ?_
  extract_lets +onlyGivenNames _ _ _ _ _ s1
  have h1 : s1.memWf := by
    unfold s1
    refine foldl_keeps (fun _ _ ht => ?_) (missDone_memWf (memWf_mk (untilTime_memWf hs)))
    split
    · exact ht
    · exact missCmd_memWf (takeInj_memWf ht)
  exact memWf_next (schedule_memWf (dropSamples_memWf h1))

theorem switchOut_memWf (hs : s.memWf) : (switchOut s).memWf :=
  foldl_keeps (fun _ _ ht => setCore_memWf (vacate_memWf ht)) hs

theorem startCals_memWf (hs : s.memWf) : (startCals s).memWf :=
  foldl_keeps (fun _ _ ht => memWf_ite (foldl_keeps (fun _ _ ht => setChan_memWf ht) (memWf_mk ht)) ht) hs

theorem keepBefore_memWf (hs : s.memWf) : (keepBefore s).memWf :=
  memWf_mk hs

theorem execRecoveryBegin_memWf (hs : s.memWf) : (execRecoveryBegin s).memWf := by
  unfold execRecoveryBegin
  refine Res.memWf_ite (memWf_next hs) ?_
  refine memWf_next ?_
  refine foldl_keeps (fun _ _ ht => flipShell_memWf ht) ?_
  exact startCals_memWf (switchOut_memWf (keepBefore_memWf (memWf_mk (untilTime_memWf hs))))

theorem execContextRestore_memWf {core} (hs : s.memWf) : (execContextRestore core s).memWf := by
  unfold execContextRestore
  split
  · exact memWf_next hs
  refine Res.memWf_ite (memWf_next hs) ?_
  exact memWf_next (schedule_memWf (restoreContext_memWf _ _ _ _ hs))

theorem execFallbackStart_memWf {cmd} (hs : s.memWf) : (execFallbackStart cmd s).memWf := by
  unfold execFallbackStart
  split
  · exact memWf_next hs
  refine Res.memWf_ite (memWf_next hs) ?_
  exact memWf_next (schedule_memWf (setCmd_memWf (clearCores_memWf (stopStatus_memWf hs))))

theorem execSeatStop_memWf {core} (hs : s.memWf) : (execSeatStop core s).memWf := by
  unfold execSeatStop
  extract_lets +onlyGivenNames _ s1
  have h1 : s1.memWf := by
    unfold s1
    refine foldl_keeps (fun _ _ ht => ?_) hs
    extract_lets +onlyGivenNames s2
    have h2 : s2.memWf := foldl_keeps (fun _ _ ht => memWf_ite (holdSeat_memWf ht) ht) ht
    split
    · exact endStopped_memWf h2
    · exact h2
  exact memWf_next (schedule_memWf (memWf_ite (saveContext_memWf h1) h1))

theorem completeCmd_memWf {n c} (hs : s.memWf) : (completeCmd n c s).memWf :=
  schedule_memWf (finishCmd_memWf (boundary_memWf hs))

theorem nextStep_memWf {n rg} (hs : s.memWf) : (nextStep n rg s).memWf := by
  unfold nextStep
  split
  · exact hs
  refine memWf_ite (completeCmd_memWf (setCmd_memWf hs)) ?_
  exact boundary_memWf (setCmd_memWf hs)

theorem execStepBarrier_memWf {cmd} (hs : s.memWf) : (execStepBarrier cmd s).memWf := by
  unfold execStepBarrier
  split
  · exact memWf_next hs
  split
  · exact memWf_next hs
  refine Res.memWf_ite (memWf_next hs) ?_
  extract_lets +onlyGivenNames _ seg
  refine Res.memWf_ite ?_ ?_
  · refine Res.memWf_ite (memWf_next hs) ?_
    exact Res.memWf_ite (memWf_next hs) (memWf_next (nextStep_memWf (milestone_memWf hs)))
  refine Res.memWf_ite (memWf_next hs) ?_
  clear_value seg
  split
  · exact memWf_next (schedule_memWf (setCmd_memWf hs))
  · exact Res.memWf_ite (memWf_next hs) (memWf_next (nextStep_memWf (milestone_memWf hs)))

theorem execSegmentLaunch_memWf {cmd} (hs : s.memWf) : (execSegmentLaunch cmd s).memWf := by
  unfold execSegmentLaunch
  split
  · exact memWf_next hs
  split
  · exact memWf_next hs
  extract_lets +onlyGivenNames sg
  clear_value sg
  split
  · exact memWf_next hs
  refine Res.memWf_ite (memWf_next hs) ?_
  split
  · exact memWf_next (faultStop_memWf hs)
  · exact memWf_next (foldl_keeps (fun _ _ ht => setCore_memWf ht) hs)

/-! ### Stroke configuration, regattas and rollbacks (02 R34, R35, R53; 14 R419..R425; 15 R442) -/

theorem acceptCfg_memWf {target c} (hs : s.memWf) : (acceptCfg target c s).memWf :=
  foldl_keeps (fun _ _ ht => rederive_memWf ht) (refitCalendar_memWf (memWf_mk hs))

theorem coxAll_memWf {but m} (hs : s.memWf) : (coxAll but m s).memWf :=
  foldl_keeps (fun _ _ ht => (emit_memWf _ _).mpr ht) hs

theorem execStrokeConfigure_memWf {m} (hs : s.memWf) : (execStrokeConfigure m s).memWf := by
  unfold execStrokeConfigure
  refine onReq_memWf hs (fun _ => ?_)
  refine memWf_ite (respond_memWf hs) ?_
  refine memWf_ite (respond_memWf hs) ?_
  refine memWf_ite (respond_memWf hs) ?_
  split
  · exact refuse_memWf hs
  refine memWf_ite (respond_memWf (acceptCfg_memWf hs)) ?_
  exact coxAll_memWf (setBegun_memWf (memWf_mk hs))

theorem execStrokeConfigureNoAnswer_memWf (hs : s.memWf) : (execStrokeConfigureNoAnswer s).memWf := by
  unfold execStrokeConfigureNoAnswer
  split
  · exact memWf_next hs
  · exact memWf_next (refuse_memWf (coxAll_memWf (memWf_mk (untilTime_memWf hs))))

theorem askConfig_memWf {link} (hs : s.memWf) : (askConfig link s).memWf :=
  memWf_ite hs ((emit_memWf _ _).mpr (memWf_mk hs))

theorem settleAligned_memWf (hs : s.memWf) : (settleAligned s).memWf :=
  memWf_ite (setUnaligned_memWf hs) hs

theorem alignTo_memWf {link b} (hs : s.memWf) : (alignTo link b s).memWf := by
  unfold alignTo
  refine memWf_ite ?_ ?_
  · extract_lets +onlyGivenNames _ s1
    have h1 : s1.memWf := memWf_mk hs
    exact memWf_ite h1 (askConfig_memWf h1)
  extract_lets +onlyGivenNames _ s2
  have h2 : s2.memWf := memWf_mk hs
  refine memWf_ite (settleAligned_memWf h2) ?_
  exact memWf_ite (setUnaligned_memWf h2) (askConfig_memWf (setUnaligned_memWf h2))

theorem execBeacon_memWf {link b} (hs : s.memWf) : (execBeacon link b s).memWf := by
  unfold execBeacon
  refine Res.memWf_ite (memWf_next hs) ?_
  exact memWf_next (alignTo_memWf (foldl_keeps (fun _ _ ht => (emit_memWf _ _).mpr ht) (memWf_mk hs)))

theorem renumber_memWf {delta} (hs : s.memWf) : (renumber delta s).memWf :=
  memWf_mk hs

theorem execStrokeStep_memWf (hs : s.memWf) : (execStrokeStep s).memWf :=
  Res.memWf_ite (memWf_next hs) (memWf_next (settleAligned_memWf (memWf_mk (renumber_memWf hs))))

theorem execBeaconMiss_memWf (hs : s.memWf) : (execBeaconMiss s).memWf :=
  Res.memWf_ite (memWf_next hs) (memWf_next (setUnaligned_memWf (memWf_mk hs)))

theorem execStrokeSync_memWf {offset} (hs : s.memWf) : (execStrokeSync offset s).memWf :=
  Res.memWf_ite (memWf_next hs) (memWf_next (settleAligned_memWf (memWf_mk hs)))

theorem execStrokeSyncMiss_memWf (hs : s.memWf) : (execStrokeSyncMiss s).memWf :=
  Res.memWf_ite (memWf_next hs) (memWf_next (setUnaligned_memWf hs))

theorem dropEq_memWf {l} (hs : s.memWf) : (dropEq l s).memWf :=
  memWf_mk hs

theorem agreeEq_memWf {l stroke} (hs : s.memWf) : (agreeEq l stroke s).memWf :=
  setLink_memWf (placeSlot_memWf (dropEq_memWf hs))

theorem onEqualise_memWf {l stroke} (hs : s.memWf) : (onEqualise l stroke s).memWf := by
  unfold onEqualise
  extract_lets +onlyGivenNames _ s1
  have h1 : s1.memWf := dropEq_memWf hs
  split
  · exact (emit_memWf _ _).mpr (agreeEq_memWf h1)
  · exact h1

theorem onAgreed_memWf {l stroke} (hs : s.memWf) : (onAgreed l stroke s).memWf := by
  unfold onAgreed
  refine memWf_ite hs ?_
  split
  · exact hs
  refine memWf_ite (agreeEq_memWf hs) ?_
  exact (emit_memWf _ _).mpr (setLink_memWf (placeSlot_memWf (dropEq_memWf hs)))

theorem onShareRequest_memWf {l gbps} (hs : s.memWf) : (onShareRequest l gbps s).memWf := by
  unfold onShareRequest
  extract_lets +onlyGivenNames _ _ s1 _
  have h1 : s1.memWf := memWf_ite (setLink_memWf hs) hs
  exact (emit_memWf _ _).mpr (memWf_ite (foldl_keeps (fun _ _ ht => rederive_memWf ht) h1) h1)

theorem onShareAnswer_memWf {l ok} (hs : s.memWf) : (onShareAnswer l ok s).memWf := by
  unfold onShareAnswer
  refine memWf_ite ?_ ?_
  · refine foldl_keeps (fun _ _ ht => ?_) hs
    split
    · exact creationDone_memWf (setShell_memWf ht)
    · exact ht
  split
  · exact refuseShare_memWf hs
  · exact hs

theorem toMaster_memWf {link m f} (hf : ∀ t, t.memWf → (f t).memWf) (hs : s.memWf) : (toMaster link m f s).memWf :=
  memWf_ite (hf _ hs) (memWf_ite hs ((emit_memWf _ _).mpr hs))

theorem onCox_memWf {link m} (hs : s.memWf) : (onCox link m s).memWf := by
  unfold onCox
  split
  · refine memWf_ite hs ?_
    refine memWf_ite ((emit_memWf _ _).mpr hs) ?_
    exact coxAll_memWf ((emit_memWf _ _).mpr (acceptCfg_memWf hs))
  · refine toMaster_memWf (fun _ ht => ?_) hs
    split
    · exact ht
    · exact memWf_ite (respond_memWf (acceptCfg_memWf (memWf_mk ht))) (memWf_mk ht)
  · refine toMaster_memWf (fun _ ht => ?_) hs
    split
    · exact ht
    · exact refuse_memWf (coxAll_memWf (memWf_mk ht))
  · exact memWf_ite hs (coxAll_memWf (memWf_mk hs))
  · refine memWf_ite ((emit_memWf _ _).mpr hs) ?_
    extract_lets +onlyGivenNames _ s1
    have h1 : s1.memWf := memWf_mk hs
    exact memWf_ite h1 ((emit_memWf _ _).mpr h1)
  · extract_lets +onlyGivenNames _ s2
    have h2 : s2.memWf := foldl_keeps (fun _ _ ht => (emit_memWf _ _).mpr ht) (memWf_mk hs)
    exact memWf_ite h2 (memWf_ite (memWf_mk h2) (memWf_mk h2))
  · exact memWf_ite (onEqualise_memWf hs) hs
  · exact onAgreed_memWf hs
  · exact onShareRequest_memWf hs
  · exact onShareAnswer_memWf hs

theorem execCoxMessage_memWf {link m} (hs : s.memWf) : (execCoxMessage link m s).memWf :=
  Res.memWf_ite (memWf_next (onCox_memWf hs)) (memWf_next hs)

theorem needShellReset_memWf {d inj} (hs : s.memWf) : (needShellReset d inj s).memWf :=
  memWf_ite hs (memWf_mk hs)

theorem rollback_memWf {r inj} (hs : s.memWf) : (rollback r inj s).memWf := by
  unfold rollback
  extract_lets +onlyGivenNames _
  split
  · exact logRec_memWf _ _ hs
  · exact needShellReset_memWf (logRec_memWf _ _ (shellEvent_memWf (endCmds_memWf hs)))

theorem execRetract_memWf {link r} (hs : s.memWf) : (execRetract link r s).memWf := by
  unfold execRetract
  refine Res.memWf_ite (memWf_next hs) ?_
  refine Res.memWf_ite (memWf_next hs) ?_
  exact memWf_next (rollback_memWf (foldl_keeps (fun _ _ ht => (emit_memWf _ _).mpr ht) (memWf_mk hs)))

/-! ### Faults, detectors, scans and way tests (15) -/

theorem execFaultRead_memWf {m} (hs : s.memWf) : (execFaultRead m s).memWf := by
  unfold execFaultRead
  refine onReq_memWf hs (fun _ => ?_)
  refine memWf_ite (respond_memWf hs) ?_
  refine memWf_ite (respond_memWf hs) ?_
  exact respond_memWf (memWf_ite hs ((emit_memWf _ _).mpr hs))

theorem execFaultInject_memWf {m} (hs : s.memWf) : (execFaultInject m s).memWf := by
  unfold execFaultInject
  refine onReq_memWf hs (fun _ => ?_)
  refine memWf_ite (respond_memWf hs) ?_
  refine memWf_ite (respond_memWf hs) ?_
  split
  · exact respond_memWf hs
  · exact memWf_ite (respond_memWf hs) (respond_memWf (memWf_mk hs))

theorem execInjectLapsed_memWf {n} (hs : s.memWf) : (execInjectLapsed n s).memWf := by
  unfold execInjectLapsed
  split
  · exact memWf_next hs
  · exact Res.memWf_ite (memWf_next hs) (memWf_next (logRec_memWf _ _ (memWf_mk hs)))

theorem injected_memWf {det target} (hs : s.memWf) : (injected det target s).2.2.memWf :=
  takeInj_memWf hs

theorem execCoreProbe_memWf {core answered} (hs : s.memWf) : (execCoreProbe core answered s).memWf := by
  unfold execCoreProbe
  refine Res.memWf_ite (memWf_next hs) ?_
  extract_lets +onlyGivenNames _ s1 _
  have h1 : s1.memWf := injected_memWf hs
  exact Res.memWf_ite (memWf_next (setCore_memWf h1)) (memWf_next (setCore_memWf h1))

theorem execCoreProgress_memWf {core} (hs : s.memWf) : (execCoreProgress core s).memWf := by
  unfold execCoreProgress
  refine Res.memWf_ite (memWf_next hs) ?_
  split
  · exact memWf_next (needResetBy_memWf (logRec_memWf _ _ (untilTime_memWf (setCore_memWf hs))))
  refine Res.memWf_ite (memWf_next (needReset_memWf (logRec_memWf _ _ hs))) ?_
  exact memWf_next hs

theorem fenceDie_memWf {inj die} (hs : s.memWf) : (fenceDie inj die s).memWf := by
  unfold fenceDie
  generalize List.range 46 = cores
  refine foldl_keeps (fun _ _ ht => failDomainBy_memWf ht) ?_
  exact foldl_keeps (fun _ _ ht => loseCoreBy_memWf ht) (memWf_ite hs (memWf_mk hs))

theorem needDieReset_memWf {inj stay die} (hs : s.memWf) : (needDieReset inj stay die s).memWf :=
  memWf_mk (markReset_memWf (fenceDie_memWf hs))

theorem execUcieCrc_memWf {half fails retrained} (hs : s.memWf) : (execUcieCrc half fails retrained s).memWf := by
  unfold execUcieCrc
  refine Res.memWf_ite (memWf_next hs) ?_
  extract_lets +onlyGivenNames _ s1 _
  have h1 : s1.memWf := injected_memWf hs
  refine Res.memWf_ite (memWf_next h1) ?_
  refine Res.memWf_ite (memWf_next (logRec_memWf _ _ h1)) ?_
  exact memWf_next (needDieReset_memWf (logRec_memWf _ _ h1))

theorem warmTrigger_memWf {cold det ukind unit inj} (hcold : ∀ a t, t.memWf → (cold a t).memWf) (hs : s.memWf) :
    (warmTrigger cold det ukind unit inj s).memWf := by
  unfold warmTrigger
  extract_lets +onlyGivenNames _ s1
  have h1 : s1.memWf := logRec_memWf _ _ hs
  exact memWf_ite (hcold _ _ h1) (memWf_ite h1 (setDevState_memWf (memWf_mk h1)))

theorem execSnoopTimeout_memWf {agent line} (hs : s.memWf) : (execSnoopTimeout agent line s).memWf := by
  unfold execSnoopTimeout
  split
  · exact memWf_next hs
  refine Res.memWf_ite (memWf_next hs) ?_
  exact memWf_next (failDomainBy_memWf (untilTime_memWf (memWf_mk hs)))

theorem queueScan_memWf {j} (hs : s.memWf) : (queueScan j s).memWf := by
  unfold queueScan
  refine memWf_ite hs ?_
  extract_lets +onlyGivenNames _ s1
  have h1 : s1.memWf := memWf_mk hs
  exact memWf_ite (setCore_memWf h1) h1

theorem fenceAndScan_memWf {inj cores} (hs : s.memWf) : (fenceAndScan inj cores s).memWf :=
  foldl_keeps (fun _ _ ht => memWf_ite ht (queueScan_memWf (loseCoreBy_memWf ht))) hs

theorem returnCore_memWf {core} (hs : s.memWf) : (returnCore core s).memWf :=
  memWf_ite hs (setCore_memWf (zeroCore_memWf _ _ hs))

theorem dropHalf_memWf {half} (hs : s.memWf) : (dropHalf half s).memWf := by
  unfold dropHalf
  extract_lets +onlyGivenNames _ _ _ _ _ _ _ _ _ _ s1
  have h1 : s1.memWf := by
    unfold s1
    refine foldl_keeps (fun _ _ ht => ?_) ?_
    · split
      · exact ht
      · exact memWf_ite (execSnoopResponse.finish_memWf ht) (memWf_mk ht)
    refine foldl_keeps (fun _ _ ht => ?_) ?_
    · refine memWf_ite ht ?_
      exact memWf_ite ((setDir_memWf _ _ _).mpr ht) ((setDir_memWf _ _ _).mpr ht)
    exact foldl_keeps (fun _ _ ht => (setDir_memWf _ _ _).mpr ht) (keepQueued_memWf (memWf_mk hs))
  exact drainAll_memWf _ h1

theorem testFence_memWf {kind unit t} (hs : s.memWf) (e : testFence kind unit s = some t) : t.memWf := by
  unfold testFence at e
  split at e
  · exact Option.some.inj e ▸ loseCore_memWf hs
  split at e
  · split at e
    · exact nomatch e
    · exact Option.some.inj e ▸ fenceDie_memWf hs
  split at e
  · split at e
    · exact nomatch e
    · exact Option.some.inj e ▸ loseChannel_memWf hs
  split at e
  · exact nomatch e
  · exact Option.some.inj e ▸ memWf_ite hs (dropLink_memWf hs)

theorem returnDie_memWf {die} (hs : s.memWf) : (returnDie die s).memWf :=
  unfence_memWf (foldl_keeps (fun _ _ ht => returnCore_memWf ht) (dropHalf_memWf (dropHalf_memWf hs)))

theorem testReturn_memWf {kind unit t} (hs : s.memWf) (e : testReturn kind unit s = some t) : t.memWf := by
  unfold testReturn at e
  split at e
  · split at e
    · exact nomatch e
    · exact Option.some.inj e ▸ returnCore_memWf hs
  split at e
  · split at e
    · exact nomatch e
    · exact Option.some.inj e ▸ returnDie_memWf hs
  split at e
  · dsimp only at e
    split at e
    · exact nomatch e
    · refine Option.some.inj e ▸ ?_
      split
      · exact rederive_memWf (unfence_memWf (setChan_memWf (zeroChan_memWf unit s hs)))
      · exact unfence_memWf (setChan_memWf (zeroChan_memWf unit s hs))
  split at e
  · exact nomatch e
  · exact Option.some.inj e ▸ (emit_memWf _ _).mpr (setLink_memWf hs)

theorem execFaultTest_memWf {m} (hs : s.memWf) : (execFaultTest m s).memWf := by
  unfold execFaultTest
  refine onReq_memWf hs (fun _ => ?_)
  refine memWf_ite (respond_memWf hs) ?_
  refine memWf_ite ?_ ?_
  · split
    · next t e => exact respond_memWf (testFence_memWf hs e)
    · exact respond_memWf hs
  refine memWf_ite (respond_memWf hs) ?_
  refine memWf_ite ?_ ?_
  · refine memWf_ite (respond_memWf hs) ?_
    split
    · next t e => exact respond_memWf (testReturn_memWf hs e)
    · exact respond_memWf hs
  refine memWf_ite (respond_memWf hs) ?_
  split
  · exact respond_memWf hs
  · next t e =>
    refine queueScan_memWf (setBegun_memWf ?_)
    split at e
    · exact readPatterns_memWf hs e
    · exact Option.some.inj e ▸ hs

theorem leaveService_memWf {ch} (hs : s.memWf) : (leaveService ch s).memWf :=
  setChan_memWf (memWf_ite hs (writeDevSec_memWf hs))

theorem unitFails_memWf {j inj} (hs : s.memWf) : (unitFails j inj s).memWf := by
  unfold unitFails
  extract_lets +onlyGivenNames _ s1
  have h1 : s1.memWf := memWf_ite (logRec_memWf _ _ hs) hs
  refine memWf_ite h1 ?_
  refine memWf_ite (retireCore_memWf h1) ?_
  exact memWf_ite (retireDie_memWf h1) (memWf_ite (leaveService_memWf h1) (memWf_mk h1))

theorem scanEnds_memWf (hs : s.memWf) : (scanEnds s).memWf :=
  memWf_mk hs

theorem execScanDone_memWf {passed} (hs : s.memWf) : (execScanDone passed s).memWf := by
  unfold execScanDone
  split
  · exact memWf_next hs
  extract_lets +onlyGivenNames _ _ _ _ _ _ s1
  have h1 : s1.memWf := by
    refine logRec_memWf _ _ (scanEnds_memWf ?_)
    refine memWf_ite_of (fun x : Option Nat × Nat × State => x.2.2) (injected_memWf hs) ?_
    exact memWf_ite_of (fun x : Option Nat × Nat × State => x.2.2) (injected_memWf hs) hs
  refine Res.memWf_ite ?_ ?_
  · refine Res.memWf_ite (memWf_next h1) ?_
    extract_lets +onlyGivenNames _ s2
    have h2 : s2.memWf := logRec_memWf _ _ h1
    exact memWf_next (memWf_ite h2 (memWf_mk h2))
  extract_lets +onlyGivenNames _ s3 _ s4
  have h3 : s3.memWf := memWf_ite (setCore_memWf h1) h1
  have h4 : s4.memWf := memWf_ite (memWf_mk h3) (unitFails_memWf h3)
  refine memWf_next ?_
  split
  · exact respond_memWf h4
  · exact memWf_ite (returnCore_memWf h4) h4

theorem swapSeat_memWf {core new d} (hs : s.memWf) : (swapSeat core new d s).memWf := by
  unfold swapSeat
  split
  · exact hs
  extract_lets +onlyGivenNames _ _ _ _ _ _ s1 s3
  have h1 : s1.memWf := by
    unfold s1
    refine foldl_keeps (fun _ _ ht => ?_) (rebindFlip_memWf hs)
    extract_lets +onlyGivenNames s2
    have h2 : s2.memWf := moveSeat_memWf ht
    split
    · exact h2
    split
    · exact memWf_ite h2 (setShell_memWf h2)
    · exact h2
  have h3 : s3.memWf := by
    unfold s3
    split
    · exact fixWays_memWf (setShell_memWf h1)
    · exact h1
  exact rederive_memWf (endDrain_memWf h3)

theorem takePlan_memWf {k new} (hs : s.memWf) : (takePlan k new s).memWf := by
  unfold takePlan
  extract_lets +onlyGivenNames _ s1
  have h1 : s1.memWf := setCore_memWf hs
  exact memWf_ite h1 (setCore_memWf h1)

theorem execRollingTest_memWf {ways unit} (hs : s.memWf) : (execRollingTest ways unit s).memWf := by
  unfold execRollingTest
  refine Res.memWf_ite (memWf_next hs) ?_
  refine Res.memWf_ite (Res.memWf_ite (memWf_next hs) (memWf_next (queueScan_memWf hs))) ?_
  refine Res.memWf_ite (memWf_next hs) ?_
  split
  · exact memWf_next hs
  rename_i t e
  have h1 : t.memWf := readPatterns_memWf hs e
  refine Res.memWf_ite (memWf_next (fenceAndScan_memWf h1)) ?_
  extract_lets +onlyGivenNames _
  split
  · exact memWf_next h1
  refine Res.memWf_ite (memWf_next h1) ?_
  exact memWf_next (fenceAndScan_memWf (takePlan_memWf (foldl_keeps (fun _ _ ht => swapSeat_memWf ht) h1)))

theorem execLatentScanOverdue_memWf {core} (hs : s.memWf) : (execLatentScanOverdue core s).memWf :=
  Res.memWf_ite (memWf_next hs) (memWf_next (logRec_memWf _ _ (setCore_memWf (untilTime_memWf hs))))

theorem releaseItem_memWf {core h} (hs : s.memWf) : (releaseItem core h s).memWf := by
  unfold releaseItem
  split
  · split
    · exact hs
    · exact memWf_ite (writeShell_memWf hs) (faultStop_memWf (writeShell_memWf hs))
  · split
    · exact hs
    extract_lets +onlyGivenNames loc bad
    have hbad : (bad s).memWf := by
      unfold bad
      split
      · exact memWf_ite hs (park_memWf hs)
      · exact hs
    clear_value loc bad
    split
    · exact storeLine_memWf hs
    · exact spadWrite_memWf _ _ _ _ hs
    · exact memWf_ite hs ((emit_memWf _ _).mpr hs)
    · split
      · next t e => exact sendReq_memWf hs e
      · exact hbad
    · exact hbad
  · exact pushAtom_memWf hs
  split
  · exact hs
  split
  · refine memWf_ite (copyFault_memWf hs) ?_
    exact ctrAdd_memWf (sectorDone_memWf (homePush_memWf hs))
  · exact ctrAdd_memWf (sectorDone_memWf (spadWrite_memWf _ _ _ _ hs))
  · exact memWf_ite (copyFault_memWf hs) (sectorDone_memWf ((emit_memWf _ _).mpr hs))
  · split
    · next t e => exact sendReq_memWf hs e
    · exact copyFault_memWf hs
  · exact copyFault_memWf hs

theorem pairedMismatch_memWf {core h observed inj} (hs : s.memWf) : (pairedMismatch core h observed inj s).memWf := by
  unfold pairedMismatch
  extract_lets +onlyGivenNames n _ _ _ _ _ _ _ _ _ s1 s2
  have h1 : s1.memWf := setCore_memWf (logRec_memWf _ _ (memWf_ite (bump_memWf (bump_memWf hs)) hs))
  have h2 : s2.memWf := by
    unfold s2
    clear_value n
    split
    · exact finishWith_memWf h1
    · exact h1
  exact fenceAndScan_memWf h2

theorem execPairedSignature_memWf {core sig} (hs : s.memWf) : (execPairedSignature core sig s).memWf := by
  unfold execPairedSignature
  split
  · exact memWf_next hs
  extract_lets +onlyGivenNames _ s1 _
  have h1 : s1.memWf := injected_memWf hs
  refine Res.memWf_ite (memWf_next (releaseItem_memWf (setCore_memWf h1))) ?_
  exact memWf_next (pairedMismatch_memWf h1)

theorem execPairedSignatureTimeout_memWf {core} (hs : s.memWf) : (execPairedSignatureTimeout core s).memWf := by
  unfold execPairedSignatureTimeout
  split
  · exact memWf_next hs
  · exact memWf_next (pairedMismatch_memWf (untilTime_memWf hs))

theorem execSampledCheck_memWf {core expected observed} (hs : s.memWf) :
    (execSampledCheck core expected observed s).memWf := by
  unfold execSampledCheck
  split
  · exact memWf_next hs
  extract_lets +onlyGivenNames _ _ _ s1 _
  have h1 : s1.memWf := memWf_mk (injected_memWf hs)
  refine Res.memWf_ite (memWf_next h1) ?_
  refine memWf_next ?_
  refine fenceAndScan_memWf ?_
  refine rollback_memWf ?_
  refine foldl_keeps (fun _ _ ht => (emit_memWf _ _).mpr ht) ?_
  exact memWf_mk (logRec_memWf _ _ (logRec_memWf _ _ (memWf_mk h1)))

/-! ### Resets of each domain (15 R448..R451) -/

theorem coldReset_memWf {inj} : (coldReset inj s).memWf :=
  logRec_memWf _ _ (memWf_mk reset_memWf)

theorem execCtrlParity_memWf {ukind unit} (hs : s.memWf) : (execCtrlParity ukind unit s).memWf := by
  unfold execCtrlParity
  refine Res.memWf_ite (memWf_next hs) ?_
  extract_lets +onlyGivenNames _ s1 _ _
  have h1 : s1.memWf := injected_memWf hs
  refine Res.memWf_ite (memWf_next (needResetBy_memWf (logRec_memWf _ _ h1))) ?_
  refine Res.memWf_ite (memWf_next (needDieReset_memWf (logRec_memWf _ _ h1))) ?_
  refine Res.memWf_ite ?_ ?_
  · exact memWf_next (memWf_ite (logRec_memWf _ _ h1) (foldl_keeps (fun _ _ ht => failDomainBy_memWf ht) h1))
  refine Res.memWf_ite (memWf_next (loseChannel_memWf (logRec_memWf _ _ h1))) ?_
  refine Res.memWf_ite (memWf_next (memWf_ite (dropLink_memWf (logRec_memWf _ _ h1)) (logRec_memWf _ _ h1))) ?_
  refine Res.memWf_ite (memWf_next (failDomainBy_memWf h1)) ?_
  exact memWf_next (warmTrigger_memWf (fun _ _ _ => coldReset_memWf) h1)

theorem execCoxLockstep_memWf (hs : s.memWf) : (execCoxLockstep s).memWf :=
  memWf_next (warmTrigger_memWf (fun _ _ _ => coldReset_memWf) (injected_memWf hs))

theorem execCoxWatchdog_memWf (hs : s.memWf) : (execCoxWatchdog s).memWf :=
  memWf_next (warmTrigger_memWf (fun _ _ _ => coldReset_memWf) (injected_memWf hs))

theorem failCore_memWf {core} (hs : s.memWf) : (failCore core s).memWf := by
  unfold failCore
  refine setCore_memWf ?_
  refine foldl_keeps (fun _ _ ht => busError_memWf ht) ?_
  exact memWf_mk (foldl_keeps (fun _ _ ht => failReq_memWf ht) hs)

theorem execFenceDrainTimeout_memWf {rdom unit} (hs : s.memWf) : (execFenceDrainTimeout rdom unit s).memWf := by
  unfold execFenceDrainTimeout
  split
  · exact memWf_next hs
  extract_lets +onlyGivenNames _ _ s1
  have h1 : s1.memWf := memWf_mk (untilTime_memWf hs)
  refine Res.memWf_ite (memWf_next (failCore_memWf h1)) ?_
  refine Res.memWf_ite (memWf_next (foldl_keeps (fun _ _ ht => failCore_memWf ht) h1)) ?_
  exact memWf_next (foldl_keeps (fun _ _ ht => busError_memWf ht) (memWf_mk h1))

theorem countCoreReset_memWf {core} (hs : s.memWf) : (countCoreReset core s).memWf := by
  unfold countCoreReset
  extract_lets +onlyGivenNames _ _ s1
  have h1 : s1.memWf := memWf_mk hs
  exact memWf_ite (retireCore_memWf h1) h1

theorem execCoreReset_memWf {core} (hs : s.memWf) : (execCoreReset core s).memWf := by
  unfold execCoreReset
  split
  · exact memWf_next hs
  refine Res.memWf_ite (memWf_next hs) ?_
  extract_lets +onlyGivenNames _ _ _ _ _ s1
  have h1 : s1.memWf := logRec_memWf _ _ (returnCore_memWf (memWf_mk (memWf_ite (untilTime_memWf hs) hs)))
  exact memWf_next (memWf_ite h1 (countCoreReset_memWf h1))

theorem countDieReset_memWf {die} (hs : s.memWf) : (countDieReset die s).memWf := by
  unfold countDieReset
  extract_lets +onlyGivenNames _ _ s1
  have h1 : s1.memWf := memWf_mk hs
  exact memWf_ite (retireDie_memWf h1) h1

theorem execDieReset_memWf {die} (hs : s.memWf) : (execDieReset die s).memWf := by
  unfold execDieReset
  split
  · exact memWf_next hs
  refine Res.memWf_ite (memWf_next hs) ?_
  generalize (List.range 46).map _ = cores
  generalize Config.us 40 = wait
  extract_lets +onlyGivenNames s0 _ s1 s2 _ s3 s4 s5 _ s6
  have h0 : s0.memWf := memWf_ite (untilTime_memWf hs) hs
  clear_value s0
  have h1 : s1.memWf := foldl_keeps (fun _ _ ht => failDomainBy_memWf ht) h0
  clear_value s1
  have h2 : s2.memWf := by
    unfold s2
    exact dropHalf_memWf (dropHalf_memWf h1)
  clear_value s2
  have h3 : s3.memWf := memWf_mk h2
  clear_value s3
  have hz := foldl_keeps (l := cores) (fun _ c ht => zeroCore_memWf c _ ht) h3
  have h4 : s4.memWf := memWf_ite hz (foldl_keeps (fun _ _ ht => returnCore_memWf ht) hz)
  have h5 : s5.memWf := memWf_ite h4 (unfence_memWf h4)
  clear_value s5
  have h6 : s6.memWf := logRec_memWf _ _ h5
  exact memWf_next (memWf_ite h6 (countDieReset_memWf h6))

theorem clearShell_memWf {d} (hs : s.memWf) : (clearShell d s).memWf := by
  unfold clearShell
  refine foldl_keeps (fun _ _ ht => dropAllN_memWf ht) ?_
  exact memWf_mk (memWf_mk (foldl_keeps (fun _ _ ht => zeroCore_memWf _ _ ht) hs))

theorem execShellReset_memWf {cdom} (hs : s.memWf) : (execShellReset cdom s).memWf := by
  unfold execShellReset
  split
  · exact memWf_next hs
  · exact memWf_next (schedule_memWf (logRec_memWf _ _ (clearShell_memWf (endCmds_memWf (memWf_mk hs)))))

theorem rebuildSeats_memWf {d} (hs : s.memWf) : (rebuildSeats d s).memWf := by
  unfold rebuildSeats
  split
  · exact hs
  split
  · exact hs
  extract_lets +onlyGivenNames _ s1
  have h1 : s1.memWf := refuse_memWf (fixWays_memWf (setShell_memWf hs))
  refine memWf_ite h1 ?_
  refine foldl_keeps (fun _ _ ht => ?_) h1
  extract_lets +onlyGivenNames s2
  have h2 : s2.memWf := seatOut_memWf ht
  split
  · exact memWf_ite (planSeat_memWf h2) (setCore_memWf h2)
  · exact h2

theorem answerDestroy_memWf {d} (hs : s.memWf) : (answerDestroy d s).memWf := by
  unfold answerDestroy
  refine foldl_keeps (fun _ _ ht => ?_) hs
  split
  · exact memWf_ite (respond_memWf ht) ht
  · exact ht

theorem endShell_memWf {d} (hs : s.memWf) : (endShell d s).memWf :=
  answerDestroy_memWf (dropShell_memWf (memWf_mk (memWf_mk (foldl_keeps (fun _ _ ht => removeTenant_memWf ht) hs))))

theorem execDomainReset_memWf {cdom} (hs : s.memWf) : (execDomainReset cdom s).memWf := by
  have shut : ∀ {t : State}, t.memWf → (takedownBody cdom (clearShell cdom t)).memWf :=
    fun {t} ht => takedownBody_memWf cdom _ (clearShell_memWf ht)
  unfold execDomainReset
  refine Res.memWf_ite ?_ ?_
  · extract_lets +onlyGivenNames s0 s1
    have h1 : s1.memWf := by
      unfold s1
      exact drainAll_memWf _ (shut (endCmds_memWf hs))
    refine Res.memWf_ite (memWf_next h1) ?_
    exact memWf_next (schedule_memWf (logRec_memWf _ _ (endShell_memWf h1)))
  refine Res.memWf_ite (memWf_next hs) ?_
  generalize List.range 64 = boxes
  extract_lets +onlyGivenNames _ s0 s1 s2 _ _ s3 s4
  have h1 : s1.memWf := by
    unfold s1
    exact shut (endCmds_memWf hs)
  clear_value s1
  have h3 : s3.memWf := memWf_mk (rebuildSeats_memWf h1)
  have h4 : s4.memWf := by
    unfold s4
    split
    · exact setShell_memWf h3
    · exact h3
  clear_value s4
  refine memWf_next (schedule_memWf (rederive_memWf (logRec_memWf _ _ (memWf_ite ?_ h4))))
  refine foldl_keeps (fun _ _ ht => closeQueue_memWf ht) ?_
  exact foldl_keeps (fun _ _ ht => memWf_ite (endSession_memWf ht) ht) h4

/-! ### Power, supply and temperature (16) -/

theorem execPowerCap_memWf {m} (hs : s.memWf) : (execPowerCap m s).memWf :=
  onReq_memWf hs (fun _ => memWf_ite (respond_memWf hs) (respond_memWf (noteFloor_memWf (memWf_mk hs))))

theorem execPowerHint_memWf {q} (hs : s.memWf) : (execPowerHint q s).memWf := by
  unfold execPowerHint
  refine onReq_memWf hs (fun _ => ?_)
  extract_lets +onlyGivenNames _ _ _ _
  split
  · exact respond_memWf hs
  refine memWf_ite (respond_memWf hs) ?_
  exact respond_memWf (retarget_memWf (memWf_mk (setShell_memWf hs)))

theorem execHintFillerRaise_memWf {cdom} (hs : s.memWf) : (execHintFillerRaise cdom s).memWf := by
  unfold execHintFillerRaise
  split
  · exact memWf_next hs
  split
  · exact memWf_next hs
  · exact Res.memWf_ite (memWf_next hs) (memWf_next (memWf_mk hs))

theorem execOpClockSwitch_memWf (hs : s.memWf) : (execOpClockSwitch s).memWf := by
  unfold execOpClockSwitch
  split
  · exact memWf_next hs
  · exact memWf_next (monitorAll_memWf (memWf_mk (untilTime_memWf hs)))

theorem weirMs_memWf (hs : s.memWf) : (weirMs s).memWf := by
  unfold weirMs
  extract_lets +onlyGivenNames _ _ s1 _
  have h1 : s1.memWf := memWf_mk hs
  exact memWf_ite (memWf_mk h1) h1

theorem weirUp_memWf (hs : s.memWf) : (weirUp s).memWf :=
  memWf_ite (memWf_mk hs) (memWf_mk hs)

theorem capFloor_memWf (hs : s.memWf) : (capFloor s).memWf :=
  powerEvent_memWf (logRec_memWf _ _ (memWf_mk hs))

theorem execWeirTick_memWf {watts arith} (hs : s.memWf) : (execWeirTick watts arith s).memWf := by
  unfold execWeirTick
  extract_lets +onlyGivenNames _ _ _ _ _ s1 s2 _ _
  have h1 : s1.memWf := memWf_mk (noteFloor_memWf (memWf_mk hs))
  have h2 : s2.memWf := weirUp_memWf (memWf_ite (weirMs_memWf h1) h1)
  exact memWf_next (retarget_memWf (memWf_mk (memWf_ite (capFloor_memWf h2) h2)))

theorem execCapFloorRepeat_memWf (hs : s.memWf) : (execCapFloorRepeat s).memWf :=
  Res.memWf_ite (memWf_next (capFloor_memWf (untilTime_memWf hs))) (memWf_next hs)

theorem execVrAlert_memWf {group ns} (hs : s.memWf) : (execVrAlert group ns s).memWf := by
  unfold execVrAlert
  refine Res.memWf_ite (memWf_next hs) ?_
  extract_lets +onlyGivenNames _ s1 _ s2
  have h1 : s1.memWf := injected_memWf hs
  have h2 : s2.memWf := memWf_ite (bump_memWf h1) h1
  refine Res.memWf_ite (memWf_next h2) ?_
  refine memWf_next ?_
  exact monitorAll_memWf (voidWindows_memWf (powerEvent_memWf (logRec_memWf _ _ (enterOpe_memWf (memWf_mk h2)))))

theorem execVrAlertNDeassert_memWf {group} (hs : s.memWf) : (execVrAlertNDeassert group s).memWf :=
  Res.memWf_ite (memWf_next (memWf_mk hs)) (memWf_next hs)

theorem execVrAlertEnd_memWf (hs : s.memWf) : (execVrAlertEnd s).memWf := by
  unfold execVrAlertEnd
  refine Res.memWf_ite (memWf_next hs) ?_
  extract_lets +onlyGivenNames _ _ s1
  have h1 : s1.memWf := powerEvent_memWf (memWf_mk (untilTime_memWf hs))
  exact memWf_next (memWf_ite h1 (retarget_memWf (memWf_mk h1)))

theorem execSupplyWarn_memWf {group} (hs : s.memWf) : (execSupplyWarn group s).memWf := by
  unfold execSupplyWarn
  refine Res.memWf_ite (memWf_next hs) ?_
  refine memWf_next ?_
  refine monitorAll_memWf ?_
  exact blameOpen_memWf (powerEvent_memWf (logRec_memWf _ _ (enterOpe_memWf (memWf_mk (injected_memWf hs)))))

theorem execSupplyReturn_memWf {group} (hs : s.memWf) : (execSupplyReturn group s).memWf :=
  Res.memWf_ite (memWf_next (memWf_mk hs)) (memWf_next hs)

theorem execSupplyHoldEnd_memWf (hs : s.memWf) : (execSupplyHoldEnd s).memWf :=
  Res.memWf_ite (memWf_next hs) (memWf_next (retarget_memWf (untilTime_memWf (memWf_mk hs))))

theorem execSupplyReset_memWf {group} (hs : s.memWf) : (execSupplyReset group s).memWf :=
  Res.memWf_ite (memWf_next hs) (memWf_next coldReset_memWf)

theorem thermalRec_memWf {sev action rdom sensor level inj} (hs : s.memWf) :
    (thermalRec sev action rdom sensor level inj s).memWf :=
  powerEvent_memWf (logRec_memWf _ _ hs)

theorem thermalDown_memWf (hs : s.memWf) : (thermalDown s).memWf :=
  memWf_mk hs

theorem shutDown_memWf {sensor inj} : (shutDown sensor inj s).memWf :=
  (emit_memWf _ _).mpr coldReset_memWf

theorem judgeHeat_memWf {sensor inj} (hs : s.memWf) : (judgeHeat sensor inj s).memWf := by
  unfold judgeHeat
  refine memWf_ite (memWf_ite shutDown_memWf hs) ?_
  extract_lets +onlyGivenNames _ _ s1 _ _
  have h1 : s1.memWf := by
    refine memWf_ite (thermalRec_memWf (thermalDown_memWf (memWf_mk hs))) ?_
    exact memWf_ite (powerEvent_memWf (memWf_mk hs)) hs
  exact retarget_memWf (memWf_mk (memWf_ite (thermalRec_memWf (memWf_mk h1)) h1))

theorem takeReading_memWf {sensor reading} (hs : s.memWf) : (takeReading sensor reading s).2.memWf := by
  unfold takeReading
  extract_lets +onlyGivenNames _ _ _ s1
  have h1 : s1.memWf := memWf_mk (injected_memWf hs)
  split
  · exact memWf_mk h1
  · exact h1

theorem dramHeat_memWf {ch t} (hs : s.memWf) : (dramHeat ch t s).memWf := by
  unfold dramHeat
  extract_lets +onlyGivenNames _ s1
  have h1 : s1.memWf := setChan_memWf hs
  exact memWf_ite (raiseDrift_memWf h1) h1

theorem execThermalSample_memWf {sensor reading} (hs : s.memWf) : (execThermalSample sensor reading s).memWf := by
  unfold execThermalSample
  refine Res.memWf_ite (memWf_next hs) ?_
  exact memWf_next (judgeHeat_memWf (foldl_keeps (fun _ _ ht => dramHeat_memWf ht) (takeReading_memWf hs)))

theorem execDramTemperatureRead_memWf {readings} (hs : s.memWf) : (execDramTemperatureRead readings s).memWf := by
  unfold execDramTemperatureRead
  refine memWf_next ?_
  refine foldl_keeps (fun _ _ ht => ?_) hs
  refine memWf_ite ht ?_
  exact foldl_keeps (fun _ _ ht => judgeHeat_memWf (dramHeat_memWf (takeReading_memWf ht))) ht

theorem execThrottleStep_memWf (hs : s.memWf) : (execThrottleStep s).memWf :=
  Res.memWf_ite (memWf_next (retarget_memWf (thermalDown_memWf (untilTime_memWf hs)))) (memWf_next hs)

theorem execThrottleRise_memWf (hs : s.memWf) : (execThrottleRise s).memWf :=
  Res.memWf_ite (memWf_next hs) (memWf_next (retarget_memWf (memWf_mk (untilTime_memWf hs))))

theorem pldm_memWf {r} (hs : s.memWf) : (pldm r s).memWf := by
  unfold pldm
  refine memWf_ite ((emit_memWf _ _).mpr hs) ?_
  refine memWf_ite hs ?_
  split <;> exact (emit_memWf _ _).mpr hs

theorem execSetNumericEffecterValue_memWf {id value} (hs : s.memWf) : (execSetNumericEffecterValue id value s).memWf :=
  Res.memWf_ite (memWf_next (pldm_memWf hs)) (memWf_next (pldm_memWf (noteFloor_memWf (memWf_mk hs))))

/-! ### The device warm reset (15 R448..R451; 17 R488) -/

theorem flushCaches_memWf (hs : s.memWf) : (flushCaches s).memWf := by
  unfold flushCaches
  extract_lets +onlyGivenNames s0 s1
  have h0 : s0.memWf := foldl_keeps (fun _ _ ht => recallAll_memWf _ _ ht) hs
  have h1 : s1.memWf := foldl_keeps (fun _ _ ht => homeEvict_memWf _ _ ht) h0
  exact memWf_mk ⟨h1.1, memWf_nil⟩

theorem settleMoves_memWf {d sh} (hs : s.memWf) : (settleMoves d sh s).memWf := by
  unfold settleMoves
  refine foldl_keeps (fun _ _ ht => ?_) (foldl_keeps (fun _ _ ht => moveSeat_memWf ht) hs)
  split
  · exact ht
  · exact memWf_ite (planSeat_memWf ht) (setCore_memWf ht)

theorem warmShell_memWf {d} (hs : s.memWf) : (warmShell d s).memWf := by
  unfold warmShell
  split
  · exact hs
  · exact setShell_memWf (memWf_mk (settleMoves_memWf hs))

theorem endAll_memWf (hs : s.memWf) : (endAll s).memWf :=
  memWf_mk (foldl_keeps (fun _ _ ht => endEntries_memWf ht) (endCmds_memWf hs))

theorem dropLinks_memWf (hs : s.memWf) : (dropLinks s).memWf :=
  foldl_keeps (fun _ _ ht => (emit_memWf _ _).mpr (setLink_memWf (memWf_ite (dropLink_memWf ht) ht))) (memWf_mk hs)

theorem warmReset_memWf {inj} (hs : s.memWf) : (warmReset inj s).memWf := by
  unfold warmReset
  generalize Config.sec 3600 = hour
  extract_lets +onlyGivenNames s0 s1 s2 _ _ _ _ _ _ _ _ s3 s4 s5 s6 s7 _ s8
  have h0 : s0.memWf := memWf_ite (setDevState_memWf hs) hs
  clear_value s0
  have h1 : s1.memWf := flushCaches_memWf (endAll_memWf h0)
  clear_value s1
  have h2 : s2.memWf := dropLinks_memWf h1
  clear_value s2
  have h3 : s3.memWf := memWf_mk h2
  clear_value s3
  have h4 : s4.memWf := foldl_keeps (fun _ _ ht => dropShell_memWf ht) h3
  have h5 : s5.memWf := foldl_keeps (fun _ _ ht => endShell_memWf ht) h4
  have h6 : s6.memWf := foldl_keeps (fun _ _ ht => warmShell_memWf ht) h5
  clear_value s6
  have h8 : s8.memWf := logRec_memWf _ _ (rederiveAll_memWf (reapGraphs_memWf h6))
  clear_value s8
  exact memWf_ite h8 (memWf_ite (setDevState_memWf (goOutOfService_memWf (memWf_mk h8))) (memWf_mk h8))

theorem execDeviceWarmReset_memWf (hs : s.memWf) : (execDeviceWarmReset s).memWf := by
  unfold execDeviceWarmReset
  split
  · exact memWf_next hs
  · exact memWf_next (warmReset_memWf hs)

/-! ### Start-up (17 R484..R492) -/

theorem releasePins_memWf (hs : s.memWf) : (releasePins s).memWf :=
  (emits_memWf _ _).mpr hs

theorem execDevResetNAssert_memWf {ns} (hs : s.memWf) : (execDevResetNAssert ns s).memWf :=
  Res.memWf_ite (memWf_next (memWf_ite (bump_memWf hs) hs)) (memWf_next (releasePins_memWf coldReset_memWf))

theorem execPowerGood_memWf (hs : s.memWf) : (execPowerGood s).memWf := by
  unfold execPowerGood
  refine Res.memWf_ite (memWf_next hs) ?_
  extract_lets +onlyGivenNames _ _ _ _ s1
  have h1 : s1.memWf := memWf_mk (memWf_ite ((emit_memWf _ _).mpr (memWf_mk hs)) hs)
  refine Res.memWf_ite (memWf_next h1) ?_
  extract_lets +onlyGivenNames _ s2
  have h2 : s2.memWf := memWf_mk h1
  exact memWf_next (memWf_ite h2 (memWf_mk h2))

theorem execFuseLoad_memWf {fuseOk keelOk badSlices} (hs : s.memWf) :
    (execFuseLoad fuseOk keelOk badSlices s).memWf := by
  unfold execFuseLoad
  refine Res.memWf_ite (memWf_next hs) ?_
  refine Res.memWf_ite (memWf_next (memWf_mk hs)) ?_
  exact Res.memWf_ite (memWf_next (memWf_mk hs)) (memWf_next (memWf_mk hs))

theorem enterLoader_memWf {cause} (hs : s.memWf) : (enterLoader cause s).memWf :=
  setDevState_memWf (memWf_mk hs)

theorem execConfigRead_memWf (hs : s.memWf) : (execConfigRead s).memWf := by
  unfold execConfigRead
  refine Res.memWf_ite (memWf_next hs) ?_
  split
  · exact memWf_next (enterLoader_memWf hs)
  · exact memWf_next (memWf_mk hs)

theorem execImageVerify_memWf {flashOk} (hs : s.memWf) : (execImageVerify flashOk s).memWf := by
  unfold execImageVerify
  refine Res.memWf_ite (memWf_next hs) ?_
  split
  · exact memWf_next (enterLoader_memWf (memWf_mk hs))
  · exact memWf_next (runImage_memWf (memWf_mk hs))

theorem execCoxBoot_memWf (hs : s.memWf) : (execCoxBoot s).memWf :=
  Res.memWf_ite (memWf_next hs) (memWf_next (memWf_mk hs))

theorem execMemoryTraining_memWf {okF okS} (hs : s.memWf) : (execMemoryTraining okF okS s).memWf := by
  unfold execMemoryTraining
  refine Res.memWf_ite (memWf_next hs) ?_
  exact memWf_next (foldl_keeps (fun _ _ ht => setChan_memWf ht) ((emit_memWf _ _).mpr (memWf_mk hs)))

theorem execHardwareFill_memWf (hs : s.memWf) : (execHardwareFill s).memWf :=
  Res.memWf_ite (memWf_next hs) (memWf_next (memWf_mk ⟨memWf_nil, memWf_nil⟩))

theorem execCoreSelfTest_memWf {failed} (hs : s.memWf) : (execCoreSelfTest failed s).memWf := by
  unfold execCoreSelfTest
  refine Res.memWf_ite (memWf_next hs) ?_
  split
  · exact memWf_next (memWf_mk hs)
  rename_i t e
  have h1 : t.memWf := readPatterns_memWf hs e
  exact memWf_next (foldl_keeps (fun _ _ ht => retireCore_memWf (logRec_memWf _ _ ht)) (memWf_mk h1))

theorem blowSvn_memWf (hs : s.memWf) : (blowSvn s).memWf :=
  memWf_ite (memWf_mk hs) hs

theorem checkRoutes_memWf (hs : s.memWf) : (checkRoutes s).memWf :=
  memWf_mk hs

theorem startStrokes_memWf (hs : s.memWf) : (startStrokes s).memWf := by
  unfold startStrokes
  generalize List.range 65 = strokes
  exact powerAdmitted_memWf (admitAll_memWf (foldl_keeps (fun _ _ ht => fixStroke_memWf ht) (memWf_mk hs)))

theorem releaseState_memWf (hs : s.memWf) : (releaseState s).memWf :=
  memWf_ite (setDevState_memWf hs) (memWf_ite (goOutOfService_memWf hs) (setDevState_memWf hs))

theorem execRelease_memWf (hs : s.memWf) : (execRelease s).memWf := by
  unfold execRelease
  refine Res.memWf_ite (memWf_next hs) ?_
  extract_lets +onlyGivenNames _ _ _ s1 _ _
  have h1 : s1.memWf := memWf_mk (checkRoutes_memWf (blowSvn_memWf hs))
  refine memWf_next ?_
  refine serveWaiting_memWf ?_
  exact releaseState_memWf (startStrokes_memWf (memWf_ite h1 (enterOpe_memWf (memWf_mk h1))))

/-! ### Attestation, firmware, recovery and DEBUG commands (17 R497..R502) -/

theorem execAttestQuote_memWf {m} (hs : s.memWf) : (execAttestQuote m s).memWf :=
  onReq_memWf hs (fun _ => memWf_ite (respond_memWf hs) (memWf_ite (respond_memWf hs) (respondBytes_memWf hs)))

theorem execAttestCert_memWf {m} (hs : s.memWf) : (execAttestCert m s).memWf :=
  onReq_memWf hs (fun _ => memWf_ite (respond_memWf hs) (respondBytes_memWf hs))

theorem execFirmwareWrite_memWf {m flashOk} (hs : s.memWf) : (execFirmwareWrite m flashOk s).memWf := by
  unfold execFirmwareWrite
  refine onReq_memWf hs (fun _ => ?_)
  refine memWf_ite (respond_memWf hs) ?_
  extract_lets +onlyGivenNames _ s1 _ s2
  have h1 : s1.memWf := memWf_ite (memWf_mk hs) hs
  have h2 : s2.memWf := memWf_ite (memWf_mk h1) h1
  exact memWf_ite (respond_memWf h2) (respond_memWf (memWf_mk h2))

theorem execFirmwareVerify_memWf {m} (hs : s.memWf) : (execFirmwareVerify m s).memWf := by
  unfold execFirmwareVerify
  refine onReq_memWf hs (fun _ => ?_)
  split <;> exact respond_memWf (memWf_mk hs)

theorem persistImage_memWf {len} (hs : s.memWf) : (persistImage len s).memWf :=
  memWf_mk hs

theorem execRecoveryLoad_memWf {m flashOk} (hs : s.memWf) : (execRecoveryLoad m flashOk s).memWf := by
  unfold execRecoveryLoad
  refine onReq_memWf hs (fun _ => ?_)
  refine memWf_ite (respond_memWf hs) ?_
  extract_lets +onlyGivenNames _ s1
  have h1 : s1.memWf := memWf_mk hs
  refine memWf_ite (respond_memWf h1) ?_
  split
  · exact respond_memWf (memWf_mk h1)
  refine setDevState_memWf ?_
  refine runImage_memWf ?_
  exact memWf_mk (respond_memWf (memWf_ite (persistImage_memWf h1) (memWf_ite (memWf_mk h1) h1)))

theorem execDebugRead_memWf {m} (hs : s.memWf) : (execDebugRead m s).memWf := by
  unfold execDebugRead
  refine onReq_memWf hs (fun _ => ?_)
  extract_lets +onlyGivenNames _ _ s1 _
  have h1 : s1.memWf := respond_memWf hs
  refine memWf_ite (respond_memWf hs) ?_
  refine memWf_ite (memWf_ite (respond_memWf hs) h1) ?_
  refine memWf_ite (memWf_ite (respondBytes_memWf hs) h1) ?_
  refine memWf_ite (memWf_ite (respond_memWf hs) h1) ?_
  split
  · exact h1
  refine memWf_ite (memWf_ite (respond_memWf hs) h1) ?_
  refine memWf_ite ?_ ?_
  · split
    · exact h1
    · exact respondBytes_memWf hs
  exact memWf_ite (respond_memWf hs) h1

theorem execDebugAttr_memWf {m} (hs : s.memWf) : (execDebugAttr m s).memWf := by
  unfold execDebugAttr
  refine onReq_memWf hs (fun _ => ?_)
  split
  · exact respond_memWf hs
  · exact respond_memWf (setShell_memWf hs)

/-! ### GRAPH commands (13 R385..R391) -/

theorem enterGraph_memWf {d h g} (hs : s.memWf) : (enterGraph d h g s).memWf := by
  unfold enterGraph
  extract_lets +onlyGivenNames s1
  have h1 : s1.memWf := memWf_mk hs
  split
  · exact h1
  split
  · exact memWf_mk h1
  · exact h1

theorem registerDesc_memWf {r d pick sh de} (hs : s.memWf) : (registerDesc r d pick sh de s).memWf := by
  unfold registerDesc
  refine memWf_ite (respond_memWf hs) ?_
  extract_lets +onlyGivenNames _ _ _
  split
  · exact refuse_memWf hs
  refine memWf_ite (refuse_memWf hs) ?_
  refine memWf_ite (refuse_memWf hs) ?_
  refine memWf_ite (respond_memWf hs) ?_
  split
  · exact respond_memWf hs
  · exact respond_memWf (enterGraph_memWf hs)

theorem execGraphRegister_memWf {m pick} (hs : s.memWf) : (execGraphRegister m pick s).memWf := by
  unfold execGraphRegister
  refine onReq_memWf hs (fun _ => ?_)
  extract_lets +onlyGivenNames _ _
  split
  · exact respond_memWf hs
  refine memWf_ite (respond_memWf hs) ?_
  extract_lets +onlyGivenNames _
  split
  · exact respond_memWf (coxRead_memWf hs)
  extract_lets +onlyGivenNames _
  split
  · exact refuse_memWf (coxRead_memWf hs)
  extract_lets +onlyGivenNames _
  split
  · exact respond_memWf (coxRead_memWf (coxRead_memWf hs))
  · exact registerDesc_memWf (coxRead_memWf (coxRead_memWf hs))

theorem execGraphUnregister_memWf {src} (hs : s.memWf) : (execGraphUnregister src s).memWf := by
  unfold execGraphUnregister
  refine onReq_memWf hs (fun _ => ?_)
  extract_lets +onlyGivenNames _ _
  split
  · exact respond_memWf hs
  · exact memWf_ite (respond_memWf hs) (respond_memWf (unregister_memWf hs))

theorem execGraphRun_memWf {q} (hs : s.memWf) : (execGraphRun q s).memWf := by
  unfold execGraphRun
  split
  · exact memWf_next hs
  extract_lets +onlyGivenNames _
  split
  · exact memWf_next (respond_memWf hs)
  · exact memWf_next (schedule_memWf (dispatchFront_memWf (popEntry_memWf (setCmd_memWf (memWf_mk hs)))))

theorem unpark_memWf {n core slot r c} (hs : s.memWf) : (unpark n core slot r c s).memWf := by
  unfold unpark
  extract_lets +onlyGivenNames _ _ _ s1
  have h1 : s1.memWf := by
    unfold s1
    refine foldl_keeps (fun _ _ ht => ?_) ?_
    · split
      · exact memWf_ite (holdSeat_memWf ht) ht
      · exact ht
    exact setCmd_memWf (spadWrite_memWf _ _ _ _ (memWf_mk hs))
  exact foldl_keeps (fun _ _ ht => wakeCtrs_memWf ht) h1

theorem endParked_memWf {n core slot r} (hs : s.memWf) : (endParked n core slot r s).memWf :=
  finishWith_memWf hs

theorem execGraphResume_memWf {src} (hs : s.memWf) : (execGraphResume src s).memWf := by
  unfold execGraphResume
  refine onReq_memWf hs (fun _ => ?_)
  extract_lets +onlyGivenNames _
  split
  · exact respond_memWf hs
  refine memWf_ite (respond_memWf hs) ?_
  split
  · exact respond_memWf hs
  split
  · exact respond_memWf hs
  refine memWf_ite (respond_memWf (schedule_memWf (unpark_memWf hs))) ?_
  exact respond_memWf (schedule_memWf (endParked_memWf hs))

theorem execGraphQuery_memWf {m} (hs : s.memWf) : (execGraphQuery m s).memWf := by
  unfold execGraphQuery
  refine onReq_memWf hs (fun _ => ?_)
  split
  · exact respond_memWf hs
  · exact memWf_ite (respond_memWf hs) (respond_memWf hs)

/-! ### Management ways into the device (17 R500, R506..R508) -/

theorem setSpdm_memWf {smbus p} (hs : s.memWf) : (setSpdm smbus p s).memWf :=
  memWf_mk hs

theorem spdmSay_memWf {smbus code bytes} (hs : s.memWf) : (spdmSay smbus code bytes s).memWf :=
  (emit_memWf _ _).mpr hs

theorem spdmError_memWf {smbus code} (hs : s.memWf) : (spdmError smbus code s).memWf :=
  spdmSay_memWf hs

theorem spdmServe_memWf {smbus ready f} (hs : s.memWf) (hf : ∀ t, t.memWf → (f t).memWf) :
    (spdmServe smbus ready s f).memWf := by
  unfold spdmServe
  refine Res.memWf_ite (memWf_next hs) ?_
  refine Res.memWf_ite (memWf_next (spdmError_memWf hs)) ?_
  refine Res.memWf_ite (memWf_next (spdmError_memWf hs)) ?_
  exact Res.memWf_ite (memWf_next (spdmError_memWf hs)) (memWf_next (hf _ hs))

theorem execGetCertificate_memWf {smbus slot offset len} (hs : s.memWf) :
    (execGetCertificate smbus slot offset len s).memWf :=
  spdmServe_memWf hs (fun _ ht => memWf_ite (spdmError_memWf ht) (spdmSay_memWf ht))

theorem execChallenge_memWf {smbus slot nonce} (hs : s.memWf) : (execChallenge smbus slot nonce s).memWf :=
  spdmServe_memWf hs (fun _ ht => memWf_ite (spdmError_memWf ht) (spdmSay_memWf ht))

theorem execGetMeasurements_memWf {smbus index signed nonce} (hs : s.memWf) :
    (execGetMeasurements smbus index signed nonce s).memWf :=
  spdmServe_memWf hs (fun _ ht => memWf_ite (spdmError_memWf ht) (spdmSay_memWf ht))

theorem stOk_memWf {cmd words} (hs : s.memWf) : (stOk cmd words s).memWf :=
  (emit_memWf _ _).mpr hs

theorem stErr_memWf {cmd status} (hs : s.memWf) : (stErr cmd status s).memWf :=
  (emit_memWf _ _).mpr hs

theorem stCmd_memWf {cmd level anywhere f} (hs : s.memWf) (hf : ∀ t, t.memWf → (f t).memWf) :
    (stCmd cmd level anywhere s f).memWf := by
  unfold stCmd
  refine Res.memWf_ite (memWf_next hs) (memWf_next ?_)
  refine memWf_ite (stErr_memWf ?_) (hf _ ?_)
  all_goals exact memWf_mk (memWf_ite (memWf_mk hs) hs)

theorem execStBaud_memWf {code} (hs : s.memWf) : (execStBaud code s).memWf :=
  stCmd_memWf hs (fun _ ht => memWf_ite (stErr_memWf ht) (memWf_mk (stOk_memWf ht)))

theorem execStUnlock_memWf {level rnd} (hs : s.memWf) : (execStUnlock level rnd s).memWf := by
  unfold execStUnlock
  refine stCmd_memWf hs (fun _ ht => ?_)
  refine memWf_ite (stErr_memWf ht) ?_
  refine memWf_ite (stErr_memWf ht) ?_
  exact memWf_ite (stErr_memWf ht) (stOk_memWf (memWf_mk ht))

theorem execStProve_memWf {proof} (hs : s.memWf) : (execStProve proof s).memWf := by
  unfold execStProve
  refine stCmd_memWf hs (fun _ ht => ?_)
  split
  · exact stErr_memWf ht
  extract_lets +onlyGivenNames _ s1
  have h1 : s1.memWf := memWf_mk ht
  refine memWf_ite (stErr_memWf h1) ?_
  refine memWf_ite (stOk_memWf (memWf_mk h1)) ?_
  exact stErr_memWf (memWf_ite (logRec_memWf _ _ (memWf_mk h1)) (memWf_mk h1))

theorem execStLevelTimeout_memWf (hs : s.memWf) : (execStLevelTimeout s).memWf :=
  Res.memWf_ite (memWf_next hs) (memWf_next (memWf_mk (untilTime_memWf hs)))

theorem execStLog_memWf {first n} (hs : s.memWf) : (execStLog first n s).memWf :=
  stCmd_memWf hs (fun _ ht => memWf_ite (stErr_memWf ht) (stOk_memWf ht))

theorem writeBoard_memWf {f} (hs : s.memWf) : (writeBoard f s).memWf :=
  memWf_ite (memWf_mk hs) (memWf_mk hs)

theorem execStCfgSet_memWf {field value} (hs : s.memWf) : (execStCfgSet field value s).memWf := by
  unfold execStCfgSet
  refine stCmd_memWf hs (fun _ ht => ?_)
  split
  · exact stErr_memWf ht
  · exact memWf_ite (stErr_memWf ht) (stOk_memWf (writeBoard_memWf ht))

theorem execStCfgRoute_memWf {index entry} (hs : s.memWf) : (execStCfgRoute index entry s).memWf :=
  stCmd_memWf hs (fun _ ht => memWf_ite (stErr_memWf ht) (stOk_memWf (writeBoard_memWf ht)))

theorem execStDebugOpen_memWf (hs : s.memWf) : (execStDebugOpen s).memWf := by
  unfold execStDebugOpen
  refine stCmd_memWf hs (fun _ ht => ?_)
  refine memWf_ite (stErr_memWf ht) ?_
  exact stOk_memWf (logRec_memWf _ _ (memWf_mk (foldl_keeps (fun _ _ ht => removeTenant_memWf ht) ht)))

theorem tapHold_memWf {t} (hs : s.memWf) : (tapHold t s).memWf :=
  memWf_ite (releasePins_memWf coldReset_memWf) (memWf_mk hs)

theorem execJtagInstructionLoad_memWf (hs : s.memWf) : (execJtagInstructionLoad s).memWf := by
  unfold execJtagInstructionLoad
  refine Res.memWf_ite (memWf_next hs) ?_
  extract_lets +onlyGivenNames _ s1
  have h1 : s1.memWf := memWf_mk hs
  refine Res.memWf_ite (memWf_next h1) ?_
  extract_lets +onlyGivenNames _ s2
  have h2 : s2.memWf := memWf_mk h1
  exact memWf_next (memWf_ite h2 (memWf_mk h2))

theorem execJtagPrivateAccess_memWf {op addr bytes} (hs : s.memWf) : (execJtagPrivateAccess op addr bytes s).memWf := by
  unfold execJtagPrivateAccess
  refine Res.memWf_ite (memWf_next hs) ?_
  refine Res.memWf_ite (memWf_next (memWf_mk hs)) ?_
  refine Res.memWf_ite (memWf_next (bump_memWf ((emit_memWf _ _).mpr (memWf_mk hs)))) ?_
  exact Res.memWf_ite (memWf_next (memWf_mk hs)) (memWf_next hs)

/-! ### Stations that move, rearrange and map data (03 R87, R88, R112, R132, R539) -/

theorem intake_memWf {survey ext r} (hs : s.memWf) : (intake survey ext r s).memWf := by
  unfold intake
  split
  · refine memWf_ite hs ?_
    refine memWf_ite (repFault_memWf (readTile_memWf hs)) ?_
    extract_lets +onlyGivenNames s1 _ _
    have h1 : s1.memWf := freeSlot_memWf (readTile_memWf hs)
    refine memWf_ite (repFault_memWf (writeTile_memWf h1)) ?_
    exact repEnd_memWf (memWf_ite (setRun_memWf (writeTile_memWf h1)) (writeTile_memWf h1))
  · exact hs

theorem execPondSlotFilled_memWf {cmd pond} (hs : s.memWf) : (execPondSlotFilled cmd pond s).memWf := by
  unfold execPondSlotFilled
  split
  · exact memWf_next hs
  split
  · exact memWf_next hs
  extract_lets +onlyGivenNames _ _
  split
  · exact memWf_next hs
  · exact memWf_next (setRun_memWf hs)

theorem gatherRow_memWf {r t a x} (hx : x.st.memWf) : (gatherRow r t a x).1.st.memWf :=
  foldl_keeps_of RdAcc.st (fun _ _ ht => readSpan_memWf ht) hx

theorem gatherAll_memWf {r t limit offs es ext} (hs : s.memWf) : (gatherAll r t limit offs es ext s).2.st.memWf := by
  unfold gatherAll
  refine foldl_keeps_of (fun x : List GRow × RdAcc => x.2.st) (fun _ _ ht => ?_) hs
  split
  · exact ht
  refine memWf_ite_of (fun x : List GRow × RdAcc => x.2.st) ht ?_
  exact memWf_ite_of (fun x : List GRow × RdAcc => x.2.st) ht (gatherRow_memWf ht)

theorem gather_memWf {index offs ext r} (hs : s.memWf) : (gather index offs ext r s).memWf := by
  unfold gather
  split
  · refine memWf_ite (repFault_memWf (readHere_memWf hs)) ?_
    refine memWf_ite hs ?_
    refine memWf_ite (repFault_memWf (gatherAll_memWf (readHere_memWf hs))) ?_
    refine memWf_ite (repFault_memWf (writeTile_memWf (takeFree_memWf (gatherAll_memWf (readHere_memWf hs))))) ?_
    exact repEnd_memWf (writeTile_memWf (takeFree_memWf (gatherAll_memWf (readHere_memWf hs))))
  · exact hs

theorem shape_memWf {src pad r} (hs : s.memWf) : (shape src pad r s).memWf := by
  unfold shape
  split
  · refine memWf_ite (repFault_memWf (readHere_memWf hs)) ?_
    extract_lets +onlyGivenNames _ _ _ s1 _
    have h1 : s1.memWf := takeFree_memWf (freeSlot_memWf (readHere_memWf hs))
    refine memWf_ite (repFault_memWf (writeTile_memWf h1)) ?_
    exact repEnd_memWf (writeTile_memWf h1)
  · exact hs

theorem execVectorMap_memWf {core} (hs : s.memWf) : (execVectorMap core s).memWf := by
  unfold execVectorMap
  refine onNode_memWf hs (fun _ _ ht => ?_)
  extract_lets +onlyGivenNames _ _
  split
  · refine memWf_ite (repFault_memWf (readHere_memWf ht)) ?_
    refine memWf_ite ?_ ?_
    · exact repFault_memWf (memWf_ite_of Prod.snd (readHere_memWf (readHere_memWf ht)) (readHere_memWf ht))
    extract_lets +onlyGivenNames _ s1 _
    have h1 : s1.memWf := by
      refine memWf_ite (freeSlot_memWf (freeSlot_memWf ?_)) (freeSlot_memWf ?_)
      all_goals exact memWf_ite_of Prod.snd (readHere_memWf (readHere_memWf ht)) (readHere_memWf ht)
    refine memWf_ite (repFault_memWf (writeTile_memWf h1)) ?_
    exact repEnd_memWf (writeTile_memWf h1)
  · exact ht

theorem execVectorRowred_memWf {core} (hs : s.memWf) : (execVectorRowred core s).memWf := by
  unfold execVectorRowred
  refine onNode_memWf hs (fun _ _ ht => ?_)
  split
  · refine memWf_ite (repFault_memWf (readHere_memWf ht)) ?_
    refine memWf_ite (repFault_memWf (writeTile_memWf (freeSlot_memWf (readHere_memWf ht)))) ?_
    exact repEnd_memWf (writeTile_memWf (freeSlot_memWf (readHere_memWf ht)))
  · exact ht

theorem softMid_memWf {r p} (hs : s.memWf) : (softMid r p s).memWf := by
  unfold softMid
  refine setPart_memWf ?_
  refine foldl_keeps (fun _ _ ht => freeSlot_memWf ht) ?_
  exact foldl_keeps (fun _ _ ht => foldl_keeps_of Prod.snd (fun _ _ ht => writeSpan_memWf ht) ht) hs

theorem softRun_memWf {r n} (hs : s.memWf) : (softRun r n s).memWf := by
  induction n generalizing s with
  | zero => exact hs
  | succ n ih =>
    unfold softRun
    refine memWf_ite ?_ ?_
    · split
      · exact hs
      refine memWf_ite (repFault_memWf (readHere_memWf hs)) ?_
      extract_lets +onlyGivenNames _ _ s1
      have h1 : s1.memWf := by
        refine addPart_memWf (setPart_memWf ?_)
        exact memWf_ite (readHere_memWf hs) (freeSlot_memWf (readHere_memWf hs))
      exact ih (memWf_ite (softMid_memWf h1) h1)
    split
    · exact hs
    refine memWf_ite (repFault_memWf (writeTile_memWf hs)) ?_
    refine memWf_ite (repEnd_memWf (writeTile_memWf hs)) ?_
    exact ih (addPart_memWf (setPart_memWf (writeTile_memWf hs)))

/-! ### Matrix, Reduce and Outlet (04 R113..R124; 05 R139..R149) -/

theorem setAcc_memWf {r p a} (hs : s.memWf) : (setAcc r p a s).memWf :=
  setRun_memWf hs

theorem mmaRun_memWf {r n} (hs : s.memWf) : (mmaRun r n s).memWf := by
  induction n generalizing s with
  | zero => exact hs
  | succ n ih =>
    unfold mmaRun
    extract_lets +onlyGivenNames _ _ _ _ _ _
    split
    · extract_lets +onlyGivenNames _ _ slot
      clear_value slot
      split
      · exact hs
      refine memWf_ite (repFault_memWf (readHere_memWf hs)) ?_
      refine memWf_ite (repFault_memWf (readHere_memWf (readHere_memWf hs))) ?_
      extract_lets +onlyGivenNames _ _ s1
      have h1 : s1.memWf := freeSlot_memWf (freeSlot_memWf (readHere_memWf (readHere_memWf hs)))
      exact memWf_ite (ih (addPart_memWf (setAcc_memWf h1))) (repEnd_memWf (setAcc_memWf h1))
    · exact hs

theorem addxRun_memWf {r n} (hs : s.memWf) : (addxRun r n s).memWf := by
  induction n generalizing s with
  | zero => exact hs
  | succ n ih =>
    unfold addxRun
    extract_lets +onlyGivenNames _ _ _ _ _
    split
    · exact hs
    extract_lets +onlyGivenNames _ slot
    clear_value slot
    split
    · exact hs
    refine memWf_ite (repFault_memWf (readHere_memWf hs)) ?_
    extract_lets +onlyGivenNames _ _ s1
    have h1 : s1.memWf := freeSlot_memWf (readHere_memWf hs)
    exact memWf_ite (ih (addPart_memWf (setAcc_memWf h1))) (repEnd_memWf (setAcc_memWf h1))

theorem logicRun_memWf {r n} (hs : s.memWf) : (logicRun r n s).memWf := by
  induction n generalizing s with
  | zero => exact hs
  | succ n ih =>
    unfold logicRun
    split
    · refine memWf_ite (repFault_memWf (readHere_memWf hs)) ?_
      extract_lets +onlyGivenNames _ _ _ s1
      have h1 : s1.memWf := freeSlot_memWf (readHere_memWf hs)
      refine memWf_ite (ih (addPart_memWf (setPart_memWf h1))) ?_
      refine memWf_ite (repFault_memWf (writeTile_memWf h1)) ?_
      exact repEnd_memWf (writeStatus_memWf (writeTile_memWf h1))
    · exact hs

theorem outEnd_memWf {r dst rows scales idx ecc anchor st} (hs : s.memWf) :
    (outEnd r dst rows scales idx ecc anchor st s).memWf := by
  unfold outEnd
  refine memWf_ite (repFault_memWf (writeTile_memWf hs)) ?_
  exact repEnd_memWf (openSample_memWf (setRun_memWf (writeStatus_memWf (writeTile_memWf hs))))

theorem execOutletConvert_memWf {core} (hs : s.memWf) : (execOutletConvert core s).memWf := by
  unfold execOutletConvert
  refine onNode_memWf hs (fun _ _ ht => ?_)
  split
  · exact outEnd_memWf ht
  · exact ht

theorem execOutletFused_memWf {core} (hs : s.memWf) : (execOutletFused core s).memWf := by
  unfold execOutletFused
  refine onNode_memWf hs (fun _ _ ht => ?_)
  split
  · refine memWf_ite (repFault_memWf (readHere_memWf ht)) ?_
    exact outEnd_memWf (freeSlot_memWf (readHere_memWf ht))
  · exact ht

theorem execOutletExport_memWf {core} (hs : s.memWf) : (execOutletExport core s).memWf := by
  unfold execOutletExport
  refine onNode_memWf hs (fun _ _ ht => ?_)
  split
  · exact outEnd_memWf ht
  · exact ht

/-! ### Control flow, barriers and steering of thread groups (06 R157..R174; 07 R203..R211) -/

theorem execBra_memWf {i target reconv} (hs : s.memWf) : (execBra i target reconv s).memWf := by
  unfold execBra
  split
  · exact memWf_next hs
  refine Res.memWf_ite (memWf_next (setIssued_memWf hs)) ?_
  split
  · exact memWf_next (parkAt_memWf hs)
  refine Res.memWf_ite (memWf_next (setIssued_memWf hs)) ?_
  exact Res.memWf_ite (memWf_next (parkAt_memWf hs)) (memWf_next (setIssued_memWf hs))

theorem execBri_memWf {i r reconv} (hs : s.memWf) : (execBri i r reconv s).memWf := by
  unfold execBri
  split
  · exact memWf_next hs
  refine Res.memWf_ite (memWf_next (parkAt_memWf hs)) ?_
  split
  · exact memWf_next (parkAt_memWf hs)
  · exact memWf_next (setIssued_memWf hs)

theorem execCall_memWf {i target} (hs : s.memWf) : (execCall i target s).memWf := by
  unfold execCall
  split
  · exact memWf_next hs
  split
  · exact memWf_next hs
  · exact Res.memWf_ite (memWf_next (parkAt_memWf hs)) (memWf_next (setIssued_memWf hs))

theorem execRet_memWf {i} (hs : s.memWf) : (execRet i s).memWf := by
  unfold execRet
  split
  · exact memWf_next hs
  split
  · exact memWf_next hs
  split
  · exact memWf_next (parkAt_memWf hs)
  · exact memWf_next (setIssued_memWf hs)

theorem execExitT_memWf {i} (hs : s.memWf) : (execExitT i s).memWf := by
  unfold execExitT
  split
  · exact memWf_next hs
  split
  · exact memWf_next hs
  refine Res.memWf_ite (memWf_next (endGroup_memWf (barrierCheck_memWf (setIssued_memWf hs)))) ?_
  exact memWf_next (barrierCheck_memWf (setIssued_memWf hs))

theorem execSpin_memWf {i} (hs : s.memWf) : (execSpin i s).memWf := by
  unfold execSpin
  split
  · exact memWf_next hs
  refine Res.memWf_ite (memWf_next (setIssued_memWf hs)) ?_
  refine Res.memWf_ite (memWf_next (setIssued_memWf hs)) ?_
  refine Res.memWf_ite (memWf_next (setIssued_memWf hs)) ?_
  exact memWf_next (setIssued_memWf hs)

theorem execPathSwitchCount_memWf {core slot} (hs : s.memWf) : (execPathSwitchCount core slot s).memWf := by
  unfold execPathSwitchCount
  split
  · exact memWf_next hs
  · exact Res.memWf_ite (memWf_next hs) (memWf_next ((setGroup_memWf _ _ _ _).mpr hs))

theorem execSpinIdleEnd_memWf {core slot} (hs : s.memWf) : (execSpinIdleEnd core slot s).memWf := by
  unfold execSpinIdleEnd
  split
  · exact memWf_next hs
  · exact memWf_next ((setGroup_memWf _ _ _ _).mpr hs)

theorem execStallTrap_memWf {core slot} (hs : s.memWf) : (execStallTrap core slot s).memWf := by
  unfold execStallTrap
  split
  · exact memWf_next hs
  refine Res.memWf_ite (memWf_next hs) ?_
  exact memWf_next (park_memWf (logRec_memWf _ _ (takeInj_memWf hs)))

theorem waitAt_memWf {i w g} (hs : s.memWf) : (waitAt i w g s).memWf := by
  unfold waitAt
  split
  · exact memWf_next hs
  · exact memWf_next (barrierCheck_memWf (setIssued_memWf hs))

theorem execBarG_memWf {i} (hs : s.memWf) : (execBarG i s).memWf := by
  unfold execBarG
  split
  · exact memWf_next hs
  refine Res.memWf_ite (memWf_next (setIssued_memWf hs)) ?_
  exact Res.memWf_ite (memWf_next hs) (waitAt_memWf hs)

theorem execBarB_memWf {i b n} (hs : s.memWf) : (execBarB i b n s).memWf := by
  unfold execBarB
  split
  · exact memWf_next hs
  refine Res.memWf_ite (memWf_next (setIssued_memWf hs)) ?_
  exact Res.memWf_ite (memWf_next hs) (waitAt_memWf hs)

theorem execStPatch_memWf {i a node field} (hs : s.memWf) : (execStPatch i a node field s).memWf := by
  unfold execStPatch
  split
  · exact memWf_next hs
  extract_lets +onlyGivenNames _ s1
  have h1 : s1.memWf := setIssued_memWf hs
  refine Res.memWf_ite (memWf_next h1) ?_
  split
  · exact memWf_next hs
  split
  · exact Res.memWf_ite (memWf_next (setCmd_memWf h1)) (memWf_next (parkAt_memWf hs))
  · exact memWf_next (parkAt_memWf hs)

theorem execStSkip_memWf {i st} (hs : s.memWf) : (execStSkip i st s).memWf := by
  unfold execStSkip
  split
  · exact memWf_next hs
  extract_lets +onlyGivenNames s1
  have h1 : s1.memWf := setIssued_memWf hs
  refine Res.memWf_ite (memWf_next h1) ?_
  split
  · exact memWf_next hs
  · exact Res.memWf_ite (memWf_next (parkAt_memWf hs)) (memWf_next (setCmd_memWf h1))

theorem execBkpt_memWf {i code} (hs : s.memWf) : (execBkpt i code s).memWf := by
  unfold execBkpt
  split
  · exact memWf_next hs
  · exact Res.memWf_ite (memWf_next (setIssued_memWf hs)) (memWf_next (parkAt_memWf hs))

/-! ### RDSPEC (07 R210) -/

theorem execRdspec_memWf {i d which} (hs : s.memWf) : (execRdspec i d which s).memWf :=
  Res.memWf_ite (memWf_next hs) (regOp_memWf (bump_memWf hs))

/-! ### Every command and every step -/

theorem exec_memWf {i : Instr} (hs : s.memWf) : Res.memWf (exec i s) := by
  unfold exec
  cases i with
  | catchBegin => exact execCatchBegin_memWf hs
  | driveBegin => exact execDriveBegin_memWf hs
  | finishInstant => exact execFinishInstant_memWf hs
  | recoveryBegin => exact execRecoveryBegin_memWf hs
  | contextRestore => exact execContextRestore_memWf hs
  | calibrationEnd => exact execCalibrationEnd_memWf hs
  | fallbackStart => exact execFallbackStart_memWf hs
  | seatStop => exact execSeatStop_memWf hs
  | stepBarrier => exact execStepBarrier_memWf hs
  | segmentLaunch => exact execSegmentLaunch_memWf hs
  | intakeCopy | intakeSurvey => exact onNode_memWf hs (fun _ _ ht => intake_memWf ht)
  | gatherRows | gatherPaged => exact onNode_memWf hs (fun _ _ ht => gather_memWf ht)
  | matrixMma => exact onNode_memWf hs (fun _ _ ht => mmaRun_memWf ht)
  | vectorMap => exact execVectorMap_memWf hs
  | vectorRowred => exact execVectorRowred_memWf hs
  | vectorSoftmax => exact onNode_memWf hs (fun _ _ ht => softRun_memWf ht)
  | reduceAddx => exact onNode_memWf hs (fun _ _ ht => addxRun_memWf ht)
  | reduceLogic => exact onNode_memWf hs (fun _ _ ht => logicRun_memWf ht)
  | shapeTranspose | shapeReshape | shapeBroadcast | shapePad => exact onNode_memWf hs (fun _ _ ht => shape_memWf ht)
  | outletConvert => exact execOutletConvert_memWf hs
  | outletFused => exact execOutletFused_memWf hs
  | outletExport => exact execOutletExport_memWf hs
  | pondSlotFilled => exact execPondSlotFilled_memWf hs
  | nop | iadd64 | selP | lvote | xlane | vf | rngP => exact regOp_memWf hs
  | iadd | isub | imul | imulhs | imulhu | imin | imax | umin | umax | andR | orR | xorR | shl | shr | sar => exact alu2_memWf hs
  | imacc => exact alu3_memWf hs
  | bcnt | clz | mov | movi | iaddi | andi | ori | xori | shli | shri | sari | ctrRd => exact alu1_memWf hs
  | icmp | icmpi | pcomb | fcmp => exact predOp_memWf hs
  | ld => exact execLd_memWf hs
  | st => exact execSt_memWf hs
  | atom | addxI | addxF => exact atomic_memWf hs
  | barG => exact execBarG_memWf hs
  | barB => exact execBarB_memWf hs
  | memfence => exact execMemfence_memWf hs
  | cpAsync => exact execCpAsync_memWf hs
  | ctrSet => exact execCtrSet_memWf hs
  | ctrWait => exact execCtrWait_memWf hs
  | stPatch => exact execStPatch_memWf hs
  | stSkip => exact execStSkip_memWf hs
  | bra => exact execBra_memWf hs
  | bri => exact execBri_memWf hs
  | call => exact execCall_memWf hs
  | ret => exact execRet_memWf hs
  | exitT => exact execExitT_memWf hs
  | spin => exact execSpin_memWf hs
  | rdspec => exact execRdspec_memWf hs
  | bkpt => exact execBkpt_memWf hs
  | pathSwitchCount => exact execPathSwitchCount_memWf hs
  | spinIdleEnd => exact execSpinIdleEnd_memWf hs
  | stallTrap => exact execStallTrap_memWf hs
  | accessResponse => exact execAccessResponse_memWf hs
  | copySectorDone => exact execCopySectorDone_memWf hs
  | rds | own => exact issue_memWf (hostMiss_memWf hs)
  | rdn | push => exact issue_memWf hs
  | wb => exact execWb_memWf hs
  | evict => exact execEvict_memWf hs
  | directRead => exact execDirectRead_memWf hs
  | directWrite => exact execDirectWrite_memWf hs
  | data => exact execData_memWf hs
  | grant => exact execGrant_memWf hs
  | pushreq => exact execPushreq_memWf hs
  | snpinv => exact execSnpinv_memWf hs
  | snpshr => exact execSnpshr_memWf hs
  | snpcur => exact execSnpcur_memWf hs
  | snpfwd => exact execSnpfwd_memWf hs
  | snoopResponse => exact execSnoopResponse_memWf hs
  | grantack => exact execGrantack_memWf hs
  | wback => exact execWback_memWf hs
  | pushack => exact execPushack_memWf hs
  | coherenceError => exact execCoherenceError_memWf hs
  | atomicUnitOp => exact execAtomicUnitOp_memWf hs
  | dramReadReturn => exact execDramReadReturn_memWf hs
  | readMergeWrite => exact execReadMergeWrite_memWf hs
  | memTransferRetry => exact execMemTransferRetry_memWf hs
  | scrub => exact execScrub_memWf hs
  | cacheScrub => exact execCacheScrub_memWf hs
  | mirrorLineCopy => exact execMirrorLineCopy_memWf hs
  | channelClearDone => exact execChannelClearDone_memWf hs
  | wayClean => exact execWayClean_memWf hs
  | substitutionCopyDone => exact execSubstitutionCopyDone_memWf hs
  | rebindDrainDone => exact execRebindDrainDone_memWf hs
  | seatMoveDone => exact execSeatMoveDone_memWf hs
  | rebindComplete => exact execRebindComplete_memWf hs
  | forcedDrain => exact execForcedDrain_memWf hs
  | handoverTimeout => exact execHandoverTimeout_memWf hs
  | bar4Read => exact execBar4Read_memWf hs
  | bar4Write => exact execBar4Write_memWf hs
  | barBadAccess => exact execBarBadAccess_memWf hs
  | registerWrite => exact execRegisterWrite_memWf hs
  | ridCheckSet => exact execRidCheckSet_memWf hs
  | hostResume => exact execHostResume_memWf hs
  | hostAbandon => exact execHostAbandon_memWf hs
  | mbxGo => exact execMbxGo_memWf hs
  | sqDoorbell => exact execSqDoorbell_memWf hs
  | cqDoorbell => exact execCqDoorbell_memWf hs
  | sqEntryFetch => exact execSqEntryFetch_memWf hs
  | sqEntryReread => exact execSqEntryReread_memWf hs
  | completionWrite => exact execCompletionWrite_memWf hs
  | parkReportWrite => exact execParkReportWrite_memWf hs
  | msixHoldExpiry => exact execMsixHoldExpiry_memWf hs
  | msixUnmask => exact memWf_next (sendPending_memWf (setVec_memWf hs))
  | hostLoss => exact execHostLoss_memWf hs
  | pcieLinkRetrain => exact memWf_next hs
  | pcieCompletionTimeout => exact execPcieCompletionTimeout_memWf hs
  | ownerClaim => exact execOwnerClaim_memWf hs
  | ownerTenantAdd => exact execOwnerTenantAdd_memWf hs
  | ownerTenantRemove => exact execOwnerTenantRemove_memWf hs
  | ownerTenantKey => exact execOwnerTenantKey_memWf hs
  | ownerSecret => exact execOwnerSecret_memWf hs
  | ownerFloor => exact execOwnerFloor_memWf hs
  | ownerReinstate => exact execOwnerReinstate_memWf hs
  | sessionOpen => exact execSessionOpen_memWf hs
  | sessionProve => exact execSessionProve_memWf hs
  | sessionClose => exact onReq_memWf hs (fun _ => endSession_memWf (respond_memWf hs))
  | shellCreate => exact execShellCreate_memWf hs
  | shellRebind => exact execShellRebind_memWf hs
  | shellDestroy => exact execShellDestroy_memWf hs
  | shellRelease => exact execShellRelease_memWf hs
  | shellAcquire => exact execShellAcquire_memWf hs
  | shellQuery => exact execShellQuery_memWf hs
  | memoryMap => exact execMemoryMap_memWf hs
  | memoryUnmap => exact execMemoryUnmap_memWf hs
  | memoryDiscard => exact execMemoryDiscard_memWf hs
  | memoryRetire => exact execMemoryRetire_memWf hs
  | memorySeal => exact execMemorySeal_memWf hs
  | memoryUnseal => exact execMemoryUnseal_memWf hs
  | memoryRebuild => exact execMemoryRebuild_memWf hs
  | memoryAperture => exact execMemoryAperture_memWf hs
  | memoryCopy => exact execMemoryCopy_memWf hs
  | memoryFence => exact execMemoryFence_memWf hs
  | graphRegister => exact execGraphRegister_memWf hs
  | graphUnregister => exact execGraphUnregister_memWf hs
  | graphRun => exact execGraphRun_memWf hs
  | graphResume => exact execGraphResume_memWf hs
  | graphQuery => exact execGraphQuery_memWf hs
  | strokeConfigure => exact execStrokeConfigure_memWf hs
  | strokeStatus | strokeCalendar | powerStatus | firmwareInfo | recoveryStatus => exact onReq_memWf hs (fun _ => respond_memWf hs)
  | queueCreate => exact execQueueCreate_memWf hs
  | queueDelete => exact execQueueDelete_memWf hs
  | queueReset => exact execQueueReset_memWf hs
  | faultRead => exact execFaultRead_memWf hs
  | faultInject => exact execFaultInject_memWf hs
  | faultClear => exact onReq_memWf hs (fun _ => respond_memWf (memWf_mk hs))
  | faultTest => exact execFaultTest_memWf hs
  | powerCap => exact execPowerCap_memWf hs
  | powerHint => exact execPowerHint_memWf hs
  | attestQuote => exact execAttestQuote_memWf hs
  | attestCert => exact execAttestCert_memWf hs
  | firmwareWrite => exact execFirmwareWrite_memWf hs
  | firmwareVerify => exact execFirmwareVerify_memWf hs
  | recoveryLoad => exact execRecoveryLoad_memWf hs
  | debugRead => exact execDebugRead_memWf hs
  | debugAttr => exact execDebugAttr_memWf hs
  | flitReceive => exact execFlitReceive_memWf hs
  | idleFlitSend => exact execIdleFlitSend_memWf hs
  | replayLimit => exact execReplayLimit_memWf hs
  | laneDegrade => exact execLaneDegrade_memWf hs
  | linkRetrainDone => exact execLinkRetrainDone_memWf hs
  | retrainTimeout => exact execRetrainTimeout_memWf hs
  | linkHeartbeat => exact execLinkHeartbeat_memWf hs
  | linkTrainingDone => exact execLinkTrainingDone_memWf hs
  | remoteRead => exact execRemoteRead_memWf hs
  | remoteWrite | countedCopySector => exact onMessage_memWf hs (fun _ ht => serveWrite_memWf ht)
  | remoteAtom | remoteAddx => exact onMessage_memWf hs (fun _ ht => serveAtomic_memWf ht)
  | remoteData | remoteAck => exact onResponse_memWf hs (fun _ _ ht => remoteOk_memWf ht)
  | remoteError => exact onResponse_memWf hs (fun _ _ ht => remoteFail_memWf ht)
  | remoteTimeout => exact execRemoteTimeout_memWf hs
  | beacon => exact execBeacon_memWf hs
  | strokeStep => exact execStrokeStep_memWf hs
  | beaconMiss => exact execBeaconMiss_memWf hs
  | strokeSync => exact execStrokeSync_memWf hs
  | strokeSyncMiss => exact execStrokeSyncMiss_memWf hs
  | retract => exact execRetract_memWf hs
  | coxMessage => exact execCoxMessage_memWf hs
  | coreProbe => exact execCoreProbe_memWf hs
  | coreProgress => exact execCoreProgress_memWf hs
  | ctrlParity => exact execCtrlParity_memWf hs
  | coxLockstep => exact execCoxLockstep_memWf hs
  | coxWatchdog => exact execCoxWatchdog_memWf hs
  | snoopTimeout => exact execSnoopTimeout_memWf hs
  | ucieCrc => exact execUcieCrc_memWf hs
  | pairedSignature => exact execPairedSignature_memWf hs
  | pairedSignatureTimeout => exact execPairedSignatureTimeout_memWf hs
  | sampledCheck => exact execSampledCheck_memWf hs
  | injectLapsed => exact execInjectLapsed_memWf hs
  | scanDone => exact execScanDone_memWf hs
  | rollingTest => exact execRollingTest_memWf hs
  | latentScanOverdue => exact execLatentScanOverdue_memWf hs
  | fenceDrainTimeout => exact execFenceDrainTimeout_memWf hs
  | coreReset => exact execCoreReset_memWf hs
  | dieReset => exact execDieReset_memWf hs
  | shellReset => exact execShellReset_memWf hs
  | domainReset => exact execDomainReset_memWf hs
  | deviceWarmReset => exact execDeviceWarmReset_memWf hs
  | deviceColdReset => exact memWf_next coldReset_memWf
  | vrAlert => exact execVrAlert_memWf hs
  | vrAlertEnd => exact execVrAlertEnd_memWf hs
  | supplyWarn => exact execSupplyWarn_memWf hs
  | supplyHoldEnd => exact execSupplyHoldEnd_memWf hs
  | supplyReset => exact execSupplyReset_memWf hs
  | thermalSample => exact execThermalSample_memWf hs
  | throttleStep => exact execThrottleStep_memWf hs
  | throttleRise => exact execThrottleRise_memWf hs
  | weirTick => exact execWeirTick_memWf hs
  | opClockSwitch => exact execOpClockSwitch_memWf hs
  | capFloorRepeat => exact execCapFloorRepeat_memWf hs
  | pmbusPoll | perstNDeassert => exact memWf_next (memWf_mk hs)
  | hintFillerRaise => exact execHintFillerRaise_memWf hs
  | getSensorReading | getNumericEffecterValue | getPdr => exact memWf_next (pldm_memWf hs)
  | setNumericEffecterValue => exact execSetNumericEffecterValue_memWf hs
  | devResetNAssert => exact execDevResetNAssert_memWf hs
  | powerGood => exact execPowerGood_memWf hs
  | fuseLoad => exact execFuseLoad_memWf hs
  | configRead => exact execConfigRead_memWf hs
  | imageVerify => exact execImageVerify_memWf hs
  | coxBoot => exact execCoxBoot_memWf hs
  | memoryTraining => exact execMemoryTraining_memWf hs
  | hardwareFill => exact execHardwareFill_memWf hs
  | coreSelfTest => exact execCoreSelfTest_memWf hs
  | release => exact execRelease_memWf hs
  | getVersion | getCapabilities | negotiateAlgorithms => exact spdmServe_memWf hs (fun _ ht => spdmSay_memWf (setSpdm_memWf ht))
  | getDigests => exact spdmServe_memWf hs (fun _ ht => spdmSay_memWf ht)
  | getCertificate => exact execGetCertificate_memWf hs
  | challenge => exact execChallenge_memWf hs
  | getMeasurements => exact execGetMeasurements_memWf hs
  | stHelp | stId | stStatus | stFuses | stSensors | stShells | stCfgShow => exact stCmd_memWf hs (fun _ ht => stOk_memWf ht)
  | stBaud => exact execStBaud_memWf hs
  | stUnlock => exact execStUnlock_memWf hs
  | stProve => exact execStProve_memWf hs
  | stLock => exact stCmd_memWf hs (fun _ ht => stOk_memWf (memWf_mk ht))
  | stLevelTimeout => exact execStLevelTimeout_memWf hs
  | stLog => exact execStLog_memWf hs
  | stCfgSet => exact execStCfgSet_memWf hs
  | stCfgRoute => exact execStCfgRoute_memWf hs
  | stDebugOpen => exact execStDebugOpen_memWf hs
  | extest | clamp | highz => exact memWf_next (tapHold_memWf hs)
  | jtagInstructionLoad => exact execJtagInstructionLoad_memWf hs
  | jtagPrivateAccess => exact execJtagPrivateAccess_memWf hs
  | vrAlertNDeassert => exact execVrAlertNDeassert_memWf hs
  | supplyReturn => exact execSupplyReturn_memWf hs
  | dramTemperatureRead => exact execDramTemperatureRead_memWf hs
  | sealComplete => exact execSealComplete_memWf hs
  | strokeConfigureNoAnswer => exact execStrokeConfigureNoAnswer_memWf hs

theorem idleNow_memWf (hs : s.memWf) : (idleNow s).memWf :=
  watchInj_memWf (passTime_memWf hs)

theorem step_memWf (hs : s.memWf) : Res.memWf (step s) := by
  unfold step
  split
  · exact memWf_next (idleNow_memWf hs)
  · exact exec_memWf (memWf_mk hs)

end Sys2Proof.Machine

namespace Sys2Proof.Proofs.PackageOrganisation

open Sys2Proof.Machine

/-- Settles O57: every command at the front of the queue keeps the canonical form, and so does the idle step. The form is the
model's own (entry 14). -/
theorem memoryStaysCanonical : Obligations.MemoryStaysCanonical := by
  unfold Obligations.MemoryStaysCanonical
  intro s t hs ht
  exact step_memWf hs t ht

end Sys2Proof.Proofs.PackageOrganisation
end

section
/-! SUPPORT. Settles the statement of chapter 03 about what the stations' shared operations leave. Everything that carries a tile or a status word out of a core (a write at a home, a request on a
Falnar link, an item that a primary holds, an injection) leaves the commands' records: one lemma `f_cmds` for each operation `f` says so. On the records themselves a tile's marks and slots and a
status word touch no accumulator slot. -/

namespace Sys2Proof.Machine

variable {s : State}

/-! ### Writes leave the commands' records (08, 09, 14) -/

/-- What every step of a fold keeps, the fold keeps. -/
theorem foldl_fixes {α β γ : Type} (v : β → γ) {f : β → α → β} (hf : ∀ b a, v (f b a) = v b) (l : List α) (b : β) : v (l.foldl f b) = v b :=
  List.foldlRecOn l f (motive := fun x => v x = v b) rfl (fun x hx a _ => (hf x a).trans hx)

@[simp] theorem injectWord_cmds (det target key : Nat) (s : State) : (injectWord det target key s).cmds = s.cmds := by
  rw [injectWord_frame]

@[simp] theorem logDec_cmds (src unit index cdom addr : Nat) (d : Dec) (s : State) : (logDec src unit index cdom addr d s).cmds = s.cmds := by
  obtain ⟨_, _, _, _, e⟩ := logDec_frame src unit index cdom addr d s
  rw [e]

@[simp] theorem spadWriteWord_cmds (core w : Nat) (cells : List Cell) (s : State) : (spadWriteWord core w cells s).cmds = s.cmds := by
  unfold spadWriteWord
  extract_lets +onlyGivenNames _ _
  split
  · rfl
  · extract_lets +onlyGivenNames s1
    have h1 : s1.cmds = s.cmds := logDec_cmds ..
    split <;> exact (setTag_cmds ..).trans h1

@[simp] theorem spadWrite_cmds (core off : Nat) (bytes : List Byte) (s : State) : (spadWrite core off bytes s).cmds = s.cmds := by
  unfold spadWrite
  rw [injectWord_cmds]
  split
  · exact foldl_fixes State.cmds (fun _ _ => spadWriteWord_cmds ..) _ _
  · rfl

@[simp] theorem memPutWord_cmds (w v : Nat) (p : Bool) (s : State) : (memPutWord w v p s).cmds = s.cmds := injectWord_cmds ..

@[simp] theorem homeEvict_cmds (line : Nat) (s : State) : (homeEvict line s).cmds = s.cmds := by
  refine foldl_fixes State.cmds (fun t i => ?_) _ s
  refine (foldl_fixes State.cmds (fun _ _ => memPutWord_cmds ..) _ _).trans ?_
  rw [memPutWord_cmds, logDec_cmds]

@[simp] theorem homePlace_cmds (direct : Bool) (line : Nat) (s : State) : (homePlace direct line s).2.cmds = s.cmds := by
  unfold homePlace
  split
  · rfl
  extract_lets _ _
  split
  · rfl
  split
  · rfl
  · exact homeEvict_cmds ..

@[simp] theorem homePutWord_cmds (direct : Bool) (w v : Nat) (p : Bool) (s : State) : (homePutWord direct w v p s).cmds = s.cmds := by
  unfold homePutWord
  extract_lets r
  split
  · exact memPutWord_cmds ..
  · exact (injectWord_cmds ..).trans (homePlace_cmds ..)

@[simp] theorem homeMergeWord_cmds (direct : Bool) (cdom w : Nat) (cells : List Cell) (s : State) : (homeMergeWord direct cdom w cells s).cmds = s.cmds := by
  unfold homeMergeWord
  extract_lets +onlyGivenNames _
  split
  · exact homePutWord_cmds ..
  split
  · extract_lets +onlyGivenNames _ s1
    have h1 : s1.cmds = s.cmds := logDec_cmds ..
    split <;> exact (homePutWord_cmds ..).trans h1
  · rfl

@[simp] theorem homeForward_cmds (w : Nat) (cells : List Cell) (s : State) : (homeForward w cells s).cmds = s.cmds := by
  refine foldl_fixes State.cmds (fun t m => ?_) _ s
  split
  · exact memPutWord_cmds ..
  · rfl

@[simp] theorem homeMerge_cmds (direct : Bool) (cdom line : Nat) (cells : List Cell) (s : State) : (homeMerge direct cdom line cells s).cmds = s.cmds := by
  unfold homeMerge
  split
  · rfl
  · exact foldl_fixes State.cmds (fun _ _ => (homeForward_cmds ..).trans (homeMergeWord_cmds ..)) _ _

@[simp] theorem homeTake_cmds (cdom line : Nat) (cells : List Cell) (pois : Nat) (s : State) : (homeTake cdom line cells pois s).cmds = s.cmds :=
  (foldl_fixes State.cmds (fun _ _ => homePutWord_cmds ..) _ _).trans (homeMerge_cmds ..)

@[simp] theorem recallAll_cmds (line : Nat) (s : State) : (recallAll line s).cmds = s.cmds := by
  unfold recallAll
  extract_lets e s1
  have h1 : s1.cmds = s.cmds := by
    refine foldl_fixes State.cmds (fun t a => ?_) _ s
    split
    · split
      · exact homeTake_cmds ..
      · rfl
    · split
      · rfl
      · extract_lets t1
        split
        · exact homeTake_cmds ..
        · rfl
  split
  · rfl
  · exact h1

@[simp] theorem homePush_cmds (agent cdom dpa : Nat) (bytes : List Byte) (s : State) : (homePush agent cdom dpa bytes s).cmds = s.cmds := by
  have line : ∀ l cells t, (homeWriteLine (.spush agent cdom) false cdom l cells t).cmds = t.cmds := by
    intro l cells t
    unfold homeWriteLine
    split
    · rfl
    · rw [homeMerge_cmds, recallAll_cmds]
  exact foldl_fixes State.cmds (fun _ _ => line ..) _ s

theorem sendFlits_cmds (l n : Nat) (us : List Byte) (s : State) : (sendFlits l n us s).cmds = s.cmds := by
  induction n generalizing us s with
  | zero => rfl
  | succ n ih => exact ih ..

theorem sendReq_cmds {cdom dev kind tenant sub ctr offset len : Nat} {data : List Byte} {wait : RWait} {s t : State}
    (h : sendReq cdom dev kind tenant sub ctr offset len data wait s = some t) : t.cmds = s.cmds := by
  unfold sendReq at h
  split at h
  · split at h
    · cases h
    · cases h
      exact sendFlits_cmds ..
  · cases h

theorem writePiece_cmds (n cdom core : Nat) (seatMap : List Nat) (guar : Bool) (x : Nat × State) (p : Nat × List Byte) :
    (writePiece n cdom core seatMap guar x p).2.cmds = x.2.cmds := by
  unfold writePiece
  split
  · rfl
  extract_lets
  split
  · split
    · rfl
    · split
      · rfl
      · exact homePush_cmds ..
  · exact spadWrite_cmds ..
  · split
    · rfl
    · split <;> rfl
  · split
    · next h => exact sendReq_cmds h
    · rfl
  · rfl
  · rfl

theorem writeShell_cmds (n cdom core : Nat) (seatMap : List Nat) (guar : Bool) (a : Nat) (bytes : List Byte) (s : State) :
    (writeShell n cdom core seatMap guar a bytes s).2.cmds = s.cmds :=
  foldl_fixes (fun x : Nat × State => x.2.cmds) (fun _ _ => writePiece_cmds ..) _ _

theorem writeSpan_cmds (r : Rep) (pl : Place) (x : Nat × State) (p : Nat × List Byte) : (writeSpan r pl x p).2.cmds = x.2.cmds := by
  unfold writeSpan
  split
  · rfl
  split
  · exact spadWrite_cmds ..
  split
  · rfl
  · exact writeShell_cmds ..

theorem openSample_cmds (n gseat core number node rep : Nat) (c : Cmd) (at' : Nat) (s : State) : (openSample n gseat core number node rep c at' s).cmds = s.cmds := by
  unfold openSample
  split
  · split
    · split <;> rfl
    · rfl
  · rfl

/-! ### A seat's part of a command -/

theorem seatRunOf_congr {n seat : Nat} {s t : State} (h : t.cmds = s.cmds) : seatRunOf n seat t = seatRunOf n seat s := by
  unfold seatRunOf cmdOf
  rw [h]

theorem seatRunOf_some {n : Nat} {c : Cmd} (seat : Nat) (h : cmdOf n s = some c) : seatRunOf n seat s = runOf c seat := by
  unfold seatRunOf
  rw [h]

theorem seatRunOf_none {n : Nat} (seat : Nat) (h : cmdOf n s = none) : seatRunOf n seat s = SeatRun.zero := by
  unfold seatRunOf
  rw [h]

theorem setRun_some {n : Nat} {c : Cmd} (seat : Nat) (q : SeatRun) (h : cmdOf n s = some c) :
    setRun n seat q s = setCmd n { c with seats := tabPut seat q c.seats } s := by
  unfold setRun
  rw [h]

theorem setRun_none {n : Nat} (seat : Nat) (q : SeatRun) (h : cmdOf n s = none) : setRun n seat q s = s := by
  unfold setRun
  rw [h]

@[simp] theorem setRun_mem (n seat : Nat) (q : SeatRun) (s : State) : (setRun n seat q s).mem = s.mem := by
  unfold setRun
  split <;> rfl

@[simp] theorem setRun_cores (n seat : Nat) (q : SeatRun) (s : State) : (setRun n seat q s).cores = s.cores := by
  unfold setRun
  split <;> rfl

theorem seatRunOf_setRun_same {n : Nat} {c : Cmd} (seat : Nat) (q : SeatRun) (h : cmdOf n s = some c) : seatRunOf n seat (setRun n seat q s) = q := by
  rw [setRun_some seat q h, seatRunOf_some seat (cmdOf_setCmd_same ..)]
  unfold runOf
  rw [tabFind_put_same]
  rfl

theorem seatRunOf_setRun_other {seat k : Nat} (n : Nat) (q : SeatRun) (hk : k ≠ seat) (s : State) :
    seatRunOf n k (setRun n seat q s) = seatRunOf n k s := by
  cases h : cmdOf n s with
  | none => rw [setRun_none seat q h]
  | some c =>
    rw [setRun_some seat q h, seatRunOf_some k (cmdOf_setCmd_same ..), seatRunOf_some k h]
    unfold runOf
    rw [tabFind_put_other hk]

/-! ### Accumulator slots of a seat -/

/-- The accumulator slots of a seat's part of a command. -/
def slotsOf (n seat : Nat) (s : State) : Tab AccSlot := (seatRunOf n seat s).acc

theorem slotsOf_congr {n seat : Nat} {s t : State} (h : t.cmds = s.cmds) : slotsOf n seat t = slotsOf n seat s := by
  unfold slotsOf
  rw [seatRunOf_congr h]

theorem slotsOf_some {n : Nat} {c : Cmd} (seat : Nat) (h : cmdOf n s = some c) : slotsOf n seat s = (runOf c seat).acc :=
  congrArg SeatRun.acc (seatRunOf_some seat h)

theorem accOf_eq_find (r : Rep) (p : Nat) (s : State) : accOf r p s = tabFind p (slotsOf r.cmd r.seat s) := rfl

/-- Only a changed slot table of the seat itself shows. -/
theorem slotsOf_setRun {n seat : Nat} {q : SeatRun} (hq : q.acc = slotsOf n seat s) (k : Nat) : slotsOf n k (setRun n seat q s) = slotsOf n k s := by
  by_cases hk : k = seat
  · subst hk
    cases h : cmdOf n s with
    | none => rw [setRun_none k q h]
    | some c =>
      rw [← hq]
      exact congrArg SeatRun.acc (seatRunOf_setRun_same k q h)
  · exact congrArg SeatRun.acc (seatRunOf_setRun_other n q hk s)

/-- A slot that was returned (R79) is no longer found. -/
theorem find_slotsOf_setRun_del {n seat p : Nat} {q : SeatRun} (hk : keysFrom 0 (slotsOf n seat s) = true) (hq : q.acc = tabDel p (slotsOf n seat s)) :
    tabFind p (slotsOf n seat (setRun n seat q s)) = none := by
  have gone : tabFind p (tabDel p (slotsOf n seat s)) = none := tabFind_del_same p 0 _ hk
  cases h : cmdOf n s with
  | none =>
    rw [setRun_none seat q h]
    unfold slotsOf
    rw [seatRunOf_none seat h]
    rfl
  | some c =>
    rw [← hq] at gone
    unfold slotsOf
    rwa [seatRunOf_setRun_same seat q h]

theorem slotsOf_markTile (r : Rep) (pl : Place) (idx ecc : Bool) (k : Nat) (s : State) : slotsOf r.cmd k (markTile r pl idx ecc s) = slotsOf r.cmd k s := by
  unfold markTile
  split
  · rfl
  · extract_lets
    refine slotsOf_setRun ?_ k
    rfl

theorem slotsOf_fillSlot (r : Rep) (pl : Place) (sl : PondSlot) (k : Nat) (s : State) : slotsOf r.cmd k (fillSlot r pl sl s) = slotsOf r.cmd k s := by
  unfold fillSlot
  split
  · rfl
  · extract_lets
    refine slotsOf_setRun ?_ k
    rfl

theorem slotsOf_writeTile (r : Rep) (pl : Place) (rows scales : List (List Nat)) (idx ecc : Bool) (anchor : Int) (survey : Option Int) (k : Nat) (s : State) :
    slotsOf r.cmd k (writeTile r pl rows scales idx ecc anchor survey s).2 = slotsOf r.cmd k s := by
  unfold writeTile
  extract_lets x
  have spans : slotsOf r.cmd k x.2 = slotsOf r.cmd k s :=
    slotsOf_congr (foldl_fixes (fun x : Nat × State => x.2.cmds) (fun _ _ => writeSpan_cmds ..) _ _)
  split
  · exact spans
  · exact (slotsOf_fillSlot ..).trans ((slotsOf_markTile ..).trans spans)

theorem slotsOf_writeStatus (r : Rep) (w k : Nat) (s : State) : slotsOf r.cmd k (writeStatus r w s) = slotsOf r.cmd k s := by
  unfold writeStatus
  extract_lets w1 a bs s1
  have h1 : slotsOf r.cmd k s1 = slotsOf r.cmd k s := by
    refine slotsOf_congr ?_
    unfold s1
    split
    · rfl
    · exact writeShell_cmds ..
  rw [← h1]
  split
  · rfl
  split
  · next c hc =>
    unfold slotsOf
    rw [seatRunOf_some k (cmdOf_setCmd_same ..), seatRunOf_some k hc]
    rfl
  · rfl

/-! ### The end of a repetition (03 R94) -/

/-- A seat's part once a repetition of a node is counted. -/
def SeatRun.counted (q : SeatRun) (ix : Nat) : SeatRun :=
  { q with reps := tabPut ix (repsDone q ix + 1) q.reps, part := tabDel ix q.part, logic := tabDel ix q.logic }

theorem counted_acc (n seat ix : Nat) (s : State) : ((seatRunOf n seat s).counted ix).acc = slotsOf n seat s := rfl

/-- Where the step has no milestone interval, the end of a repetition only counts it. -/
theorem repEnd_eq_setRun {r : Rep} (hms : ∀ st, r.rg.graph.steps[r.c.step]? = some st → st.msInt = 0) (s : State) :
    repEnd r s = setRun r.cmd r.seat ((seatRunOf r.cmd r.seat s).counted r.ix) s := by
  unfold repEnd
  extract_lets q n s1
  split
  · next st hst =>
    rw [hms st hst, if_neg (by simp)]
    rfl
  · rfl

theorem repsDone_counted (q : SeatRun) (ix : Nat) : repsDone (q.counted ix) ix = repsDone q ix + 1 := by
  unfold repsDone SeatRun.counted tabGet
  rw [tabFind_put_same]
  rfl

/-! ### The end of an Outlet repetition (R79, R102; 15 R437) -/

/-- What an Outlet repetition does once its status word is written: the slot is returned, a Sampled check may open, and the repetition counts (R79; 15 R437). -/
def outDone (r : Rep) (s : State) : State :=
  let q := seatRunOf r.cmd r.seat s
  repEnd r (openSample r.cmd r.seat r.core q.outReps r.ix r.num r.c q.sampleAt (setRun r.cmd r.seat { q with acc := tabDel r.num q.acc, outReps := q.outReps + 1 } s))

theorem outEnd_of_written {r : Rep} {dst : Place} {rows scales : List (List Nat)} {idx ecc : Bool} {anchor : Int} (st : Nat)
    (hw : (writeTile r dst rows scales idx ecc anchor none s).1 = 0) :
    outEnd r dst rows scales idx ecc anchor st s = outDone r (writeStatus r st (writeTile r dst rows scales idx ecc anchor none s).2) := by
  unfold outEnd outDone
  generalize writeTile r dst rows scales idx ecc anchor none s = w at hw ⊢
  simp only [hw, bne_self_eq_false, Bool.false_eq_true, if_false]

/-- The slot goes, and neither the check nor the count brings one back. -/
theorem accOf_outDone {r : Rep} (hms : ∀ st, r.rg.graph.steps[r.c.step]? = some st → st.msInt = 0) (hk : keysFrom 0 (slotsOf r.cmd r.seat s) = true) :
    accOf r r.num (outDone r s) = none := by
  unfold outDone
  extract_lets q
  rw [accOf_eq_find, repEnd_eq_setRun hms, slotsOf_setRun (counted_acc ..), slotsOf_congr (openSample_cmds ..)]
  exact find_slotsOf_setRun_del hk rfl

/-! ### A write to scratchpad without flaws (10 R290) -/

theorem spadTagged_of_flawless (core off n : Nat) (hs : s.flawless) : spadTagged core off n s = false := by
  unfold spadTagged
  rw [hs.1]
  rfl

theorem spadWrite_of_flawless (core off : Nat) (bytes : List Byte) (hs : s.flawless) :
    spadWrite core off bytes s = { s with mem := { s.mem with spad := memWrite s.mem.spad (spadIx core off) bytes } } := by
  unfold spadWrite
  rw [spadTagged_of_flawless core off _ hs, if_neg Bool.false_ne_true]
  exact injectWord_none _ _ _ _ hs.2

theorem writeSpan_scratchpad (r : Rep) {pl : Place} (hpl : pl.shell = false) (p : Nat × List Byte) :
    writeSpan r pl (0, s) p = (0, spadWrite pl.core p.1 p.2 s) := by
  unfold writeSpan
  rw [hpl]
  rfl

end Sys2Proof.Machine

namespace Sys2Proof.Proofs.TileStreams
open Sys2Proof Sys2Proof.Machine

/-- Settles O23: a stored line is one write to a scratchpad without flaws; the end of a repetition is one change of the seat's part; tile and status word leave the slots as they were, and
`accOf_outDone` returns the Outlet's. -/
theorem stationEffects : Obligations.StationEffects := by
  unfold Obligations.StationEffects
  refine ⟨fun r pl s p hpl hs hm => ?_, fun r s hc hms => ?_, fun r dst rows scales idx ecc anchor st s hc hw hms hk => ?_⟩
  · refine ⟨_, writeSpan_scratchpad r hpl p, ?_⟩
    rw [spadWrite_of_flawless pl.core p.1 p.2 hs]
    exact ⟨memRead_write p.2 _ _ hm, fun a ha => memGet_write_out p.2 _ _ a ha, rfl, rfl⟩
  · rw [repEnd_eq_setRun hms, seatRunOf_setRun_same r.seat _ hc, repsDone_counted, seatRunOf_some r.seat hc, setRun_mem, setRun_cores]
    exact ⟨rfl, rfl, rfl⟩
  · rw [outEnd_of_written st hw]
    refine accOf_outDone hms ?_
    rwa [slotsOf_writeStatus, slotsOf_writeTile, slotsOf_some r.seat hc]

end Sys2Proof.Proofs.TileStreams
end

section
/-! SUPPORT. Settles the statement of chapter 03 about Intake, Gather and Shape: one lemma for each of the three repetitions says what it stores once its input was read well, and each row of the
table is that lemma at the row's own choice of elements. -/

namespace Sys2Proof.Machine

/-- A node that is open on a core runs its repetition. -/
theorem onNode_found {core op : Nat} {s : State} {r : Rep} (f : Rep → State → State) (hr : findRep core op s = some r) : onNode core op s f = .next (f r s) := by
  unfold onNode
  rw [hr]

/-- An answer 0 is no error. -/
theorem not_bad {n : Nat} (h : n = 0) : ¬ (n != 0) = true := by simp [h]

/-! ### Intake (R112, R132) -/

/-- A repetition of Intake whose source was read and whose tile was written: only a survey into no pond raises an entry of its own. -/
theorem intake_of_written {survey : Bool} {ext : Ext} {r : Rep} {s : State} {a dst : Place} (ha : inPlace r r.nd.src0 3 (r.at' r.nd.adv0) s = some a)
    (hd : outPlace r r.nd.dst 2 (r.at' r.nd.advD) s = some dst) (hb : (readTile r a ext s).1.bad = 0) :
    let d := readTile r a ext s
    let sv := if survey then surveyOf dst.t d.1.scales else none
    let w := writeTile r dst d.1.rows d.1.scales d.1.idx d.1.ecc (if dst.t.amode = 2 then inAnchor a else dst.t.anchor) sv (freeSlot r a d.2.2)
    w.1 = 0 → intake survey ext r s =
      repEnd r (if survey && dst.pond.isNone then setRun r.cmd r.seat (raiseSurvey (1024 + r.nd.dst) sv (seatRunOf r.cmd r.seat w.2)) w.2 else w.2) := by
  intro d sv w hw
  unfold intake
  rw [ha, hd]
  dsimp only
  rw [if_neg (by omega), if_neg (not_bad hb), if_neg (not_bad hw)]

/-! ### Shape (T3-3, R539) -/

/-- Two tables of elements that agree everywhere. -/
theorem table_congr {m n : Nat} {f g : Nat → Nat → Nat} (h : ∀ i j, f i j = g i j) :
    (List.range m).map (fun i => (List.range n).map (f i)) = (List.range m).map (fun i => (List.range n).map (g i)) := by
  rw [show f = g from funext fun i => funext (h i)]

/-- A repetition of Shape whose source was read stores the elements `elt` that its choice names, bit for bit. -/
theorem shape_stored {src : Tile → Tile → Nat → Nat → Option (Nat × Nat)} {pad : Rep → Nat} {r : Rep} {s : State} {a dst : Place} {elt : Nat → Nat → Nat}
    (ha : inPlace r r.nd.src0 3 (r.at' r.nd.adv0) s = some a) (hd : outPlace r r.nd.dst 2 (r.at' r.nd.advD) s = some dst) (hb : (readHere r a s).1.bad = 0)
    (helt : ∀ i j, (src a.t dst.t i j).elim (pad r % 2 ^ fmtBits dst.t.fmt) (fun p => ((readHere r a s).1.rows.getD p.1 []).getD p.2 0) = elt i j) :
    stored r dst ((List.range dst.t.rows).map (fun i => (List.range dst.t.cols).map (elt i)))
      (shapeScales a.t dst.t (readHere r a s).1.scales (src a.t dst.t) (readHere r a s).2.fresh) (readHere r a s).1.idx (readHere r a s).1.ecc (inAnchor a) none
      (takeFree (dst.t.scaleLines * dst.t.blocks) (freeSlot r a (readHere r a s).2)).2 (.next (shape src pad r s)) := by
  refine fun hw => congrArg Host.Outcome.next ?_
  unfold shape
  rw [ha, hd]
  dsimp only
  rw [if_neg (not_bad hb), table_congr, if_neg (not_bad hw)]
  intro i j
  rw [← helt i j]
  cases src a.t dst.t i j <;> rfl

/-! ### Gather (R87, R88) -/

theorem gather_stored {index : Tile → Nat → Nat} {offs : Tile → Nat → Nat → Int} {ext : Ext} {r : Rep} {s : State} {t : Tile} {tab dst : Place} {es : List (Option Nat)} {g : List GRow × RdAcc}
    (ht : tileOf r r.nd.src0 = some t) (htab : inPlace r r.nd.src1 4 0 s = some tab) (hd : outPlace r r.nd.dst 2 (r.at' r.nd.advD) s = some dst)
    (hb : (readHere r tab s).1.bad = 0) (hes : (List.range t.rows).map (fun j => ((readHere r tab s).1.rows.flatMap id)[index t j]?) = es)
    (hg : gatherAll r t (gatherField r 1 (bits r.nd.param 31 0)) (offs t) es ext (readHere r tab s).2 = g) (hgb : g.2.bad = 0) :
    stored r dst (g.1.map (fun x => x.row)) (gatherScales t g.1 g.2.st.fresh) ((readHere r tab s).1.idx || g.1.any (fun x => x.oob)) ((readHere r tab s).1.ecc || g.2.ecc) 0 none
      (takeFree (if t.mx then t.cols * t.blocks else 0) g.2.st).2 (.next (gather index offs ext r s)) := by
  subst hes hg
  refine fun hw => congrArg Host.Outcome.next ?_
  unfold gather
  rw [ht, htab, hd]
  dsimp only
  rw [if_neg (not_bad hb), if_neg (by omega), if_neg (not_bad hgb), if_neg (not_bad hw)]

/-- A table entry that is neither the skip entry nor past the limit fetches its row. -/
theorem gatherAll_single {r : Rep} {t : Tile} {limit v : Nat} {offs : Nat → Nat → Int} {ext : Ext} {s : State} {x : RdAcc × Bool} (hskip : v ≠ 0xFFFFFFFF) (hlim : v < limit)
    (hx : gatherRow r t (offs v 0) ⟨[], 0, false, ext, s⟩ = x) :
    gatherAll r t limit offs [some v] ext s = ([⟨StationBytes.row t x.1.bytes, (x.1.bytes.drop t.lineBytes).map (fun b => b.toNat), x.2⟩], x.1) := by
  subst hx
  exact (if_neg hskip).trans (if_neg (by omega))

theorem gatherScales_plain {t : Tile} (hmx : t.mx = false) (rows : List GRow) (k : Nat) : gatherScales t rows k = [] := by
  unfold gatherScales
  rw [hmx]
  rfl

@[simp] theorem takeFree_zero (s : State) : takeFree 0 s = ([], s) := rfl

/-- A Gather of one row a repetition, without block scales, stores the row that its entry names. -/
theorem gather_one_row_stored {index : Tile → Nat → Nat} {offs : Tile → Nat → Nat → Int} {ext : Ext} {r : Rep} {s : State} {t : Tile} {tab dst : Place} {v : Nat} {x : RdAcc × Bool}
    (ht : tileOf r r.nd.src0 = some t) (htab : inPlace r r.nd.src1 4 0 s = some tab) (hd : outPlace r r.nd.dst 2 (r.at' r.nd.advD) s = some dst)
    (hb : (readHere r tab s).1.bad = 0) (hrows : t.rows = 1) (hmx : t.mx = false) (hv : ((readHere r tab s).1.rows.flatMap id)[index t 0]? = some v) (hskip : v ≠ 0xFFFFFFFF)
    (hlim : v < gatherField r 1 (bits r.nd.param 31 0)) (hx : gatherRow r t (offs t v 0) ⟨[], 0, false, ext, (readHere r tab s).2⟩ = x) (hxb : x.1.bad = 0) :
    ∃ ecc, stored r dst [StationBytes.row t x.1.bytes] [] ((readHere r tab s).1.idx || x.2) ecc 0 none x.1.st (.next (gather index offs ext r s)) := by
  have entries : (List.range t.rows).map (fun j => ((readHere r tab s).1.rows.flatMap id)[index t j]?) = [some v] := by
    rw [hrows, ← hv]
    rfl
  have h := gather_stored ht htab hd hb entries (gatherAll_single hskip hlim hx) hxb
  rw [gatherScales_plain hmx, hmx] at h
  refine ⟨(readHere r tab s).1.ecc || x.1.ecc, ?_⟩
  simpa using h

/-- What the rules of an entry ask of its row: zeros where the table does not hold it or it lies past the limit, marked, and zeros without a mark for the skip entry (R88). -/
def GRow.answers (t : Tile) (limit : Nat) (e : Option Nat) (x : GRow) : Prop :=
  (e = none → x.row = List.replicate t.cols 0 ∧ x.oob = true) ∧
  (e = some 0xFFFFFFFF → x.row = List.replicate t.cols 0 ∧ x.oob = false) ∧
  (∀ v, e = some v → v ≠ 0xFFFFFFFF → limit ≤ v → x.row = List.replicate t.cols 0 ∧ x.oob = true)

/-- A fold that appends to a list one answer for each item appends as many, each to its own item. -/
theorem foldl_answers {α β γ : Type} {P : α → β → Prop} {f : List β × γ → α → List β × γ} (hf : ∀ y a, ∃ b, (f y a).1 = y.1 ++ [b] ∧ P a b) (l : List α) (y : List β × γ) :
    ∃ bs, (l.foldl f y).1 = y.1 ++ bs ∧ bs.length = l.length ∧ ∀ (j : Nat) b, bs[j]? = some b → ∃ a, l[j]? = some a ∧ P a b := by
  induction l generalizing y with
  | nil => exact ⟨[], (List.append_nil _).symm, rfl, fun j b hj => nomatch hj⟩
  | cons a l ih =>
    obtain ⟨b, hb, hP⟩ := hf y a
    obtain ⟨bs, hbs, hlen, hall⟩ := ih (f y a)
    refine ⟨b :: bs, ?_, congrArg Nat.succ hlen, fun j x hj => ?_⟩
    · rw [List.foldl_cons, hbs, hb, List.append_assoc]
      rfl
    · cases j with
      | zero => exact ⟨a, rfl, Option.some.inj hj ▸ hP⟩
      | succ j => exact hall j x hj

/-- Every entry of a repetition has its row, in order. -/
theorem gatherAll_answers (r : Rep) (t : Tile) (limit : Nat) (offs : Nat → Nat → Int) (es : List (Option Nat)) (ext : Ext) (s : State) :
    (gatherAll r t limit offs es ext s).1.length = es.length ∧
      ∀ (j : Nat) x, (gatherAll r t limit offs es ext s).1[j]? = some x → ∃ e, es[j]? = some e ∧ GRow.answers t limit e x := by
  have numbered : ∃ rows, (gatherAll r t limit offs es ext s).1 = [] ++ rows ∧ rows.length = es.zipIdx.length ∧
      ∀ (j : Nat) x, rows[j]? = some x → ∃ e, es.zipIdx[j]? = some e ∧ GRow.answers t limit e.1 x := by
    unfold gatherAll
    extract_lets zero
    refine foldl_answers (P := fun e x => GRow.answers t limit e.1 x) (fun y e => ?_) es.zipIdx ([], RdAcc.mk [] 0 false ext s)
    obtain ⟨e, k⟩ := e
    cases e with
    | none => exact ⟨zero true, rfl, by simp [GRow.answers, zero]⟩
    | some v =>
      dsimp only
      split
      · next hv => exact ⟨zero false, rfl, by simp [GRow.answers, zero, hv]⟩
      split
      · next hv hl => exact ⟨zero true, rfl, by simp [GRow.answers, zero, hv]⟩
      · next hv hl => exact ⟨_, rfl, by simp [GRow.answers, hv]; omega⟩
  obtain ⟨rows, hrows, hlen, hall⟩ := numbered
  rw [hrows, List.nil_append]
  refine ⟨hlen.trans List.length_zipIdx, fun j x hx => ?_⟩
  obtain ⟨e, he, ha⟩ := hall j x hx
  rw [List.getElem?_zipIdx, Option.map_eq_some_iff] at he
  obtain ⟨v, hv, rfl⟩ := he
  exact ⟨v, hv, ha⟩

/-! ### POND_SLOT_FILLED (R82, R132) -/

/-- The oldest slot of a pond that waits, where it is the only one, lands; without a survey value nothing else changes. -/
theorem execPondSlotFilled_lands {cmd pond k : Nat} {s : State} {c : Cmd} {rg : RegGraph} {sl : PondSlot} (hc : cmdOf cmd s = some c) (hg : cmdGraph c s = some rg)
    (hp : (runOf c (pondSeat rg.graph pond)).ponds = [(k, sl)]) (hk : k / 2 ^ 32 = pond) (hl : sl.landed = false) (hsv : sl.survey = none) :
    execPondSlotFilled cmd pond s =
      .next (setRun cmd (pondSeat rg.graph pond) { runOf c (pondSeat rg.graph pond) with ponds := [(k, { sl with landed := true })] } s) := by
  unfold execPondSlotFilled
  rw [hc]
  dsimp only
  rw [hg]
  dsimp only
  rw [hp, List.find?_cons_of_pos (by rw [hk, hl, beq_self_eq_true]; rfl)]
  dsimp only
  rw [hsv]
  simp [tabPut, raiseSurvey]

/-! ### The rows as repetitions of their station -/

theorem exec_intakeCopy_found {core : Nat} {ext : Ext} {s : State} {r : Rep} (hr : findRep core 0x10 s = some r) :
    exec (.intakeCopy core ext) s = .next (intake false ext r s) := onNode_found _ hr

theorem exec_intakeSurvey_found {core : Nat} {ext : Ext} {s : State} {r : Rep} (hr : findRep core 0x11 s = some r) :
    exec (.intakeSurvey core ext) s = .next (intake true ext r s) := onNode_found _ hr

theorem exec_gatherRows_found {core : Nat} {ext : Ext} {s : State} {r : Rep} (hr : findRep core 0x20 s = some r) :
    exec (.gatherRows core ext) s = .next (gather (fun t j => r.num * t.rows + j) (fun t e _ => (e * t.stride : Nat)) ext r s) := onNode_found _ hr

theorem exec_gatherPaged_found {core : Nat} {ext : Ext} {s : State} {r : Rep} (hr : findRep core 0x21 s = some r) :
    exec (.gatherPaged core ext) s = .next (gather
      (fun t j => (gatherField r 0 (bits r.nd.param 55 32) + r.num * t.rows + j) / max 1 (2 ^ bits r.nd.param 63 59 / max 1 t.stride))
      (fun t e j => (e * 2 ^ bits r.nd.param 63 59 +
        (gatherField r 0 (bits r.nd.param 55 32) + r.num * t.rows + j) % max 1 (2 ^ bits r.nd.param 63 59 / max 1 t.stride) * t.stride : Nat)) ext r s) := onNode_found _ hr

theorem exec_shapeTranspose_found {core : Nat} {s : State} {r : Rep} (hr : findRep core 0x60 s = some r) :
    exec (.shapeTranspose core) s = .next (shape (fun _ _ i j => some (j, i)) (fun _ => 0) r s) := onNode_found _ hr

theorem exec_shapeReshape_found {core : Nat} {s : State} {r : Rep} (hr : findRep core 0x61 s = some r) :
    exec (.shapeReshape core) s =
      .next (shape (fun a d i j => some ((i * d.cols + j) / max 1 a.cols, (i * d.cols + j) % max 1 a.cols)) (fun _ => 0) r s) := onNode_found _ hr

theorem exec_shapeBroadcast_found {core : Nat} {s : State} {r : Rep} (hr : findRep core 0x62 s = some r) :
    exec (.shapeBroadcast core) s = .next (shape (fun _ _ i j => if bit r.nd.param 63 then some (i, 0) else some (0, j)) (fun _ => 0) r s) := onNode_found _ hr

theorem exec_shapePad_found {core : Nat} {s : State} {r : Rep} (hr : findRep core 0x63 s = some r) :
    exec (.shapePad core) s = .next (shape (fun a _ i j => if i < a.rows && j < a.cols then some (i, j) else none) (fun r => bits r.nd.param 31 0) r s) :=
  onNode_found _ hr

end Sys2Proof.Machine

namespace Sys2Proof.Proofs.TileStreams
open Sys2Proof Sys2Proof.Machine

/-- Settles O21: each row is one repetition of its station (`intake_of_written`, `shape_stored`, `gather_stored`) at the row's choice of elements; `gatherAll_answers` gives the rows that a
Gather fetches none of. -/
theorem movingStations : Obligations.MovingStations := by
  unfold Obligations.MovingStations
  refine ⟨?_, ?_, ?_, ?_, ?_, ?_, ?_, ?_, ?_, ?_, ?_, ?_, ?_⟩
  · intro core ext s r a dst hr ha hd d hb hw
    rw [exec_intakeCopy_found hr]
    exact congrArg Host.Outcome.next (intake_of_written (survey := false) ha hd hb hw)
  · intro core ext s r a dst hr ha hd hpond d hb hw
    rw [exec_intakeSurvey_found hr, intake_of_written (survey := true) ha hd hb hw, if_neg (by simpa using Option.isSome_iff_ne_none.mp hpond)]
    rfl
  · intro core ext s r a dst hr ha hd hpond d w hb hw
    rw [exec_intakeSurvey_found hr, intake_of_written (survey := true) ha hd hb hw, if_pos (by simp [hpond])]
    rfl
  · intro core s r a dst hr ha hd d hb
    rw [exec_shapeTranspose_found hr]
    exact ⟨_, shape_stored ha hd hb (fun _ _ => rfl)⟩
  · intro core s r a dst hr ha hd hcols d hb
    rw [exec_shapeReshape_found hr]
    refine ⟨_, shape_stored ha hd hb (fun i j => ?_)⟩
    rw [Nat.max_eq_right hcols]
    rfl
  · intro core s r a dst hr ha hd d hb
    rw [exec_shapeBroadcast_found hr]
    refine ⟨_, shape_stored ha hd hb (fun i j => ?_)⟩
    cases bit r.nd.param 63 <;> rfl
  · intro core s r a dst hr ha hd d hb
    rw [exec_shapePad_found hr]
    refine ⟨_, shape_stored ha hd hb (fun i j => ?_)⟩
    by_cases h : i < a.t.rows ∧ j < a.t.cols
    · simp [h, d]
    · simp [h, bits]
  · intro core ext s r t tab dst v x hr ht htab hd hb hrows hmx hv hskip hlim hx hxb
    rw [exec_gatherRows_found hr]
    refine gather_one_row_stored ht htab hd hb hrows hmx ?_ hskip hlim hx hxb
    rw [hrows, Nat.mul_one]
    exact hv
  · intro core ext s r t tab dst v x hr ht htab hd hb hrows hmx ps p rpp hv hskip hlim hx hxb
    have pos : gatherField r 0 (bits r.nd.param 55 32) + r.num * t.rows + 0 = p := by rw [hrows, Nat.mul_one, Nat.add_zero]
    rw [exec_gatherPaged_found hr]
    refine gather_one_row_stored ht htab hd hb hrows hmx ?_ hskip hlim ?_ hxb
    · rw [pos]
      exact hv
    · rw [pos]
      exact hx
  · intro core ext s r t tab dst hr ht htab hd hb d es g hgb
    rw [exec_gatherRows_found hr]
    exact ⟨_, gather_stored ht htab hd hb rfl rfl hgb⟩
  · intro core ext s r t tab dst hr ht htab hd hb d p rpp es g hgb
    rw [exec_gatherPaged_found hr]
    exact ⟨_, gather_stored ht htab hd hb rfl rfl hgb⟩
  · intro r t limit offs es ext s
    obtain ⟨hlen, hall⟩ := gatherAll_answers r t limit offs es ext s
    refine ⟨hlen, fun j x hx => ?_⟩
    obtain ⟨e, he, none, skip, past⟩ := hall j x hx
    simp only [he, Option.some.injEq]
    exact ⟨none, skip, past⟩
  · intro cmd pond s c rg k sl hc hg hp hk hl hsv
    refine ⟨_, execPondSlotFilled_lands hc hg hp hk hl hsv, ?_, setRun_mem ..⟩
    rw [seatRunOf_setRun_same _ _ hc]

end Sys2Proof.Proofs.TileStreams
end

section
/-! SUPPORT. A read leaves the commands' records, whatever it has to do for its bytes: it records what its words show, moves lines between a half and their home, and keeps what it read. One lemma
`f_cmds` for each operation `f` says so, up to the read of a whole tile. -/

namespace Sys2Proof.Machine

variable {s : State}

/-! ### What reads record (10 R290, R294) -/

/-- A choice has what both of its branches have. -/
theorem ite_eq_of {α β : Type} (v : α → β) {c : Prop} [Decidable c] {a b : α} {x : β} (ha : v a = x) (hb : v b = x) : v (if c then a else b) = x :=
  iteInduction (motive := fun y => v y = x) (fun _ => ha) (fun _ => hb)

@[simp] theorem logMem_cmds (src cls unit index cdom addr syn a b : Nat) (w : Bool) (inj : Option Nat) (s : State) :
    (logMem src cls unit index cdom addr syn a b w inj s).cmds = s.cmds := by
  obtain ⟨_, _, _, _, e⟩ := logMem_frame src cls unit index cdom addr syn a b w inj s
  rw [e]

@[simp] theorem logSpad_cmds (core off n cdom : Nat) (s : State) : (logSpad core off n cdom s).cmds = s.cmds :=
  foldl_fixes State.cmds (fun _ _ => logDec_cmds ..) _ _

@[simp] theorem noteWord_cmds (cdom w : Nat) (s : State) : (noteWord cdom w s).cmds = s.cmds := by
  unfold noteWord
  extract_lets +onlyGivenNames _ _ _ _ _ s1
  have h1 : s1.cmds = s.cmds := logMem_cmds ..
  refine ite_eq_of State.cmds (logDec_cmds ..) ?_
  refine ite_eq_of State.cmds (ite_eq_of State.cmds h1 ((memPutWord_cmds ..).trans h1)) ?_
  exact ite_eq_of State.cmds rfl ((homePutWord_cmds ..).trans (logDec_cmds ..))

@[simp] theorem noteSectors_cmds (cdom line mask : Nat) (s : State) : (noteSectors cdom line mask s).cmds = s.cmds :=
  foldl_fixes State.cmds (fun _ _ => foldl_fixes State.cmds (fun _ _ => noteWord_cmds ..) _ _) _ _

@[simp] theorem noteLineWord_cmds (agent line cdom w : Nat) (s : State) : (noteLineWord agent line cdom w s).cmds = s.cmds := by
  unfold noteLineWord
  split
  · rfl
  · extract_lets +onlyGivenNames _ _ s1
    have h1 : s1.cmds = s.cmds := logDec_cmds ..
    exact ite_eq_of State.cmds h1 (ite_eq_of State.cmds h1 h1)

@[simp] theorem noteHit_cmds (agent dpa len cdom : Nat) (s : State) : (noteHit agent dpa len cdom s).cmds = s.cmds := by
  refine (foldl_fixes State.cmds (fun _ _ => noteLineWord_cmds ..) _ _).trans ?_
  unfold touchLine
  split <;> rfl

/-! ### Lines of a half (09 R262, R268, R270) -/

@[simp] theorem settleLine_cmds (agent line : Nat) (s : State) : (settleLine agent line s).cmds = s.cmds := by
  unfold settleLine
  split
  · rfl
  refine ite_eq_of State.cmds rfl (foldl_fixes State.cmds (fun t w => ?_) _ _)
  split
  · rfl
  · exact ite_eq_of State.cmds rfl (ite_eq_of State.cmds (noteLineWord_cmds ..) (noteLineWord_cmds ..))

@[simp] theorem evictLine_cmds (agent line : Nat) (s : State) : (evictLine agent line s).cmds = s.cmds := by
  unfold evictLine
  split
  · rfl
  extract_lets +onlyGivenNames s1 _
  have h1 : s1.cmds = s.cmds := settleLine_cmds ..
  split <;> exact h1

theorem agentRoom_cmds {agent line cdom way : Nat} {n : Bool} {t : State} (e : agentRoom agent line cdom n s = some (way, t)) : t.cmds = s.cmds := by
  have evicts : ∀ (l : List Nat) (t : State), (l.foldl (fun s v => evictLine agent v s) t).cmds = t.cmds :=
    fun l t => foldl_fixes State.cmds (fun _ _ => evictLine_cmds ..) l t
  unfold agentRoom at e
  split at e
  · split at e
    · cases e
      rfl
    · obtain ⟨r, -, hr⟩ := Option.map_eq_some_iff.mp e
      cases hr
      exact evicts ..
  · obtain ⟨r, -, hr⟩ := Option.map_eq_some_iff.mp e
    cases hr
    exact evicts ..

@[simp] theorem setMiss_cmds (agent line : Nat) (m : Option Miss) (s : State) : (setMiss agent line m s).cmds = s.cmds := by
  unfold setMiss
  split <;> rfl

@[simp] theorem dropN_cmds (agent line : Nat) (s : State) : (dropN agent line s).cmds = s.cmds := by
  unfold dropN
  split
  · exact ite_eq_of State.cmds rfl rfl
  · rfl

@[simp] theorem retag_cmds (line cdom : Nat) (s : State) : (retag line cdom s).cmds = s.cmds :=
  ite_eq_of State.cmds (recallAll_cmds ..) rfl

@[simp] theorem dirRoom_cmds (line : Nat) (s : State) : (dirRoom line s).cmds = s.cmds := by
  unfold dirRoom
  split
  · rfl
  · exact recallAll_cmds ..

@[simp] theorem grantRead_cmds (agent line cdom : Nat) (s : State) : (grantRead agent line cdom s).2.2.cmds = s.cmds := by
  unfold grantRead
  extract_lets +onlyGivenNames s1 _
  have h1 : s1.cmds = s.cmds := retag_cmds ..
  split
  · refine ite_eq_of (fun x : LState × Nat × State => x.2.2.cmds) h1 ?_
    extract_lets +onlyGivenNames s2 s3
    have h2 : s2.cmds = s.cmds := (settleLine_cmds ..).trans h1
    have h3 : s3.cmds = s.cmds := by
      unfold s3
      split
      · exact ite_eq_of State.cmds ((homeTake_cmds ..).trans h2) h2
      · split
        · exact (homeTake_cmds ..).trans h2
        · exact h2
    exact h3
  · exact h1
  · exact h1
  · exact (dirRoom_cmds ..).trans h1

/-! ### Reads of spans and tiles (08 T8-1; 09 T9-2; 03 R96) -/

@[simp] theorem bulkFill_cmds (agent line mask cdom : Nat) (stream : Bool) (s : State) : (bulkFill agent line mask cdom stream s).cmds = s.cmds := by
  unfold bulkFill
  extract_lets +onlyGivenNames s1
  have h1 : s1.cmds = s.cmds := rfl
  refine ite_eq_of State.cmds rfl ?_
  refine ite_eq_of State.cmds (ite_eq_of State.cmds rfl (ite_eq_of State.cmds (setMiss_cmds ..) (setMiss_cmds ..))) ?_
  split
  · rfl
  split
  · rfl
  · next t e =>
    have h2 : t.cmds = s.cmds := (agentRoom_cmds e).trans h1
    exact ite_eq_of (fun x : LState × Nat × State => x.2.2.cmds) ((retag_cmds ..).trans h2) ((grantRead_cmds ..).trans h2)

@[simp] theorem bulkRead_cmds (agent cdom dpa len : Nat) (stream : Bool) (s : State) : (bulkRead agent cdom dpa len stream s).2.2.2.cmds = s.cmds := by
  unfold bulkRead
  refine ite_eq_of (fun x : List Byte × Bool × Bool × State => x.2.2.2.cmds) rfl ?_
  extract_lets +onlyGivenNames _ _ _ _ s1
  have h1 : s1.cmds = s.cmds := (noteHit_cmds ..).trans (ite_eq_of State.cmds rfl (dropN_cmds ..))
  refine ite_eq_of (fun x : List Byte × Bool × Bool × State => x.2.2.2.cmds) h1 ?_
  exact (bulkFill_cmds ..).trans ((noteSectors_cmds ..).trans h1)

theorem readPiece_cmds (r : Rep) (x : RdAcc) (p : Nat × Nat) : (readPiece r x p).st.cmds = x.st.cmds := by
  unfold readPiece
  refine ite_eq_of (fun y : RdAcc => y.st.cmds) rfl ?_
  extract_lets +onlyGivenNames _ outside
  have ho : (outside ()).st.cmds = x.st.cmds := ite_eq_of (fun y : RdAcc => y.st.cmds) rfl rfl
  split
  · exact ite_eq_of (fun y : RdAcc => y.st.cmds) rfl (bulkRead_cmds ..)
  · exact logSpad_cmds ..
  · exact ite_eq_of (fun y : RdAcc => y.st.cmds) rfl ho
  · exact ho
  · rfl
  · rfl

theorem readSpan_cmds (r : Rep) (pl : Place) (x : RdAcc) (p : Nat × Nat) : (readSpan r pl x p).st.cmds = x.st.cmds := by
  unfold readSpan
  refine ite_eq_of (fun y : RdAcc => y.st.cmds) rfl ?_
  refine ite_eq_of (fun y : RdAcc => y.st.cmds) (foldl_fixes (fun y : RdAcc => y.st.cmds) (fun _ _ => readPiece_cmds ..) _ _) ?_
  exact ite_eq_of State.cmds (logSpad_cmds ..) rfl

@[simp] theorem readHere_cmds (r : Rep) (pl : Place) (s : State) : (readHere r pl s).2.cmds = s.cmds :=
  foldl_fixes (fun y : RdAcc => y.st.cmds) (fun _ _ => readSpan_cmds ..) _ _

end Sys2Proof.Machine
end

section
/-! SUPPORT. Settles the statement of chapters 04 to 06 about Matrix, Reduce, Vector and Outlet. Reading a tile and freeing its slot leave the rest of a seat's part of a command, so what a
repetition notes there is what it ends with. A tile product and a partial touch every cell of a slot once, so each cell is read off alone. -/

namespace Sys2Proof.Machine

variable {s : State}

/-! ### A seat's part of a command along a repetition (03 R79, R82, R94) -/

theorem cmdOf_congr {n : Nat} {t : State} (h : t.cmds = s.cmds) : cmdOf n t = cmdOf n s := by
  unfold cmdOf
  rw [h]

theorem cmdOf_setRun {n : Nat} {c : Cmd} (seat : Nat) (q : SeatRun) (h : cmdOf n s = some c) : ∃ c', cmdOf n (setRun n seat q s) = some c' := by
  rw [setRun_some seat q h]
  exact ⟨_, cmdOf_setCmd_same ..⟩

theorem cmdOf_freeSlot {r : Rep} {c : Cmd} (pl : Place) (h : cmdOf r.cmd s = some c) : ∃ c', cmdOf r.cmd (freeSlot r pl s) = some c' := by
  unfold freeSlot
  split
  · exact ⟨c, h⟩
  · exact cmdOf_setRun _ _ h

/-- What the new part of one seat shares with its old one, every seat's part keeps. -/
theorem seatRunOf_setRun_of {γ : Type} (v : SeatRun → γ) {n seat : Nat} {q : SeatRun} (hq : v q = v (seatRunOf n seat s)) (k : Nat) :
    v (seatRunOf n k (setRun n seat q s)) = v (seatRunOf n k s) := by
  by_cases hk : k = seat
  · subst hk
    cases h : cmdOf n s with
    | none => rw [setRun_none k q h]
    | some c => rw [seatRunOf_setRun_same k q h, hq]
  · rw [seatRunOf_setRun_other n q hk s]

/-- A slot that is freed shows only in the ponds of its seat and in what their consumer has taken (R82). -/
theorem seatRunOf_freeSlot_of {γ : Type} (v : SeatRun → γ) (hv : ∀ q ponds consIx, v { q with ponds := ponds, consIx := consIx } = v q) (r : Rep) (pl : Place) (k : Nat) (s : State) :
    v (seatRunOf r.cmd k (freeSlot r pl s)) = v (seatRunOf r.cmd k s) := by
  unfold freeSlot
  split
  · rfl
  · exact seatRunOf_setRun_of v (hv ..) k

theorem reps_freeSlot (r : Rep) (pl : Place) (k : Nat) (s : State) : (seatRunOf r.cmd k (freeSlot r pl s)).reps = (seatRunOf r.cmd k s).reps :=
  seatRunOf_freeSlot_of SeatRun.reps (fun _ _ _ => rfl) r pl k s

/-- The repetition that ends with a slot: the slot stands under its production number, and one repetition more is counted (R94). -/
theorem repEnd_setAcc {r : Rep} {c : Cmd} (hms : ∀ st, r.rg.graph.steps[r.c.step]? = some st → st.msInt = 0) (p : Nat) (sl : AccSlot) (hc : cmdOf r.cmd s = some c) :
    accOf r p (repEnd r (setAcc r p sl s)) = some sl ∧
      repsDone (seatRunOf r.cmd r.seat (repEnd r (setAcc r p sl s))) r.ix = repsDone (seatRunOf r.cmd r.seat s) r.ix + 1 := by
  obtain ⟨c', hc'⟩ : ∃ c', cmdOf r.cmd (setAcc r p sl s) = some c' := cmdOf_setRun _ _ hc
  have put : seatRunOf r.cmd r.seat (setAcc r p sl s) = { seatRunOf r.cmd r.seat s with acc := tabPut p sl (seatRunOf r.cmd r.seat s).acc } :=
    seatRunOf_setRun_same _ _ hc
  rw [repEnd_eq_setRun hms, accOf_eq_find, slotsOf_setRun (counted_acc ..), seatRunOf_setRun_same _ _ hc', repsDone_counted, put]
  refine ⟨?_, rfl⟩
  unfold slotsOf
  rw [put]
  exact tabFind_put_same ..

theorem part_setPart (r : Rep) (p : PartTile) (k : Nat) (s : State) : (seatRunOf r.cmd k (setPart r p s)).part = (seatRunOf r.cmd k s).part := by
  refine seatRunOf_setRun_of SeatRun.part ?_ k
  rfl

/-- The parts that a repetition has taken, noted and counted (R81). -/
def tookPart (r : Rep) (p : PartTile) (s : State) : State := addPart r (setPart r p s)

theorem cmdOf_tookPart {r : Rep} {c : Cmd} (p : PartTile) (hc : cmdOf r.cmd s = some c) : ∃ c', cmdOf r.cmd (tookPart r p s) = some c' := by
  obtain ⟨c', hc'⟩ : ∃ c', cmdOf r.cmd (setPart r p s) = some c' := cmdOf_setRun _ _ hc
  exact cmdOf_setRun _ _ hc'

theorem part_tookPart {r : Rep} {c : Cmd} (p : PartTile) (hc : cmdOf r.cmd s = some c) :
    tabGet 0 r.ix (seatRunOf r.cmd r.seat (tookPart r p s)).part = tabGet 0 r.ix (seatRunOf r.cmd r.seat s).part + 1 := by
  obtain ⟨c', hc'⟩ : ∃ c', cmdOf r.cmd (setPart r p s) = some c' := cmdOf_setRun _ _ hc
  have put : (seatRunOf r.cmd r.seat (tookPart r p s)).part = tabPut r.ix (tabGet 0 r.ix (seatRunOf r.cmd r.seat (setPart r p s)).part + 1) (seatRunOf r.cmd r.seat (setPart r p s)).part :=
    congrArg SeatRun.part (seatRunOf_setRun_same _ _ hc')
  rw [put, part_setPart]
  unfold tabGet
  rw [tabFind_put_same]
  rfl

theorem partOf_setPart {r : Rep} {c : Cmd} (p : PartTile) (hc : cmdOf r.cmd s = some c) : partOf r (setPart r p s) = p := by
  have put : seatRunOf r.cmd r.seat (setPart r p s) = { seatRunOf r.cmd r.seat s with logic := tabPut r.ix p (seatRunOf r.cmd r.seat s).logic } := seatRunOf_setRun_same _ _ hc
  unfold partOf
  rw [put, tabFind_put_same]
  rfl

/-! ### Every cell of a slot once (04 R113; 05 R129, R139) -/

/-- A fold over distinct items of which only one changes the view `v` changes it once. `Inv` is what the steps keep. -/
theorem foldl_at {σ β γ : Type} {Inv : σ → Prop} {v : σ → γ} {g : γ → γ} {f : σ → β → σ} {y : β} (inv : ∀ t z, Inv t → Inv (f t z))
    (same : ∀ t, Inv t → v (f t y) = g (v t)) {L : List β} (nodup : L.Nodup) (hy : y ∈ L) (other : ∀ z ∈ L, z ≠ y → ∀ t, v (f t z) = v t) {t : σ} (ht : Inv t) :
    v (L.foldl f t) = g (v t) := by
  have skip : ∀ l : List β, (∀ z ∈ l, z ∈ L ∧ z ≠ y) → ∀ t, v (l.foldl f t) = v t := fun l hl t =>
    List.foldlRecOn l f (motive := fun u => v u = v t) rfl (fun u hu z hz => (other z (hl z hz).1 (hl z hz).2 u).trans hu)
  obtain ⟨pre, post, rfl⟩ := List.append_of_mem hy
  obtain ⟨-, hpost, hdisj⟩ := List.nodup_append.mp nodup
  have before : ∀ z ∈ pre, z ∈ pre ++ y :: post ∧ z ≠ y := fun z hz => ⟨List.mem_append_left _ hz, hdisj z hz y List.mem_cons_self⟩
  have after : ∀ z ∈ post, z ∈ pre ++ y :: post ∧ z ≠ y := fun z hz =>
    ⟨List.mem_append_right _ (List.mem_cons_of_mem _ hz), fun e => (List.nodup_cons.mp hpost).1 (e ▸ hz)⟩
  have hpre : Inv (pre.foldl f t) := List.foldlRecOn pre f (motive := Inv) ht (fun u hu z _ => inv u z hu)
  rw [List.foldl_append, List.foldl_cons, skip post after, same _ hpre, skip pre before]

theorem nodup_zipIdx {β : Type} (l : List β) : l.zipIdx.Nodup := by
  have rising : (l.zipIdx.map Prod.snd).Pairwise (· < ·) := by
    rw [List.zipIdx_map_snd]
    exact List.pairwise_lt_range' 1 Nat.one_pos
  exact (List.pairwise_map.mp rising).imp fun h e => Nat.ne_of_lt h (congrArg Prod.snd e)

/-- Numbered items of a list are one when their numbers are. -/
theorem zipIdx_inj {β : Type} {l : List β} {x y : β × Nat} (hx : x ∈ l.zipIdx) (hy : y ∈ l.zipIdx) (h : x.2 = y.2) : x = y := by
  rw [List.mem_zipIdx_iff_getElem?] at hx hy
  rw [h, hy] at hx
  exact Prod.ext (Option.some.inj hx).symm h

/-- Cells of a slot stand in key order. -/
def AccSlot.sorted (a : AccSlot) : Prop := keysFrom 0 a.cells = true

theorem cellKey_inj {i j i' j' : Nat} (hj : j < 128) (hj' : j' < 128) (h : cellKey i j = cellKey i' j') : i = i' ∧ j = j' := by
  unfold cellKey at h
  omega

/-- A step that sets the cell in row i and column j to `F` of what it was. -/
def SetsCell (f : AccSlot → AccSlot) (i j : Nat) (F : Cell128 → Cell128) : Prop :=
  ∀ a, (f a).cells = tabSet Cell128.zero (cellKey i j) (F (accCell a i j)) a.cells

section
variable {f : AccSlot → AccSlot} {i j : Nat} {F : Cell128 → Cell128} (hf : SetsCell f i j F)
include hf

theorem SetsCell.sorted {a : AccSlot} (ha : a.sorted) : (f a).sorted := by
  unfold AccSlot.sorted
  rw [hf a]
  exact keysFrom_set _ _ _ (Nat.zero_le _) ha

theorem SetsCell.same {a : AccSlot} (ha : a.sorted) : accCell (f a) i j = F (accCell a i j) := by
  unfold accCell
  rw [hf a]
  exact tabGet_set_same _ _ _ _ ha

theorem SetsCell.other {i' j' : Nat} (h : cellKey i' j' ≠ cellKey i j) (a : AccSlot) : accCell (f a) i' j' = accCell a i' j' := by
  unfold accCell
  rw [hf a]
  exact tabGet_set_other _ h _ _
end

/-- Steps through a grid of cells, row by row: `es` are the items of a row. -/
def overCells {α β : Type} (f : AccSlot → α × Nat → β × Nat → AccSlot) (es : α → List β) (rows : List α) (a : AccSlot) : AccSlot :=
  rows.zipIdx.foldl (fun a x => (es x.1).zipIdx.foldl (fun a y => f a x y) a) a

/-- What every step of a walk over a grid keeps, the walk keeps. -/
theorem overCells_fixes {α β γ : Type} (v : AccSlot → γ) {f : AccSlot → α × Nat → β × Nat → AccSlot} (hv : ∀ a x y, v (f a x y) = v a) (es : α → List β) (rows : List α) (a : AccSlot) :
    v (overCells f es rows a) = v a :=
  foldl_fixes v (fun _ _ => foldl_fixes v (fun _ _ => hv ..) _ _) _ _

/-- A walk over a grid of at most 128 columns touches each of its cells once. -/
theorem accCell_overCells {α β : Type} {f : AccSlot → α × Nat → β × Nat → AccSlot} {es : α → List β} {rows : List α} {F : α → β → Cell128 → Cell128} {a : AccSlot} {i j : Nat} {x : α} {y : β}
    (hf : ∀ x y, SetsCell (fun a => f a x y) x.2 y.2 (F x.1 y.1)) (hw : ∀ x ∈ rows, (es x).length ≤ 128) (ha : a.sorted) (hx : rows[i]? = some x) (hy : (es x)[j]? = some y) :
    accCell (overCells f es rows a) i j = F x y (accCell a i j) := by
  have hxm : (x, i) ∈ rows.zipIdx := List.mem_zipIdx_iff_getElem?.mpr hx
  have hym : (y, j) ∈ (es x).zipIdx := List.mem_zipIdx_iff_getElem?.mpr hy
  have inside : ∀ z ∈ rows.zipIdx, ∀ w ∈ (es z.1).zipIdx, w.2 < 128 := fun z hz w hw' =>
    Nat.lt_of_lt_of_le (List.getElem?_eq_some_iff.mp (List.mem_zipIdx_iff_getElem?.mp hw')).1 (hw z.1 (List.fst_mem_of_mem_zipIdx hz))
  have hj : j < 128 := inside (x, i) hxm (y, j) hym
  have row : ∀ t : AccSlot, t.sorted → accCell ((es x).zipIdx.foldl (fun a y => f a (x, i) y) t) i j = F x y (accCell t i j) := fun t ht =>
    foldl_at (Inv := AccSlot.sorted) (v := fun a => accCell a i j) (fun _ z => (hf (x, i) z).sorted) (fun _ => (hf (x, i) (y, j)).same) (nodup_zipIdx _) hym
      (fun z hz hne => (hf (x, i) z).other fun e => hne (zipIdx_inj hz hym (cellKey_inj hj (inside _ hxm z hz) e).2.symm)) ht
  unfold overCells
  refine foldl_at (Inv := AccSlot.sorted) (v := fun a => accCell a i j) (g := F x y) (L := rows.zipIdx) (y := (x, i)) (fun t z ht => ?_) row (nodup_zipIdx _) hxm (fun z hz hne t => ?_) ha
  · exact List.foldlRecOn _ _ (motive := AccSlot.sorted) ht (fun _ hu w _ => (hf z w).sorted hu)
  · refine List.foldlRecOn _ _ (motive := fun u => accCell u i j = accCell t i j) rfl (fun u hu w hw' => ?_)
    exact ((hf z w).other (fun e => hne (zipIdx_inj hz hxm (cellKey_inj hj (inside z hz w hw') e).1.symm)) u).trans hu

/-! ### Matrix (04 R113, R128) -/

theorem passSlot_cells (fp : Bool) (a : AccSlot) : (passSlot fp a).cells = a.cells := by cases fp <;> rfl

theorem passSlot_anchor (fp : Bool) (a : AccSlot) : (passSlot fp a).anchor = a.anchor := by cases fp <;> rfl

theorem passSlot_full (fp : Bool) (a : AccSlot) : (passSlot fp a).full = true := by cases fp <;> rfl

theorem passSlot_contrib (fp : Bool) (a : AccSlot) : (passSlot fp a).contrib = a.contrib := by cases fp <;> rfl

/-- A cell of a slot depends on the slot's cells only. -/
theorem accCell_congr {a b : AccSlot} (h : a.cells = b.cells) (i j : Nat) : accCell a i j = accCell b i j := by
  unfold accCell
  rw [h]

theorem mmaTile_fixes {γ : Type} (v : AccSlot → γ) (hv : ∀ a cells sticky sat nan, v { a with cells := cells, sticky := sticky, sat := sat, nan := nan } = v a)
    (fp : Bool) (A B : List (List (Option Dy))) (a : AccSlot) : v (mmaTile fp A B a) = v a := by
  have start : ∀ nan, v { a with nan := nan } = v a := fun nan => hv a a.cells a.sticky a.sat nan
  unfold mmaTile
  extract_lets bad cols
  refine (overCells_fixes v (fun sl x y => ?_) (fun _ => cols) A _).trans (start _)
  exact ite_eq_of v (hv sl _ sl.sticky _ _) (hv sl _ _ sl.sat sl.nan)

/-- Each cell of the product is its row and its column, term by term, on the slot's anchor (R113, R128). -/
theorem accCell_mmaTile {A B : List (List (Option Dy))} {a : AccSlot} {i j : Nat} (hw : ∀ row ∈ B, row.length ≤ 128) (ha : a.sorted) (hi : i < A.length)
    (hj : j < ((B.head?).map (fun row => row.length)).getD 0) :
    accCell (mmaTile false A B a) i j = (dotAx a.anchor (A.getD i []) (B.map (fun row => row.getD j none)) (accCell a i j)).1 := by
  have narrow : ((B.head?).map (fun row => row.length)).getD 0 ≤ 128 := by
    cases B with
    | nil => exact Nat.zero_le _
    | cons row B => exact hw row List.mem_cons_self
  have hx : A[i]? = some (A.getD i []) := by rw [List.getD_eq_getElem?_getD, List.getElem?_eq_getElem hi]; rfl
  unfold mmaTile
  extract_lets bad cols
  have hy : cols[j]? = some (B.map (fun row => row.getD j none)) := by
    unfold cols
    rw [List.getElem?_map, List.getElem?_range hj]
    rfl
  refine accCell_overCells (es := fun _ => cols) (F := fun x y c => (dotAx a.anchor x y c).1) (a := { a with nan := a.nan || bad }) (fun _ _ _ => rfl) (fun _ _ => ?_) ha hx hy
  unfold cols
  rw [List.length_map, List.length_range]
  exact narrow

/-- The slot that Matrix passes on after one product of a tile pair, with the marks of the pair. -/
def productSlot (pa pb : Place) (da db : TData) (anchor : Int) : AccSlot :=
  let sl := mmaTile false (valueRows pa.t da) (valueRows pb.t db) { AccSlot.zero with anchor := anchor }
  passSlot false { sl with idx := sl.idx || da.idx || db.idx, ecc := sl.ecc || da.ecc || db.ecc, contrib := sl.contrib + 1 }

theorem productSlot_full (pa pb : Place) (da db : TData) (anchor : Int) : (productSlot pa pb da db anchor).full = true := passSlot_full ..

theorem productSlot_anchor (pa pb : Place) (da db : TData) (anchor : Int) : (productSlot pa pb da db anchor).anchor = anchor :=
  (passSlot_anchor ..).trans (mmaTile_fixes AccSlot.anchor (fun _ _ _ _ _ => rfl) ..)

theorem productSlot_contrib (pa pb : Place) (da db : TData) (anchor : Int) : (productSlot pa pb da db anchor).contrib = 1 :=
  (passSlot_contrib ..).trans (congrArg Nat.succ (mmaTile_fixes AccSlot.contrib (fun _ _ _ _ _ => rfl) ..))

theorem accCell_productSlot {pa pb : Place} {da db : TData} {i j : Nat} (anchor : Int) (hw : ∀ row ∈ valueRows pb.t db, row.length ≤ 128) (hi : i < (valueRows pa.t da).length)
    (hj : j < (((valueRows pb.t db).head?).map (fun row => row.length)).getD 0) :
    accCell (productSlot pa pb da db anchor) i j =
      (dotAx anchor ((valueRows pa.t da).getD i []) ((valueRows pb.t db).map (fun row => row.getD j none)) Cell128.zero).1 :=
  (accCell_congr (passSlot_cells ..) i j).trans (accCell_mmaTile (a := { AccSlot.zero with anchor := anchor }) hw rfl hi hj)

/-- A repetition of Matrix of one tile pair, on no slot yet, ends with the product in its slot. -/
theorem mmaRun_single {r : Rep} {pa pb : Place} (hc : cmdOf r.cmd s = some r.c) (hkt : bits r.nd.param 63 56 = 1) (hchain : bits r.nd.param 55 48 ≤ 1) (h47 : bit r.nd.param 47 = false)
    (h46 : bit r.nd.param 46 = false) (hj : joined r = false) (hfp : r.rg.accFp32 = false) (hacc : (runOf r.c r.seat).acc = []) (hpart : (runOf r.c r.seat).part = [])
    (hpa : inPlace r r.nd.src0 3 (r.at' r.nd.adv0) s = some pa) (hpb : inPlace1 r (r.at' r.nd.adv1) s = some pb) :
    let da := readHere r pa s
    let db := readHere r pb da.2
    da.1.bad = 0 → db.1.bad = 0 → mmaRun r 1 s = repEnd r (setAcc r r.num (productSlot pa pb da.1 db.1 (mmaAnchor r pa.t.cols 1 1 s)) (freeSlot r pb (freeSlot r pa db.2))) := by
  intro da db hda hdb
  have hq : seatRunOf r.cmd r.seat s = runOf r.c r.seat := seatRunOf_some r.seat hc
  have chain1 : max 1 (bits r.nd.param 55 48) = 1 := Nat.max_eq_left hchain
  have part0 : tabGet 0 r.ix (runOf r.c r.seat).part = 0 := by rw [hpart]; rfl
  have noSlot : accOf r r.num s = none := by rw [accOf_eq_find, slotsOf_some r.seat hc, hacc]; rfl
  have at1 : ∀ adv : Int, ((r.num * 1 + 0 : Nat) : Int) * adv = r.at' adv := fun adv => by rw [Nat.mul_one, Nat.add_zero]; rfl
  have contrib0 : ∀ a : AccSlot, (mmaTile false (valueRows pa.t da.1) (valueRows pb.t db.1) a).contrib = a.contrib := mmaTile_fixes AccSlot.contrib (fun _ _ _ _ _ => rfl) false _ _
  unfold mmaRun
  dsimp only
  rw [hq, hkt, chain1, part0, h47, h46, show repsDone (runOf r.c r.seat) r.ix = r.num from rfl]
  simp only [Bool.false_eq_true, if_false, at1, hpa, hpb, Nat.div_one, noSlot, hacc]
  rw [if_pos (by decide)]
  dsimp only
  rw [if_neg (not_bad hda), if_neg (not_bad hdb), if_neg (by decide), hfp, if_pos (by rw [contrib0, hj]; rfl)]
  rfl

/-! ### Reduce (05 R139..R141) -/

theorem addxTile_anchor (fp : Bool) (anchor : Int) (rows : List (List Nat)) (a : AccSlot) : (addxTile fp anchor rows a).anchor = a.anchor := by
  refine overCells_fixes AccSlot.anchor (fun sl x y => ?_) (fun row => row) rows a
  exact ite_eq_of AccSlot.anchor rfl rfl

/-- Each element of a partial is added to its cell, on the slot's grid (R139). -/
theorem accCell_addxTile {rows : List (List Nat)} {a : AccSlot} {i j v : Nat} (anchor : Int) (hw : ∀ row ∈ rows, row.length ≤ 128) (ha : a.sorted) (hv : (rows.getD i [])[j]? = some v) :
    accCell (addxTile false anchor rows a) i j = (accCell a i j).add (reanchor v anchor a.anchor).1 := by
  have hx : rows[i]? = some (rows.getD i []) := by
    rw [List.getD_eq_getElem?_getD] at hv ⊢
    cases h : rows[i]? with
    | none =>
      rw [h] at hv
      cases hv
    | some row => rfl
  exact accCell_overCells (es := fun row => row) (F := fun _ v c => c.add (reanchor v anchor a.anchor).1) (fun _ _ _ => rfl) hw ha hx hv

/-- The slot that Reduce passes on once a partial is added, with the partial's marks. -/
def partialSlot (pa : Place) (d : TData) (a : AccSlot) : AccSlot :=
  let sl := addxTile false (inAnchor pa) d.rows a
  passSlot false { sl with idx := sl.idx || d.idx, ecc := sl.ecc || d.ecc }

theorem partialSlot_full (pa : Place) (d : TData) (a : AccSlot) : (partialSlot pa d a).full = true := passSlot_full ..

theorem partialSlot_anchor (pa : Place) (d : TData) (a : AccSlot) : (partialSlot pa d a).anchor = a.anchor := (passSlot_anchor ..).trans (addxTile_anchor ..)

theorem accCell_partialSlot {pa : Place} {d : TData} {a : AccSlot} {i j v : Nat} (hw : ∀ row ∈ d.rows, row.length ≤ 128) (ha : a.sorted) (hv : (d.rows.getD i [])[j]? = some v) :
    accCell (partialSlot pa d a) i j = (accCell a i j).add (reanchor v (inAnchor pa) a.anchor).1 :=
  (accCell_congr (passSlot_cells ..) i j).trans (accCell_addxTile (inAnchor pa) hw ha hv)

/-- The slot that a partial is added to: the one that stands under the repetition's number, whose Matrix repetitions are all in where it is a joined pair's, or else a new one (R79, R140). -/
def takesPartial (r : Rep) (pa : Place) (a : AccSlot) (s : State) : Prop :=
  (accOf r r.num s = some a ∧ (bit r.nd.param 55 = true → a.contrib = pairChain r)) ∨
    (accOf r r.num s = none ∧ bit r.nd.param 55 = false ∧ (runOf r.c r.seat).acc.length < 2 ∧
      ∃ d, tileOf r r.nd.dst = some d ∧ a = { AccSlot.zero with anchor := if d.amode = 2 then inAnchor pa else d.anchor })

/-- The last partial of a repetition of REDUCE.ADDX. -/
theorem addxRun_last {r : Rep} {pa : Place} {a : AccSlot} (hc : cmdOf r.cmd s = some r.c) (hn : r.part + 1 = bits r.nd.param 63 56) (hfp : r.rg.accFp32 = false)
    (hpa : inPlace r r.nd.src0 3 0 s = some pa) (ha : takesPartial r pa a s) :
    let d := readHere r pa s
    d.1.bad = 0 → addxRun r (bits r.nd.param 63 56) s = repEnd r (setAcc r r.num (partialSlot pa d.1 a) (freeSlot r pa d.2)) := by
  intro d hd
  have hq : seatRunOf r.cmd r.seat s = runOf r.c r.seat := seatRunOf_some r.seat hc
  rw [← hn]
  unfold addxRun
  dsimp only
  rw [hq, ← hn, hfp, show repsDone (runOf r.c r.seat) r.ix = r.num from rfl, show tabGet 0 r.ix (runOf r.c r.seat).part = r.part from rfl, hpa]
  dsimp only
  obtain ⟨hacc, hjoin⟩ | ⟨hacc, hjoin, hroom, t, ht, rfl⟩ := ha
  · rw [hacc]
    dsimp only
    by_cases hb : bit r.nd.param 55 = true
    · rw [if_pos hb, if_pos (hjoin hb)]
      exact (if_neg (not_bad hd)).trans (if_neg (Nat.lt_irrefl _))
    · rw [if_neg hb]
      exact (if_neg (not_bad hd)).trans (if_neg (Nat.lt_irrefl _))
  · rw [hacc, ht, hjoin]
    dsimp only
    rw [if_neg Bool.false_ne_true, if_neg Bool.false_ne_true, if_pos hroom]
    exact (if_neg (not_bad hd)).trans (if_neg (Nat.lt_irrefl _))

/-- The last tile of a repetition of REDUCE.LOGIC (R141). -/
theorem logicRun_last {r : Rep} {pa dst : Place} (hc : cmdOf r.cmd s = some r.c) (hn : r.part + 1 = bits r.nd.param 63 56) (hpa : inPlace r r.nd.src0 3 0 s = some pa)
    (hdst : outPlace r r.nd.dst 2 (r.at' r.nd.advD) s = some dst) :
    let d := readHere r pa s
    let p := partOf r s
    let rows := if r.part = 0 then d.1.rows else List.zipWith (fun x y => List.zipWith (logicElt (bits r.nd.param 55 52) (fmtBits pa.t.fmt)) x y) p.rows d.1.rows
    let w := writeTile r dst rows [] (p.idx || d.1.idx) (p.ecc || d.1.ecc) 0 none (freeSlot r pa d.2)
    d.1.bad = 0 → w.1 = 0 → logicRun r (bits r.nd.param 63 56) s = repEnd r (writeStatus r (markBits (p.idx || d.1.idx) (p.ecc || d.1.ecc)) w.2) := by
  intro d p rows w hd hw
  rw [← hn]
  unfold logicRun
  dsimp only
  rw [seatRunOf_some r.seat hc, ← hn, show tabGet 0 r.ix (runOf r.c r.seat).part = r.part from rfl, hpa, hdst]
  dsimp only
  rw [if_neg (not_bad hd), if_neg (Nat.lt_irrefl _), if_neg (not_bad hw)]

/-! ### Vector (06 R176; 03 R537, R538) -/

theorem ofPat_bits31 (n : Nat) : ofPat (bits n 31 0) = BitVec.ofNat 32 n := by
  unfold ofPat bits
  refine BitVec.eq_of_toNat_eq ?_
  rw [BitVec.toNat_ofNat, BitVec.toNat_ofNat, Nat.pow_zero, Nat.div_one]
  exact Nat.mod_mod ..

/-! ### Softmax (03 R81; R538) -/

/-- The part of a span's values once tile `k` is read (R81). -/
def spanPart (a : Place) (k : Nat) (p : PartTile) (d : TData) : PartTile :=
  let new := d.rows.map (fun row => row.map (fun x => (vNum a.t x).toNat))
  ⟨if k = 0 then new else List.zipWith (fun x y => x ++ y) p.rows new, p.idx || d.idx, p.ecc || d.ecc⟩

theorem spanPart_later {a : Place} {k : Nat} {p : PartTile} {d : TData} (hk : k ≠ 0) :
    spanPart a k p d = ⟨List.zipWith (fun x y => x ++ y) p.rows (d.rows.map (fun row => row.map (fun x => (vNum a.t x).toNat))), p.idx || d.idx, p.ecc || d.ecc⟩ := by
  unfold spanPart
  dsimp only
  rw [if_neg hk]

/-- A tile of a span that its pond keeps until the span ends. -/
theorem softRun_takes {r : Rep} {a : Place} {k : Nat} (fuel : Nat) (hk : tabGet 0 r.ix (seatRunOf r.cmd r.seat s).part = k) (hn : k < bits r.nd.param 63 60 + 1) (hs : spanHolds r = true)
    (ha : inPlaceN r r.nd.src0 3 (spanAt r k r.nd.adv0) k s = some a) (hd : (readHere r a s).1.bad = 0) :
    softRun r (fuel + 1) s = softRun r fuel
      (if k + 1 = bits r.nd.param 63 60 + 1 then softMid r (spanPart a k (partOf r s) (readHere r a s).1) (tookPart r (spanPart a k (partOf r s) (readHere r a s).1) (readHere r a s).2)
        else tookPart r (spanPart a k (partOf r s) (readHere r a s).1) (readHere r a s).2) := by
  rw [softRun]
  dsimp only
  rw [hk, if_pos hn, hs, if_pos rfl, ha]
  dsimp only
  rw [if_neg (not_bad hd)]
  rfl

/-- A tile of a span that is not there yet. -/
theorem softRun_waits {r : Rep} {k : Nat} (fuel : Nat) (hk : tabGet 0 r.ix (seatRunOf r.cmd r.seat s).part = k) (hn : k < bits r.nd.param 63 60 + 1) (hs : spanHolds r = true)
    (ha : inPlaceN r r.nd.src0 3 (spanAt r k r.nd.adv0) k s = none) : softRun r fuel s = s := by
  cases fuel with
  | zero => rfl
  | succ fuel =>
    rw [softRun]
    dsimp only
    rw [hk, if_pos hn, hs, if_pos rfl, ha]

/-- The last output tile of a span. -/
theorem softRun_ends {r : Rep} {dst : Place} {k : Nat} (fuel : Nat) (hk : tabGet 0 r.ix (seatRunOf r.cmd r.seat s).part = k) (hn : k + 1 = 2 * (bits r.nd.param 63 60 + 1))
    (hdst : outPlace r r.nd.dst 2 (spanAt r (k - (bits r.nd.param 63 60 + 1)) r.nd.advD) s = some dst) :
    let p := partOf r s
    let w := writeTile r dst (p.rows.map (fun row => (row.take dst.t.cols).map (fun v => vOut .nearest dst.t.fmt dst.t.ts (ofPat v)))) [] p.idx p.ecc 0 none s
    w.1 = 0 → softRun r (fuel + 1) s = repEnd r w.2 := by
  intro p w hw
  rw [softRun]
  dsimp only
  rw [hk, if_neg (by omega), hdst]
  dsimp only
  rw [if_neg (not_bad hw), if_pos hn]

theorem ofPat_toNat (v : W32) : ofPat v.toNat = v := BitVec.ofNat_toNat .. |>.trans (BitVec.setWidth_eq v)

/-- A row of the softmax has one exponential for each value. -/
theorem softRow_fst_length (scale : W32) (xs : List W32) : (softRow scale xs).1.length = xs.length := by
  unfold softRow
  simp only [List.length_map]

/-- The exponentials and quotients of the values that a part has gathered. -/
def softOuts (r : Rep) (p : PartTile) : List (List W32 × List W32) := p.rows.map (fun row => softRow (ofPat (bits r.nd.param 31 0)) (row.map ofPat))

theorem splitCols_single (w : Nat) (rows : List (List Nat)) : splitCols [w] rows = [rows.map (fun row => row.take w)] := rfl

/-- The end of a span of one tile: its exponentials overwrite it, its slot is freed, its quotients wait to be written (R81). -/
theorem softMid_single {r : Rep} {p : PartTile} {a : Place} (hn : bits r.nd.param 63 60 = 0) (hs : spanHolds r = true) (ha : inPlaceN r r.nd.src0 3 (spanAt r 0 r.nd.adv0) 0 s = some a)
    (hw : ∀ row ∈ p.rows, row.length = a.t.cols) :
    softMid r p s = setPart r { p with rows := (softOuts r p).map (fun o => o.2.map (fun v => v.toNat)) }
      (freeSlot r a ((tileBytes a ((softOuts r p).map (fun o => o.1.map (fun v => v.toNat))) []).foldl (writeSpan r a) (0, s)).2) := by
  have srcs : spanSrcs r s = [a] := by
    unfold spanSrcs
    rw [hs, hn, if_pos rfl, show List.range (0 + 1) = [0] from rfl]
    simp only [List.filterMap_cons, List.filterMap_nil, ha]
  have whole : ((softOuts r p).map (fun o => o.1.map (fun v => v.toNat))).map (fun row => row.take a.t.cols) = (softOuts r p).map (fun o => o.1.map (fun v => v.toNat)) := by
    unfold softOuts
    rw [List.map_map]
    refine List.map_congr_left fun o ho => List.take_of_length_le ?_
    obtain ⟨row, hrow, rfl⟩ := List.mem_map.mp ho
    simp only [List.length_map, softRow_fst_length]
    exact Nat.le_of_eq (hw row hrow)
  unfold softMid
  simp only [srcs, List.map_cons, List.map_nil, splitCols_single, List.zip_cons_cons, List.zip_nil_right, List.foldl_cons, List.foldl_nil]
  unfold softOuts at whole ⊢
  rw [whole]

/-- Values that stand in a part as patterns are read back as they were. -/
theorem softOuts_vNum (r : Rep) (t : Tile) (rows : List (List Nat)) (idx ecc : Bool) :
    softOuts r ⟨rows.map (fun row => row.map (fun x => (vNum t x).toNat)), idx, ecc⟩ = rows.map (fun row => softRow (BitVec.ofNat 32 r.nd.param) (row.map (vNum t))) := by
  unfold softOuts
  rw [ofPat_bits31, List.map_map]
  refine List.map_congr_left fun row _ => congrArg (softRow _) ?_
  rw [List.map_map]
  exact List.map_congr_left fun x _ => ofPat_toNat _

/-- Quotients that wait as patterns are stored as the values that they are. -/
theorem quotients_stored (dst : Place) (soft : List (List W32 × List W32)) :
    (soft.map (fun o => o.2.map (fun v => v.toNat))).map (fun row => (row.take dst.t.cols).map (fun v => vOut .nearest dst.t.fmt dst.t.ts (ofPat v))) =
      soft.map (fun o => (o.2.take dst.t.cols).map (fun v => vOut .nearest dst.t.fmt dst.t.ts v)) := by
  rw [List.map_map]
  refine List.map_congr_left fun o _ => ?_
  simp only [Function.comp, ← List.map_take, List.map_map]
  exact List.map_congr_left fun v _ => congrArg _ (ofPat_toNat v)

/-- What a part of a span holds after its tile is overwritten and freed. -/
theorem part_softMid {r : Rep} {a : Place} {c : Cmd} (p : PartTile) (x : Nat × State) (l : List (Nat × List Byte)) (hc : cmdOf r.cmd x.2 = some c) :
    let t := setPart r p (freeSlot r a (l.foldl (writeSpan r a) x).2)
    partOf r t = p ∧ tabGet 0 r.ix (seatRunOf r.cmd r.seat t).part = tabGet 0 r.ix (seatRunOf r.cmd r.seat x.2).part := by
  intro t
  have written : ((l.foldl (writeSpan r a) x).2).cmds = x.2.cmds := foldl_fixes (fun x : Nat × State => x.2.cmds) (fun _ _ => writeSpan_cmds ..) _ _
  obtain ⟨c', hc'⟩ := cmdOf_freeSlot a ((cmdOf_congr written).trans hc)
  refine ⟨partOf_setPart p hc', congrArg (tabGet 0 r.ix) ?_⟩
  calc (seatRunOf r.cmd r.seat t).part = (seatRunOf r.cmd r.seat (freeSlot r a (l.foldl (writeSpan r a) x).2)).part := part_setPart ..
    _ = (seatRunOf r.cmd r.seat (l.foldl (writeSpan r a) x).2).part := seatRunOf_freeSlot_of SeatRun.part (fun _ _ _ => rfl) ..
    _ = (seatRunOf r.cmd r.seat x.2).part := congrArg SeatRun.part (seatRunOf_congr written)

/-- A softmax over one tile: read, overwritten with its exponentials, and its quotients written. -/
theorem softRun_single {r : Rep} {a a' dst : Place} (hc : cmdOf r.cmd s = some r.c) (hn : bits r.nd.param 63 60 = 0) (hpart : r.part = 0) (hp : partOf r s = ⟨[], false, false⟩)
    (hs : spanHolds r = true) (ha : inPlace r r.nd.src0 3 (spanAt r 0 r.nd.adv0) s = some a) :
    let d := readHere r a s
    let p : PartTile := ⟨d.1.rows.map (fun row => row.map (fun x => (vNum a.t x).toNat)), d.1.idx, d.1.ecc⟩
    let s1 := tookPart r p d.2
    inPlaceN r r.nd.src0 3 (spanAt r 0 r.nd.adv0) 0 s1 = some a' → a'.t.cols = a.t.cols → d.1.bad = 0 → (∀ row ∈ d.1.rows, row.length = a.t.cols) →
    let soft := d.1.rows.map (fun row => softRow (BitVec.ofNat 32 r.nd.param) (row.map (vNum a.t)))
    let s2 := ((tileBytes a' (soft.map (fun o => o.1.map (fun v => v.toNat))) []).foldl (writeSpan r a') (0, s1)).2
    let mid := setPart r { p with rows := soft.map (fun o => o.2.map (fun v => v.toNat)) } (freeSlot r a' s2)
    outPlace r r.nd.dst 2 (spanAt r 0 r.nd.advD) mid = some dst →
    stored r dst (soft.map (fun o => (o.2.take dst.t.cols).map (fun v => vOut .nearest dst.t.fmt dst.t.ts v))) [] d.1.idx d.1.ecc 0 none mid (.next (softRun r 2 s)) := by
  intro d p s1 ha' hcols hd hrows soft s2 mid hdst
  have read : cmdOf r.cmd d.2 = some r.c := (cmdOf_congr (readHere_cmds ..)).trans hc
  have part0 : tabGet 0 r.ix (seatRunOf r.cmd r.seat s).part = 0 := by rw [seatRunOf_some r.seat hc]; exact hpart
  have readPart0 : tabGet 0 r.ix (seatRunOf r.cmd r.seat d.2).part = 0 := by rw [seatRunOf_congr (readHere_cmds ..)]; exact part0
  have first : spanPart a 0 (partOf r s) d.1 = p := by rw [hp]; rfl
  have takes := softRun_takes 1 part0 (by omega) hs ha hd
  rw [first, if_pos (by rw [hn])] at takes
  obtain ⟨c', hc'⟩ := cmdOf_tookPart p read
  have outs : softOuts r p = soft := softOuts_vNum r a.t d.1.rows d.1.idx d.1.ecc
  have width : ∀ row ∈ p.rows, row.length = a'.t.cols := by
    intro row hrow
    obtain ⟨x, hx, rfl⟩ := List.mem_map.mp hrow
    rw [List.length_map, hrows x hx, hcols]
  have ends : softMid r p s1 = mid := by rw [softMid_single hn hs ha' width, outs]
  obtain ⟨midPart, midCount⟩ := part_softMid (r := r) (a := a') { p with rows := soft.map (fun o => o.2.map (fun v => v.toNat)) } (0, s1)
    (tileBytes a' (soft.map (fun o => o.1.map (fun v => v.toNat))) []) hc'
  rw [part_tookPart p read, readPart0] at midCount
  intro hw
  rw [takes, ends]
  have last := softRun_ends 0 midCount (by rw [hn]) (by rw [hn]; exact hdst)
  rw [midPart] at last
  rw [← quotients_stored] at hw ⊢
  exact congrArg Host.Outcome.next (last hw)

/-! ### The rows as repetitions of their station -/

theorem exec_matrixMma_found {core : Nat} {r : Rep} (hr : findRep core 0x30 s = some r) : exec (.matrixMma core) s = .next (mmaRun r (bits r.nd.param 63 56) s) := onNode_found _ hr

theorem exec_matrixMma_none {core : Nat} (h : findRep core 0x30 s = none) : exec (.matrixMma core) s = .next s := by
  change onNode core 0x30 s _ = _
  unfold onNode
  rw [h]

theorem exec_reduceAddx_found {core : Nat} {r : Rep} (hr : findRep core 0x50 s = some r) : exec (.reduceAddx core) s = .next (addxRun r (bits r.nd.param 63 56) s) := onNode_found _ hr

theorem exec_reduceLogic_found {core : Nat} {r : Rep} (hr : findRep core 0x51 s = some r) : exec (.reduceLogic core) s = .next (logicRun r (bits r.nd.param 63 56) s) := onNode_found _ hr

theorem exec_vectorSoftmax_found {core : Nat} {r : Rep} (hr : findRep core 0x42 s = some r) :
    exec (.vectorSoftmax core) s = .next (softRun r (2 * (bits r.nd.param 63 60 + 1)) s) := onNode_found _ hr

/-- VECTOR.MAP of two operands stores the function's elements (R176, R537). -/
theorem vectorMap_two_stored {core : Nat} {r : Rep} {a b dst : Place} (hr : findRep core 0x40 s = some r) (ha : inPlace r r.nd.src0 3 (r.at' r.nd.adv0) s = some a)
    (hb : inPlace1 r (r.at' r.nd.adv1) s = some b) (hd : outPlace r r.nd.dst 2 (r.at' r.nd.advD) s = some dst) (htwo : vfUsesB (bits r.nd.param 63 56) = true) :
    let da := readHere r a s
    let db := readHere r b da.2
    da.1.bad = 0 → db.1.bad = 0 →
    stored r dst (List.zipWith (fun x y => List.zipWith (mapElt (bits r.nd.param 63 56) a.t b.t dst.t (BitVec.ofNat 32 r.nd.param)) x y) da.1.rows db.1.rows) [] (da.1.idx || db.1.idx)
      (da.1.ecc || db.1.ecc) 0 none (freeSlot r b (freeSlot r a db.2)) (exec (.vectorMap core) s) := by
  intro da db hda hdb hw
  rw [show exec (.vectorMap core) s = execVectorMap core s from rfl, execVectorMap, onNode_found _ hr]
  refine congrArg Host.Outcome.next ?_
  dsimp only
  rw [htwo, ofPat_bits31, if_pos rfl, ha, hb, hd]
  dsimp only
  rw [if_pos rfl, if_pos rfl, if_neg (not_bad hda), if_neg (not_bad hdb), if_neg (not_bad hw)]

/-- VECTOR.MAP of one operand stores the function's elements (R176, R537). -/
theorem vectorMap_one_stored {core : Nat} {r : Rep} {a dst : Place} (hr : findRep core 0x40 s = some r) (ha : inPlace r r.nd.src0 3 (r.at' r.nd.adv0) s = some a)
    (hd : outPlace r r.nd.dst 2 (r.at' r.nd.advD) s = some dst) (hone : vfUsesB (bits r.nd.param 63 56) = false) :
    let d := readHere r a s
    d.1.bad = 0 →
    stored r dst (d.1.rows.map (fun row => row.map (fun x => mapElt (bits r.nd.param 63 56) a.t a.t dst.t (BitVec.ofNat 32 r.nd.param) x x))) [] d.1.idx d.1.ecc 0 none (freeSlot r a d.2)
      (exec (.vectorMap core) s) := by
  intro d hb hw
  rw [show exec (.vectorMap core) s = execVectorMap core s from rfl, execVectorMap, onNode_found _ hr]
  refine congrArg Host.Outcome.next ?_
  dsimp only
  rw [hone, ofPat_bits31]
  simp only [Bool.false_eq_true, if_false]
  rw [ha, hd]
  dsimp only
  simp only [List.zipWith_self, Bool.or_self]
  rw [if_neg (not_bad hb), if_neg (not_bad hb), if_neg (not_bad hw)]

/-- VECTOR.ROWRED stores each row's tree (R537, R538). -/
theorem vectorRowred_stored {core : Nat} {r : Rep} {a dst : Place} (hr : findRep core 0x41 s = some r) (ha : inPlace r r.nd.src0 3 (r.at' r.nd.adv0) s = some a)
    (hd : outPlace r r.nd.dst 2 (r.at' r.nd.advD) s = some dst) :
    let d := readHere r a s
    d.1.bad = 0 →
    stored r dst (d.1.rows.map (fun row => [vOut .nearest dst.t.fmt dst.t.ts (tree (if bits r.nd.param 63 56 = 0 then fmax else fadd) 8 (row.map (vNum a.t)))])) [] d.1.idx d.1.ecc 0 none
      (freeSlot r a d.2) (exec (.vectorRowred core) s) := by
  intro d hb hw
  rw [show exec (.vectorRowred core) s = execVectorRowred core s from rfl, execVectorRowred, onNode_found _ hr]
  refine congrArg Host.Outcome.next ?_
  dsimp only
  rw [ha, hd]
  dsimp only
  rw [if_neg (not_bad hb), if_neg (not_bad hw)]

theorem exec_outletConvert_found {core : Nat} {r : Rep} {a : AccSlot} {dst : Place} (hr : findRep core 0x70 s = some r) (ha : outSlot r s = some a) (hd : outHere r s = some dst) :
    let o := outTile dst.t ((List.range dst.t.rows).map (fun i => (List.range dst.t.cols).map (outValue r.rg.accFp32 a i)))
    exec (.outletConvert core) s = .next (outEnd r dst o.1 o.2.1 a.idx a.ecc 0 (slotStatus a a.sticky a.sat a.nan o.2.2 a.idx a.ecc) s) := by
  rw [show exec (.outletConvert core) s = execOutletConvert core s from rfl, execOutletConvert, onNode_found _ hr]
  refine congrArg Host.Outcome.next ?_
  dsimp only
  rw [ha, hd]

theorem exec_outletFused_found {core : Nat} {r : Rep} {a : AccSlot} {b dst : Place} (hr : findRep core 0x71 s = some r) (ha : outSlot r s = some a)
    (hb : inPlace1 r (r.at' r.nd.adv1) s = some b) (hd : outHere r s = some dst) :
    let d := readHere r b s
    d.1.bad = 0 →
    let o := outTile dst.t ((List.range dst.t.rows).map (fun i => (List.range dst.t.cols).map (fun j =>
      fuse (bits r.nd.param 63 60 == 1) (outValue r.rg.accFp32 a i j) (((valueRows b.t d.1).getD i []).getD j none))))
    exec (.outletFused core) s = .next (outEnd r dst o.1 o.2.1 (a.idx || d.1.idx) (a.ecc || d.1.ecc) 0
      (slotStatus a a.sticky a.sat (a.nan || (valueRows b.t d.1).any (fun row => row.any (fun x => x.isNone))) o.2.2 (a.idx || d.1.idx) (a.ecc || d.1.ecc)) (freeSlot r b d.2)) := by
  intro d hbad
  rw [show exec (.outletFused core) s = execOutletFused core s from rfl, execOutletFused, onNode_found _ hr]
  refine congrArg Host.Outcome.next ?_
  dsimp only
  rw [ha, hb, hd]
  exact if_neg (not_bad hbad)

/-- The Outlet that stores patterns does so at the anchor `to'` that its destination names, or at the slot's own (R142, R149). -/
theorem exec_outletExport_found {core : Nat} {r : Rep} {a : AccSlot} {dst : Place} {to' : Option Int} (hr : findRep core 0x72 s = some r) (ha : outSlot r s = some a)
    (hd : outHere r s = some dst) (hto : (if dst.t.amode = 2 then none else some dst.t.anchor) = to') :
    let cs := (List.range dst.t.rows).map (fun i => (List.range dst.t.cols).map (exportCell r.rg.accFp32 a to' i))
    exec (.outletExport core) s = .next (outEnd r dst (cs.map (fun row => row.map (fun c => c.1))) [] a.idx a.ecc (to'.getD a.anchor)
      (slotStatus a (a.sticky || cs.any (fun row => row.any (fun c => c.2.1))) (a.sat || cs.any (fun row => row.any (fun c => c.2.2))) a.nan false a.idx a.ecc) s) := by
  subst hto
  rw [show exec (.outletExport core) s = execOutletExport core s from rfl, execOutletExport, onNode_found _ hr]
  refine congrArg Host.Outcome.next ?_
  dsimp only
  rw [ha, hd]

/-- A cell that keeps its slot's anchor is stored as it stands. -/
theorem exportCell_none (fp : Bool) (a : AccSlot) (i j : Nat) : (exportCell fp a none i j).2 = (false, false) := by
  unfold exportCell
  cases fp <;> rfl

theorem exportCells_no_flags (fp : Bool) (a : AccSlot) (m n : Nat) (v : Bool × Bool → Bool) (hv : v (false, false) = false) :
    ((List.range m).map (fun i => (List.range n).map (exportCell fp a none i))).any (fun row => row.any (fun c => v c.2)) = false := by
  have row : ∀ i, ((List.range n).map (exportCell fp a none i)).any (fun c => v c.2) = false := by
    intro i
    rw [List.any_map, List.any_eq_false]
    intro j _
    rw [Function.comp_apply, exportCell_none, hv]
    exact Bool.false_ne_true
  rw [List.any_map, List.any_eq_false]
  intro i _
  rw [Function.comp_apply, row]
  exact Bool.false_ne_true

end Sys2Proof.Machine

namespace Sys2Proof.Proofs.MatrixStation
open Sys2Proof Sys2Proof.Machine

/-- Settles O22: each row is one repetition of its station. Matrix and ADDX end with their slot (`repEnd_setAcc`), whose cells `accCell_overCells` reads off one by one; the other rows store
what their station computes. -/
theorem computingStations : Obligations.ComputingStations := by
  unfold Obligations.ComputingStations
  refine ⟨?_, ?_, ?_, ?_, ?_, ?_, ?_, ?_, ?_, ?_, ?_, ?_, ?_⟩
  · intro core s r pa pb hr hc hkt hchain h47 h46 hj hfp hacc hpart hms hpa hpb da db A B hda hdb hw
    obtain ⟨c1, hc1⟩ := cmdOf_freeSlot pa ((cmdOf_congr ((readHere_cmds r pb da.2).trans (readHere_cmds ..))).trans hc)
    obtain ⟨c2, hc2⟩ := cmdOf_freeSlot pb hc1
    obtain ⟨slot, count⟩ := repEnd_setAcc hms r.num (productSlot pa pb da.1 db.1 (mmaAnchor r pa.t.cols 1 1 s)) hc2
    rw [exec_matrixMma_found hr, hkt, mmaRun_single hc hkt hchain h47 h46 hj hfp hacc hpart hpa hpb hda hdb]
    refine ⟨_, _, rfl, slot, productSlot_full .., productSlot_contrib .., productSlot_anchor .., count.trans ?_, fun i j hi hj => ?_⟩
    · unfold repsDone
      rw [reps_freeSlot, reps_freeSlot, seatRunOf_congr ((readHere_cmds r pb da.2).trans (readHere_cmds ..)), seatRunOf_some r.seat hc]
      rfl
    · rw [productSlot_anchor]
      exact accCell_productSlot _ hw hi hj
  · intro core s r pa a hr hc hn hfp hms hpa hwf htake d hd hw
    obtain ⟨c1, hc1⟩ := cmdOf_freeSlot pa ((cmdOf_congr (readHere_cmds r pa s)).trans hc)
    obtain ⟨slot, count⟩ := repEnd_setAcc hms r.num (partialSlot pa d.1 a) hc1
    rw [exec_reduceAddx_found hr, addxRun_last hc hn hfp hpa htake hd]
    refine ⟨_, _, rfl, slot, partialSlot_full .., partialSlot_anchor .., count.trans ?_, fun i j v hv => ?_⟩
    · unfold repsDone
      rw [reps_freeSlot, seatRunOf_congr (readHere_cmds ..), seatRunOf_some r.seat hc]
      rfl
    · exact accCell_partialSlot hw ((tabWf_iff _ _).mp hwf).1 hv
  · intro core s r pa dst hr hc hn hpa hdst d p rows w hd hw
    rw [exec_reduceLogic_found hr]
    exact congrArg Host.Outcome.next (logicRun_last hc hn hpa hdst hd hw)
  · intro core s r a b dst hr ha hb hd htwo da db hda hdb
    exact vectorMap_two_stored hr ha hb hd htwo hda hdb
  · intro core s r a dst hr ha hd hone d hb
    exact vectorMap_one_stored hr ha hd hone hb
  · intro core s r a dst hr ha hd d hb
    exact vectorRowred_stored hr ha hd hb
  · intro core s r a a' dst hr hc hn hpart hp hs ha d p s1 ha' hcols hd hrows soft s2 mid hdst
    rw [exec_vectorSoftmax_found hr, hn]
    exact softRun_single hc hn hpart hp hs ha ha' hcols hd hrows hdst
  · intro core s r a hr hc hpos hlt hs ha d p t hd hcd hnone
    have part : tabGet 0 r.ix (seatRunOf r.cmd r.seat s).part = r.part := by rw [seatRunOf_some r.seat hc]; rfl
    have count : tabGet 0 r.ix (seatRunOf r.cmd r.seat t).part = r.part + 1 := by
      refine (part_tookPart _ hcd).trans ?_
      rw [seatRunOf_some r.seat hcd]
      rfl
    have takes := softRun_takes (2 * bits r.nd.param 63 60 + 1) part (by omega) hs ha hd
    rw [spanPart_later (Nat.ne_of_gt hpos), if_neg (by omega)] at takes
    rw [exec_vectorSoftmax_found hr]
    exact congrArg Host.Outcome.next (takes.trans (softRun_waits _ count (by omega) hs hnone))
  · intro core s r a dst hr ha hd
    exact exec_outletConvert_found hr ha hd
  · intro core s r a b dst hr ha hb hd d hbad
    exact exec_outletFused_found hr ha hb hd hbad
  · intro core s r a dst hr ha hd hmode cs
    rw [exec_outletExport_found hr ha hd (if_pos hmode)]
    rw [exportCells_no_flags _ _ _ _ Prod.fst rfl, exportCells_no_flags _ _ _ _ Prod.snd rfl, Bool.or_false, Bool.or_false]
    rfl
  · intro core s r a dst hr ha hd hmode cs
    exact exec_outletExport_found hr ha hd (if_neg hmode)
  · intro core s h
    exact exec_matrixMma_none h

end Sys2Proof.Proofs.MatrixStation
end

section
/-! SUPPORT. What a park rests on. A write of memory (scratchpad, home, an undefined output) leaves queue pairs, commands and cores: one lemma `f_records` for each operation `f` says so. A core
that has a group is in its table, so a group reads back as it was set whatever the tables look like. A group that parks is its group with the record, beside the stopped groups of its command. -/

namespace Sys2Proof.Machine

variable {s : State}

/-! ### Writes of memory leave queue pairs, commands and cores (08, 09, 10) -/

/-- What no write of memory changes. -/
def State.records (s : State) : Tab QPair × Tab Cmd × Tab Core := (s.qps, s.cmds, s.cores)

theorem qps_of_records {t : State} (h : t.records = s.records) : t.qps = s.qps := congrArg (·.1) h

theorem cmds_of_records {t : State} (h : t.records = s.records) : t.cmds = s.cmds := congrArg (·.2.1) h

theorem cores_of_records {t : State} (h : t.records = s.records) : t.cores = s.cores := congrArg (·.2.2) h

theorem injectWord_records (det target key : Nat) (s : State) : (injectWord det target key s).records = s.records := by
  rw [injectWord_frame]
  rfl

theorem logDec_records (src unit index cdom addr : Nat) (d : Dec) (s : State) : (logDec src unit index cdom addr d s).records = s.records := by
  obtain ⟨_, _, _, _, e⟩ := logDec_frame src unit index cdom addr d s
  rw [e]
  rfl

theorem setTag_withMem_records (k : Nat) (t : WTag) (m : Mem) (s : State) : (setTag k t { s with mem := m }).records = s.records := rfl

theorem spadWriteWord_records (core w : Nat) (cells : List Cell) (s : State) : (spadWriteWord core w cells s).records = s.records := by
  unfold spadWriteWord
  extract_lets +onlyGivenNames _ _
  split
  · rfl
  · extract_lets +onlyGivenNames s1
    have h1 : s1.records = s.records := logDec_records ..
    split <;> exact (setTag_withMem_records ..).trans h1

theorem spadWrite_records (core off : Nat) (bytes : List Byte) (s : State) : (spadWrite core off bytes s).records = s.records := by
  unfold spadWrite
  rw [injectWord_records]
  split
  · exact foldl_fixes State.records (fun _ _ => spadWriteWord_records ..) _ _
  · rfl

theorem memPutWord_records (w v : Nat) (p : Bool) (s : State) : (memPutWord w v p s).records = s.records := injectWord_records ..

theorem homeEvict_records (line : Nat) (s : State) : (homeEvict line s).records = s.records := by
  refine foldl_fixes State.records (fun t i => ?_) _ s
  refine (foldl_fixes State.records (fun _ _ => memPutWord_records ..) _ _).trans ?_
  rw [memPutWord_records, logDec_records]

theorem homePlace_records (direct : Bool) (line : Nat) (s : State) : (homePlace direct line s).2.records = s.records := by
  unfold homePlace
  split
  · rfl
  extract_lets _ _
  split
  · rfl
  split
  · rfl
  · exact homeEvict_records ..

theorem homePutWord_records (direct : Bool) (w v : Nat) (p : Bool) (s : State) : (homePutWord direct w v p s).records = s.records := by
  unfold homePutWord
  extract_lets r
  split
  · exact memPutWord_records ..
  · exact (injectWord_records ..).trans (homePlace_records ..)

theorem homeMergeWord_records (direct : Bool) (cdom w : Nat) (cells : List Cell) (s : State) : (homeMergeWord direct cdom w cells s).records = s.records := by
  unfold homeMergeWord
  extract_lets +onlyGivenNames _
  split
  · exact homePutWord_records ..
  split
  · extract_lets +onlyGivenNames _ s1
    have h1 : s1.records = s.records := logDec_records ..
    split <;> exact (homePutWord_records ..).trans h1
  · rfl

theorem homeForward_records (w : Nat) (cells : List Cell) (s : State) : (homeForward w cells s).records = s.records := by
  refine foldl_fixes State.records (fun t m => ?_) _ s
  split
  · exact memPutWord_records ..
  · rfl

theorem homeMerge_records (direct : Bool) (cdom line : Nat) (cells : List Cell) (s : State) : (homeMerge direct cdom line cells s).records = s.records := by
  unfold homeMerge
  split
  · rfl
  · exact foldl_fixes State.records (fun _ _ => (homeForward_records ..).trans (homeMergeWord_records ..)) _ _

theorem homeTake_records (cdom line : Nat) (cells : List Cell) (pois : Nat) (s : State) : (homeTake cdom line cells pois s).records = s.records :=
  (foldl_fixes State.records (fun _ _ => homePutWord_records ..) _ _).trans (homeMerge_records ..)

theorem recallAll_records (line : Nat) (s : State) : (recallAll line s).records = s.records := by
  unfold recallAll
  extract_lets e s1
  have h1 : s1.records = s.records := by
    refine foldl_fixes State.records (fun t a => ?_) _ s
    split
    · split
      · exact homeTake_records ..
      · rfl
    · split
      · rfl
      · extract_lets t1
        split
        · exact homeTake_records ..
        · rfl
  split
  · rfl
  · exact h1

theorem homePush_records (agent cdom dpa : Nat) (bytes : List Byte) (s : State) : (homePush agent cdom dpa bytes s).records = s.records := by
  refine foldl_fixes State.records (fun t i => ?_) _ s
  extract_lets line
  unfold homeWriteLine
  split
  · rfl
  · rw [homeMerge_records, recallAll_records]

theorem losePiece_records (c : Cmd) (core0 : Nat) (seatMap : List Nat) (s : State) (p : Nat × Nat) : (losePiece c core0 seatMap s p).records = s.records := by
  unfold losePiece
  extract_lets +onlyGivenNames _
  split
  · exact ite_eq_of State.records (homePush_records ..) rfl
  · exact spadWrite_records ..
  · rfl

theorem loseSpan_records (c : Cmd) (seatMap : List Nat) (pl : Place) (s : State) (p : Nat × Nat) : (loseSpan c seatMap pl s p).records = s.records :=
  ite_eq_of State.records (foldl_fixes State.records (fun _ _ => losePiece_records ..) _ _) (spadWrite_records ..)

theorem loseOutputs_records (n : Nat) (all : Bool) (s : State) : (loseOutputs n all s).records = s.records := by
  unfold loseOutputs
  split
  · rfl
  split
  · rfl
  refine foldl_fixes State.records (fun t x => ?_) _ s
  split
  · refine ite_eq_of State.records rfl ?_
    exact foldl_fixes State.records (fun _ _ => foldl_fixes State.records (fun _ _ => loseSpan_records ..) _ _) _ _
  · rfl

/-! ### Tables (00 R4) -/

/-- The later of two entries of one key stands. -/
theorem tabPut_tabPut {α : Type} (k : Nat) (v w : α) (t : Tab α) : tabPut k v (tabPut k w t) = tabPut k v t := by
  induction t with
  | nil => simp [tabPut]
  | cons e t ih =>
    rcases Nat.lt_trichotomy k e.1 with h | h | h
    · simp [tabPut, h]
    · simp [tabPut, h]
    · simp only [tabPut, if_neg (Nat.lt_asymm h), if_neg (Nat.ne_of_gt h), ih]

/-- A change of entries that keeps their keys is a change of what is found. -/
theorem tabFind_map {α β : Type} {f : Nat × α → Nat × β} (hf : ∀ e, (f e).1 = e.1) (k : Nat) (t : Tab α) : tabFind k (t.map f) = (tabFind k t).map (fun v => (f (k, v)).2) := by
  induction t with
  | nil => rfl
  | cons e t ih =>
    rw [List.map_cons, tabFind, tabFind, hf]
    by_cases h : e.1 = k
    · subst h
      rw [if_pos rfl, if_pos rfl]
      rfl
    · rw [if_neg h, if_neg h, ih]

theorem tabFind_map_values {α β : Type} (f : Nat → α → β) (k : Nat) (t : Tab α) : tabFind k (t.map (fun e => (e.1, f e.1 e.2))) = (tabFind k t).map (f k) :=
  tabFind_map (f := fun e => (e.1, f e.1 e.2)) (fun _ => rfl) k t

/-! ### Groups of a core -/

theorem core_ne_zero_of_group {k : Core} {n : Nat} {g : Group} (h : tabFind n k.groups = some g) : k ≠ Core.zero := by
  rintro rfl
  cases h

/-- A core with a group is in the table of cores, so it reads back. -/
theorem coreOf_setCore_of_group {c n : Nat} {k : Core} {g : Group} (h : tabFind n k.groups = some g) (s : State) : coreOf c (setCore c k s) = k := by
  unfold coreOf setCore tabGet tabSet
  rw [if_neg (core_ne_zero_of_group h), tabFind_put_same]
  rfl

theorem setCore_setCore_of_group {c m n : Nat} {k k' : Core} {g g' : Group} (h : tabFind m k.groups = some g) (h' : tabFind n k'.groups = some g') (s : State) :
    setCore c k' (setCore c k s) = setCore c k' s := by
  unfold setCore tabSet
  rw [if_neg (core_ne_zero_of_group h), if_neg (core_ne_zero_of_group h'), if_neg (core_ne_zero_of_group h'), tabPut_tabPut]

theorem coreOf_setIssued (i : Iss) (g : Group) (s : State) :
    coreOf i.core (setIssued i g s) = { coreOf i.core s with groups := tabPut i.slot g (coreOf i.core s).groups, last := i.slot } :=
  coreOf_setCore_of_group (tabFind_put_same i.slot g _) s

/-- The group of an instruction that issued is the group as it issued. -/
theorem groupOf_setIssued (i : Iss) (g : Group) (s : State) : groupOf i.core i.slot (setIssued i g s) = some g := by
  unfold groupOf
  rw [coreOf_setIssued]
  exact tabFind_put_same ..

/-- What happens to a group after its instruction issued could have happened as it issued. -/
theorem setGroup_setIssued (i : Iss) (g g' : Group) (s : State) : setGroup i.core i.slot g' (setIssued i g s) = setIssued i g' s := by
  unfold setGroup
  rw [coreOf_setIssued]
  dsimp only
  rw [tabPut_tabPut]
  exact setCore_setCore_of_group (tabFind_put_same i.slot g _) (tabFind_put_same i.slot g' _) s

/-- A core with its groups changed in their slots. -/
def Core.mapGroups (f : Nat × Group → Nat × Group) (k : Core) : Core := { k with groups := k.groups.map f }

section
variable {core n : Nat} {g : Group} {f : Nat × Group → Nat × Group} (hg : groupOf core n s = some g) (hf : ∀ e, (f e).1 = e.1)
include hg hf

theorem tabFind_mapGroups : tabFind n ((coreOf core s).mapGroups f).groups = some (f (n, g)).2 :=
  (tabFind_map hf ..).trans (congrArg (Option.map _) hg)

theorem coreOf_mapGroups : coreOf core (setCore core ((coreOf core s).mapGroups f) s) = (coreOf core s).mapGroups f :=
  coreOf_setCore_of_group (tabFind_mapGroups hg hf) s

theorem groupOf_mapGroups : groupOf core n (setCore core ((coreOf core s).mapGroups f) s) = some (f (n, g)).2 := by
  unfold groupOf
  rw [coreOf_mapGroups hg hf]
  exact tabFind_mapGroups hg hf

end

theorem groupOf_congr {core slot : Nat} {t : State} (h : t.cores = s.cores) : groupOf core slot t = groupOf core slot s := by
  unfold groupOf coreOf
  rw [h]

/-! ### Parks (06 R169; 07 R214) -/

/-- A group of command `n` with a park record, where it stands in the slot that parks, and stopped. -/
def parkedIn (n slot : Nat) (r : ParkRec) (m : Nat) (x : Group) : Group :=
  if x.cmd = n then { x with park := if m = slot then some r else x.park, stopped := true } else x

theorem parkedIn_own {n slot : Nat} (r : ParkRec) {x : Group} (h : x.cmd = n) : parkedIn n slot r slot x = { x with park := some r, stopped := true } := by
  simp [parkedIn, h]

/-- A park stops every group of its command. -/
theorem parkedIn_stopped {n slot m : Nat} {r : ParkRec} {x : Group} (h : (parkedIn n slot r m x).cmd = n) : (parkedIn n slot r m x).stopped = true := by
  unfold parkedIn at h ⊢
  split
  · rfl
  · next hx => exact absurd (by rwa [if_neg hx] at h) hx

/-- A core on which every group of command `n` is stopped or goes on. -/
def stopCore (n : Nat) (b : Bool) (k : Core) : Core :=
  { k with
    groups := k.groups.map (fun e => (e.1, if e.2.cmd = n then { e.2 with stopped := b } else e.2))
    saved := k.saved.map (fun e => (e.1, if e.2.cmd = n then { e.2 with stopped := b } else e.2)) }

theorem coreOf_stopGroups (n core : Nat) (b : Bool) (s : State) : coreOf core (stopGroups n b s) = stopCore n b (coreOf core s) := by
  have find : tabFind core (stopGroups n b s).cores = (tabFind core s.cores).map (stopCore n b) := tabFind_map_values (fun _ k => stopCore n b k) ..
  unfold coreOf tabGet
  rw [find]
  cases tabFind core s.cores <;> rfl

theorem groupOf_stopGroups (n core slot : Nat) (b : Bool) (s : State) :
    groupOf core slot (stopGroups n b s) = (groupOf core slot s).map (fun x => if x.cmd = n then { x with stopped := b } else x) := by
  unfold groupOf
  rw [coreOf_stopGroups]
  exact tabFind_map_values (fun _ (x : Group) => if x.cmd = n then { x with stopped := b } else x) ..

theorem groupOf_mapGroup {core slot : Nat} {g : Group} (hg : groupOf core slot s = some g) (n m : Nat) (f : Group → Group) :
    groupOf core m (mapGroup n core slot f s) = (groupOf core m s).map (fun x => if m = slot && x.cmd = n then f x else x) := by
  have find : ∀ k, tabFind k ((coreOf core s).groups.map (fun e => (e.1, if e.1 = slot && e.2.cmd = n then f e.2 else e.2))) =
      (groupOf core k s).map (fun x => if k = slot && x.cmd = n then f x else x) :=
    fun k => tabFind_map_values (fun j x => if j = slot && x.cmd = n then f x else x) k _
  unfold mapGroup
  refine Eq.trans ?_ (find m)
  unfold groupOf
  rw [coreOf_setCore_of_group (n := slot) ((find slot).trans (by rw [hg]; rfl))]

/-- The machine once a group has parked, but for its command: the record in the group and in its slot area, and every group of the command stopped. -/
def markPark (core slot : Nat) (r : ParkRec) (g : Group) (s : State) : State :=
  spadWrite core (slotBase slot + 0x1E00) (parkBytes slot g.seat (some r)) (stopGroups g.cmd true (mapGroup g.cmd core slot (fun x => { x with park := some r }) s))

theorem markPark_qps (core slot : Nat) (r : ParkRec) (g : Group) (s : State) : (markPark core slot r g s).qps = s.qps := by
  unfold markPark
  rw [qps_of_records (spadWrite_records ..)]
  rfl

theorem markPark_cmds (core slot : Nat) (r : ParkRec) (g : Group) (s : State) : (markPark core slot r g s).cmds = s.cmds := spadWrite_cmds ..

theorem groupOf_markPark {core slot : Nat} {g : Group} (hg : groupOf core slot s = some g) (r : ParkRec) (m : Nat) :
    groupOf core m (markPark core slot r g s) = (groupOf core m s).map (parkedIn g.cmd slot r m) := by
  unfold markPark
  rw [groupOf_congr (cores_of_records (spadWrite_records ..)), groupOf_stopGroups, groupOf_mapGroup hg, Option.map_map]
  congr 1
  funext x
  by_cases hx : x.cmd = g.cmd <;> by_cases hm : m = slot <;> simp [parkedIn, hx, hm]

/-- In a scratchpad without flaws the record is one write of 16 bytes. -/
theorem markPark_of_flawless (core slot : Nat) (r : ParkRec) (g : Group) (hs : s.flawless) :
    (markPark core slot r g s).mem = { s.mem with spad := memWrite s.mem.spad (spadIx core (slotBase slot + 0x1E00)) (parkBytes slot g.seat (some r)) } := by
  unfold markPark
  rw [spadWrite_of_flawless]
  · rfl
  · exact hs

theorem parkSeat_of_group {core slot : Nat} {g : Group} (hg : groupOf core slot s = some g) : parkSeat g.cmd core slot s = g.seat := by
  simp [parkSeat, groupFor, hg]

/-- The park of a group of a best-effort command, the command's first: the command stays and owes a report (R169, R170). -/
theorem park_bestEffort {core slot : Nat} {g : Group} {c : Cmd} (hg : groupOf core slot s = some g) (hc : cmdOf g.cmd s = some c) (hbe : c.guarNow = false) (hp : c.park = none)
    (r : ParkRec) : park core slot r s = setCmd g.cmd { c with st := .parked, park := some (core, slot, r), parkOwed := true } (markPark core slot r g s) := by
  unfold park
  rw [hg]
  dsimp only
  unfold parkOf
  rw [parkSeat_of_group hg]
  extract_lets +onlyGivenNames _ s1
  have h1 : cmdOf g.cmd s1 = some c := (cmdOf_congr (markPark_cmds core slot r g s)).trans hc
  rw [h1]
  dsimp only
  rw [hbe, hp]
  rfl

/-- The park of a group of a guaranteed command ends it with FAULT_PARK (R169). -/
theorem park_guaranteed {core slot : Nat} {g : Group} {c : Cmd} (hg : groupOf core slot s = some g) (hc : cmdOf g.cmd s = some c) (hguar : c.guarNow = true) (r : ParkRec) :
    park core slot r s = finishWith g.cmd stFaultPark (parkWord0 r slot g.seat) r.detail (loseOutputs g.cmd false (markPark core slot r g s)) := by
  unfold park
  rw [hg]
  dsimp only
  unfold parkOf
  rw [parkSeat_of_group hg]
  extract_lets +onlyGivenNames _ s1
  have h1 : cmdOf g.cmd s1 = some c := (cmdOf_congr (markPark_cmds core slot r g s)).trans hc
  rw [h1]
  exact if_pos hguar

theorem owe_cmds (q : Nat) (c : Compl) (s : State) : (owe q c s).cmds = s.cmds := by
  obtain ⟨_, e⟩ := owe_frame q c s
  rw [e]

theorem reapGraphs_cmds (s : State) : (reapGraphs s).cmds = s.cmds := by
  obtain ⟨_, e⟩ := reapGraphs_frame s
  rw [e]

theorem reapGraphs_qps (s : State) : (reapGraphs s).qps = s.qps := by
  obtain ⟨_, e⟩ := reapGraphs_frame s
  rw [e]

/-- A command that has ended is gone. -/
theorem cmdOf_finishWith {n : Nat} {c : Cmd} (hc : cmdOf n s = some c) (hk : keysFrom 0 s.cmds = true) (status out0 out1 : Nat) :
    cmdOf n (finishWith n status out0 out1 s) = none := by
  unfold finishWith
  rw [hc]
  dsimp only
  rw [cmdOf_congr (reapGraphs_cmds _)]
  refine tabFind_del_same n 0 _ ?_
  rwa [owe_cmds]

/-- The completion of a command that has ended stands last with its queue pair. -/
theorem qps_finishWith {n : Nat} {c : Cmd} {p : QPair} (hc : cmdOf n s = some c) (hp : tabFind c.q s.qps = some p) (status out0 out1 : Nat) :
    ∃ p' e, tabFind c.q (finishWith n status out0 out1 s).qps = some p' ∧ p'.owed = p.owed ++ [e] ∧ e.cid = c.cid ∧ e.status = status ∧ e.out0 = out0 ∧ e.out1 = out1 := by
  unfold finishWith
  rw [hc]
  dsimp only
  rw [reapGraphs_qps]
  exact ⟨_, _, owe_same _ hp, rfl, rfl, rfl, rfl, rfl⟩

section
variable {core slot : Nat} {g : Group} {c : Cmd} (hg : groupOf core slot s = some g) (hc : cmdOf g.cmd s = some c) (hbe : c.guarNow = false) (hp : c.park = none) (r : ParkRec)
include hg hc hbe hp

/-- A park changes the groups of its command only: one takes the record, all stop. -/
theorem groupOf_park (m : Nat) : groupOf core m (park core slot r s) = (groupOf core m s).map (parkedIn g.cmd slot r m) := by
  rw [park_bestEffort hg hc hbe hp]
  exact groupOf_markPark hg r m

theorem groupOf_park_own : groupOf core slot (park core slot r s) = some { g with park := some r, stopped := true } := by
  rw [groupOf_park hg hc hbe hp, hg, Option.map_some, parkedIn_own r rfl]

theorem groupOf_park_stopped {m : Nat} {x : Group} (hx : groupOf core m (park core slot r s) = some x) (hcmd : x.cmd = g.cmd) : x.stopped = true := by
  rw [groupOf_park hg hc hbe hp, Option.map_eq_some_iff] at hx
  obtain ⟨y, -, rfl⟩ := hx
  exact parkedIn_stopped hcmd

theorem cmdOf_park : cmdOf g.cmd (park core slot r s) = some { c with st := .parked, park := some (core, slot, r), parkOwed := true } := by
  rw [park_bestEffort hg hc hbe hp]
  exact cmdOf_setCmd_same ..

theorem mem_park_of_flawless (hs : s.flawless) : (park core slot r s).mem =
    { s.mem with spad := memWrite s.mem.spad (spadIx core (slotBase slot + 0x1E00)) (parkBytes slot g.seat (some r)) } := by
  rw [park_bestEffort hg hc hbe hp]
  exact markPark_of_flawless core slot r g hs

end

section
variable {core slot : Nat} {g : Group} {c : Cmd} (hg : groupOf core slot s = some g) (hc : cmdOf g.cmd s = some c) (hguar : c.guarNow = true) (r : ParkRec)
include hg hc hguar

/-- With the park of a group of a guaranteed command the command is gone. -/
theorem cmdOf_park_guaranteed (hk : keysFrom 0 s.cmds = true) : cmdOf g.cmd (park core slot r s) = none := by
  have hcmds := (cmds_of_records (loseOutputs_records g.cmd false (markPark core slot r g s))).trans (markPark_cmds ..)
  rw [park_guaranteed hg hc hguar]
  exact cmdOf_finishWith ((cmdOf_congr hcmds).trans hc) (hcmds ▸ hk) ..

/-- Its completion carries FAULT_PARK and the record. -/
theorem qps_park_guaranteed {p : QPair} (hq : tabFind c.q s.qps = some p) :
    ∃ p' e, tabFind c.q (park core slot r s).qps = some p' ∧ p'.owed = p.owed ++ [e] ∧ e.cid = c.cid ∧ e.status = stFaultPark ∧ e.out0 = parkWord0 r slot g.seat ∧
      e.out1 = r.detail := by
  have hrec := loseOutputs_records g.cmd false (markPark core slot r g s)
  have hcmds := (cmds_of_records hrec).trans (markPark_cmds ..)
  have hqps := (qps_of_records hrec).trans (markPark_qps ..)
  rw [park_guaranteed hg hc hguar]
  exact qps_finishWith ((cmdOf_congr hcmds).trans hc) (hqps ▸ hq) ..

end

/-- The group of an instruction that parks, with the cycle of its issue counted towards the stall trap (R165). -/
def countIssue (g : Group) : Group := { g with stall := stallStep false g }

/-- An instruction that parks is a park of its group, where it stands, on the state in which it issued. -/
theorem parkAt_of_group {i : Iss} {g : Group} (hg : groupOf i.core i.slot s = some g) (code lane detail : Nat) :
    parkAt i code lane detail s = park i.core i.slot ⟨code, lane, pcOf g, detail⟩ (setIssued i (countIssue g) s) := by
  unfold parkAt
  rw [hg]
  rfl

end Sys2Proof.Machine
end

section
/-! SUPPORT. Settles the statements of chapter 06 about parks and about the steering of groups. Nothing but a group's place in the code changes when its running path goes on; a path that does not
meet goes on as it is, and one that waits lets another run. One lemma for each row says what it does at its decision, once its group may issue and a thread votes. -/

namespace Sys2Proof.Machine

variable {s : State} {i : Iss} {g : Group} {p q : Path} {rest : List Path}

/-! ### Place in the code (06 R157, R179) -/

theorem sameButPlace.refl (g : Group) : sameButPlace g g := rfl

theorem sameButPlace.trans {g g' g'' : Group} (h : sameButPlace g g') (h' : sameButPlace g' g'') : sameButPlace g g'' := by
  unfold sameButPlace at *
  rw [h', h]

/-- Changes of the fields that say where a group stands leave the rest. -/
theorem sameButPlace.moved {g g' : Group} (h : sameButPlace g g') (ps : List Path) (n st : Nat) : sameButPlace g { g' with paths := ps, issued := n, stall := st } :=
  h.trans rfl

theorem sameButPlace_enterLoops (old new : Nat) (g : Group) : sameButPlace g (enterLoops old new g) :=
  List.foldlRecOn g.loopTab.zipIdx _ (motive := sameButPlace g) (.refl g) (fun _ h _ _ =>
    iteInduction (motive := sameButPlace g) (fun _ => h.trans rfl) (fun _ => h))

theorem sameButPlace_advance (pc : Nat) (g : Group) : sameButPlace g (advance pc g) := by
  unfold advance
  split
  · exact .refl g
  · exact (sameButPlace_enterLoops ..).moved ..

/-- A path that goes on and does not meet stays the running path, and the others wait as they did. -/
theorem paths_advance (hp : g.paths = p :: rest) {pc : Nat} (hm : noMeet p pc) : (advance pc g).paths = { p with pc := pc } :: rest := by
  have hit : (p.reconv.head? == some pc) = false := by simpa using hm
  simp [advance, hp, hit]

theorem pcOf_eq (hp : g.paths = p :: rest) : pcOf g = p.pc := by
  rw [pcOf, hp]

theorem paths_advance1 (hp : g.paths = p :: rest) (hm : noMeet p (p.pc + 1)) : (advance1 g).paths = { p with pc := p.pc + 1 } :: rest := by
  rw [advance1, pcOf_eq hp]
  exact paths_advance hp hm

/-! ### The running path (06 R152, R157, R162) -/

theorem groupOf_of_ready {c : Instr} (h : ready c s = some g) : groupOf (issOf c).core (issOf c).slot s = some g := by
  obtain ⟨hg, -⟩ := ready_some h
  exact hg

theorem wait_of_ready {c : Instr} (h : ready c s = some g) (hp : g.paths = p :: rest) : p.wait = .run := by
  obtain ⟨-, -, -, -, -, -, hu, -⟩ := ready_some h
  unfold unheld at hu
  rw [hp] at hu
  simp only [Bool.and_eq_true, beq_iff_eq] at hu
  exact hu.2

theorem code_of_ready {c : Instr} (h : ready c s = some g) (hp : g.paths = p :: rest) : g.code[p.pc]? = some (encodeCode c) := by
  obtain ⟨-, -, -, -, -, -, -, -, p', rest', hp', hcode⟩ := ready_some h
  rw [hp] at hp'
  cases hp'
  exact hcode

theorem votes_of_ne_nil (h : votingLanes g i ≠ []) : (votingLanes g i).isEmpty = false := by
  simpa using h

theorem votingLanes_eq (hp : g.paths = p :: rest) : votingLanes g i = (lanesOf p.mask).filter (fun l => guardOf g i l) := by
  rw [votingLanes, hp]

theorem wakeSpun_running (h : q.wait = .run) : wakeSpun [q] = [q] := by
  simp [wakeSpun, h]

/-- The one other path, which can run, runs in place of one that waits. -/
theorem pickPath_yields (hp : p.wait ≠ .run) (hq : q.wait = .run) : pickPath [p, q] = [q, p] := by
  simp [pickPath, hp, hq]

theorem pickPath_alone (p : Path) : pickPath [p] = [p] := by
  simp [pickPath]

/-- A path without meeting points runs on alone. -/
theorem settlePaths_alone (hw : p.wait = .run) (hr : p.reconv = []) : settlePaths [p] = [p] := by
  have arrive : arriveJoin [p] = [p] := by simp [arriveJoin, atReconv, hr]
  have release : releaseJoin [p] = [p] := by simp [releaseJoin, hw]
  have rounds : ∀ n, joinPaths n [p] = [p] := by
    intro n
    induction n with
    | zero => rfl
    | succ n ih => rwa [joinPaths, arrive, show mergePaths [p] = [p] from rfl, release]
  unfold settlePaths
  rw [rounds]
  dsimp only
  rw [hw]
  exact pickPath_alone p

/-! ### Branches (07 R206, R207) -/

theorem countLoop_forward {pc target : Nat} (h : pc < target) (g : Group) : countLoop pc target g = (some g, 0) := if_pos h

/-- A branch that not every thread of the path takes is taken by fewer of them. -/
theorem votingLanes_length_ne (hp : g.paths = p :: rest) (h : votingLanes g i ≠ lanesOf p.mask) : (votingLanes g i).length ≠ (lanesOf p.mask).length := by
  rw [votingLanes_eq hp] at h ⊢
  exact fun e => h (List.filter_eq_self.mpr (List.length_filter_eq_length_iff.mp e))

/-- A split away from the branch's meeting point adds one path. -/
theorem length_splitPath {target reconv : Nat} (hp : g.paths = p :: rest) (hn : reconv ≠ p.pc + 1) (ht : reconv ≠ target) (taken : List Nat) :
    (splitPath target reconv taken g).paths.length = rest.length + 2 := by
  simp [splitPath, hp, hn, ht]

/-! ### Barriers (06 R159, R160) -/

/-- While the running path of a group runs, no barrier of it completes or diverges. -/
theorem barrierCheck_running (hg : groupOf i.core i.slot s = some g) (hp : g.paths = p :: rest) (hw : p.wait = .run) : barrierCheck i s = s := by
  have hb : atBarrier p = false := by simp [atBarrier, hw]
  simp [barrierCheck, hg, diverged, allAtOne, hp, hb]

/-- A path that waits at a barrier lets the other one run. -/
theorem waitAt_yields {w : PWait} (hp : g.paths = [p, q]) (hq : q.wait = .run) (hw : w ≠ .run) (s : State) :
    ∃ g', waitAt i w g s = .next (setIssued i g' s) ∧ sameButPlace g g' ∧ g'.paths = [q, { p with wait := w }] := by
  refine ⟨{ g with paths := [q, { p with wait := w }], issued := 0 }, ?_, .moved (.refl g) .., rfl⟩
  unfold waitAt
  rw [hp]
  dsimp only
  rw [wakeSpun_running hq, pickPath_yields hw hq, barrierCheck_running (groupOf_setIssued ..) rfl hq]

theorem b2n_lt_two (b : Bool) : b2n b < 2 := by cases b <;> decide

/-- A word of 52 bits behind its header (T7-3): opcode, guard's sense and guard stand above them. -/
theorem pack_hdr (op : Nat) (i : Iss) {fields : List (Nat × Nat)} (hw : fieldsWidth fields = 52) :
    pack (hdr op i ++ fields) = op % 2 ^ 8 * 2 ^ 56 + (b2n i.gneg % 2 ^ 1 * 2 ^ 55 + (i.guard % 2 ^ 3 * 2 ^ 52 + pack fields)) := by
  change op % 2 ^ 8 * 2 ^ (1 + (3 + fieldsWidth fields)) + (b2n i.gneg % 2 ^ 1 * 2 ^ (3 + fieldsWidth fields) + (i.guard % 2 ^ 3 * 2 ^ fieldsWidth fields + pack fields)) = _
  rw [hw]

theorem encodeNat_barG (hg : i.guard < 8) : encodeNat (.barG i) = 0x500 * 2 ^ 52 + b2n i.gneg * 2 ^ 55 + i.guard * 2 ^ 52 + 0x7EFDFBF000000 := by
  have hneg := b2n_lt_two i.gneg
  have fields : pack [(7, 0x3F), (7, 0x3F), (7, 0x3F), (7, 0x3F), (24, 0)] = 0x7EFDFBF000000 := rfl
  have word := pack_hdr 0x50 i (fields := [(7, 0x3F), (7, 0x3F), (7, 0x3F), (7, 0x3F), (24, 0)]) rfl
  rw [fields] at word
  refine Eq.trans word ?_
  omega

/-- The word of BAR.G carries the instruction's guard (T7-3, T7-9). -/
theorem wordIss_barG (hok : i.ok = true) : wordIss 0 0 (encodeCode (.barG i)) = ⟨0, 0, i.gneg, i.guard⟩ := by
  have hguard : i.guard < 8 := by
    simp only [Iss.ok, Bool.and_eq_true, decide_eq_true_eq] at hok
    exact hok.1
  have hneg := b2n_lt_two i.gneg
  have word : (encodeCode (.barG i)).toNat = 0x500 * 2 ^ 52 + b2n i.gneg * 2 ^ 55 + i.guard * 2 ^ 52 + 0x7EFDFBF000000 := by
    rw [encodeCode, BitVec.toNat_ofNat, encodeNat_barG hguard]
    omega
  have sense : bit (encodeCode (.barG i)).toNat 55 = i.gneg := by
    have h55 : (encodeCode (.barG i)).toNat / 2 ^ 55 % 2 = b2n i.gneg := by omega
    rw [bit, h55]
    cases i.gneg <;> rfl
  have guard : bits (encodeCode (.barG i)).toNat 54 52 = i.guard := by
    rw [bits]
    omega
  rw [wordIss, sense, guard]
/-- Where every thread of a path votes for the BAR.G at which it stands, every thread arrives (R159, R186). -/
theorem allArrive_barG {g' : Group} (hcode : g.code[p.pc]? = some (encodeCode (.barG i))) (hok : i.ok = true) (hp : g.paths = p :: rest) (hv : votingLanes g i = lanesOf p.mask)
    (hc : g'.code = g.code) (hpred : g'.p = g.p) {w : PWait} : allArrive g' { p with wait := w } = true := by
  have hguard : ∀ l, guardOf g' (wordIss 0 0 (encodeCode (.barG i))) l = guardOf g i l := by
    intro l
    rw [wordIss_barG hok]
    simp [guardOf, rdP, hpred]
  rw [votingLanes_eq hp, List.filter_eq_self] at hv
  simp only [allArrive, hc, hcode, hguard, List.all_eq_true]
  exact hv

theorem sameButPlace_passBarrier (g : Group) : sameButPlace g (passBarrier g) := by
  refine sameButPlace.moved ?_ _ 0 0
  exact List.foldlRecOn _ _ (motive := sameButPlace g) (.refl g) (fun _ h _ _ => h.trans (sameButPlace_enterLoops ..))

/-- A group whose one path waits at a BAR.G with every thread passes it. -/
theorem barrierCheck_completes (hg : groupOf i.core i.slot s = some g) (hp : g.paths = [p]) (hw : p.wait = .barG) (ha : allArrive g p = true) :
    barrierCheck i s = setGroup i.core i.slot (passBarrier g) s := by
  simp [barrierCheck, hg, diverged, allAtOne, hp, atBarrier, hw, ha]

/-- Where every thread of the group's one path votes for a BAR.G, it completes at once: the path goes on (R159). -/
theorem waitAt_completes (h : ready (.barG i) s = some g) (hok : i.ok = true) (hp : g.paths = [p]) (hr : p.reconv = []) (hv : votingLanes g i = lanesOf p.mask) :
    ∃ g', waitAt i .barG g s = .next (setIssued i g' s) ∧ sameButPlace g g' ∧ g'.paths = [{ p with pc := p.pc + 1 }] := by
  refine ⟨passBarrier { g with paths := [{ p with wait := .barG }], issued := 0 }, ?_, (sameButPlace.moved (.refl g) ..).trans (sameButPlace_passBarrier _), ?_⟩
  · have arrive := allArrive_barG (g' := { g with paths := [{ p with wait := .barG }], issued := 0 }) (w := .barG) (code_of_ready h hp) hok hp hv rfl rfl
    unfold waitAt
    rw [hp]
    dsimp only
    rw [show wakeSpun [] = [] from rfl, pickPath_alone, barrierCheck_completes (groupOf_setIssued ..) rfl rfl arrive, setGroup_setIssued]
  · change settlePaths [{ p with pc := p.pc + 1, wait := .run }] = _
    rw [settlePaths_alone (p := { p with pc := p.pc + 1, wait := .run }) rfl hr, ← wait_of_ready h hp]

/-! ### SPIN (06 R162) -/

/-- The path that spins is suspended and the one other path runs. -/
theorem rotateSpin_yields (hp : g.paths = [p, q]) (hq : q.wait = .run) : (rotateSpin g).paths = [q, { p with wait := .spun }] := by
  simp [rotateSpin, hp, hq]

theorem sameButPlace_rotateSpin (g : Group) : sameButPlace g (rotateSpin g) := by
  unfold rotateSpin
  split
  · exact .refl g
  split
  · exact .refl g
  · exact .moved (.refl g) ..

/-- Beside a runnable path SPIN suspends its own at the next instruction and the other one runs (R162). -/
theorem exec_spin_yields (h : ready (.spin i) s = some g) (hp : g.paths = [p, q]) (hq : q.wait = .run) (hv : votingLanes g i ≠ []) (hm : noMeet p (p.pc + 1)) :
    ∃ g', exec (.spin i) s = .next (setIssued i g' s) ∧ sameButPlace g g' ∧ g'.paths = [q, { p with pc := p.pc + 1, wait := .spun }] := by
  have hw : p.wait = .run := wait_of_ready h hp
  refine ⟨rotateSpin { advance1 g with paths := [{ p with pc := p.pc + 1 }, q] }, ?_, ?_, rotateSpin_yields (p := { p with pc := p.pc + 1 }) rfl hq⟩
  · change execSpin i s = _
    simp [execSpin, h, hv, hp, paths_advance1 hp hm, wakeSpun, hw, hq]
  · exact (sameButPlace.moved (sameButPlace_advance ..) ..).trans (sameButPlace_rotateSpin _)

/-- A path that issues SPIN alone stands at the next instruction, and its group idles (R162). -/
theorem exec_spin_alone (h : ready (.spin i) s = some g) (hp : g.paths = [p]) (hv : votingLanes g i ≠ []) (hm : noMeet p (p.pc + 1)) :
    exec (.spin i) s = .next (setIssued i { advance1 g with paths := [{ p with pc := p.pc + 1 }], idle := true } s) := by
  have hw : p.wait = .run := wait_of_ready h hp
  change execSpin i s = _
  simp [execSpin, h, hv, hp, paths_advance1 hp hm, wakeSpun, hw]

/-- After 1,024 instructions of the running path the suspended paths become runnable (R162). -/
theorem exec_pathSwitchCount_reached {core slot : Nat} (hg : groupOf core slot s = some g) (hn : 1024 ≤ g.issued) :
    exec (.pathSwitchCount core slot) s = .next (setGroup core slot { g with paths := wakeSpun g.paths } s) := by
  change execPathSwitchCount core slot s = _
  unfold execPathSwitchCount
  rw [hg]
  exact if_neg (Nat.not_lt.mpr hn)

theorem exec_spinIdleEnd_group {core slot : Nat} (hg : groupOf core slot s = some g) :
    exec (.spinIdleEnd core slot) s = .next (setGroup core slot { g with idle := false } s) := by
  change execSpinIdleEnd core slot s = _
  unfold execSpinIdleEnd
  rw [hg]

/-! ### Counters (06 R166) -/

/-- A counter has reached a value when it is not behind it in the wrapping order. -/
theorem ctrReached_iff (c v : W32) : ctrReached c v = true ↔ 0 ≤ (c - v).toInt := by
  simp [ctrReached, BitVec.msb_eq_toInt]

theorem ctr_wakeCtrs {core n : Nat} (hg : groupOf core n s = some g) : (coreOf core (wakeCtrs core s)).ctr = (coreOf core s).ctr :=
  (congrArg Core.ctr (coreOf_mapGroups (f := fun e => (e.1, ctrGo (coreOf core s).ctr e.2)) hg (fun _ => rfl))).trans rfl

/-- A waiter on a counter whose stall count an increment clears (R164). -/
def clearStall (ctr : Nat) (inc : Bool) (e : Nat × Group) : Nat × Group :=
  if inc && (match e.2.ctrWait with | some (c, _) => c == ctr | none => false) then (e.1, { e.2 with stall := 0 }) else e

theorem wakeCtr_mem (core ctr : Nat) (inc : Bool) (s : State) : (wakeCtr core ctr inc s).mem = s.mem := rfl

theorem wakeCtr_eq (core ctr : Nat) (inc : Bool) (s : State) :
    wakeCtr core ctr inc s = wakeCtrs core (setCore core ((coreOf core s).mapGroups (clearStall ctr inc)) s) := rfl

theorem clearStall_fst (ctr : Nat) (inc : Bool) (e : Nat × Group) : (clearStall ctr inc e).1 = e.1 := ite_eq_of Prod.fst rfl rfl

/-- The groups that a counter lets on leave the counters as they are. -/
theorem ctr_wakeCtr {core n : Nat} (hg : groupOf core n s = some g) (ctr : Nat) (inc : Bool) : (coreOf core (wakeCtr core ctr inc s)).ctr = (coreOf core s).ctr := by
  rw [wakeCtr_eq, ctr_wakeCtrs (groupOf_mapGroups hg (clearStall_fst ctr inc)), coreOf_mapGroups hg (clearStall_fst ctr inc)]
  rfl

/-- Counters that a core with a group takes stand when the groups on them have gone on. -/
theorem ctr_wakeCtr_setCore {core n : Nat} (hg : groupOf core n s = some g) (m : Tab W32) (ctr : Nat) (inc : Bool) :
    (coreOf core (wakeCtr core ctr inc (setCore core { coreOf core s with ctr := m } s))).ctr = m := by
  have hk : coreOf core (setCore core { coreOf core s with ctr := m } s) = { coreOf core s with ctr := m } :=
    coreOf_setCore_of_group (k := { coreOf core s with ctr := m }) (n := n) hg s
  have hg' : groupOf core n (setCore core { coreOf core s with ctr := m } s) = some g := by
    rw [groupOf, hk]
    exact hg
  rw [ctr_wakeCtr hg', hk]

/-- The value that CTR.SET and CTR.WAIT take: their immediate where the register operand is ZERO (R205). -/
def ctrOperand (g : Group) (a : Sel) (v : Nat) : W32 := if a = .zero then BitVec.ofNat 32 v else rdR g 0 a

theorem exec_ctrSet_voting {a : Sel} {ctr v : Nat} (h : ready (.ctrSet i a ctr v) s = some g) (hv : votingLanes g i ≠ []) :
    exec (.ctrSet i a ctr v) s = .next (wakeCtr i.core ctr false (setCore i.core
      { coreOf i.core (setIssued i (advance1 g) s) with ctr := tabSet 0 ctr (ctrOperand g a v) (coreOf i.core (setIssued i (advance1 g) s)).ctr }
      (setIssued i (advance1 g) s))) := by
  change execCtrSet i a ctr v s = _
  unfold execCtrSet
  rw [h]
  dsimp only
  rw [votes_of_ne_nil hv, if_neg Bool.false_ne_true]
  rfl

/-- CTR.SET sets the one counter (R166). -/
theorem ctr_of_ctrSet {a : Sel} {ctr v : Nat} (h : ready (.ctrSet i a ctr v) s = some g) (hv : votingLanes g i ≠ []) :
    ∃ t, exec (.ctrSet i a ctr v) s = .next t ∧ t.mem = s.mem ∧ (coreOf i.core t).ctr = tabSet 0 ctr (ctrOperand g a v) (coreOf i.core s).ctr := by
  refine ⟨_, exec_ctrSet_voting h hv, wakeCtr_mem .., ?_⟩
  rw [ctr_wakeCtr_setCore (groupOf_setIssued i (advance1 g) s), coreOf_setIssued]

theorem exec_ctrWait_voting {a : Sel} {ctr v : Nat} (h : ready (.ctrWait i a ctr v) s = some g) (hv : votingLanes g i ≠ []) :
    exec (.ctrWait i a ctr v) s = if ctrReached (tabGet 0 ctr (coreOf i.core s).ctr) (ctrOperand g a v) then .next (setIssued i (advance1 g) s)
      else .next (setIssued i { g with ctrWait := some (ctr, ctrOperand g a v) } s) := by
  change execCtrWait i a ctr v s = _
  unfold execCtrWait
  rw [h]
  dsimp only
  rw [votes_of_ne_nil hv, Bool.false_or]
  rfl

/-! ### The rows at their decision (06 R158, R159, R173, R174; 07 R206..R208, R211) -/

theorem exec_call_ready {target : Nat} (h : ready (.call i target) s = some g) (hp : g.paths = p :: rest) :
    exec (.call i target) s = if 8 ≤ p.stack.length then .next (parkAt i 0x10 0 0 s)
      else .next (setIssued i (advance target { g with paths := { p with stack := (p.pc + 1) :: p.stack } :: rest }) s) := by
  change execCall i target s = _
  unfold execCall
  rw [h]
  dsimp only
  rw [hp]

theorem exec_ret_empty (h : ready (.ret i) s = some g) (hp : g.paths = p :: rest) (hs : p.stack = []) : exec (.ret i) s = .next (parkAt i 0x10 0 0 s) := by
  change execRet i s = _
  unfold execRet
  rw [h]
  dsimp only
  rw [hp]
  dsimp only
  rw [hs]

theorem exec_bri_beyond {r : Sel} {reconv : Nat} (h : ready (.bri i r reconv) s = some g) (ht : g.code.length ≤ (rdR g 0 r).toNat % 4096) :
    exec (.bri i r reconv) s = .next (parkAt i 0x10 0 0 s) := by
  change execBri i r reconv s = _
  unfold execBri
  rw [h]
  exact if_pos ht

/-- A forward BRA that only some of the path's threads take splits it, or parks where that makes too many paths (R157, R158). -/
theorem exec_bra_split {target reconv : Nat} (h : ready (.bra i target reconv) s = some g) (hp : g.paths = p :: rest) (hv : votingLanes g i ≠ [])
    (hsome : votingLanes g i ≠ lanesOf p.mask) (hf : p.pc < target) :
    exec (.bra i target reconv) s = if g.d < (splitPath target reconv (votingLanes g i) g).paths.length then .next (parkAt i 0x04 0 0 s)
      else .next (setIssued i (branched p.pc target g (splitPath target reconv (votingLanes g i) g)) s) := by
  change execBra i target reconv s = _
  unfold execBra
  rw [h]
  dsimp only
  rw [votes_of_ne_nil hv, if_neg Bool.false_ne_true, pcOf_eq hp, countLoop_forward hf, hp]
  dsimp only
  rw [if_neg (votingLanes_length_ne hp hsome)]

theorem exec_barG_voting (h : ready (.barG i) s = some g) (hv : votingLanes g i ≠ []) : exec (.barG i) s = if relHeld i 0 g s then .next s else waitAt i .barG g s := by
  change execBarG i s = _
  unfold execBarG
  rw [h]
  dsimp only
  rw [votes_of_ne_nil hv, if_neg Bool.false_ne_true]

theorem exec_barB_voting {b n : Nat} (h : ready (.barB i b n) s = some g) (hv : votingLanes g i ≠ []) :
    exec (.barB i b n) s = if relHeld i 1 g s then .next s else waitAt i (.barB b (if n = 0 then g.n else n)) g s := by
  change execBarB i b n s = _
  unfold execBarB
  rw [h]
  dsimp only
  rw [votes_of_ne_nil hv, if_neg Bool.false_ne_true]

/-- The value that ST.PATCH reads for a field: 24 bits, a word or an address (R173, R205). -/
def patchValue (g : Group) (a : Sel) (field : Nat) : Nat :=
  if field = 0 then (rdR g 0 a).toNat % 2 ^ 24 else if field = 1 then (rdR g 0 a).toNat else rdWide g 0 a 2

theorem exec_stPatch_voting {a : Sel} {node field : Nat} {c : Cmd} {rg : RegGraph} {q : SeatRun} (h : ready (.stPatch i a node field) s = some g) (hv : votingLanes g i ≠ [])
    (hc : cmdOf g.cmd s = some c) (hrg : cmdGraph c s = some rg) (hq : tabFind g.seat c.seats = some q) :
    exec (.stPatch i a node field) s = if patchOk g c rg.graph node field (patchValue g a field) s then
        .next (setCmd g.cmd { c with seats := tabPut g.seat { q with patches := tabPut (8 * node + field) (patchValue g a field) q.patches } c.seats }
          (setIssued i (advance1 g) s))
      else .next (parkAt i 0x08 0 0 s) := by
  change execStPatch i a node field s = _
  unfold execStPatch
  rw [h]
  dsimp only
  rw [votes_of_ne_nil hv, if_neg Bool.false_ne_true, hc]
  dsimp only
  rw [hrg, hq]
  rfl

theorem exec_stSkip_voting {st : Nat} {c : Cmd} (h : ready (.stSkip i st) s = some g) (hv : votingLanes g i ≠ []) (hc : cmdOf g.cmd s = some c) :
    exec (.stSkip i st) s = if st ≤ c.step then .next (parkAt i 0x08 0 0 s)
      else .next (setCmd g.cmd { c with skips := if c.skips.contains st then c.skips else c.skips ++ [st] } (setIssued i (advance1 g) s)) := by
  change execStSkip i st s = _
  unfold execStSkip
  rw [h]
  dsimp only
  rw [votes_of_ne_nil hv, if_neg Bool.false_ne_true, hc]

theorem exec_bkpt_voting {code : BitVec 16} (h : ready (.bkpt i code) s = some g) (hv : votingLanes g i ≠ []) :
    exec (.bkpt i code) s = .next (parkAt i 0x16 0 code.toNat s) := by
  change execBkpt i code s = _
  unfold execBkpt
  rw [h]
  dsimp only
  rw [votes_of_ne_nil hv, if_neg Bool.false_ne_true]

/-! ### The stall trap (06 R160, R165) -/

/-- The record of a group that the stall trap parks: BARRIER_DIVERGED while a path waits at a barrier, else STALL (T6-3). -/
def stallRecord (g : Group) : ParkRec := ⟨if g.paths.any atBarrier then 0x01 else 0x02, 0, pcOf g, 0⟩

/-- Without an armed injection the trap fires once the stall count is reached, on a state that differs by the stall's record only. -/
theorem exec_stallTrap_fires {core slot : Nat} (hg : groupOf core slot s = some g) (hp : g.park = none) (hs : g.stopped = false) (hst : 100 * 2 ^ 20 ≤ g.stall) (hinj : s.flt.injs = []) :
    ∃ r, exec (.stallTrap core slot) s = .next (park core slot (stallRecord g) (logRec r s)) := by
  change ∃ r, execStallTrap core slot s = _
  unfold execStallTrap
  rw [hg]
  dsimp only
  rw [takeInj_none _ _ _ hinj, hp, hs]
  simp only [Option.isSome_none, Bool.or_self, Bool.false_or, Option.isNone_none, Bool.and_true, decide_eq_true_eq]
  rw [if_neg (Nat.not_lt.mpr hst)]
  exact ⟨_, rfl⟩

theorem exec_stallTrap_waits {core slot : Nat} (hg : groupOf core slot s = some g) (hst : g.stall < 100 * 2 ^ 20) (hinj : s.flt.injs = []) :
    exec (.stallTrap core slot) s = .next s := by
  change execStallTrap core slot s = _
  unfold execStallTrap
  rw [hg]
  dsimp only
  rw [takeInj_none _ _ _ hinj, if_pos (by simpa using Or.inr hst)]

end Sys2Proof.Machine

namespace Sys2Proof.Proofs.ThreadGroups
open Sys2Proof Sys2Proof.Machine

/-- Settles O6: each of the four rows is its park at its decision; a park is the record in group and slot area beside stopped groups, and then the command's park or its end. -/
theorem badTargetsPark : Obligations.BadTargetsPark := by
  unfold Obligations.BadTargetsPark
  refine ⟨?call, ?ret, ?bri, ?bra, ?bestEffort, ?guaranteed⟩
  case call =>
    intro i target s g p rest h hp hfull
    rw [exec_call_ready h hp, if_pos hfull]
  case ret =>
    intro i s g p rest h hp hs
    exact exec_ret_empty h hp hs
  case bri =>
    intro i r reconv s g p rest h _ ht
    exact exec_bri_beyond h ht
  case bra =>
    intro i target reconv s g p rest h hp hv hsome hf ht hn hd
    rw [exec_bra_split h hp hv hsome hf, length_splitPath hp hn ht, if_pos hd]
  case bestEffort =>
    intro i code lane detail s g c hg hc hbe hp hs hm r t
    have hg' := groupOf_setIssued i (countIssue g) s
    have ht : t = park i.core i.slot r (setIssued i (countIssue g) s) := parkAt_of_group hg code lane detail
    rw [ht, mem_park_of_flawless hg' hc hbe hp r hs]
    exact ⟨_, groupOf_park_own hg' hc hbe hp r, rfl, rfl, rfl, rfl, rfl, rfl, fun n x hx hcmd => groupOf_park_stopped hg' hc hbe hp r hx hcmd,
      cmdOf_park hg' hc hbe hp r, memRead_write (parkBytes i.slot g.seat (some r)) _ _ hm, rfl⟩
  case guaranteed =>
    intro i code lane detail s g c p hg hc hguar hq hk
    have hg' := groupOf_setIssued i (countIssue g) s
    rw [parkAt_of_group hg]
    exact ⟨cmdOf_park_guaranteed hg' hc hguar _ hk, qps_park_guaranteed hg' hc hguar _ hq⟩

/-- Settles O7: barriers that complete or hold their path, SPIN, counters, patches, skips, BKPT and the stall trap, each from its row at its decision. -/
theorem groupSteering : Obligations.GroupSteering := by
  unfold Obligations.GroupSteering
  refine ⟨?barG_completes, ?barG_yields, ?barB_yields, ?spin_yields, ?spin_alone, ?ctrSet, ?ctrWait, ?patch, ?skip, ?bkpt, ?pathSwitchCount, ?spinIdleEnd,
    ?stallTrap_fires, ?stallTrap_waits, ?barG_held⟩
  case barG_completes =>
    intro i s g p h hok hh hp hr hv hall
    rw [exec_barG_voting h hv, hh, if_neg Bool.false_ne_true]
    exact waitAt_completes h hok hp hr hall
  case barG_yields =>
    intro i s g p q h hh hp hq hv
    rw [exec_barG_voting h hv, hh, if_neg Bool.false_ne_true]
    exact waitAt_yields hp hq PWait.noConfusion s
  case barB_yields =>
    intro i b n s g p q h hh hp hq hv
    rw [exec_barB_voting h hv, hh, if_neg Bool.false_ne_true]
    exact waitAt_yields hp hq PWait.noConfusion s
  case spin_yields =>
    intro i s g p q h hp hq hv hm
    exact exec_spin_yields h hp hq hv hm
  case spin_alone =>
    intro i s g p h hp hv hm
    exact ⟨_, exec_spin_alone h hp hv hm, rfl, rfl⟩
  case ctrSet =>
    intro i a ctr v s g h hv hw
    obtain ⟨t, ht, hmem, hctr⟩ := ctr_of_ctrSet h hv
    rw [tabWf_iff] at hw
    refine ⟨t, ht, hmem, ?_, fun k hk => ?_⟩
    · rw [hctr, tabGet_set_same 0 ctr _ _ hw.1]
      rfl
    · rw [hctr, tabGet_set_other 0 hk]
  case ctrWait =>
    intro i a ctr v s g h hv x
    refine ⟨fun hr p rest hp hm => ⟨advance1 g, ?_, sameButPlace_advance .., paths_advance1 hp hm⟩, fun hb => ?_⟩ <;> rw [exec_ctrWait_voting h hv]
    · exact if_pos ((ctrReached_iff ..).mpr hr)
    · exact if_neg (fun hr => absurd ((ctrReached_iff ..).mp hr) (Int.not_le.mpr hb))
  case patch =>
    intro i a node field s g c rg q h hv hc hrg hq v
    rw [exec_stPatch_voting h hv hc hrg hq]
    refine ⟨fun ok => ?_, fun bad => if_neg (Bool.eq_false_iff.mp bad)⟩
    exact ⟨_, _, _, if_pos ok, cmdOf_setCmd_same .., tabFind_put_same .., tabFind_put_same .., rfl⟩
  case skip =>
    intro i st s g c h hv hc
    rw [exec_stSkip_voting h hv hc]
    refine ⟨fun hlt => ⟨_, _, if_neg (Nat.not_le.mpr hlt), cmdOf_setCmd_same .., ?_, rfl⟩, fun hle => if_pos hle⟩
    by_cases hmem : st ∈ c.skips <;> simp [hmem]
  case bkpt =>
    intro i code s g c h hv hc hbe hp
    have hg : groupOf i.core i.slot s = some g := groupOf_of_ready h
    have hg' := groupOf_setIssued i (countIssue g) s
    rw [exec_bkpt_voting h hv, parkAt_of_group hg]
    exact ⟨_, _, _, rfl, groupOf_park_own hg' hc hbe hp _, rfl, cmdOf_park hg' hc hbe hp _, rfl, rfl⟩
  case pathSwitchCount =>
    intro core slot s g hg hn
    rw [exec_pathSwitchCount_reached hg hn]
    simp only [wakeSpun, beq_iff_eq]
  case spinIdleEnd =>
    intro core slot s g hg
    exact exec_spinIdleEnd_group hg
  case stallTrap_fires =>
    intro core slot s g c hg hp hs hst hc hbe hcp hinj
    obtain ⟨r, ht⟩ := exec_stallTrap_fires hg hp hs hst hinj
    have hg' : groupOf core slot (logRec r s) = some g := (groupOf_congr (logRec_cores r s)).trans hg
    have hc' : cmdOf g.cmd (logRec r s) = some c := (cmdOf_congr (logRec_cmds r s)).trans hc
    exact ⟨_, _, ht, groupOf_park_own hg' hc' hbe hcp _, rfl⟩
  case stallTrap_waits =>
    intro core slot s g hg hst hinj
    exact exec_stallTrap_waits hg hst hinj
  case barG_held =>
    intro i s g h hv hfar
    have hh : relHeld i 0 g s = true := by simp [relHeld, hfar]
    rw [exec_barG_voting h hv, if_pos hh]

end Sys2Proof.Proofs.ThreadGroups
end

section
/-! SUPPORT. What reads, writes and errors leave beyond their own part of the machine. A write of memory (at a home, to a scratchpad, of an undefined output) and what a read records change the
memories, the home's tables and what records take: one lemma `f_beyondMemory` for each operation `f` says that all else stays, where `f_records` and `f_cmds` speak of single tables. A tag that was
freed stays free until it may be used again, whatever the error of its request ends (14 R418). -/

namespace Sys2Proof.Machine

variable {s : State}

/-! ### Reads and writes of memory (08, 09, 10) -/

/-- The machine without what reads and writes of memory change: memories and home tables, fault records with what they send, orders of use and free values. -/
def State.beyondMemory (s : State) : State :=
  { s with
    stamp := 0, fresh := 0, out := [], flash := State.reset.flash, host := State.reset.host, flt := State.reset.flt, mem := State.reset.mem
    coh := { s.coh with home := [], lines := [], dir := [], queue := [] } }

theorem failing_of_beyondMemory {t : State} (h : t.beyondMemory = s.beyondMemory) : t.coh.failing = s.coh.failing := congrArg (fun x => x.coh.failing) h

theorem injectWord_beyondMemory (det target key : Nat) (s : State) : (injectWord det target key s).beyondMemory = s.beyondMemory := by
  rw [injectWord_frame]
  rfl

theorem logMem_beyondMemory (src cls unit index cdom addr syn a b : Nat) (w : Bool) (inj : Option Nat) (s : State) :
    (logMem src cls unit index cdom addr syn a b w inj s).beyondMemory = s.beyondMemory := by
  obtain ⟨_, _, _, _, e⟩ := logMem_frame src cls unit index cdom addr syn a b w inj s
  rw [e]
  rfl

theorem logDec_beyondMemory (src unit index cdom addr : Nat) (d : Dec) (s : State) : (logDec src unit index cdom addr d s).beyondMemory = s.beyondMemory := by
  obtain ⟨_, _, _, _, e⟩ := logDec_frame src unit index cdom addr d s
  rw [e]
  rfl

theorem setTag_withMem_beyondMemory (k : Nat) (t : WTag) (m : Mem) (s : State) : (setTag k t { s with mem := m }).beyondMemory = s.beyondMemory := rfl

theorem spadWriteWord_beyondMemory (core w : Nat) (cells : List Cell) (s : State) : (spadWriteWord core w cells s).beyondMemory = s.beyondMemory := by
  unfold spadWriteWord
  extract_lets +onlyGivenNames _ _
  refine ite_eq_of State.beyondMemory rfl ?_
  extract_lets +onlyGivenNames s1
  have h1 : s1.beyondMemory = s.beyondMemory := logDec_beyondMemory ..
  exact ite_eq_of State.beyondMemory ((setTag_withMem_beyondMemory ..).trans h1) ((setTag_withMem_beyondMemory ..).trans h1)

theorem spadWrite_beyondMemory (core off : Nat) (bytes : List Byte) (s : State) : (spadWrite core off bytes s).beyondMemory = s.beyondMemory := by
  unfold spadWrite
  rw [injectWord_beyondMemory]
  exact ite_eq_of State.beyondMemory (foldl_fixes State.beyondMemory (fun _ _ => spadWriteWord_beyondMemory ..) _ _) rfl

theorem memPutWord_beyondMemory (w v : Nat) (p : Bool) (s : State) : (memPutWord w v p s).beyondMemory = s.beyondMemory := injectWord_beyondMemory ..

theorem homeEvict_beyondMemory (line : Nat) (s : State) : (homeEvict line s).beyondMemory = s.beyondMemory := by
  refine foldl_fixes State.beyondMemory (fun t i => ?_) _ s
  refine (foldl_fixes State.beyondMemory (fun _ _ => memPutWord_beyondMemory ..) _ _).trans ?_
  rw [memPutWord_beyondMemory, logDec_beyondMemory]

theorem homePlace_beyondMemory (direct : Bool) (line : Nat) (s : State) : (homePlace direct line s).2.beyondMemory = s.beyondMemory := by
  unfold homePlace
  refine ite_eq_of (fun x : Option Nat × State => x.2.beyondMemory) rfl ?_
  extract_lets _ _
  split
  · rfl
  split
  · rfl
  · exact homeEvict_beyondMemory ..

theorem homePutWord_beyondMemory (direct : Bool) (w v : Nat) (p : Bool) (s : State) : (homePutWord direct w v p s).beyondMemory = s.beyondMemory := by
  unfold homePutWord
  extract_lets r
  split
  · exact memPutWord_beyondMemory ..
  · exact (injectWord_beyondMemory ..).trans (homePlace_beyondMemory ..)

theorem homeMergeWord_beyondMemory (direct : Bool) (cdom w : Nat) (cells : List Cell) (s : State) : (homeMergeWord direct cdom w cells s).beyondMemory = s.beyondMemory := by
  unfold homeMergeWord
  extract_lets +onlyGivenNames _
  refine ite_eq_of State.beyondMemory (homePutWord_beyondMemory ..) (ite_eq_of State.beyondMemory ?_ rfl)
  extract_lets +onlyGivenNames _ s1
  have h1 : s1.beyondMemory = s.beyondMemory := logDec_beyondMemory ..
  exact ite_eq_of State.beyondMemory ((homePutWord_beyondMemory ..).trans h1) ((homePutWord_beyondMemory ..).trans h1)

theorem homeForward_beyondMemory (w : Nat) (cells : List Cell) (s : State) : (homeForward w cells s).beyondMemory = s.beyondMemory := by
  refine foldl_fixes State.beyondMemory (fun t m => ?_) _ s
  exact ite_eq_of State.beyondMemory (memPutWord_beyondMemory ..) rfl

theorem homeMerge_beyondMemory (direct : Bool) (cdom line : Nat) (cells : List Cell) (s : State) : (homeMerge direct cdom line cells s).beyondMemory = s.beyondMemory := by
  unfold homeMerge
  exact ite_eq_of State.beyondMemory rfl
    (foldl_fixes State.beyondMemory (fun _ _ => (homeForward_beyondMemory ..).trans (homeMergeWord_beyondMemory ..)) _ _)

theorem homeTake_beyondMemory (cdom line : Nat) (cells : List Cell) (pois : Nat) (s : State) : (homeTake cdom line cells pois s).beyondMemory = s.beyondMemory :=
  (foldl_fixes State.beyondMemory (fun _ _ => homePutWord_beyondMemory ..) _ _).trans (homeMerge_beyondMemory ..)

theorem recallAll_beyondMemory (line : Nat) (s : State) : (recallAll line s).beyondMemory = s.beyondMemory := by
  unfold recallAll
  extract_lets e s1
  have h1 : s1.beyondMemory = s.beyondMemory := by
    refine foldl_fixes State.beyondMemory (fun t a => ?_) _ s
    split
    · split
      · exact homeTake_beyondMemory ..
      · rfl
    · exact ite_eq_of State.beyondMemory rfl (ite_eq_of State.beyondMemory (homeTake_beyondMemory ..) rfl)
  exact ite_eq_of State.beyondMemory rfl h1

theorem homePush_beyondMemory (agent cdom dpa : Nat) (bytes : List Byte) (s : State) : (homePush agent cdom dpa bytes s).beyondMemory = s.beyondMemory := by
  refine foldl_fixes State.beyondMemory (fun t i => ?_) _ s
  extract_lets line
  exact ite_eq_of State.beyondMemory rfl ((homeMerge_beyondMemory ..).trans (recallAll_beyondMemory ..))

theorem losePiece_beyondMemory (c : Cmd) (core0 : Nat) (seatMap : List Nat) (s : State) (p : Nat × Nat) : (losePiece c core0 seatMap s p).beyondMemory = s.beyondMemory := by
  unfold losePiece
  extract_lets +onlyGivenNames _
  split
  · exact ite_eq_of State.beyondMemory (homePush_beyondMemory ..) rfl
  · exact spadWrite_beyondMemory ..
  · rfl

theorem loseSpan_beyondMemory (c : Cmd) (seatMap : List Nat) (pl : Place) (s : State) (p : Nat × Nat) : (loseSpan c seatMap pl s p).beyondMemory = s.beyondMemory :=
  ite_eq_of State.beyondMemory (foldl_fixes State.beyondMemory (fun _ _ => losePiece_beyondMemory ..) _ _) (spadWrite_beyondMemory ..)

theorem loseOutputs_beyondMemory (n : Nat) (all : Bool) (s : State) : (loseOutputs n all s).beyondMemory = s.beyondMemory := by
  unfold loseOutputs
  split
  · rfl
  split
  · rfl
  refine foldl_fixes State.beyondMemory (fun t x => ?_) _ s
  split
  · refine ite_eq_of State.beyondMemory rfl ?_
    exact foldl_fixes State.beyondMemory (fun _ _ => foldl_fixes State.beyondMemory (fun _ _ => loseSpan_beyondMemory ..) _ _) _ _
  · rfl

theorem noteWord_beyondMemory (cdom w : Nat) (s : State) : (noteWord cdom w s).beyondMemory = s.beyondMemory := by
  unfold noteWord
  extract_lets +onlyGivenNames _ _ _ _ _ s1
  have h1 : s1.beyondMemory = s.beyondMemory := logMem_beyondMemory ..
  refine ite_eq_of State.beyondMemory (logDec_beyondMemory ..) ?_
  refine ite_eq_of State.beyondMemory (ite_eq_of State.beyondMemory h1 ((memPutWord_beyondMemory ..).trans h1)) ?_
  exact ite_eq_of State.beyondMemory rfl ((homePutWord_beyondMemory ..).trans (logDec_beyondMemory ..))

theorem noteRead_beyondMemory (cdom line mask : Nat) (fwd : List Cell) (s : State) : (noteRead cdom line mask fwd s).beyondMemory = s.beyondMemory :=
  foldl_fixes State.beyondMemory (fun _ _ => foldl_fixes State.beyondMemory (fun _ _ => noteWord_beyondMemory ..) _ _) _ _

/-! ### Messages on links (14 R401) -/

/-- A message that is sent shows on its link and outside, nowhere else. -/
theorem sendMsg_frame (l kind : Nat) (m : RemoteMsg) (s : State) : ∃ k o, sendMsg l kind m s = { s with links := k, out := o } := by
  unfold sendMsg
  extract_lets +onlyGivenNames bs k s1
  obtain ⟨_, _, e⟩ := sendFlits_frame l (ceilDiv bs.length 240) bs (emit (.remote l kind m) s1)
  exact ⟨_, _, e⟩

theorem answerRemote_coh (vc dev tag kind status : Nat) (data : List Byte) (s : State) : (answerRemote vc dev tag kind status data s).coh = s.coh := by
  unfold answerRemote
  split
  · next l dl _ =>
    obtain ⟨_, _, e⟩ := sendMsg_frame l kind ⟨if vc = 1 then 2 else if dl then 6 else 5, dev, s.dev.board.devId, 0, tag, 0, status, 0, 0, data.length, data⟩ s
    rw [e]
  · rfl

/-! ### A tag that was freed (14 R418) -/

/-- At time `n` tag `tag` is free, and no new request may take it yet. -/
def tagRests (tag n : Nat) (s : State) : Prop :=
  s.now = n ∧ tabFind tag s.rreqs = none ∧ s.freedTags.any (fun f => f.1 == tag && decide (s.now < f.2 + Config.ms 1)) = true

theorem tagRests_dropTag (tag : Nat) (hk : keysFrom 0 s.rreqs = true) : tagRests tag s.now (dropTag tag s) := by
  refine ⟨rfl, tabFind_del_same tag 0 _ hk, ?_⟩
  simp [dropTag, Config.ms]

section
variable {tag n : Nat} (hs : tagRests tag n s)
include hs

theorem tagRests_of_beyondMemory {t : State} (h : t.beyondMemory = s.beyondMemory) : tagRests tag n t := by
  have hnow : t.now = s.now := congrArg (fun x => x.now) h
  have hreqs : t.rreqs = s.rreqs := congrArg (fun x => x.rreqs) h
  have hfreed : t.freedTags = s.freedTags := congrArg (fun x => x.freedTags) h
  unfold tagRests
  rwa [hnow, hreqs, hfreed]

/-- A new request takes another tag. -/
theorem freeTag_ne {t : Nat} (h : freeTag s = some t) : t ≠ tag := by
  rintro rfl
  obtain ⟨-, -, hfreed⟩ := hs
  have hfree := List.find?_some h
  simp [hfreed] at hfree

theorem tagRests_sendReq {cdom dev kind tenant sub ctr offset len : Nat} {data : List Byte} {wait : RWait} {t : State}
    (h : sendReq cdom dev kind tenant sub ctr offset len data wait s = some t) : tagRests tag n t := by
  unfold sendReq at h
  split at h
  · next l dl u _ hu =>
    split at h
    · cases h
    · cases h
      obtain ⟨hnow, hfind, hfreed⟩ := hs
      obtain ⟨_, _, e⟩ := sendMsg_frame l kind ⟨if credited cdom dev l s then 1 else if dl then 4 else 3, dev, s.dev.board.devId, tenant, u, BitVec.ofNat 16 sub, 0, ctr, offset, len, data⟩
        { s with rreqs := tabPut u ⟨l, dev, offset, none, kind, s.now, wait⟩ s.rreqs }
      rw [e]
      exact ⟨hnow, (tabFind_put_other (freeTag_ne ⟨hnow, hfind, hfreed⟩ hu).symm ..).trans hfind, hfreed⟩
  · cases h

omit hs in
theorem tagRests_writePiece (m cdom core : Nat) (seatMap : List Nat) (guar : Bool) (p : Nat × List Byte) {x : Nat × State} (hx : tagRests tag n x.2) :
    tagRests tag n (writePiece m cdom core seatMap guar x p).2 := by
  unfold writePiece
  split
  · exact hx
  extract_lets t tenant
  split
  · split
    · exact hx
    split
    · exact hx
    · exact tagRests_of_beyondMemory hx (homePush_beyondMemory ..)
  · exact tagRests_of_beyondMemory hx (spadWrite_beyondMemory ..)
  · split
    · exact hx
    split
    · exact hx
    · exact hx
  · split
    · next h => exact tagRests_sendReq hx h
    · exact hx
  · exact hx
  · exact hx

theorem tagRests_writeStatus (r : Rep) (w : Nat) : tagRests tag n (writeStatus r w s) := by
  unfold writeStatus
  extract_lets w1 a bs s1
  have h1 : tagRests tag n s1 := by
    unfold s1
    split
    · exact hs
    · exact List.foldlRecOn _ _ (motive := fun x : Nat × State => tagRests tag n x.2) hs (fun _ hx _ _ => tagRests_writePiece _ _ _ _ _ _ hx)
  split
  · exact h1
  split
  · exact h1
  · exact h1

theorem tagRests_stopStatusAt (fault : Nat → Nat → Nat) (m : Nat) : tagRests tag n (stopStatusAt fault m s) := by
  unfold stopStatusAt
  split
  · exact hs
  split
  · exact hs
  refine List.foldlRecOn _ _ (motive := tagRests tag n) hs (fun t ht x _ => ?_)
  split
  · split
    · exact tagRests_writeStatus ht ..
    · exact ht
  · exact ht

theorem tagRests_stationFault (here : Nat → Nat → Bool) (m : Nat) : tagRests tag n (stationFault here m s) := by
  have hlost := tagRests_of_beyondMemory hs (loseOutputs_beyondMemory m false s)
  have hstop := tagRests_stopStatusAt hlost (fun q k => if here q k then 1 else 3) m
  unfold stationFault faultCmd
  obtain ⟨_, _, _, _, e⟩ := finishCmd_frame m stFaultData (stopStatusAt (fun q k => if here q k then 1 else 3) m (loseOutputs m false s))
  rw [e]
  exact hstop

theorem tagRests_parkOf (m core slot : Nat) (r : ParkRec) : tagRests tag n (parkOf m core slot r s) := by
  unfold parkOf
  extract_lets seat s1
  have h1 : tagRests tag n s1 := tagRests_of_beyondMemory (s := stopGroups m true (mapGroup m core slot (fun g => { g with park := some r }) s)) hs (spadWrite_beyondMemory ..)
  split
  · exact h1
  split
  · obtain ⟨_, _, _, _, e⟩ := finishWith_frame m stFaultPark (parkWord0 r slot seat) r.detail (loseOutputs m false s1)
    have hlost := tagRests_of_beyondMemory h1 (loseOutputs_beyondMemory m false s1)
    rw [e]
    exact hlost
  split
  · exact h1
  · exact h1

theorem tagRests_copyFault (core id code addr : Nat) (cp : Copy) : tagRests tag n (copyFault core id code addr cp s) := by
  unfold copyFault
  extract_lets k s1 rec'
  have h1 : tagRests tag n s1 := hs
  split
  · split
    · exact h1
    · exact tagRests_parkOf h1 ..
  · exact tagRests_parkOf h1 ..

end

theorem owe_eq (q : Nat) (c : Compl) (s : State) : owe q c s = { s with qps := (owe q c s).qps } := by
  obtain ⟨_, e⟩ := owe_frame q c s
  rw [e]

/-- Examining a queue's entries completes those that fail, in the queue's own record. -/
theorem examine_frame (q n : Nat) (s : State) : ∃ x, examine q n s = { s with qps := x } := by
  induction n generalizing s with
  | zero => exact ⟨_, rfl⟩
  | succ n ih =>
    unfold examine
    split
    · exact ⟨_, rfl⟩
    split
    · exact ⟨_, rfl⟩
    split
    · exact ⟨_, rfl⟩
    split
    · exact ⟨_, rfl⟩
    · next st _ =>
      generalize Compl.mk .. = c
      obtain ⟨_, e⟩ := ih (owe q c _)
      rw [e, owe_eq]
      exact ⟨_, rfl⟩

theorem popEntry_frame (q : Nat) (s : State) : ∃ x, popEntry q s = { s with qps := x } := by
  unfold popEntry
  split
  · exact ⟨_, rfl⟩
  · obtain ⟨_, e⟩ := examine_frame q _ _
    rw [e]
    exact ⟨_, rfl⟩

/-- The answer to a queue's entry changes the queue pairs only. -/
theorem respond_queue_frame (q status : Nat) (outs : List Nat) (s : State) : ∃ x, respond (.queue q) status outs s = { s with qps := x } := by
  unfold respond respondBytes
  split
  · next h => cases h
  · next q' h =>
    split
    · split
      · extract_lets out0
        obtain ⟨_, e⟩ := popEntry_frame q' (owe q' _ s)
        rw [e, owe_eq]
        exact ⟨_, rfl⟩
      · exact ⟨_, rfl⟩
    · exact ⟨_, rfl⟩

theorem fillItem_frame (r : RReq) (core slot pc item : Nat) (got : Option (List Byte)) (s : State) : ∃ x, fillItem r core slot pc item got s = { s with cores := x } := by
  unfold fillItem
  split
  · exact ⟨_, rfl⟩
  · extract_lets waits
    split
    · exact ⟨_, rfl⟩
    · exact ⟨_, rfl⟩

/-- An error that reaches its requester leaves the tag of its request free (R408, R418). -/
theorem tagRests_remoteFail {tag n : Nat} (r : RReq) (hs : tagRests tag n s) : tagRests tag n (remoteFail r s) := by
  unfold remoteFail
  split
  case h_1 core slot pc item _ =>
    obtain ⟨_, e⟩ := fillItem_frame r core slot pc item none s
    rw [e]
    exact hs
  case h_2 =>
    split
    · exact tagRests_copyFault hs ..
    · exact hs
  case h_3 core slot pc lane _ =>
    split
    · split
      · exact hs
      · unfold park
        split
        · exact hs
        · exact tagRests_parkOf hs ..
    · exact hs
  case h_4 => exact tagRests_stationFault hs ..
  case h_5 q _ =>
    obtain ⟨hnow, hfind, hfreed⟩ := hs
    obtain ⟨_, e⟩ := respond_queue_frame q stFaultData [] { s with rreqs := s.rreqs.map (fun e => (e.1, if e.2.wait = .queue q then { e.2 with wait := .queue 4096 } else e.2)) }
    rw [e]
    refine ⟨hnow, ?_, hfreed⟩
    rw [tabFind_map_values (fun _ (x : RReq) => if x.wait = .queue q then { x with wait := .queue 4096 } else x), hfind]
    rfl

end Sys2Proof.Machine
end

section
/-! SUPPORT. Settles the statement of chapter 08 about requests of other devices (08 R218; 14 R401, R407, R408, R416, R418). At an idle line a request of a direct agent is served at once where nobody
is snooped, and else opens a transaction that waits for the snooped agent. What a row of a link does is found by `servePlace`: an arrival at a line's home, an entry in its queue of atomics, a write
to a scratchpad, or an error. -/

namespace Sys2Proof.Machine

variable {s : State}

/-! ### Tables and fields (00 R4, R5) -/

/-- Nothing is taken out of a table that has no entry of the key. -/
theorem tabDel_of_find_none {α : Type} {k : Nat} {t : Tab α} (h : tabFind k t = none) : tabDel k t = t := by
  induction t with
  | nil => rfl
  | cons e t ih =>
    rw [tabFind] at h
    split at h
    · cases h
    · next hk => rw [tabDel, if_neg hk, ih h]

theorem bits_from_zero (v k : Nat) : bits v k 0 = v % 2 ^ (k + 1) := by
  rw [bits, Nat.pow_zero, Nat.div_one, Nat.sub_zero]

theorem tabGet_put_same {α : Type} (d : α) (k : Nat) (v : α) (t : Tab α) : tabGet d k (tabPut k v t) = v := by
  rw [tabGet, tabFind_put_same, Option.getD_some]

theorem bit_eq_testBit (v i : Nat) : bit v i = v.testBit i := by
  rw [Nat.testBit_eq_decide_div_mod_eq]
  rfl

theorem bit_toNat {n : Nat} (v : BitVec n) (i : Nat) : bit v.toNat i = v.getLsbD i := (bit_eq_testBit ..).trans (BitVec.testBit_toNat v)

/-- A presence mask of one agent names that agent. -/
theorem bitList_two_pow {o n : Nat} (h : o < n) : bitList (2 ^ o) n = [o] := by
  have hbit : ∀ i, bit (2 ^ o) i = decide (i = o) := fun i => by
    rw [bit_eq_testBit, Nat.testBit_two_pow, decide_eq_decide]
    exact eq_comm
  simp only [bitList, hbit]
  rw [List.filter_eq, List.count_range, if_pos h]
  rfl

/-! ### Requests of direct agents at an idle line (09 R257, R258; T9-7) -/

theorem lineBusy_of_idle {line : Nat} (h : idleLine line s) : lineBusy line s = false := by
  obtain ⟨hopen, hqueue, hatoms⟩ := h
  simp [lineBusy, hasAtoms, hopen, hqueue, hatoms]

theorem snoopsOf_inv {line : Nat} (h : (dirOf line s).dstate = .inv) (q : HMsg) : snoopsOf line q s = [] := by
  simp only [snoopsOf, h]

section
variable {line o : Nat} (hown : (dirOf line s).dstate = .owned) (hpres : (dirOf line s).presence = 2 ^ o) (ho : o < 32)
include hown hpres ho

theorem snoopsOf_rread_owned (vc tag src off len d : Nat) : snoopsOf line (.rread vc tag src off len d) s = [.snpcur o line] := by
  simp [snoopsOf, hown, holders, hpres, bitList_two_pow ho]

theorem snoopsOf_rwrite_owned (vc tag src d : Nat) (cells : List Cell) : snoopsOf line (.rwrite vc tag src d cells) s = [.snpinv o line] := by
  simp [snoopsOf, hown, holders, hpres, bitList_two_pow ho]

end

section
variable {line d : Nat} {q : HMsg} (hdirect : q.caching = false) (hd : q.cdom = some d) (hfail : d ∉ s.coh.failing)
include hdirect hd hfail

omit hdirect in
theorem actsFailed_of_direct : actsFailed q s = false := by
  simp [actsFailed, hd, hfail]

omit hfail in
theorem uncreditedDom_of_direct : uncreditedDom line q s = none := by
  simp [uncreditedDom, hd, hdirect]

theorem turnedAway_of_direct : turnedAway line q s = false := by
  simp [turnedAway, actsFailed_of_direct hd hfail, uncreditedDom_of_direct hdirect hd, hdirect]

/-- A direct request that snoops nobody is served. -/
theorem begin'_unsnooped (hsn : snoopsOf line q s = []) : begin' line q s = serve line q [] s := by
  have hentry : needsEntry line q s = false := by
    unfold needsEntry
    split
    · cases hdirect
    · cases hdirect
    · rfl
  simp [begin', actsFailed_of_direct hd hfail, uncreditedDom_of_direct hdirect hd, hdirect, hsn, hentry]

/-- One that snoops an agent opens a transaction that waits for it. -/
theorem begin'_snooped {n : NMsg} (hsn : snoopsOf line q s = [n]) : begin' line q s = openTxn line ⟨q, [snoopee n], none, none, [], s.now⟩ (sends [n] s) := by
  simp [begin', actsFailed_of_direct hd hfail, uncreditedDom_of_direct hdirect hd, hdirect, hsn]

variable (hidle : idleLine line s) (hreads : readsOpen line q s = true)
include hidle hreads

omit hd hfail in
theorem arriveHome_direct (hcredit : snoopsOf line q s = [] ∨ creditsUsed line q.creditClass s < creditCap q.creditClass) : arriveHome line q s = begin' line q s := by
  have hopens : opensTxn line q s = !(snoopsOf line q s).isEmpty := by
    unfold opensTxn
    split
    · cases hdirect
    · cases hdirect
    · rfl
  have hmay : mayBegin line q s = true := by
    rcases hcredit with hcredit | hcredit <;> simp [mayBegin, hreads, hopens, hcredit]
  simp [arriveHome, lineBusy_of_idle hidle, hmay]

theorem arrive_unsnooped (hsn : snoopsOf line q s = []) (hkeeps : (serve line q [] s).coh.failing = s.coh.failing) : arrive line q s = serve line q [] s := by
  unfold arrive
  rw [arriveHome_direct hdirect hidle hreads (.inl hsn), begin'_unsnooped hdirect hd hfail hsn]
  exact if_pos hkeeps

/-- A direct request whose line an agent must be snooped for waits for that agent; the snoop is on its way and no memory has changed. -/
theorem arrive_snooped {n : NMsg} (hsn : snoopsOf line q s = [n]) (hcredit : creditsUsed line q.creditClass s < creditCap q.creditClass) :
    ∃ y, tabFind line (arrive line q s).coh.open' = some y ∧ y.msg = q ∧ y.waits = [snoopee n] ∧ (arrive line q s).coh.net = s.coh.net ++ [n] ∧ (arrive line q s).mem = s.mem := by
  have harrive : arrive line q s = openTxn line ⟨q, [snoopee n], none, none, [], s.now⟩ (sends [n] s) := by
    unfold arrive
    rw [arriveHome_direct hdirect hidle hreads (.inr hcredit), begin'_snooped hdirect hd hfail hsn]
    exact if_pos rfl
  rw [harrive]
  exact ⟨_, tabFind_put_same .., rfl, rfl, rfl, rfl⟩

end

/-! ### Reads and writes of other devices at their home (09 R257, R260; 14 R401) -/

/-- Where no transaction is open, none is closed. -/
theorem closeTxn_of_none {line : Nat} (h : tabFind line s.coh.open' = none) : { s with coh := { s.coh with open' := tabDel line s.coh.open' } } = s := by
  rw [tabDel_of_find_none h]

/-- The answer to a read of another device: the bytes that stand at the home, or an error where one of them is lost. -/
def answerRead (vc tag src d dpa len : Nat) (s : State) : State :=
  let noted := noteRead d (dpa / 512) (sectorsOf (dpa % 512) len) [] (tick s)
  if (homeAt dpa len s).2.1 then answerRemote vc src tag kData 0 (homeAt dpa len s).1 noted else answerRemote vc src tag kError 4 [] noted

theorem serve_rread {dpa : Nat} (h : tabFind (dpa / 512) s.coh.open' = none) (vc tag src len d : Nat) :
    serve (dpa / 512) (.rread vc tag src (dpa % 512) len d) [] s = answerRead vc tag src d dpa len s := by
  have haddr : dpa / 512 * 512 + dpa % 512 = dpa := Nat.div_add_mod' ..
  unfold serve
  rw [closeTxn_of_none h]
  simp only [directBytes, List.isEmpty_nil, if_true, haddr]
  rfl

theorem failing_answerRead (vc tag src d dpa len : Nat) (s : State) : (answerRead vc tag src d dpa len s).coh.failing = s.coh.failing := by
  have hnoted := failing_of_beyondMemory (noteRead_beyondMemory d (dpa / 512) (sectorsOf (dpa % 512) len) [] (tick s))
  have hanswer : ∀ kind status data t, (answerRemote vc src tag kind status data t).coh.failing = t.coh.failing := fun _ _ _ _ => by rw [answerRemote_coh]
  exact ite_eq_of (fun x : State => x.coh.failing) ((hanswer ..).trans hnoted) ((hanswer ..).trans hnoted)

/-- The acknowledgement of a write of another device, which its home has merged. -/
def answerWrite (vc tag src d line : Nat) (cells : List Cell) (s : State) : State :=
  answerRemote vc src tag kAck 0 [] (homeMerge true d line cells (setDir line (dirOf line s).toInv (tick s)))

theorem serve_rwrite {line : Nat} (h : tabFind line s.coh.open' = none) (vc tag src d : Nat) (cells : List Cell) :
    serve line (.rwrite vc tag src d cells) [] s = answerWrite vc tag src d line cells s := by
  unfold serve
  rw [closeTxn_of_none h]
  rfl

theorem failing_answerWrite (vc tag src d line : Nat) (cells : List Cell) (s : State) : (answerWrite vc tag src d line cells s).coh.failing = s.coh.failing := by
  unfold answerWrite
  rw [answerRemote_coh]
  exact failing_of_beyondMemory (homeMerge_beyondMemory true d line cells (setDir line (dirOf line s).toInv (tick s)))

/-! ### Requests that arrive on a link (14 R407, R409, R416) -/

/-- The cells of a write that lie in its line (R401). -/
def lineCells (m : RemoteMsg) (dpa : Nat) : List Cell :=
  ((writeParts m).flatMap (fun p => cellsOf (dpa % 512 + p.1 - m.offset) p.2)).filter (fun c => decide (c.1 < 512))

/-- A request that is not narrow writes its bytes at its offset (T14-3). -/
theorem writeParts_whole {m : RemoteMsg} (h : m.sub = 0) : writeParts m = [(m.offset, m.data)] := if_pos h

section
variable {l : Nat} {m : RemoteMsg} (hrun : linkRuns l s = true)
include hrun

theorem onMessage_other (hdst : m.dst ≠ s.dev.board.devId) (kind : Nat) (f : State → State) : onMessage kind l m s f = .next (forwardMsg kind m s) := by
  simp [onMessage, hrun, hdst]

theorem exec_remoteRead_other (hdst : m.dst ≠ s.dev.board.devId) : exec (.remoteRead l m) s = .next (forwardMsg kRead m s) := by
  change execRemoteRead l m s = _
  unfold execRemoteRead
  exact onMessage_other hrun hdst ..

variable (hdst : m.dst = s.dev.board.devId)
include hdst

theorem onMessage_here (kind : Nat) (f : State → State) : onMessage kind l m s f = .next (f s) := by
  simp [onMessage, hrun, hdst]

theorem exec_remoteRead_memory {d dpa : Nat} {wr x : Bool} (hplace : servePlace m s = .inr (d, .mem dpa wr x)) (hfail : d ∉ s.coh.failing) :
    exec (.remoteRead l m) s = .next (arrive (dpa / 512) (.rread m.vc m.tag m.src (dpa % 512) (min m.len (512 - dpa % 512)) d) s) := by
  change execRemoteRead l m s = _
  unfold execRemoteRead
  rw [onMessage_here hrun hdst, hplace]
  exact congrArg _ (if_neg hfail)

theorem exec_remoteWrite_here : exec (.remoteWrite l m) s = .next (serveWrite m false s) := onMessage_here hrun hdst ..

theorem exec_countedCopySector_here : exec (.countedCopySector l m) s = .next (serveWrite m true s) := onMessage_here hrun hdst ..

/-- A request for a place that is not there ends in an error (R408). -/
theorem exec_of_noPlace {e : Nat} (hplace : servePlace m s = .inl e) :
    ∀ c ∈ [Instr.remoteRead l m, .remoteWrite l m, .countedCopySector l m, .remoteAtom l m, .remoteAddx l m], exec c s = .next (serveErr m e s) := by
  have hwrite : ∀ counted, serveWrite m counted s = serveErr m e s := fun counted => by
    unfold serveWrite
    rw [hplace]
  have hatomic : ∀ ret a, serveAtomic m ret a s = serveErr m e s := fun ret a => by
    unfold serveAtomic
    rw [hplace]
  have hread : exec (.remoteRead l m) s = .next (serveErr m e s) := by
    change execRemoteRead l m s = _
    unfold execRemoteRead
    rw [onMessage_here hrun hdst, hplace]
  simp only [List.forall_mem_cons, List.not_mem_nil, false_implies, implies_true, and_true]
  refine ⟨hread, ?_, ?_, ?_, ?_⟩
  · rw [exec_remoteWrite_here hrun hdst, hwrite]
  · rw [exec_countedCopySector_here hrun hdst, hwrite]
  · exact (onMessage_here hrun hdst ..).trans (congrArg _ (hatomic ..))
  · exact (onMessage_here hrun hdst ..).trans (congrArg _ (hatomic ..))

end

section
variable {m : RemoteMsg} {d : Nat}

theorem serveWrite_readOnly {dpa : Nat} {x : Bool} (hplace : servePlace m s = .inr (d, .mem dpa false x)) (counted : Bool) : serveWrite m counted s = serveErr m 3 s := by
  unfold serveWrite
  rw [hplace]
  rfl

/-- A write to a scratchpad with its counter (R416). -/
theorem serveWrite_scratchpad {c o : Nat} (hplace : servePlace m s = .inr (d, .spad c o)) (hsub : m.sub = 0) :
    serveWrite m true s = answerRemote m.vc m.src m.tag kAck 0 [] (ctrAdd c m.ctr (spadWrite c o m.data s)) := by
  unfold serveWrite
  rw [hplace]
  simp [writeParts_whole hsub]

variable {dpa : Nat} {x : Bool} (hplace : servePlace m s = .inr (d, .mem dpa true x)) (hfail : d ∉ s.coh.failing)
include hplace hfail

theorem serveWrite_memory (counted : Bool) : serveWrite m counted s = arrive (dpa / 512) (.rwrite m.vc m.tag m.src d (lineCells m dpa)) s := by
  unfold serveWrite
  rw [hplace]
  exact (if_neg Bool.false_ne_true).trans (if_neg hfail)

/-- An atomic joins its line's queue as the youngest and no memory has changed (09 R264). -/
theorem serveAtomic_memory (ret : Bool) (a : AtomReq) :
    tabGet [] (dpa / 512) (serveAtomic m ret a s).coh.atoms =
        tabGet [] (dpa / 512) s.coh.atoms ++ [{ a with cdom := d, dpa := dpa, after := (tabGet [] (dpa / 512) s.coh.queue).length }] ∧
      (serveAtomic m ret a s).mem = s.mem := by
  have hpush : serveAtomic m ret a s = pushAtom (dpa / 512) { a with cdom := d, dpa := dpa } s := by
    unfold serveAtomic
    rw [hplace]
    exact (if_neg Bool.false_ne_true).trans (if_neg hfail)
  have hpin : ∀ line (t : State), (pin line t).coh.atoms = t.coh.atoms ∧ (pin line t).mem = t.mem := fun line t => by
    unfold pin
    split <;> exact ⟨rfl, rfl⟩
  rw [hpush]
  unfold pushAtom
  extract_lets n now _ t
  have ht : tabGet [] (dpa / 512) t.coh.atoms = tabGet [] (dpa / 512) s.coh.atoms ++ [{ a with cdom := d, dpa := dpa, after := n }] := tabGet_put_same ..
  split
  · rw [(hpin _ t).1, (hpin _ t).2]
    exact ⟨ht, rfl⟩
  · exact ⟨ht, rfl⟩

end

/-! ### Responses and timeouts (14 R401, R418) -/

section
variable {m : RemoteMsg} {r : RReq} (hdst : m.dst = s.dev.board.devId)
include hdst

theorem onResponse_freed (hfind : tabFind m.tag s.rreqs = none) (kind : Nat) (f : RReq → State → State) : onResponse kind m s f = .next s := by
  simp [onResponse, hdst, hfind]

theorem onResponse_awaited (hfind : tabFind m.tag s.rreqs = some r) (hdev : r.dev = m.src) (hinj : r.inj = none) (hinjs : s.flt.injs = []) (kind : Nat) (f : RReq → State → State) :
    onResponse kind m s f = .next (f r (dropTag m.tag s)) := by
  simp [onResponse, hdst, hfind, hdev, hinj, takeInj_none _ _ s hinjs]

end

/-- A group that is set reads back, whatever the tables look like. -/
theorem groupOf_setGroup (core slot : Nat) (g : Group) (s : State) : groupOf core slot (setGroup core slot g s) = some g := by
  have hput := tabFind_put_same slot g (coreOf core s).groups
  unfold setGroup groupOf
  rw [coreOf_setCore_of_group hput]
  exact hput

/-- The data of a thread's only open access come into its item. -/
theorem fillItem_only {r : RReq} {core slot pc : Nat} {g : Group} {f : FarReq} {it : FarItem} (hg : groupOf core slot s = some g) (hfar : g.far = [f]) (hpc : f.pc = pc)
    (hitems : f.items = [it]) (hgot : it.got = none) (herr : it.err = false) (hloc : it.loc = .peer r.dev r.off) (data : List Byte) :
    fillItem r core slot pc 0 (some data) s = setGroup core slot { g with far := [{ f with items := [{ it with got := some data }] }] } s := by
  simp [fillItem, hg, hfar, hpc, hitems, hgot, herr, hloc]

theorem untilTime_now (t : Nat) (s : State) : (untilTime t s).now = max s.now t := by
  rw [untilTime, passTime_now]
  omega

theorem logRec_rreqs (r : NewRec) (s : State) : (logRec r s).rreqs = s.rreqs := by
  obtain ⟨_, _, _, _, e⟩ := logRec_frame r s
  rw [e]

/-- 200 µs without a response end the request as an error response would: at that time, with its record, the tag freed (R418). -/
theorem exec_remoteTimeout_awaited {tag : Nat} {r : RReq} (h : tabFind tag s.rreqs = some r) :
    exec (.remoteTimeout tag) s =
      .next (remoteFail r (dropTag tag (logRec { (newRec 0x36 2 3 0).at 0x1FF 5 r.link with inj := r.inj } (untilTime (r.at' + Config.us 200) s)))) := by
  change execRemoteTimeout tag s = _
  unfold execRemoteTimeout
  rw [h]
  dsimp only
  unfold failReq
  rw [logRec_rreqs, untilTime_rreqs, h]

end Sys2Proof.Machine

namespace Sys2Proof.Proofs.MemoryOrdering
open Sys2Proof Sys2Proof.Machine

/-- Settles O41: a request goes to its line's home (`arrive_unsnooped`, `arrive_snooped`), to the line's atomics (`serveAtomic_memory`), to a scratchpad, on to its device, or ends in an error; a
response and the timeout free the tag, which stays free through the error of its request (`tagRests_remoteFail`). -/
theorem remoteRows : Obligations.RemoteRows := by
  unfold Obligations.RemoteRows
  refine ⟨?read, ?write, ?readOnly, ?scratchpad, ?atom, ?addx, ?noPlace, ?other, ?response, ?data, ?freed, ?timeout⟩
  case read =>
    intro l m s d dpa wr x
    extract_lets line len q
    intro hrun hdst hplace hfail hidle hreads
    rw [exec_remoteRead_memory hrun hdst hplace hfail]
    refine ⟨fun hinv => ?_, fun o hcredit hown hpres ho => ?_⟩
    · have hserve : serve line q [] s = answerRead m.vc m.tag m.src d dpa len s := serve_rread hidle.1 ..
      rw [arrive_unsnooped rfl rfl hfail hidle hreads (snoopsOf_inv hinv q) (by rw [hserve, failing_answerRead]), hserve]
      rfl
    · obtain ⟨y, hy⟩ := arrive_snooped rfl rfl hfail hidle hreads (snoopsOf_rread_owned hown hpres ho ..) hcredit
      exact ⟨_, y, rfl, hy⟩
  case write =>
    intro l m s d dpa x
    extract_lets line cells q
    intro hrun hdst hplace hfail hidle
    have hrow : ∀ counted, serveWrite m counted s = arrive line q s := serveWrite_memory hplace hfail
    have hreads : readsOpen line q s = true := rfl
    refine ⟨fun hinv => ?_, fun o hcredit hown hpres ho => ?_, writeParts_whole⟩
    · have hserve : serve line q [] s = answerWrite m.vc m.tag m.src d line cells s := serve_rwrite hidle.1 ..
      have hdone : ∀ counted, serveWrite m counted s = answerWrite m.vc m.tag m.src d line cells s := fun counted => by
        rw [hrow, arrive_unsnooped rfl rfl hfail hidle hreads (snoopsOf_inv hinv q) (by rw [hserve, failing_answerWrite]), hserve]
      simp only [List.forall_mem_cons, List.not_mem_nil, false_implies, implies_true, and_true]
      rw [exec_remoteWrite_here hrun hdst, exec_countedCopySector_here hrun hdst, hdone, hdone]
      exact ⟨rfl, rfl⟩
    · obtain ⟨y, hy⟩ := arrive_snooped rfl rfl hfail hidle hreads (snoopsOf_rwrite_owned hown hpres ho ..) hcredit
      rw [exec_remoteWrite_here hrun hdst, hrow]
      exact ⟨_, y, rfl, hy⟩
  case readOnly =>
    intro l m s d dpa x hrun hdst hplace
    rw [exec_remoteWrite_here hrun hdst, serveWrite_readOnly hplace]
    rfl
  case scratchpad =>
    intro l m s d c o hrun hdst hplace hsub
    rw [exec_countedCopySector_here hrun hdst, serveWrite_scratchpad hplace hsub]
  case atom =>
    intro l m s d dpa x hrun hdst hplace hfail
    obtain ⟨hatoms, hmem⟩ := serveAtomic_memory hplace hfail _ _
    refine ⟨_, _, onMessage_here hrun hdst .., hatoms, rfl, rfl, rfl, bits_from_zero .., ?_, rfl, hmem⟩
    dsimp only
    rw [bit_toNat]
  case addx =>
    intro l m s d dpa x hrun hdst hplace hfail
    obtain ⟨hatoms, hmem⟩ := serveAtomic_memory hplace hfail _ _
    refine ⟨_, _, onMessage_here hrun hdst .., hatoms, rfl, rfl, ?_, hmem⟩
    dsimp only
    rw [bit_toNat]
  case noPlace =>
    intro l m s e hrun hdst hplace
    exact exec_of_noPlace hrun hdst hplace
  case other =>
    intro l m s hrun hdst
    exact ⟨exec_remoteRead_other hrun hdst, onMessage_other hrun hdst ..⟩
  case response =>
    intro m s r hdst hfind hdev hinj hinjs
    exact ⟨onResponse_awaited hdst hfind hdev hinj hinjs .., onResponse_awaited hdst hfind hdev hinj hinjs .., onResponse_awaited hdst hfind hdev hinj hinjs ..⟩
  case data =>
    intro m s r core slot pc g f it hdst hfind hdev hinj hinjs hk hwait hg hfar hpc hitems hgot herr hloc
    have hrow : exec (.remoteData m) s = .next (remoteOk r m.data (dropTag m.tag s)) := onResponse_awaited hdst hfind hdev hinj hinjs ..
    rw [hrow]
    unfold remoteOk
    rw [hwait]
    dsimp only
    rw [fillItem_only (s := dropTag m.tag s) hg hfar hpc hitems hgot herr hloc]
    exact ⟨_, _, rfl, tabFind_del_same m.tag 0 _ hk, groupOf_setGroup .., rfl⟩
  case freed =>
    intro m s hdst hfind
    exact ⟨onResponse_freed hdst hfind .., onResponse_freed hdst hfind .., onResponse_freed hdst hfind ..⟩
  case timeout =>
    intro tag s r hfind hk
    rw [exec_remoteTimeout_awaited hfind]
    generalize NewRec.mk .. = rec
    have hrests := tagRests_dropTag (s := logRec rec (untilTime (r.at' + Config.us 200) s)) tag (by rwa [logRec_rreqs])
    obtain ⟨hnow, hfree, -⟩ := tagRests_remoteFail r hrests
    refine ⟨_, rfl, hfree, hnow.trans ?_⟩
    rw [logRec_now, untilTime_now, Config.us]

end Sys2Proof.Proofs.MemoryOrdering
end
